-- ==== Sys2Proof/Word.lean ====
section
/-!
DEFINITION. The word types of the model: a byte, a 64-bit register, and the plainest names over them (R2, R3).
-/
namespace Sys2Proof

/-- A register of the QD1K is 64 bits wide (R581). -/
abbrev Word := BitVec 64

/-- The smallest addressable unit of every memory of the part. -/
abbrev Byte := BitVec 8

end Sys2Proof
end

