-- ==== Sys2Proof/Machine/Bits.lean ====
section
/-!
DEFINITION. Bit fields, little-endian byte strings, wrapping differences, signed reading of bits, and finite maps held
as association lists. These are the helpers every layout of the spec is read and written with (R2, R3, R4).
-/
namespace Sys2Proof.Machine

/-- A bit range hi:lo of a structure, both ends included (R2). -/
structure Fld where
  hi : Nat
  lo : Nat
  deriving DecidableEq, Repr

/-- Width of a bit range in bits. -/
def Fld.width (f : Fld) : Nat := f.hi - f.lo + 1

/-- The unsigned value of field `f` of `w`. -/
def Fld.get {n : Nat} (f : Fld) (w : BitVec n) : Nat := (w.toNat >>> f.lo) % 2 ^ f.width

/-- `w` with field `f` holding `v` modulo the field's size; every other bit as it was. -/
def Fld.set {n : Nat} (f : Fld) (w : BitVec n) (v : Nat) : BitVec n :=
  BitVec.ofNat n (w.toNat - (f.get w) <<< f.lo + (v % 2 ^ f.width) <<< f.lo)

/-- Whether the lowest bit of field `f` is set: for the one-bit fields. -/
def Fld.on {n : Nat} (f : Fld) (w : BitVec n) : Bool := f.get w % 2 == 1

/-- Bit `k` of a natural number. -/
def bitOf (v k : Nat) : Bool := v.testBit k

/-- `v` with bit `k` set. -/
def setBit (v k : Nat) : Nat := v ||| (1 <<< k)

/-- `v` with bit `k` cleared. -/
def clrBit (v k : Nat) : Nat := if v.testBit k then v - (1 <<< k) else v

/-- The bits that are set among bits 0 to n - 1, in rising order. -/
def bitsOf (v n : Nat) : List Nat := (List.range n).filter fun k => v.testBit k

/-- How many of the n low bits are set. -/
def popcount (v n : Nat) : Nat := (bitsOf v n).length

/-- The little-endian bytes of `v`, `k` of them (R3). -/
def leBytes : Nat → Nat → List Byte
  | 0, _ => []
  | k + 1, v => BitVec.ofNat 8 v :: leBytes k (v / 256)

/-- The number a little-endian byte string spells (R3). -/
def leNat : List Byte → Nat
  | [] => 0
  | b :: bs => b.toNat + 256 * leNat bs

/-- The 512 bits of a 64-byte structure from its bytes. -/
def bits512 (bs : List Byte) : BitVec 512 := BitVec.ofNat 512 (leNat bs)

/-- The two's complement reading of a w-bit value. -/
def toSigned (w v : Nat) : Int :=
  if v % 2 ^ w < 2 ^ (w - 1) then (v % 2 ^ w : Nat) else ((v % 2 ^ w : Nat) : Int) - (2 ^ w : Nat)

/-- The w-bit two's complement code of an integer, wrapping. -/
def ofSigned (w : Nat) (i : Int) : Nat := (i % ((2 ^ w : Nat) : Int)).toNat

/-- The difference a - b modulo 2^w, the comparison form of the wrapping indices and sequence numbers. -/
def wsub (w a b : Nat) : Nat := (a + 2 ^ w - b % 2 ^ w) % 2 ^ w

/-- The sum a + b modulo 2^w. -/
def wadd (w a b : Nat) : Nat := (a + b) % 2 ^ w

/-- Saturating count of a w-bit counter. -/
def satAdd (w a b : Nat) : Nat := min (a + b) (2 ^ w - 1)

/-- Division rounding up. -/
def ceilDiv (a b : Nat) : Nat := (a + b - 1) / b

/-- A finite map held as plain data: the first pair of a key counts. -/
abbrev AMap (κ ν : Type) := List (κ × ν)

/-- The value of key `k`, if it has one. -/
def mfind {κ ν : Type} [DecidableEq κ] : AMap κ ν → κ → Option ν
  | [], _ => none
  | (k', v) :: m, k => if k' = k then some v else mfind m k

/-- The value of key `k`, `d` where the map has none. -/
def mget {κ ν : Type} [DecidableEq κ] (m : AMap κ ν) (k : κ) (d : ν) : ν := (mfind m k).getD d

/-- The map with `k` holding `v`, in place where `k` stands. -/
def mset {κ ν : Type} [DecidableEq κ] : AMap κ ν → κ → ν → AMap κ ν
  | [], k, v => [(k, v)]
  | (k', v') :: m, k, v => if k' = k then (k, v) :: m else (k', v') :: mset m k v

/-- The map without key `k`. -/
def mdel {κ ν : Type} [DecidableEq κ] (m : AMap κ ν) (k : κ) : AMap κ ν := m.filter fun p => p.1 ≠ k

/-- Whether the map has key `k`. -/
def mhas {κ ν : Type} [DecidableEq κ] (m : AMap κ ν) (k : κ) : Bool := (mfind m k).isSome

/-- The list with its k-th element replaced (unchanged where it has none). -/
def lset {α : Type} (l : List α) (k : Nat) (a : α) : List α := l.set k a

/-- The k-th element, `d` where there is none. -/
def lget {α : Type} (l : List α) (k : Nat) (d : α) : α := l.getD k d

/-- The least of the `n` naturals from `k` on that satisfies `p`. -/
def firstFrom (p : Nat → Bool) : Nat → Nat → Option Nat
  | 0, _ => none
  | n + 1, k => if p k then some k else firstFrom p n (k + 1)

/-- The least natural below `n` that satisfies `p`. -/
def firstNat (n : Nat) (p : Nat → Bool) : Option Nat := firstFrom p n 0

end Sys2Proof.Machine
end

