-- ==== Sys2Proof/Types.lean ====
section
/-!
DEFINITION. The operand types of the commands: who writes a register, which window is written, a fabric packet, the
names of ring entries, queue entries and threads, and the records that a command brings from outside the part.
-/
namespace Sys2Proof.Machine

/-- A requester of register accesses (R587): a function by its index (R574), the service processor, or one engine
thread. -/
inductive Requester where
  | func (f : Fin 4096)
  | serviceProcessor
  | thread (engine : Fin 512) (ctx : Fin 4)
  deriving DecidableEq, Repr

/-- Where a register write lands: a function's own window (R579), the device register window (R580), or the MSI-X
table region is reached through `own`. -/
inductive Window where
  | own
  | device
  deriving DecidableEq, Repr

/-- A fabric packet: 32 bytes of network header (R87), the transport header (R261; a 16-byte header stands in the low
128 bits) and the payload. PLEN of the network header says how long the transport header is. -/
structure Packet where
  net : BitVec 256
  tp : BitVec 256
  payload : List Byte
  deriving DecidableEq, Repr

/-- An entry of a host ring: function, ring and full 32-bit index (R219). -/
structure EntryRef where
  fn : Fin 4096
  ring : Fin 4096
  idx : Nat
  deriving DecidableEq, Repr

/-- An entry of a connection work queue: connection, queue (false send, true receive) and index (R240). -/
structure WorkRef where
  conn : Fin 16777216
  recv : Bool
  idx : Nat
  deriving DecidableEq, Repr

/-- An entry that the QD1K reads from host memory (R606). -/
inductive FetchRef where
  | ring (e : EntryRef)
  | work (e : WorkRef)
  deriving DecidableEq, Repr

/-- What a host-memory or TLP read returned: data, or an error completion or poisoned data. -/
inductive ReadResult where
  | data (bs : List Byte)
  | error
  | poisoned
  deriving DecidableEq, Repr

/-- The fields of a WIDTH column (R155). -/
structure WidthMsg where
  reason : Nat
  laneSet : Nat
  seq : Nat
  switchAm : Nat
  switchPos : Nat
  deriving DecidableEq, Repr

/-- A thread of a logical engine: its engine and hardware context (R351). -/
structure ThreadId where
  engine : Fin 512
  ctx : Fin 4
  deriving DecidableEq, Repr

/-- The kinds of TLP that the switch tells apart (R469, R470, R479 to R488): memory and AtomicOp requests, configuration
requests, completions, error messages, page requests, and other messages. -/
inductive TlpKind where
  | memRead
  | memWrite
  | atomic
  | cfgRead
  | cfgWrite
  | completion
  | errCor
  | errNonfatal
  | errFatal
  | pageRequest
  | message
  deriving DecidableEq, Repr

/-- A TLP as the switch sees it, by the fields of the PCI Express Base Specification that R469 to R493 name: for a
completion `reqId` and `tag` are those of its request and `status` is 0 SC, 1 UR, 2 CRS, 4 CA; for a configuration
request `addr` is the offset and `target` the routing ID; `len` counts bytes; `integrity` is false where link IDE finds
an integrity failure. -/
structure Tlp where
  kind : TlpKind
  reqId : Nat
  tag : Nat
  at_ : Nat
  ep : Bool
  addr : Nat
  len : Nat
  data : List Byte
  target : Nat
  status : Nat
  integrity : Bool
  deriving DecidableEq, Repr

/-- What a host writes in the configuration space of a virtual bridge, by the register's name in the PCI Express Base
Specification: its bus range, its memory range and prefetchable range (first and last byte), its ACS control (bit 0
Source Validation, 2 Request Redirect, 3 Completion Redirect, 4 Upstream Forwarding), its DPC control (trigger enable 0
none, 1 fatal, 2 non-fatal and fatal; Unsupported Request as completion control; surprise down trigger), its slot
interrupt enable and its Max Payload Size in bytes; in that of a function, MSI-X Enable. -/
inductive BridgeReg where
  | buses (secondary subordinate : Nat)
  | memory (first last : Nat)
  | prefetchable (first last : Nat)
  | acs (bits : Nat)
  | dpc (trigger : Nat) (ur surprise : Bool)
  | slot (interrupt : Bool)
  | maxPayload (bytes : Nat)
  | msixEnable (enabled : Bool)
  deriving DecidableEq, Repr

/-- The virtual bridge that a configuration write addresses (R474): that of the function bus (VDEV 0), the shared bridge
(VDEV 31), the downstream port HP n, or a function of the partition. -/
inductive BridgeSel where
  | functionBus
  | sharedBus
  | port (n : Fin 40)
  | function (f : Fin 4096)
  deriving DecidableEq, Repr

/-- A change of what a PCIe port's physical layer and data link layer report: presence detect and DL_Active. -/
structure PortSense where
  present : Bool
  active : Bool
  deriving DecidableEq, Repr

/-- An image slot as the service processor reads and verifies it (R543 to R545): whether the digest of its key equals the
fused hash of its key slot, whether its signature verifies and every component matches its digest, its SVN, SEQUENCE and
wishes at activation (R562), its firmware handler image (R370), its default tables by Groundsheet offset and its fabric
configuration records. -/
structure SlotImage where
  keyMatches : Bool
  keySlot : Fin 2
  signature : Bool
  digests : Bool
  svn : Nat
  sequence : Nat
  svnCommit : Bool
  revoke : Option (Fin 2)
  firmware : List Byte
  tables : List (Nat × List Byte)
  records : List (Nat × BitVec 64)
  deriving DecidableEq, Repr

/-- The fuse array of a die as read (R537 to R539): its identity as ID_DIE_A and FUSE_CHECK hold it, and whether one of
its three reads passed the checksum. -/
structure DieFuses where
  ident : BitVec 63
  check : BitVec 16
  ok : Bool
  deriving DecidableEq, Repr

/-- What a self-test at reset finds on a hub die (R541): failed mesh columns, engines and banks (136 and 34 of each, the
spares last). -/
structure SelfTest where
  columns : List Nat
  engines : List Nat
  banks : List Nat
  deriving DecidableEq, Repr

/-- What the end of a cold reset finds (R537 to R541, R598): the fuse arrays of the 13 dies, the package sequence number,
whether two copies of each key hash agree, the fused revocations and minimum SVN, the self-tests of the hub dies, and a
sensor that is at or above 110 °C. -/
structure ColdStart where
  dies : List DieFuses
  pkgSeq : Fin 128
  keyOk : Bool × Bool
  revoked : Fin 4
  minSvn : Fin 64
  tests : List SelfTest
  hot : Option (Fin 208)
  deriving DecidableEq, Repr

/-- What a fault brings beside its source (R510, R514): the status concerned, CONTEXT and INFO, and for a bank the
connections and ring entries whose cached copies its granules held (R523). -/
structure FaultInfo where
  status : Fin 256
  context : BitVec 64
  info : BitVec 128
  conns : List Nat
  entries : List EntryRef
  deriving DecidableEq, Repr

/-- What a module site's poll shows (R563). -/
structure ModulePoll where
  present : Bool
  state : Fin 8
  flag : Bool
  temp : Int
  deriving DecidableEq, Repr

/-- What the surroundings bring to a turnover: which units are late (bit u as in TICK_OVERRUN_STATUS), the rate that
TB_10M shows at the root (signed, 2^-32 of nominal), the highest reading of each temperature sensor (16d + k, °C) and the
sensors that fail parity, each die's average current (A) and AVSBus voltage (mV), the link-layer columns that carried
packets in each port's busier direction with all its columns of the tick, and the events that the performance counters
count of what the model does not count itself (counter, events). -/
structure TickInput where
  late : Nat
  ref10m : Int
  temps : List (Nat × Int)
  badSensors : List Nat
  currents : List (Nat × Nat)
  volts : List (Nat × Nat)
  columnUse : List (Nat × Nat × Nat)
  counts : List (Nat × Nat)
  deriving DecidableEq, Repr

end Sys2Proof.Machine
end

