-- ==== Sys2Proof/Syntax.lean ====
section
/-!
DEFINITION. The commands of the QD1K: one constructor per row of the table of operations and events, with the row's
operands: the instance it concerns, and the data that the part's surroundings supply. What the state determines is no
operand.
-/
namespace Sys2Proof

open Sys2Proof.Machine

/-- A command: one row of the table of operations and events. -/
inductive Instr where
  /-- REGISTER_WRITE (R14). -/
  | registerWrite (rq : Requester) (w : Window) (off : Nat) (size : Nat) (v : Word)
  /-- WRITE_STATUS_READ (R589). -/
  | writeStatusRead (rq : Requester)
  /-- TURNOVER (R31). -/
  | turnover (i : TickInput)
  /-- RP_STEP_CMD_GO (R49). -/
  | rpStepCmdGo (rq : Requester)
  /-- RP_TOD_SECONDS_WRITE (R47). -/
  | rpTodSecondsWrite (rq : Requester) (v : Word)
  /-- TB_PPS_EDGE (R47). -/
  | tbPpsEdge (ck : Nat)
  /-- TB_PPS_LOSS (R48). -/
  | tbPpsLoss
  /-- TB_10M_LOSS (R48). -/
  | tb10mLoss
  /-- RP_TIME_READ (R57). -/
  | rpTimeRead (rq : Requester) (ck : Nat)
  /-- TIMESTAMP_LCB_RECEIVE (R43). -/
  | timestampLcbReceive (p : Fin 256) (lcb : BitVec 512) (ck : Nat)
  /-- PTM_EXCHANGE (R56). -/
  | ptmExchange (part : Fin 16) (hostNs : Word) (ratio : Word) (err : Fin 3) (ck : Nat)
  /-- JOB_CREATE (R70). -/
  | jobCreate (e : EntryRef)
  /-- JOB_ATTACH (R71). -/
  | jobAttach (e : EntryRef)
  /-- JOB_DETACH (R71). -/
  | jobDetach (e : EntryRef)
  /-- JOB_DESTROY (R72). -/
  | jobDestroy (e : EntryRef)
  /-- JOB_DESTROY_COMPLETE (R72). -/
  | jobDestroyComplete (e : EntryRef)
  /-- RTT_INVALIDATE (R80). -/
  | rttInvalidate (e : EntryRef)
  /-- RTT_INVALIDATE_COMPLETE (R80). -/
  | rttInvalidateComplete (e : EntryRef)
  /-- PACKET_ROUTE (R103). -/
  | packetRoute (inp : Fin 272)
  /-- GUYLINE_LCB_RECEIVE (R96). -/
  | guylineLcbReceive (p : Fin 256) (lcb : BitVec 512)
  /-- MCG_INVALIDATE (R108). -/
  | mcgInvalidate (e : EntryRef)
  /-- MCG_INVALIDATE_COMPLETE (R108). -/
  | mcgInvalidateComplete (e : EntryRef)
  /-- CELL_ARBITRATION (R119). -/
  | cellArbitration (arrivals : List (Fin 256))
  /-- SHARED_CHARGE_MOVE (R128). -/
  | sharedChargeMove (id : Nat)
  /-- HOT_ENTRY_FREE (R135). -/
  | hotEntryFree (e : Fin 64)
  /-- CUT_THROUGH_UNDERRUN (R125). -/
  | cutThroughUnderrun (out : Fin 256)
  /-- PACKET_INJECT (R610). -/
  | packetInject (ie : Fin 16)
  /-- PORT_ENABLE (R173). -/
  | portEnable (rq : Requester) (p : Fin 256) (v : Word)
  /-- PORT_DISABLE (R173). -/
  | portDisable (rq : Requester) (p : Fin 256) (v : Word)
  /-- PORT_DRAIN (R174). -/
  | portDrain (rq : Requester) (p : Fin 256) (force : Bool)
  /-- PORT_RESTORE (R175). -/
  | portRestore (rq : Requester) (p : Fin 256)
  /-- PORT_RETRAIN (R164). -/
  | portRetrain (rq : Requester) (p : Fin 256)
  /-- PORT_TEST (R183). -/
  | portTest (rq : Requester) (p : Fin 256)
  /-- COMMA_LOCK_GAIN (R161). -/
  | commaLockGain (l : Fin 1024) (inverted : Bool)
  /-- COMMA_LOCK_LOSS (R161). -/
  | commaLockLoss (l : Fin 1024)
  /-- HOLD_OFF_EXPIRE (R611). -/
  | holdOffExpire (p : Fin 256)
  /-- CAP_SET_RECEIVE (R165). -/
  | capSetReceive (l : Fin 1024) (cap : BitVec 224) (crc : BitVec 16) (sent : Nat)
  /-- NEG_TIMEOUT (R164). -/
  | negTimeout (p : Fin 256)
  /-- TRAINING_FRAME_RECEIVE (R168). -/
  | trainingFrameReceive (l : Fin 1024) (ctl : BitVec 32) (converged : Bool) (req : BitVec 6)
  /-- EQ_TIMEOUT (R164). -/
  | eqTimeout (p : Fin 256)
  /-- ALIGN_COMPLETE (R164). -/
  | alignComplete (p : Fin 256)
  /-- ALIGN_TIMEOUT (R164). -/
  | alignTimeout (p : Fin 256)
  /-- DESKEW_ERROR (R159). -/
  | deskewError (l : Fin 1024)
  /-- VERIFY_EVALUATE (R170). -/
  | verifyEvaluate (p : Fin 256) (ratio : Nat) (uncorrectable : Bool) (prbsError : Bool)
  /-- VERIFY_STATUS_RECEIVE (R170). -/
  | verifyStatusReceive (p : Fin 256) (st : BitVec 8)
  /-- VERIFY_TIMEOUT (R164). -/
  | verifyTimeout (p : Fin 256)
  /-- PORT_ACTIVE_ENTRY (R170). -/
  | portActiveEntry (p : Fin 256) (rx : Bool)
  /-- LOS_ASSERT (R185). -/
  | losAssert (l : Fin 1024)
  /-- LOS_CLEAR (R185). -/
  | losClear (l : Fin 1024)
  /-- CDR_LOCK_LOSS (R185). -/
  | cdrLockLoss (l : Fin 1024)
  /-- CODEWORD_LOCK_LOSS (R158). -/
  | codewordLockLoss (l : Fin 1024)
  /-- BLOCK_LOCK_GAIN (R158). -/
  | blockLockGain (l : Fin 1024)
  /-- BLOCK_LOCK_LOSS (R158). -/
  | blockLockLoss (l : Fin 1024)
  /-- WIDTH_REQ_RECEIVE (R176). -/
  | widthReqReceive (p : Fin 256) (m : WidthMsg)
  /-- WIDTH_COMMIT_RECEIVE (R176). -/
  | widthCommitReceive (p : Fin 256) (m : WidthMsg)
  /-- WIDTH_WIDEN_RECEIVE (R178). -/
  | widthWidenReceive (p : Fin 256) (m : WidthMsg)
  /-- WIDTH_READY_RECEIVE (R178). -/
  | widthReadyReceive (p : Fin 256) (m : WidthMsg)
  /-- WIDTH_SWITCH (R176). -/
  | widthSwitch (p : Fin 256) (rx : Bool)
  /-- DEGRADE_TIMEOUT (R177). -/
  | degradeTimeout (p : Fin 256) (downTimePassed : Bool)
  /-- WIDEN_TIMEOUT (R178). -/
  | widenTimeout (p : Fin 256)
  /-- SERVICE_DRAIN_RECEIVE (R174). -/
  | serviceDrainReceive (p : Fin 256) (seq : BitVec 8)
  /-- DRAIN_ACK_SEND (R174). -/
  | drainAckSend (p : Fin 256)
  /-- SERVICE_DRAIN_ACK_RECEIVE (R174). -/
  | serviceDrainAckReceive (p : Fin 256) (seq : BitVec 8)
  /-- DRAIN_COMPLETE (R174). -/
  | drainComplete (p : Fin 256)
  /-- SERVICE_RESTORE_RECEIVE (R175). -/
  | serviceRestoreReceive (p : Fin 256) (seq : BitVec 8)
  /-- SERVICE_RESTORE_ACK_RECEIVE (R175). -/
  | serviceRestoreAckReceive (p : Fin 256) (seq : BitVec 8)
  /-- TEST_NOTICE_RECEIVE (R183). -/
  | testNoticeReceive (p : Fin 256) (mode : BitVec 8) (pattern : BitVec 8) (rate : BitVec 8)
  /-- TEST_COMPLETE (R183). -/
  | testComplete (p : Fin 256) (pass : BitVec 8)
  /-- LANE_CAL (R182). -/
  | laneCal (rq : Requester) (l : Fin 1024)
  /-- REMOTE_TUNE_REQUEST (R181). -/
  | remoteTuneRequest (l : Fin 1024) (req : BitVec 6)
  /-- TUNE_LCB_RECEIVE (R199). -/
  | tuneLcbReceive (p : Fin 256) (lcb : BitVec 512)
  /-- LANE_PRBS_INJECT (R184). -/
  | lanePrbsInject (rq : Requester) (l : Fin 1024)
  /-- LANE_PRBS_CLEAR (R186). -/
  | lanePrbsClear (rq : Requester) (l : Fin 1024)
  /-- LINK_SEND_NEW (R205). -/
  | linkSendNew (p : Fin 256)
  /-- ACK_LCB_RECEIVE (R205). -/
  | ackLcbReceive (p : Fin 256) (lcb : BitVec 512)
  /-- REPLAY_TIMER_EXPIRE (R205). -/
  | replayTimerExpire (p : Fin 256)
  /-- LINK_PACKET_SOP (R206). -/
  | linkPacketSop (p : Fin 256) (env : BitVec 64) (net : BitVec 256) (tp : BitVec 256) (ck : Nat)
  /-- LINK_PACKET_END (R206). -/
  | linkPacketEnd (p : Fin 256) (payload : List Byte) (lcrc : BitVec 32) (interrupted : Bool) (ck : Nat)
  /-- ABORT_BLOCK_RECEIVE (R192). -/
  | abortBlockReceive (p : Fin 256)
  /-- ACK_COALESCE_EXPIRE (R207). -/
  | ackCoalesceExpire (p : Fin 256)
  /-- INIT_LCB_RECEIVE (R212). -/
  | initLcbReceive (p : Fin 256) (lcb : BitVec 512)
  /-- INIT_REPEAT (R212). -/
  | initRepeat (p : Fin 256)
  /-- RETRAIN_LCB_RECEIVE (R209). -/
  | retrainLcbReceive (p : Fin 256) (lcb : BitVec 512)
  /-- FATAL_LCB_RECEIVE (R214). -/
  | fatalLcbReceive (p : Fin 256) (lcb : BitVec 512)
  /-- LINK_DOWN (R210). -/
  | linkDown (p : Fin 256)
  /-- RESUME_TIMEOUT (R211). -/
  | resumeTimeout (p : Fin 256)
  /-- FRESH_START_INIT_SEND (R213). -/
  | freshStartInitSend (p : Fin 256)
  /-- RING_ENABLE (R218). -/
  | ringEnable (f : Fin 4096) (r : Fin 4096) (v : Word)
  /-- RING_PI_WRITE (R220). -/
  | ringPiWrite (f : Fin 4096) (r : Fin 4096) (v : Word)
  /-- RING_CI_WRITE (R224). -/
  | ringCiWrite (f : Fin 4096) (r : Fin 4096) (v : Word)
  /-- RING_HOLD_START (R238). -/
  | ringHoldStart (f : Fin 4096) (r : Fin 4096) (start : BitVec 32) (count : BitVec 7)
  /-- RING_HOLD_RELEASE (R238). -/
  | ringHoldRelease (f : Fin 4096) (r : Fin 4096)
  /-- RING_ARM (R613). -/
  | ringArm (f : Fin 4096) (r : Fin 4096) (idx : BitVec 32)
  /-- RING_DISARM (R613). -/
  | ringDisarm (f : Fin 4096) (r : Fin 4096)
  /-- DOORBELL_POLL (R227). -/
  | doorbellPoll (f : Fin 4096) (r : Fin 4096) (res : ReadResult)
  /-- RING_ENTRY_FETCH (R236). -/
  | ringEntryFetch (f : Fin 4096) (r : Fin 4096)
  /-- FETCH_RETRY (R606). -/
  | fetchRetry (e : FetchRef)
  /-- ENTRY_BEGIN (R225). -/
  | entryBegin (f : Fin 4096) (r : Fin 4096)
  /-- NOP (R229). -/
  | nop (e : EntryRef)
  /-- CONN_CREATE (R254). -/
  | connCreate (e : EntryRef)
  /-- CONN_MODIFY (R259). -/
  | connModify (e : EntryRef)
  /-- CONN_DESTROY (R258). -/
  | connDestroy (e : EntryRef)
  /-- CONN_DESTROY_COMPLETE (R258). -/
  | connDestroyComplete (e : EntryRef)
  /-- MR_REGISTER (R283). -/
  | mrRegister (e : EntryRef)
  /-- MR_REVOKE (R285). -/
  | mrRevoke (e : EntryRef)
  /-- MR_REVOKE_COMPLETE (R285). -/
  | mrRevokeComplete (e : EntryRef)
  /-- TRIG_COUNTER_SET (R287). -/
  | trigCounterSet (e : EntryRef)
  /-- DG_SEND (R614). -/
  | dgSend (e : EntryRef) (payload : ReadResult)
  /-- MC_SEND (R614). -/
  | mcSend (e : EntryRef) (payload : ReadResult)
  /-- COLL_POST (R333). -/
  | collPost (e : EntryRef) (operand : ReadResult)
  /-- RECV_BUF (R232). -/
  | recvBuf (e : EntryRef)
  /-- RECV_MATCH (R306). -/
  | recvMatch (e : EntryRef)
  /-- DB_BATCH (R233). -/
  | dbBatch (e : EntryRef)
  /-- CQ_DOORBELL (R242). -/
  | cqDoorbell (f : Fin 4096) (v : Word)
  /-- CWQ_FETCH (R243). -/
  | cwqFetch (c : Fin 16777216) (recv : Bool)
  /-- STAMP_RETRY (R243). -/
  | stampRetry (c : Fin 16777216) (recv : Bool)
  /-- PUT (R277). -/
  | put (e : WorkRef)
  /-- GET (R278). -/
  | get (e : WorkRef)
  /-- SEND (R279). -/
  | send (e : WorkRef)
  /-- SEND_MATCHED (R313). -/
  | sendMatched (e : WorkRef)
  /-- ATOMIC (R281). -/
  | atomic (e : WorkRef)
  /-- NOTIFY_RECORD_WRITE (R224). -/
  | notifyRecordWrite (f : Fin 4096) (r : Fin 4096)
  /-- FUNCTION_RESET (R249). -/
  | functionReset (f : Fin 4096)
  /-- FUNCTION_RESET_COMPLETE (R618). -/
  | functionResetComplete (f : Fin 4096)
  /-- TRANSPORT_RECEIVE (R267). -/
  | transportReceive (ie : Fin 16)
  /-- DG_RECEIVE (R231). -/
  | dgReceive (ie : Fin 16)
  /-- TRANSPORT_ACK_RECEIVE (R269). -/
  | transportAckReceive (ie : Fin 16)
  /-- NOTICE_RECEIVE (R291). -/
  | noticeReceive (ie : Fin 16)
  /-- ROUTE_FAIL_RECEIVE (R293). -/
  | routeFailReceive (ie : Fin 16)
  /-- RETX_SELECTIVE (R269). -/
  | retxSelective (c : Fin 16777216) (psn : BitVec 24)
  /-- RTO_EXPIRE (R270). -/
  | rtoExpire (c : Fin 16777216)
  /-- RNR_RETRY (R279). -/
  | rnrRetry (c : Fin 16777216) (psn : BitVec 24)
  /-- CONTEXT_FETCH_COMPLETE (R255). -/
  | contextFetchComplete (c : Fin 16777216) (ok : Bool)
  /-- REMOTE_FLUSH_COMPLETE (R277). -/
  | remoteFlushComplete (c : Fin 16777216) (psn : BitVec 24) (ok : Bool)
  /-- PAYLOAD_READ_COMPLETE (R421). -/
  | payloadReadComplete (c : Fin 16777216) (uid : Nat) (res : ReadResult)
  /-- ATOMICOP_COMPLETE (R281). -/
  | atomicOpComplete (c : Fin 16777216) (psn : BitVec 24) (res : ReadResult)
  /-- COLL_UP_RECEIVE (R344). -/
  | collUpReceive (ie : Fin 16)
  /-- COLL_FOLD_DONE (R344). -/
  | collFoldDone (mg : BitVec 14) (seq : BitVec 16) (stage : Fin 8) (slice : Nat)
  /-- COLL_DOWN_RECEIVE (R347). -/
  | collDownReceive (ie : Fin 16)
  /-- COLL_MARK_RECEIVE (R347). -/
  | collMarkReceive (ie : Fin 16)
  /-- COLL_ABORT_RECEIVE (R348). -/
  | collAbortReceive (ie : Fin 16)
  /-- COLL_STAGE_TIMEOUT (R348). -/
  | collStageTimeout (mg : BitVec 14) (seq : BitVec 16)
  /-- COLL_TOMBSTONE_EXPIRE (R348). -/
  | collTombstoneExpire (mg : BitVec 14) (seq : BitVec 16)
  /-- COLL_ORPHAN_EXPIRE (R349). -/
  | collOrphanExpire (mg : BitVec 14) (seq : BitVec 16)
  /-- HANDLER_DISPATCH (R357). -/
  | handlerDispatch (c : Fin 64)
  /-- HANDLER_OVERRUN_ABORT (R362). -/
  | handlerOverrunAbort (t : ThreadId)
  /-- CLUSTER_TIMER_FIRE (R375). -/
  | clusterTimerFire (c : Fin 64) (k : Fin 16)
  /-- HB_WRITE (R373). -/
  | hbWrite (rq : Requester) (slot : Fin 4096)
  /-- HB_READ (R375). -/
  | hbRead (rq : Requester) (slot : Fin 4096)
  /-- HB_DISABLE (R374). -/
  | hbDisable (rq : Requester) (slot : Fin 4096)
  /-- IMG_LOAD (R371). -/
  | imgLoad (rq : Requester)
  /-- IMAGE_LOAD_COMPLETE (R371). -/
  | imageLoadComplete (res : ReadResult)
  /-- IMG_UNLOAD (R371). -/
  | imgUnload (rq : Requester) (img : Fin 256)
  /-- SAMPLE_RD_WRITE (R369). -/
  | sampleRdWrite (rq : Requester) (e : Fin 512) (rd : BitVec 8)
  /-- CTR_WATCH_ARM (R375). -/
  | ctrWatchArm (rq : Requester) (w : Fin 256) (v : Word)
  /-- ENGINE_FENCE_CMD (R517). -/
  | engineFenceCmd (rq : Requester) (e : Fin 512)
  /-- WATCHDOG_EXPIRE (R517). -/
  | watchdogExpire (e : Fin 512)
  /-- SPARE_LOAD_COMPLETE (R516). -/
  | spareLoadComplete (e : Fin 512)
  /-- ALU (R384). -/
  | alu (t : ThreadId)
  /-- ADDI (R381). -/
  | addi (t : ThreadId)
  /-- ANDI (R381). -/
  | andi (t : ThreadId)
  /-- ORI (R381). -/
  | ori (t : ThreadId)
  /-- XORI (R381). -/
  | xori (t : ThreadId)
  /-- SHIFTI (R384). -/
  | shifti (t : ThreadId)
  /-- LUI (R384). -/
  | lui (t : ThreadId)
  /-- MULDIV (R385). -/
  | muldiv (t : ThreadId)
  /-- CMP (R380). -/
  | cmp (t : ThreadId)
  /-- CMPI (R380). -/
  | cmpi (t : ThreadId)
  /-- PRED (R384). -/
  | pred (t : ThreadId)
  /-- LB (R385). -/
  | lb (t : ThreadId)
  /-- LBU (R385). -/
  | lbu (t : ThreadId)
  /-- LH (R385). -/
  | lh (t : ThreadId)
  /-- LHU (R385). -/
  | lhu (t : ThreadId)
  /-- LW (R385). -/
  | lw (t : ThreadId)
  /-- LWU (R385). -/
  | lwu (t : ThreadId)
  /-- LD (R385). -/
  | ld (t : ThreadId)
  /-- SB (R385). -/
  | sb (t : ThreadId)
  /-- SH (R385). -/
  | sh (t : ThreadId)
  /-- SW (R385). -/
  | sw (t : ThreadId)
  /-- SD (R385). -/
  | sd (t : ThreadId)
  /-- LDRSV (R390). -/
  | ldrsv (t : ThreadId)
  /-- STCND (R390). -/
  | stcnd (t : ThreadId)
  /-- B (R379). -/
  | b (t : ThreadId)
  /-- JAL (R386). -/
  | jal (t : ThreadId)
  /-- JALR (R386). -/
  | jalr (t : ThreadId)
  /-- VLD (R387). -/
  | vld (t : ThreadId)
  /-- VST (R387). -/
  | vst (t : ThreadId)
  /-- VOP (R388). -/
  | vop (t : ThreadId)
  /-- VRED (R389). -/
  | vred (t : ThreadId)
  /-- MFSR (R399). -/
  | mfsr (t : ThreadId) (ck : Nat)
  /-- MTSR (R399). -/
  | mtsr (t : ThreadId)
  /-- YIELD (R395). -/
  | yield (t : ThreadId)
  /-- YIELDT (R395). -/
  | yieldt (t : ThreadId)
  /-- CB (R396). -/
  | cb (t : ThreadId)
  /-- CB_COMPLETE (R397). -/
  | cbComplete (t : ThreadId) (f : Fin 4096) (ok : Bool)
  /-- EXIT (R395). -/
  | exit (t : ThreadId)
  /-- ERET (R401). -/
  | eret (t : ThreadId)
  /-- EVWAIT (R394). -/
  | evwait (t : ThreadId)
  /-- EVWAIT_TIMEOUT (R394). -/
  | evwaitTimeout (t : ThreadId)
  /-- EMIT (R391). -/
  | emit (t : ThreadId) (room : Bool)
  /-- EMIT_RETIRE (R393). -/
  | emitRetire (t : ThreadId)
  /-- XPUT (R398). -/
  | xput (t : ThreadId)
  /-- XPUTR (R398). -/
  | xputr (t : ThreadId)
  /-- XDROP (R398). -/
  | xdrop (t : ThreadId)
  /-- XL_MISS_RESOLVE (R419). -/
  | xlMissResolve (rq : Requester) (h : Fin 4) (m : Fin 256) (code : BitVec 8)
  /-- XL_INV_CMD (R424). -/
  | xlInvCmd (f : Fin 4096) (asid : Fin 1024) (scope : Bool)
  /-- XL_INV_COMPLETE (R424). -/
  | xlInvComplete (f : Fin 4096)
  /-- LOCK_CLAIM (R436). -/
  | lockClaim (rq : Requester) (off : Nat) (data : Word)
  /-- LOCK_WAIT_READ (R437). -/
  | lockWaitRead (rq : Requester) (off : Nat)
  /-- LOCK_RELEASE (R438). -/
  | lockRelease (rq : Requester) (off : Nat) (data : Word)
  /-- LOCK_PLAIN_WRITE (R440). -/
  | lockPlainWrite (t : Option ThreadId) (off : Nat) (v : Word)
  /-- HOST_WAIT_TIMEOUT (R437). -/
  | hostWaitTimeout (off : Nat)
  /-- GROUNDSHEET_WINDOW_WRITE (R578). -/
  | groundsheetWindowWrite (off : Fin 268435456) (bs : List Byte)
  /-- CH_GO (R456). -/
  | chGo (rq : Requester) (m : Fin 16) (c : Fin 32)
  /-- CH_ABORT (R463). -/
  | chAbort (rq : Requester) (m : Fin 16) (c : Fin 32)
  /-- CH_RESUME (R462). -/
  | chResume (rq : Requester) (m : Fin 16) (c : Fin 32)
  /-- CH_RESET (R464). -/
  | chReset (rq : Requester) (m : Fin 16) (c : Fin 32)
  /-- MOVER_CHANNEL_START (R458). -/
  | moverChannelStart (m : Fin 16) (ck : Nat)
  /-- MOVER_LOCK_RETRY (R467). -/
  | moverLockRetry (m : Fin 16)
  /-- MOVER_BURST_READ_COMPLETE (R454). -/
  | moverBurstReadComplete (m : Fin 16) (c : Fin 32) (pos : Nat) (res : ReadResult) (wok : Bool) (ck : Nat)
  /-- MOVER_CHANNEL_FINISH (R459). -/
  | moverChannelFinish (m : Fin 16) (c : Fin 32) (flushOk : Bool)
  /-- TLP_RECEIVE (R482). -/
  | tlpReceive (n : Fin 40) (t : Tlp) (br : Option (BridgeSel × BridgeReg))
  /-- NF_BAR_REQUEST (R477). -/
  | nfBarRequest (f : Fin 4096) (bar : Fin 6) (off : Nat) (t : Tlp) (aop : Fin 3)
  /-- SHARED_VF_CONFIG_REQUEST (R480). -/
  | sharedVfConfigRequest (p : Fin 16) (vfunc : Fin 256) (t : Tlp)
  /-- SWITCH_COMPLETION_TIMEOUT (R486). -/
  | switchCompletionTimeout (n : Fin 40) (reqId : BitVec 16) (tag : BitVec 14)
  /-- DPC_TRIGGER (R488). -/
  | dpcTrigger (n : Fin 40) (cause : Fin 4)
  /-- DPC_TRIGGER_STATUS_CLEAR (R488). -/
  | dpcTriggerStatusClear (n : Fin 40)
  /-- HOTPLUG_PRESENCE_CHANGE (R489). -/
  | hotplugPresenceChange (n : Fin 40) (sense : PortSense)
  /-- PARTITION_RESET (R476). -/
  | partitionReset (p : Fin 16) (why : Fin 3)
  /-- HOST_PERST_RELEASE (R546). -/
  | hostPerstRelease (p : Fin 16)
  /-- NF_READY (R546). -/
  | nfReady (p : Fin 16)
  /-- PTM_REQUEST_RECEIVE (R493). -/
  | ptmRequestReceive (n : Fin 40) (ck : Nat)
  /-- IDE_KM_MESSAGE (R492). -/
  | ideKmMessage (n : Fin 40) (good : Bool)
  /-- SVF_DISABLE (R481). -/
  | svfDisable (rq : Requester) (k : Fin 256)
  /-- PARTITION_ENABLE (R575). -/
  | partitionEnable (rq : Requester) (p : Fin 16) (v : Word)
  /-- PMBUS_POLL (R496). -/
  | pmbusPoll (reads : List (Fin 13 × Option Nat))
  /-- AVS_SETTLED (R501). -/
  | avsSettled (d : Fin 13)
  /-- V_SETTLE_TIMEOUT (R501). -/
  | vSettleTimeout (d : Fin 13)
  /-- THERMAL_TRIP (R503). -/
  | thermalTrip (k : Fin 208)
  /-- LANE_NARROW_REQUEST (R505). -/
  | laneNarrowRequest (p : Fin 256)
  /-- POWER_LIMIT_UNMET (R506). -/
  | powerLimitUnmet
  /-- SAFE_CLOCKS (R507). -/
  | safeClocks
  /-- FAULT_OCCURRENCE (R512). -/
  | faultOccurrence (src : Fin 1200) (i : FaultInfo)
  /-- BANK_RESTORE_COMPLETE (R522). -/
  | bankRestoreComplete (k : Fin 128)
  /-- FAULT_FORCE (R513). -/
  | faultForce (rq : Requester) (src : BitVec 11) (act : Bool)
  /-- FAULT_STATUS_CLEAR (R531). -/
  | faultStatusClear (rq : Requester) (w : Fin 19) (v : Word)
  /-- MIRROR_ENABLE (R521). -/
  | mirrorEnable (rq : Requester) (v : Word)
  /-- MIRROR_SYNC_COMPLETE (R521). -/
  | mirrorSyncComplete
  /-- MIRROR_WRITE_ERROR (R521). -/
  | mirrorWriteError
  /-- SYS_RESET_ASSERT (R535). -/
  | sysResetAssert
  /-- SYS_RESET_RELEASE (R537). -/
  | sysResetRelease (x : ColdStart)
  /-- SECURE_BOOT (R543). -/
  | secureBoot (a b : Option SlotImage)
  /-- RST_WARM (R549). -/
  | rstWarm (rq : Requester) (tests : List SelfTest)
  /-- RST_ENGINE (R551). -/
  | rstEngine (rq : Requester) (e : Fin 512)
  /-- RST_PORT (R552). -/
  | rstPort (rq : Requester) (p : Fin 256)
  /-- REPAIR_CLEAR (R542). -/
  | repairClear (rq : Requester)
  /-- RAIL_UNDERVOLTAGE (R593). -/
  | railUndervoltage
  /-- SPREF_LOSS (R596). -/
  | sprefLoss
  /-- FREF_LOSS (R596). -/
  | frefLoss (k : Fin 8)
  /-- EV_FORCE (R568). -/
  | evForce (rq : Requester) (src : BitVec 11)
  /-- MODULE_POLL (R563). -/
  | modulePoll (polls : List (Fin 256 × ModulePoll))
  /-- MOD_INT_FALL (R563). -/
  | modIntFall (m : Fin 16) (polls : List (Fin 256 × ModulePoll))
  /-- PLDM_GET_TELEMETRY (R561). -/
  | pldmGetTelemetry (path : Fin 17) (k : BitVec 16)
  /-- PLDM_FIRMWARE_UPDATE (R562). -/
  | pldmFirmwareUpdate (slot : Fin 2) (im : SlotImage)
  /-- PLDM_EVENT_ACK (R560). -/
  | pldmEventAck (seq : BitVec 32)
  /-- PLDM_RESET_REQUEST (R549). -/
  | pldmResetRequest (tests : List SelfTest)
  /-- MCTP_MESSAGE (R559). -/
  | mctpMessage (path : Fin 17) (reply : List Byte)
  /-- DELHOLT_FRAME_RECEIVE (R558). -/
  | delholtFrameReceive (dst : BitVec 48) (listed : Bool) (frame : List Byte)
  /-- DELHOLT_LINK_CHANGE (R557). -/
  | delholtLinkChange (up an : Bool) (speed : Fin 3)
  /-- PC_SEL_WRITE (R570). -/
  | pcSelWrite (rq : Requester) (i : Fin 144) (v : Word)
  /-- PC_RUN (R570). -/
  | pcRun (rq : Requester) (run : Bool)
  /-- PC_VALUE_WRITE (R570). -/
  | pcValueWrite (rq : Requester) (i : Fin 144) (v : Word)
  /-- PC_SNAP (R571). -/
  | pcSnap (rq : Requester)
  /-- TB_10M_RETURN (R48). -/
  | tb10mReturn
  /-- CDR_LOCK_GAIN (R185). -/
  | cdrLockGain (l : Fin 1024)
  /-- DEV_PERST_RELEASE (R536). -/
  | devPerstRelease (n : Fin 40)
  /-- PCIE_LINK_UP (R489). -/
  | pcieLinkUp (n : Fin 40) (sense : PortSense) (speed : Fin 7) (width : Fin 5) (flit : Bool)
  /-- RAIL_RECOVERY (R593). -/
  | railRecovery (x : ColdStart)
  /-- SPREF_RETURN (R596). -/
  | sprefReturn (x : ColdStart)
  /-- FREF_RETURN (R596). -/
  | frefReturn (k : Fin 8)
  /-- LOAD_COMPLETION (R428). -/
  | loadCompletion (t : ThreadId) (res : ReadResult)
  /-- ENTRY_FETCH_COMPLETE (R606). -/
  | entryFetchComplete (e : FetchRef) (res : ReadResult)
  /-- XL_ASID_CFG_WRITE (R425). -/
  | xlAsidCfgWrite (rq : Requester) (asid : Fin 1024) (v : Word)
  deriving DecidableEq, Repr

end Sys2Proof
end

