-- ==== Sys2Proof/Decode.lean ====
section
/-!
DEFINITION. The command that a word of the table spells. The QD1K takes commands from outside and decodes no instruction
of its own kind: no row of the table gives bits, so no word spells a command. (The Cormel words of its engines are decoded
by the meanings of their rows.)
-/
namespace Sys2Proof

/-- The command that an instruction word of `nbits` bits spells, by the table's bits: none, since no row has any. -/
def decodeTableWord (_nbits _w : Nat) : Option Instr := none

end Sys2Proof
end

