-- ==== Sys2Proof/Machine/Float.lean ====
section
/-!
DEFINITION. Element arithmetic of the combiners and the vector unit (R330, R331, R388): IEEE 754 operations computed
exactly on dyadic numbers and rounded once to nearest with ties to even, and integer operations.
-/
namespace Sys2Proof.Machine

/-- A floating-point format: exponent and fraction bits. -/
structure Fmt where
  eb : Nat
  mb : Nat
  deriving DecidableEq, Repr

/-- fp64, fp32, bf16 and fp16 (R330). -/
def fp64 : Fmt := ⟨11, 52⟩
def fp32 : Fmt := ⟨8, 23⟩
def bf16 : Fmt := ⟨8, 7⟩
def fp16 : Fmt := ⟨5, 10⟩

/-- The value that a code holds: NaN, an infinity, or (-1)^neg · m · 2^e. -/
inductive FpVal where
  | nan
  | inf (neg : Bool)
  | fin (neg : Bool) (m : Nat) (e : Int)
  deriving DecidableEq, Repr

/-- The exponent of the least bit of a subnormal. -/
def Fmt.low (f : Fmt) : Int := 2 - 2 ^ (f.eb - 1) - f.mb

/-- The all-ones exponent field in place. -/
def Fmt.infCode (f : Fmt) : Nat := (2 ^ f.eb - 1) * 2 ^ f.mb

/-- The sign bit in place. -/
def Fmt.signBit (f : Fmt) : Nat := 2 ^ (f.eb + f.mb)

/-- The canonical quiet NaN (R331). -/
def Fmt.qnan (f : Fmt) : Nat := f.infCode + 2 ^ (f.mb - 1)

/-- The value of a code. -/
def Fmt.decode (f : Fmt) (c : Nat) : FpVal :=
  let neg := c.testBit (f.eb + f.mb)
  let x := c / 2 ^ f.mb % 2 ^ f.eb
  let m := c % 2 ^ f.mb
  if x = 2 ^ f.eb - 1 then (if m = 0 then .inf neg else .nan)
  else if x = 0 then .fin neg m f.low
  else .fin neg (2 ^ f.mb + m) (f.low + x - 1)

/-- m · 2^-k rounded to an integer, to nearest with ties to even. -/
def roundShift (m k : Nat) : Nat :=
  let q := m / 2 ^ k
  let r := m % 2 ^ k
  if 2 * r > 2 ^ k ∨ (2 * r = 2 ^ k ∧ q % 2 = 1) then q + 1 else q

/-- The code of (-1)^neg · m · 2^e rounded once to nearest, ties to even; overflow gives an infinity (R331). -/
def Fmt.encode (f : Fmt) (neg : Bool) (m : Nat) (e : Int) : Nat :=
  let sign := if neg then f.signBit else 0
  if m = 0 then sign
  else
    let q := max (e + Nat.log2 m - f.mb) f.low
    let sig := if q ≤ e then m * 2 ^ (e - q).toNat else roundShift m (q - e).toNat
    let c := (q - f.low).toNat * 2 ^ f.mb + sig
    sign + (if sig < 2 ^ f.mb ∧ q = f.low then sig else min c f.infCode)

/-- The signed integer that a finite value is, at a scale not above its own. -/
def scaled (neg : Bool) (m : Nat) (e lo : Int) : Int :=
  let v : Int := (m : Int) * 2 ^ (e - lo).toNat
  if neg then -v else v

/-- The exact sum of two finite values as a code; a zero sum of opposite signs is +0. -/
def Fmt.sumFin (f : Fmt) (n1 : Bool) (m1 : Nat) (e1 : Int) (n2 : Bool) (m2 : Nat) (e2 : Int) : Nat :=
  let lo := min e1 e2
  let v := scaled n1 m1 e1 lo + scaled n2 m2 e2 lo
  if v = 0 then (if n1 && n2 then f.signBit else 0) else f.encode (decide (v < 0)) v.natAbs lo

/-- The sum of two values. -/
def Fmt.sumVal (f : Fmt) (a b : FpVal) : Nat :=
  match a, b with
  | .nan, _ => f.qnan
  | _, .nan => f.qnan
  | .inf x, .inf y => if x = y then f.infCode + (if x then f.signBit else 0) else f.qnan
  | .inf x, _ => f.infCode + (if x then f.signBit else 0)
  | _, .inf y => f.infCode + (if y then f.signBit else 0)
  | .fin n1 m1 e1, .fin n2 m2 e2 => f.sumFin n1 m1 e1 n2 m2 e2

/-- The exact product of two values, before rounding. -/
def mulVal (a b : FpVal) : FpVal :=
  match a, b with
  | .nan, _ => .nan
  | _, .nan => .nan
  | .inf x, .inf y => .inf (x != y)
  | .inf x, .fin y m _ => if m = 0 then .nan else .inf (x != y)
  | .fin x m _, .inf y => if m = 0 then .nan else .inf (x != y)
  | .fin x m e, .fin y n g => .fin (x != y) (m * n) (e + g)

/-- The code of a value. -/
def Fmt.ofVal (f : Fmt) : FpVal → Nat
  | .nan => f.qnan
  | .inf x => f.infCode + (if x then f.signBit else 0)
  | .fin n m e => f.encode n m e

/-- IEEE 754 addition (R331). -/
def Fmt.add (f : Fmt) (a b : Nat) : Nat := f.sumVal (f.decode a) (f.decode b)

/-- Subtraction: addition of the negated operand. -/
def Fmt.sub (f : Fmt) (a b : Nat) : Nat := f.add a (b ^^^ f.signBit)

/-- Multiplication, rounded once. -/
def Fmt.mul (f : Fmt) (a b : Nat) : Nat := f.ofVal (mulVal (f.decode a) (f.decode b))

/-- c + a × b, rounded once (VFMA). -/
def Fmt.fma (f : Fmt) (c a b : Nat) : Nat := f.sumVal (f.decode c) (mulVal (f.decode a) (f.decode b))

/-- Whether a code is a NaN. -/
def Fmt.isNan (f : Fmt) (c : Nat) : Bool := decide (f.infCode < c % f.signBit)

/-- A code as an integer in the order of the values, with -0 below +0. -/
def Fmt.key (f : Fmt) (c : Nat) : Int :=
  let m := c % f.signBit
  if c.testBit (f.eb + f.mb) then -(m : Int) - 1 else m

/-- Minimum and maximum (R331). -/
def Fmt.minMax (f : Fmt) (mx : Bool) (a b : Nat) : Nat :=
  if f.isNan a || f.isNan b then f.qnan
  else if decide (f.key a ≤ f.key b) != mx then a else b

/-- IEEE equality: false with a NaN, and the zeros are equal. -/
def Fmt.eq (f : Fmt) (a b : Nat) : Bool :=
  !(f.isNan a) && !(f.isNan b) && (a == b || (a % f.signBit == 0 && b % f.signBit == 0))

/-- IEEE less-than. -/
def Fmt.lt (f : Fmt) (a b : Nat) : Bool :=
  !(f.isNan a) && !(f.isNan b) && !(f.eq a b) && decide (f.key a < f.key b)

/-- The element bytes of a DTYPE (R330). -/
def dtypeBytes (t : Nat) : Nat :=
  match t with
  | 0 | 4 | 6 => 8
  | 1 | 5 => 4
  | _ => 2

/-- The format of a floating-point DTYPE. -/
def dtypeFmt (t : Nat) : Option Fmt :=
  match t with
  | 0 => some fp64
  | 1 => some fp32
  | 2 => some bf16
  | 3 => some fp16
  | _ => none

/-- Whether an operator is permitted with a type (R330). -/
def opPermitted (t op : Nat) : Bool :=
  if t ≤ 3 then decide (op ≤ 2) else if t ≤ 5 then decide (op ≤ 5) else t == 6 && decide (3 ≤ op) && decide (op ≤ 5)

/-- An integer combination of w bits (R331): 0 sum, 1 min, 2 max, 3 and, 4 or, 5 xor. -/
def combineInt (w op : Nat) (signed : Bool) (a b : Nat) : Nat :=
  let less := if signed then decide (toSigned w b < toSigned w a) else decide (b < a)
  match op with
  | 0 => (a + b) % 2 ^ w
  | 1 => if less then b else a
  | 2 => if less then a else b
  | 3 => a &&& b
  | 4 => a ||| b
  | _ => a ^^^ b

/-- A combination of two elements of a DTYPE (R331). -/
def combineElem (t op a b : Nat) : Nat :=
  match dtypeFmt t with
  | some f => if op = 0 then f.add a b else f.minMax (op == 2) a b
  | none => combineInt (8 * dtypeBytes t) op true a b

/-- A combination of two operands, element by element. -/
def combineBytes (t op : Nat) : Nat → List (BitVec 8) → List (BitVec 8) → List (BitVec 8)
  | 0, _, _ => []
  | k + 1, a, b =>
    if a.isEmpty then []
    else
      let n := dtypeBytes t
      leBytes n (combineElem t op (leNat (a.take n)) (leNat (b.take n))) ++ combineBytes t op k (a.drop n) (b.drop n)

end Sys2Proof.Machine
end

