-- ==== Sys2Proof/Config.lean ====
section
/-!
DEFINITION. What an implementation fixes and the spec leaves open, as constants without a body: nothing can be proved
of their values. A free value that the machine draws takes the State's counter of draws as its argument.
-/
namespace Sys2Proof

/-- The n-th free value: a number the spec does not state (assumption log 3). -/
opaque Config.freeNat : Nat → Nat

/-- The n-th free byte. -/
opaque Config.freeByte : Nat → BitVec 8

/-- The n-th free choice. -/
opaque Config.freeBool : Nat → Bool

/-- How many match entries an overflow area of so many pages can take: its layout belongs to firmware (R325). -/
opaque Config.overflowEntries : Nat → Nat

/-- The base-2 logarithm of the element bytes by which VLD and VST read their predicate: the format of R381 gives them no
ESIZE (R379, R387). -/
opaque Config.vmElem : Fin 4

/-- The fused voltage-frequency table of a die, in mV: for a hub die by CODE, for the others at CODE 0 the fused value
for their fixed clocks (R501). -/
opaque Config.vf : Nat → Nat → Nat

/-- The fused energy table of a die: 256 times the energy of an issuing cycle, in nJ, at a voltage in mV and a CODE
(R499). -/
opaque Config.energy : Nat → Nat → Nat → Nat

/-- The energy of a mover's 64 bytes, in 1/256 token: Lantern sets MV_TOKEN_COST to it, and the spec does not say how it
finds it (R468). -/
opaque Config.moverEnergy : Nat → Nat

/-- The fused limits of a die: ICC_MAX in A, V_MIN and V_MAX in mV (R509). -/
opaque Config.dieLimit : Nat → Nat × Nat × Nat

end Sys2Proof
end

