-- ==== Sys2Proof/Machine/RegMap.lean ====
section
/-!
DEFINITION. The register map of the QD1K: every block of the device window and of a network function's register
window (R590, R591, R592), and every register of each block with its offset, its strides, and its fields with their
access type (R12) and reset value, as the register tables of the chapters give them.
-/
namespace Sys2Proof.Machine

/-- The register blocks of the address map (R590, R592). -/
inductive Block where
  | amB
  | coordB
  | tpcB
  | mtdB
  | collB
  | lockB
  | rstB
  | rpB
  | routeB
  | spbB
  | lnB
  | ctrB
  | evB
  | coreB
  | llB
  | xlB
  | ebB
  | fltB
  | engB
  | laneB
  | mvB
  | hqB
  | tpB
  | mfB
  | xfB
  | cfB
  | twB
  | swB
  | mxB
  deriving DecidableEq, Repr

/-- A block of the device window (false) or of a function register window (true); its base and its size in bytes. -/
structure BlockDesc where
  perFunction : Bool
  base : Nat
  size : Nat
  deriving DecidableEq, Repr

/-- Base and size of each block (R590, R592). -/
def Block.desc : Block → BlockDesc
  | .amB => ⟨false, 0x0, 0x1000⟩
  | .coordB => ⟨false, 0x1000, 0x1000⟩
  | .tpcB => ⟨false, 0x2000, 0x1000⟩
  | .mtdB => ⟨false, 0x3000, 0x1000⟩
  | .collB => ⟨false, 0x4000, 0x1000⟩
  | .lockB => ⟨false, 0x5000, 0x1000⟩
  | .rstB => ⟨false, 0x6000, 0x1000⟩
  | .rpB => ⟨false, 0x8000, 0x4000⟩
  | .routeB => ⟨false, 0xc000, 0x4000⟩
  | .spbB => ⟨false, 0x10000, 0x4000⟩
  | .lnB => ⟨false, 0x18000, 0x8000⟩
  | .ctrB => ⟨false, 0x20000, 0x8000⟩
  | .evB => ⟨false, 0x30000, 0x10000⟩
  | .coreB => ⟨false, 0x40000, 0x20000⟩
  | .llB => ⟨false, 0x60000, 0x20000⟩
  | .xlB => ⟨false, 0x80000, 0x20000⟩
  | .ebB => ⟨false, 0xa0000, 0x20000⟩
  | .fltB => ⟨false, 0xc0000, 0x40000⟩
  | .engB => ⟨false, 0x100000, 0x80000⟩
  | .laneB => ⟨false, 0x200000, 0x100000⟩
  | .mvB => ⟨false, 0x400000, 0x200000⟩
  | .hqB => ⟨true, 0x0, 0x100000⟩
  | .tpB => ⟨true, 0x100000, 0x1000⟩
  | .mfB => ⟨true, 0x101000, 0x1000⟩
  | .xfB => ⟨true, 0x102000, 0x1000⟩
  | .cfB => ⟨true, 0x103000, 0x1000⟩
  | .twB => ⟨true, 0x104000, 0x1000⟩
  | .swB => ⟨true, 0x105000, 0x1000⟩
  | .mxB => ⟨true, 0x110000, 0x9000⟩

/-- Register access types (R12). -/
inductive Acc where
  | rw | ro | wo | w1c | w1s
  deriving DecidableEq, Repr

/-- One field of a register: its bits hi:lo, access type and reset value. -/
structure FieldDesc where
  hi : Nat
  lo : Nat
  acc : Acc
  reset : Nat
  deriving DecidableEq, Repr

/-- One register: block, offset from the block base, the (stride, count) pairs of its instances, its fields, and
whether it is a counter (R584): 0 none, 1 a 32-bit saturating counter, 2 a 48-bit wrapping counter. -/
structure RegDesc where
  block : Block
  off : Nat
  strides : List (Nat × Nat)
  counter : Nat
  fields : List FieldDesc
  deriving DecidableEq, Repr

/-- Every register of the QD1K, by name. -/
inductive RegName where
  | WRITE_STATUS
  | AM_VF_BASE
  | NODE_COORD
  | DIM_CFG
  | COORD_STATUS
  | RTT_STALE_COUNT
  | JOB_MISMATCH_COUNT
  | TP_CC_CFG
  | TP_RTO_CFG
  | TP_RETRY_CFG
  | RETX_SELECTIVE_COUNT
  | RETX_TIMEOUT_COUNT
  | DUP_PKT_COUNT
  | OUT_OF_WINDOW_COUNT
  | WINDOW_DECREASE_COUNT
  | CTX_MISS_COUNT
  | CANCEL_COUNT
  | MATCH_CTRL
  | MATCH_POOL_FREE
  | MP_HELD
  | MP_COMMIT_COUNT
  | MP_SQUASH_COUNT
  | MP_SPEC_FULL_COUNT
  | MP_HOLD_DROP_COUNT
  | COLL_CFG
  | COLL_STATUS
  | COLL_STAGE_USED
  | COLL_DONE_COUNT
  | COLL_FAIL_COUNT
  | COLL_ABORT_SENT_COUNT
  | COLL_ABORT_RECV_COUNT
  | COLL_SLIP_COUNT
  | COLL_STAGE_FULL_COUNT
  | COLL_STALE_COUNT
  | COLL_ORPHAN_COUNT
  | COLL_DUP_COUNT
  | LOCK_CFG
  | LOCK_BUSY_COUNT
  | LOCK_MISUSE_COUNT
  | LOCK_TABLE_FULL_COUNT
  | LOCK_PLAIN_WRITE_COUNT
  | LOCK_BOOST_COUNT
  | LOCK_ABANDON_COUNT
  | HOST_WAIT_TIMEOUT_COUNT
  | LOCK_UNIT_STATUS
  | BOOT_STATUS
  | RST_CMD
  | RST_CAUSE
  | PKG_SERIAL
  | SEC_FUSES
  | REPAIR_CMD
  | ID_DIE_A
  | ID_DIE_B
  | RP_CONTROL
  | RP_STATUS
  | RP_ROOT_NODE
  | RP_PARENT_PIN
  | RP_TIME_NS
  | RP_TIME_FRAC_TICK
  | RP_TURNOVERS
  | RP_OFFSET
  | RP_RATE_ADJ
  | RP_SERVO
  | RP_STEP_NS
  | RP_STEP_CMD
  | RP_TOD_SECONDS
  | TICK_OVERRUN_STATUS
  | TS_HOLD
  | TICK_OVERRUN_COUNT
  | RP_PORT_ASYM
  | RP_PORT_DELAY
  | ROUTE_CONTROL
  | GUYLINE_CFG
  | DR_CFG
  | ROUTE_WEIGHTS
  | ROUTE_ADAPT_STATUS
  | RING_LINK_DOWN
  | ROUTE_FAIL_COUNT
  | MISROUTE_COUNT
  | HCRC_ERROR_COUNT
  | HOP_LIMIT_COUNT
  | MCAST_BRANCH_FAIL_COUNT
  | MCAST_INVALID_COUNT
  | DEROUTE_COUNT
  | PORT_ROUTE
  | DH_CFG
  | DH_STATUS
  | DH_MAC
  | MOD_SITE
  | MOD_STATUS
  | LN_CTRL
  | LN_LIMITS
  | LN_THERMAL
  | LN_NARROW
  | LN_MISC
  | LN_STATUS
  | LN_POWER
  | LN_POOL
  | LN_PLACE_MASK
  | POWER_LIMIT_UNMET_COUNT
  | EMERGENCY_COUNT
  | THERMAL_WARN_COUNT
  | SENSOR_FAIL_COUNT
  | VR_FAULT_COUNT
  | V_SETTLE_FAIL_COUNT
  | PLACE_CHANGE_COUNT
  | NARROW_COUNT
  | WIDEN_COUNT
  | LN_CL_FREQ
  | LN_CL_STATUS
  | LN_DIE_CFG
  | LN_DIE_STATUS
  | LN_DIE_GAIN
  | LN_MV_FLOOR
  | LN_PORT
  | PC_CTRL
  | PC_OVF
  | PC_SEL
  | PC_VALUE
  | PC_SNAP
  | EV_ROUTE
  | EV_PENDING
  | EV_FORCE
  | EV_MERGE_COUNT
  | EV_PORT_CAUSE
  | EV_HP_CAUSE
  | MCTP_VDM_PARTS
  | BUF_CFG
  | MARK_CFG
  | HOT_CFG
  | TC_BUF
  | ALPHA_STATUS
  | TC_CLAMP_COUNT
  | CT_ABORT_COUNT
  | RESERVE_ONLY_COUNT
  | PORT_FLUSH_COUNT
  | FLUSH_NO_NOTICE_COUNT
  | HOT_ENTER_COUNT
  | HOT_TABLE_FULL_COUNT
  | CT_UNDERRUN_COUNT
  | MARK_COUNT
  | HOT_ENTRY
  | PORT_SCHED
  | CREDIT_INIT_A
  | CREDIT_INIT_B
  | QUANTUM
  | PORT_SHAPER
  | TC_SHAPER
  | LL_CFG
  | LL_STATUS
  | LL_CREDIT_A
  | LL_CREDIT_B
  | LL_REPLAY_USED
  | LCRC_ERROR_COUNT
  | FRAMING_ERROR_COUNT
  | LCB_ERROR_COUNT
  | NAK_SENT_COUNT
  | NAK_RECV_COUNT
  | REPLAY_COUNT
  | TIMER_REPLAY_COUNT
  | DUP_DISCARD_COUNT
  | OOS_DISCARD_COUNT
  | ABORT_SENT_COUNT
  | ABORT_RECV_COUNT
  | RETRAIN_COUNT
  | LINK_DOWN_COUNT
  | CREDIT_STALL_CK
  | REPLAY_FULL_CK
  | TICK_SKEW_COUNT
  | RESUME_COUNT
  | FRESH_START_COUNT
  | XL_CTRL
  | XL_MISS_RESOLVE
  | MULTI_HIT_COUNT
  | REMISS_COUNT
  | PARK_DROP_COUNT
  | ENGINE_MISS_COUNT
  | PLACE_MISS_COUNT
  | XL_MISS_VA
  | XL_MISS_SRC
  | XL_ASID_ROOT
  | XL_ASID_CFG
  | EB_FMF_CFG
  | EB_CFG
  | WINDOW_REFUSE_COUNT
  | EB_STACK_CFG
  | EB_PART_CFG
  | EB_PART_STATUS
  | EB_PORT_CFG
  | EB_PORT_STATUS
  | SYN_CPL_COUNT
  | LATE_CPL_COUNT
  | DPC_DISCARD_COUNT
  | POISON_FWD_COUNT
  | ACS_BLOCK_COUNT
  | XP_CTRL
  | XP_SRC_BASE
  | XP_SRC_LIMIT
  | XP_TGT_BASE
  | SVF_CTRL
  | SVF_ID
  | SVF_BAR
  | FAULT_CTRL
  | FAULT_SUMMARY
  | FAULT_FORCE
  | LOG_WR
  | MIRROR_BASE
  | MIRROR_CFG
  | FAULT_STATUS
  | FAULT_CLASS
  | FATAL_RECORD
  | DG_HUB
  | DG_GROUPS
  | DG_FABRIC
  | DG_PCIE
  | MIRROR_RESYNC_COUNT
  | BANK_RETIRE_COUNT
  | ENGINE_FENCE_COUNT
  | FAULT_LOG
  | HB_CMD
  | HB_DATA
  | IMG_ADDR
  | IMG_CMD
  | IMG_STATUS
  | SYS_BIND
  | HANDLER_OVERRUN_COUNT
  | FW_OVERRUN_COUNT
  | ENGINE_LOST_COUNT
  | EVQ_FULL_COUNT
  | CTR_WATCH
  | CTR_THRESH
  | CL_CFG
  | CL_STATUS
  | CL_QDEPTH
  | CL_TOKENS
  | CL_TOKEN_COST
  | DEFER_P2_CK
  | DEFER_P3_CK
  | TIMER_CFG
  | TIMER_DUE
  | SAMPLE_CFG
  | SAMPLE_PTR
  | ENG_STATUS
  | PORT_CTRL
  | PORT_TRAIN_CFG
  | PORT_CMD
  | PORT_TEST_CFG
  | PORT_STATE
  | PORT_PARTNER
  | TEST_RESULT
  | TRAIN_FAIL_COUNT
  | WIDTH_CHANGE_COUNT
  | DEGRADE_FAIL_COUNT
  | FILLER_ADJUST_COUNT
  | LANE_CFG
  | LANE_STATUS
  | LANE_CAL_CMD
  | LANE_PRBS_CFG
  | LANE_PRBS_CMD
  | LANE_PRBS_ERRORS
  | LANE_FEC_CORRECTED
  | LANE_FEC_UNCORRECTED
  | LANE_LOCK_LOSS_COUNT
  | LANE_TX_COEF
  | LANE_EYE
  | MV_CFG
  | MV_TOKENS
  | MV_TOKEN_COST
  | MV_STATUS
  | MV_DONE_STATUS
  | MV_HALT_STATUS
  | MV_RETRY_COUNT
  | MV_HALT_COUNT
  | MV_ABORT_COUNT
  | MV_DEFER_CK
  | MV_BYTES
  | CH_SRC
  | CH_DST
  | CH_SHAPE
  | CH_SRC_STRIDE01
  | CH_SRC_STRIDE2
  | CH_DST_STRIDE01
  | CH_DST_STRIDE2
  | CH_CTRL
  | CH_LOCK
  | CH_RECORD
  | CH_CMD
  | CH_STATE
  | CH_RESULT
  | CH_RESIDUE
  | CH_POS
  | FUNC_CFG
  | FUNC_STATUS
  | HALT_WHERE
  | HALT_INDEX
  | CQ_DOORBELL
  | STAMP_MISS_COUNT
  | STAMP_MISS_POSTED_COUNT
  | DG_DROP_COUNT
  | DESC_WAIT_CK
  | FETCH_ERROR_COUNT
  | RING_ADDR
  | RING_CFG
  | RING_PI
  | RING_CI
  | RING_CPI
  | RING_SHADOW
  | RING_DB_WORD
  | RING_HOLD
  | RING_HOLD_MASK
  | RING_ARM
  | RING_STATUS
  | RING_REJECT_COUNT
  | NOTIFY_FULL_COUNT
  | FUNC_CONN_RANGE
  | FUNC_KEY_RANGE
  | FUNC_TRIG_RANGE
  | FUNC_POLICY
  | CTX_ADDR
  | CONN_OPEN_COUNT
  | CONN_ERROR_COUNT
  | KEY_REFUSE_COUNT
  | RNR_COUNT
  | ROUTE_FAIL_RECV_COUNT
  | DG_REFUSED_COUNT
  | TRIG_LATE_COUNT
  | CTX_FETCH_ERROR_COUNT
  | MATCH_CFG
  | MATCH_OVF_ADDR
  | MATCH_OVF_SIZE
  | MATCH_STATUS
  | UNEXPECTED_COUNT
  | RNDV_COUNT
  | UX_REFUSE_COUNT
  | MATCH_TRUNC_COUNT
  | OVERFLOW_ENTER_COUNT
  | OVERFLOW_OP_COUNT
  | XL_FUNC
  | XL_INV_VA
  | XL_INV_CMD
  | XL_INV_STATUS
  | XL_DEV_BASE
  | XL_DEV_LIMIT
  | NF_JOB_BIND
  | TMAP_SEQ
  | TMAP_HOST_NS
  | TMAP_FABRIC_NS
  | TMAP_FABRIC_FRAC
  | TMAP_RATIO
  | TMAP_ERROR_NS
  deriving DecidableEq, Repr

/-- The description of each register, as the register table of its chapter gives it. -/
def RegName.desc : RegName → RegDesc
  | .WRITE_STATUS => ⟨.amB, 0x0, [], 0, [⟨7, 0, .ro, 0⟩, ⟨8, 8, .w1c, 0⟩, ⟨23, 16, .ro, 0⟩, ⟨63, 32, .ro, 0⟩]⟩
  | .AM_VF_BASE => ⟨.amB, 0x100, [(0x8, 16)], 0, [⟨11, 0, .ro, 0⟩, ⟨24, 16, .ro, 0⟩, ⟨63, 63, .ro, 0⟩]⟩
  | .NODE_COORD => ⟨.coordB, 0x0, [], 0, [⟨19, 0, .rw, 0⟩]⟩
  | .DIM_CFG => ⟨.coordB, 0x8, [(0x8, 4)], 0, [⟨0, 0, .rw, 0⟩, ⟨1, 1, .rw, 0⟩, ⟨14, 8, .rw, 2⟩, ⟨18, 16, .ro, 1⟩, ⟨28, 24, .ro, 0⟩]⟩
  | .COORD_STATUS => ⟨.coordB, 0x40, [], 0, [⟨2, 0, .ro, 0⟩, ⟨12, 8, .ro, 0⟩]⟩
  | .RTT_STALE_COUNT => ⟨.coordB, 0x48, [], 0, [⟨31, 0, .ro, 0⟩]⟩
  | .JOB_MISMATCH_COUNT => ⟨.coordB, 0x100, [(0x8, 64)], 0, [⟨31, 0, .ro, 0⟩]⟩
  | .TP_CC_CFG => ⟨.tpcB, 0x0, [], 0, [⟨12, 0, .rw, 0x40⟩, ⟨25, 13, .rw, 4⟩, ⟨38, 26, .rw, 0x1000⟩, ⟨46, 39, .rw, 8⟩, ⟨50, 47, .rw, 1⟩, ⟨51, 51, .rw, 0⟩]⟩
  | .TP_RTO_CFG => ⟨.tpcB, 0x8, [], 0, [⟨15, 0, .rw, 8⟩, ⟨31, 16, .rw, 0x1000⟩, ⟨47, 32, .rw, 0x40⟩, ⟨51, 48, .rw, 7⟩, ⟨52, 52, .rw, 0⟩]⟩
  | .TP_RETRY_CFG => ⟨.tpcB, 0x10, [], 0, [⟨15, 0, .rw, 0x20⟩, ⟨19, 16, .rw, 7⟩, ⟨27, 20, .rw, 4⟩]⟩
  | .RETX_SELECTIVE_COUNT => ⟨.tpcB, 0x40, [], 1, [⟨31, 0, .ro, 0⟩]⟩
  | .RETX_TIMEOUT_COUNT => ⟨.tpcB, 0x48, [], 1, [⟨31, 0, .ro, 0⟩]⟩
  | .DUP_PKT_COUNT => ⟨.tpcB, 0x50, [], 1, [⟨31, 0, .ro, 0⟩]⟩
  | .OUT_OF_WINDOW_COUNT => ⟨.tpcB, 0x58, [], 1, [⟨31, 0, .ro, 0⟩]⟩
  | .WINDOW_DECREASE_COUNT => ⟨.tpcB, 0x60, [], 1, [⟨31, 0, .ro, 0⟩]⟩
  | .CTX_MISS_COUNT => ⟨.tpcB, 0x68, [], 1, [⟨31, 0, .ro, 0⟩]⟩
  | .CANCEL_COUNT => ⟨.tpcB, 0x70, [], 1, [⟨31, 0, .ro, 0⟩]⟩
  | .MATCH_CTRL => ⟨.mtdB, 0x0, [], 0, [⟨6, 0, .rw, 0x40⟩, ⟨7, 7, .rw, 1⟩, ⟨31, 16, .rw, 0x1000⟩]⟩
  | .MATCH_POOL_FREE => ⟨.mtdB, 0x8, [], 0, [⟨19, 0, .ro, 0x80000⟩]⟩
  | .MP_HELD => ⟨.mtdB, 0x100, [(0x40, 16)], 0, [⟨6, 0, .ro, 0⟩, ⟨30, 16, .ro, 0⟩]⟩
  | .MP_COMMIT_COUNT => ⟨.mtdB, 0x108, [(0x40, 16)], 1, [⟨31, 0, .ro, 0⟩]⟩
  | .MP_SQUASH_COUNT => ⟨.mtdB, 0x110, [(0x40, 16)], 1, [⟨31, 0, .ro, 0⟩]⟩
  | .MP_SPEC_FULL_COUNT => ⟨.mtdB, 0x118, [(0x40, 16)], 1, [⟨31, 0, .ro, 0⟩]⟩
  | .MP_HOLD_DROP_COUNT => ⟨.mtdB, 0x120, [(0x40, 16)], 1, [⟨31, 0, .ro, 0⟩]⟩
  | .COLL_CFG => ⟨.collB, 0x0, [], 0, [⟨7, 0, .rw, 0x20⟩, ⟨31, 16, .rw, 0x3e8⟩, ⟨51, 32, .rw, 0x10000⟩]⟩
  | .COLL_STATUS => ⟨.collB, 0x8, [], 0, [⟨12, 0, .ro, 0⟩]⟩
  | .COLL_STAGE_USED => ⟨.collB, 0x10, [(0x8, 4)], 0, [⟨19, 0, .ro, 0⟩]⟩
  | .COLL_DONE_COUNT => ⟨.collB, 0x40, [], 1, [⟨31, 0, .ro, 0⟩]⟩
  | .COLL_FAIL_COUNT => ⟨.collB, 0x48, [], 1, [⟨31, 0, .ro, 0⟩]⟩
  | .COLL_ABORT_SENT_COUNT => ⟨.collB, 0x50, [], 1, [⟨31, 0, .ro, 0⟩]⟩
  | .COLL_ABORT_RECV_COUNT => ⟨.collB, 0x58, [], 1, [⟨31, 0, .ro, 0⟩]⟩
  | .COLL_SLIP_COUNT => ⟨.collB, 0x60, [], 1, [⟨31, 0, .ro, 0⟩]⟩
  | .COLL_STAGE_FULL_COUNT => ⟨.collB, 0x68, [], 1, [⟨31, 0, .ro, 0⟩]⟩
  | .COLL_STALE_COUNT => ⟨.collB, 0x70, [], 1, [⟨31, 0, .ro, 0⟩]⟩
  | .COLL_ORPHAN_COUNT => ⟨.collB, 0x78, [], 1, [⟨31, 0, .ro, 0⟩]⟩
  | .COLL_DUP_COUNT => ⟨.collB, 0x80, [], 1, [⟨31, 0, .ro, 0⟩]⟩
  | .LOCK_CFG => ⟨.lockB, 0x0, [], 0, [⟨9, 0, .rw, 0xa⟩]⟩
  | .LOCK_BUSY_COUNT => ⟨.lockB, 0x40, [], 1, [⟨31, 0, .ro, 0⟩]⟩
  | .LOCK_MISUSE_COUNT => ⟨.lockB, 0x48, [], 1, [⟨31, 0, .ro, 0⟩]⟩
  | .LOCK_TABLE_FULL_COUNT => ⟨.lockB, 0x50, [], 1, [⟨31, 0, .ro, 0⟩]⟩
  | .LOCK_PLAIN_WRITE_COUNT => ⟨.lockB, 0x58, [], 1, [⟨31, 0, .ro, 0⟩]⟩
  | .LOCK_BOOST_COUNT => ⟨.lockB, 0x60, [], 1, [⟨31, 0, .ro, 0⟩]⟩
  | .LOCK_ABANDON_COUNT => ⟨.lockB, 0x68, [], 1, [⟨31, 0, .ro, 0⟩]⟩
  | .HOST_WAIT_TIMEOUT_COUNT => ⟨.lockB, 0x70, [], 1, [⟨31, 0, .ro, 0⟩]⟩
  | .LOCK_UNIT_STATUS => ⟨.lockB, 0x100, [(0x8, 64)], 0, [⟨6, 0, .ro, 0⟩, ⟨26, 16, .ro, 0⟩]⟩
  | .BOOT_STATUS => ⟨.rstB, 0x0, [], 0, [⟨2, 0, .ro, 0⟩, ⟨15, 8, .ro, 0⟩, ⟨16, 16, .ro, 0⟩, ⟨17, 17, .ro, 0⟩, ⟨18, 18, .ro, 0⟩, ⟨19, 19, .ro, 0⟩, ⟨47, 32, .ro, 0⟩, ⟨53, 48, .ro, 0⟩]⟩
  | .RST_CMD => ⟨.rstB, 0x8, [], 0, [⟨1, 0, .wo, 0⟩, ⟨24, 16, .wo, 0⟩, ⟨31, 31, .wo, 0⟩]⟩
  | .RST_CAUSE => ⟨.rstB, 0x10, [], 0, [⟨2, 0, .ro, 0⟩]⟩
  | .PKG_SERIAL => ⟨.rstB, 0x18, [], 0, [⟨63, 0, .ro, 0⟩]⟩
  | .SEC_FUSES => ⟨.rstB, 0x20, [], 0, [⟨1, 0, .ro, 0⟩, ⟨13, 8, .ro, 0⟩]⟩
  | .REPAIR_CMD => ⟨.rstB, 0x28, [], 0, [⟨0, 0, .wo, 0⟩]⟩
  | .ID_DIE_A => ⟨.rstB, 0x100, [(0x10, 13)], 0, [⟨35, 0, .ro, 0⟩, ⟨40, 36, .ro, 0⟩, ⟨48, 41, .ro, 0⟩, ⟨56, 49, .ro, 0⟩, ⟨58, 57, .ro, 0⟩, ⟨62, 59, .ro, 0⟩]⟩
  | .ID_DIE_B => ⟨.rstB, 0x108, [(0x10, 13)], 0, [⟨15, 0, .ro, 0⟩, ⟨16, 16, .ro, 0⟩]⟩
  | .RP_CONTROL => ⟨.rpB, 0x0, [], 0, [⟨0, 0, .rw, 0⟩, ⟨2, 1, .rw, 0⟩, ⟨3, 3, .rw, 1⟩, ⟨4, 4, .rw, 0⟩, ⟨23, 16, .rw, 0xf⟩]⟩
  | .RP_STATUS => ⟨.rpB, 0x8, [], 0, [⟨1, 0, .ro, 0⟩, ⟨15, 8, .ro, 0xff⟩, ⟨23, 16, .ro, 0⟩, ⟨24, 24, .ro, 0⟩, ⟨25, 25, .ro, 0⟩]⟩
  | .RP_ROOT_NODE => ⟨.rpB, 0x10, [], 0, [⟨19, 0, .rw, 0⟩]⟩
  | .RP_PARENT_PIN => ⟨.rpB, 0x18, [], 0, [⟨7, 0, .rw, 0⟩, ⟨8, 8, .rw, 0⟩]⟩
  | .RP_TIME_NS => ⟨.rpB, 0x20, [], 0, [⟨63, 0, .ro, 0⟩]⟩
  | .RP_TIME_FRAC_TICK => ⟨.rpB, 0x28, [], 0, [⟨15, 0, .ro, 0⟩, ⟨63, 16, .ro, 0⟩]⟩
  | .RP_TURNOVERS => ⟨.rpB, 0x30, [], 0, [⟨63, 0, .ro, 0⟩]⟩
  | .RP_OFFSET => ⟨.rpB, 0x38, [], 0, [⟨47, 0, .ro, 0⟩]⟩
  | .RP_RATE_ADJ => ⟨.rpB, 0x40, [], 0, [⟨31, 0, .ro, 0⟩]⟩
  | .RP_SERVO => ⟨.rpB, 0x48, [], 0, [⟨7, 0, .rw, 0x20⟩, ⟨15, 8, .rw, 6⟩, ⟨31, 16, .rw, 0x40⟩]⟩
  | .RP_STEP_NS => ⟨.rpB, 0x50, [], 0, [⟨63, 0, .rw, 0⟩]⟩
  | .RP_STEP_CMD => ⟨.rpB, 0x58, [], 0, [⟨0, 0, .wo, 0⟩]⟩
  | .RP_TOD_SECONDS => ⟨.rpB, 0x60, [], 0, [⟨63, 0, .rw, 0⟩]⟩
  | .TICK_OVERRUN_STATUS => ⟨.rpB, 0x68, [], 0, [⟨5, 0, .w1c, 0⟩]⟩
  | .TS_HOLD => ⟨.rpB, 0x70, [], 0, [⟨3, 0, .rw, 0⟩]⟩
  | .TICK_OVERRUN_COUNT => ⟨.rpB, 0x80, [(0x8, 6)], 1, [⟨31, 0, .ro, 0⟩]⟩
  | .RP_PORT_ASYM => ⟨.rpB, 0x400, [(0x8, 256)], 0, [⟨31, 0, .rw, 0⟩]⟩
  | .RP_PORT_DELAY => ⟨.rpB, 0xc00, [(0x8, 256)], 0, [⟨31, 0, .ro, 0⟩, ⟨63, 63, .ro, 0⟩]⟩
  | .ROUTE_CONTROL => ⟨.routeB, 0x0, [], 0, [⟨5, 0, .rw, 0x18⟩, ⟨8, 8, .rw, 1⟩, ⟨9, 9, .rw, 0⟩]⟩
  | .GUYLINE_CFG => ⟨.routeB, 0x8, [], 0, [⟨9, 0, .rw, 0x20⟩, ⟨19, 16, .rw, 4⟩, ⟨27, 24, .rw, 8⟩]⟩
  | .DR_CFG => ⟨.routeB, 0x10, [(0x8, 4)], 0, [⟨0, 0, .rw, 1⟩, ⟨1, 1, .rw, 0⟩, ⟨4, 2, .rw, 3⟩, ⟨13, 8, .rw, 0x3f⟩]⟩
  | .ROUTE_WEIGHTS => ⟨.routeB, 0x40, [(0x8, 4)], 0, [⟨7, 0, .rw, 1⟩, ⟨15, 8, .rw, 0x10⟩, ⟨23, 16, .rw, 0x20⟩, ⟨31, 24, .rw, 0x80⟩, ⟨39, 32, .rw, 0x10⟩, ⟨47, 40, .rw, 0x40⟩]⟩
  | .ROUTE_ADAPT_STATUS => ⟨.routeB, 0x60, [(0x8, 4)], 0, [⟨7, 0, .ro, 0x20⟩, ⟨15, 8, .ro, 0⟩]⟩
  | .RING_LINK_DOWN => ⟨.routeB, 0x80, [(0x8, 4)], 0, [⟨63, 0, .rw, 0⟩]⟩
  | .ROUTE_FAIL_COUNT => ⟨.routeB, 0xc0, [], 1, [⟨31, 0, .ro, 0⟩]⟩
  | .MISROUTE_COUNT => ⟨.routeB, 0xc8, [], 1, [⟨31, 0, .ro, 0⟩]⟩
  | .HCRC_ERROR_COUNT => ⟨.routeB, 0xd0, [], 1, [⟨31, 0, .ro, 0⟩]⟩
  | .HOP_LIMIT_COUNT => ⟨.routeB, 0xd8, [], 1, [⟨31, 0, .ro, 0⟩]⟩
  | .MCAST_BRANCH_FAIL_COUNT => ⟨.routeB, 0xe0, [], 1, [⟨31, 0, .ro, 0⟩]⟩
  | .MCAST_INVALID_COUNT => ⟨.routeB, 0xe8, [], 1, [⟨31, 0, .ro, 0⟩]⟩
  | .DEROUTE_COUNT => ⟨.routeB, 0x100, [(0x8, 4)], 1, [⟨31, 0, .ro, 0⟩]⟩
  | .PORT_ROUTE => ⟨.routeB, 0x1000, [(0x8, 256)], 0, [⟨1, 0, .rw, 0⟩, ⟨2, 2, .rw, 0⟩, ⟨13, 8, .rw, 0⟩, ⟨23, 16, .rw, 0⟩, ⟨32, 32, .ro, 0⟩, ⟨33, 33, .ro, 0⟩]⟩
  | .DH_CFG => ⟨.spbB, 0x0, [], 0, [⟨0, 0, .rw, 0⟩, ⟨14, 8, .rw, 0x64⟩]⟩
  | .DH_STATUS => ⟨.spbB, 0x8, [], 0, [⟨0, 0, .ro, 0⟩, ⟨1, 1, .ro, 0⟩, ⟨2, 2, .ro, 0⟩]⟩
  | .DH_MAC => ⟨.spbB, 0x10, [], 0, [⟨47, 0, .rw, 0⟩]⟩
  | .MOD_SITE => ⟨.spbB, 0x1000, [(0x10, 256)], 0, [⟨3, 0, .rw, 0⟩, ⟨10, 4, .rw, 0⟩, ⟨13, 11, .rw, 0⟩, ⟨23, 16, .rw, 0⟩, ⟨27, 24, .rw, 0⟩, ⟨30, 30, .rw, 0⟩, ⟨31, 31, .rw, 0⟩]⟩
  | .MOD_STATUS => ⟨.spbB, 0x1008, [(0x10, 256)], 0, [⟨0, 0, .ro, 0⟩, ⟨3, 1, .ro, 0⟩, ⟨4, 4, .ro, 0⟩]⟩
  | .LN_CTRL => ⟨.lnB, 0x0, [], 0, [⟨0, 0, .rw, 0⟩, ⟨1, 1, .rw, 0⟩, ⟨2, 2, .rw, 0⟩, ⟨3, 3, .rw, 0⟩, ⟨4, 4, .rw, 0⟩, ⟨5, 5, .rw, 0⟩, ⟨11, 8, .rw, 4⟩, ⟨21, 16, .rw, 4⟩, ⟨31, 24, .rw, 0xc0⟩]⟩
  | .LN_LIMITS => ⟨.lnB, 0x8, [], 0, [⟨15, 0, .rw, 0x640⟩, ⟨31, 16, .rw, 0x6e0⟩, ⟨36, 32, .rw, 0x14⟩, ⟨44, 40, .rw, 0xa⟩]⟩
  | .LN_THERMAL => ⟨.lnB, 0x10, [], 0, [⟨7, 0, .rw, 0x5f⟩, ⟨15, 8, .rw, 3⟩, ⟨23, 16, .rw, 0x64⟩, ⟨31, 24, .rw, 0x69⟩, ⟨39, 32, .rw, 5⟩, ⟨46, 40, .rw, 0x10⟩, ⟨51, 48, .rw, 0xc⟩]⟩
  | .LN_NARROW => ⟨.lnB, 0x18, [], 0, [⟨7, 0, .rw, 0x60⟩, ⟨15, 8, .rw, 0xc0⟩, ⟨31, 16, .rw, 0x3e8⟩, ⟨41, 32, .rw, 0x40⟩, ⟨43, 42, .rw, 1⟩]⟩
  | .LN_MISC => ⟨.lnB, 0x20, [], 0, [⟨15, 0, .rw, 0xa⟩, ⟨31, 16, .rw, 0x3e8⟩, ⟨39, 32, .rw, 0x10⟩, ⟨47, 40, .rw, 0x32⟩, ⟨55, 48, .rw, 0xa⟩]⟩
  | .LN_STATUS => ⟨.lnB, 0x40, [], 0, [⟨0, 0, .ro, 0⟩, ⟨1, 1, .ro, 0⟩, ⟨28, 16, .ro, 0⟩]⟩
  | .LN_POWER => ⟨.lnB, 0x48, [], 0, [⟨15, 0, .ro, 0⟩, ⟨31, 16, .ro, 0⟩, ⟨47, 32, .ro, 0⟩]⟩
  | .LN_POOL => ⟨.lnB, 0x50, [], 0, [⟨31, 0, .ro, 0⟩, ⟨63, 32, .ro, 0⟩]⟩
  | .LN_PLACE_MASK => ⟨.lnB, 0x60, [(0x8, 4)], 0, [⟨63, 0, .ro, 0xffffffffffffffff⟩]⟩
  | .POWER_LIMIT_UNMET_COUNT => ⟨.lnB, 0x100, [], 1, [⟨31, 0, .ro, 0⟩]⟩
  | .EMERGENCY_COUNT => ⟨.lnB, 0x108, [], 1, [⟨31, 0, .ro, 0⟩]⟩
  | .THERMAL_WARN_COUNT => ⟨.lnB, 0x110, [], 1, [⟨31, 0, .ro, 0⟩]⟩
  | .SENSOR_FAIL_COUNT => ⟨.lnB, 0x118, [], 1, [⟨31, 0, .ro, 0⟩]⟩
  | .VR_FAULT_COUNT => ⟨.lnB, 0x120, [], 1, [⟨31, 0, .ro, 0⟩]⟩
  | .V_SETTLE_FAIL_COUNT => ⟨.lnB, 0x128, [], 1, [⟨31, 0, .ro, 0⟩]⟩
  | .PLACE_CHANGE_COUNT => ⟨.lnB, 0x130, [], 1, [⟨31, 0, .ro, 0⟩]⟩
  | .NARROW_COUNT => ⟨.lnB, 0x138, [], 1, [⟨31, 0, .ro, 0⟩]⟩
  | .WIDEN_COUNT => ⟨.lnB, 0x140, [], 1, [⟨31, 0, .ro, 0⟩]⟩
  | .LN_CL_FREQ => ⟨.lnB, 0x1000, [(0x10, 64)], 0, [⟨5, 0, .rw, 0⟩, ⟨13, 8, .rw, 0x38⟩, ⟨31, 16, .rw, 0⟩]⟩
  | .LN_CL_STATUS => ⟨.lnB, 0x1008, [(0x10, 64)], 0, [⟨5, 0, .ro, 0⟩, ⟨13, 8, .ro, 0⟩, ⟨14, 14, .ro, 0⟩, ⟨31, 24, .ro, 0⟩]⟩
  | .LN_DIE_CFG => ⟨.lnB, 0x2000, [(0x20, 13)], 0, [⟨15, 0, .rw, 0⟩, ⟨31, 16, .rw, 0⟩, ⟨47, 32, .rw, 0⟩]⟩
  | .LN_DIE_STATUS => ⟨.lnB, 0x2008, [(0x20, 13)], 0, [⟨15, 0, .ro, 0⟩, ⟨31, 16, .ro, 0⟩, ⟨47, 32, .ro, 0⟩, ⟨55, 48, .ro, 0⟩, ⟨60, 56, .ro, 0⟩]⟩
  | .LN_DIE_GAIN => ⟨.lnB, 0x2010, [(0x20, 13)], 0, [⟨15, 0, .ro, 0x4000⟩]⟩
  | .LN_MV_FLOOR => ⟨.lnB, 0x2400, [(0x8, 16)], 0, [⟨31, 0, .rw, 0⟩]⟩
  | .LN_PORT => ⟨.lnB, 0x3000, [(0x8, 256)], 0, [⟨0, 0, .rw, 0⟩]⟩
  | .PC_CTRL => ⟨.ctrB, 0x0, [], 0, [⟨0, 0, .rw, 0⟩, ⟨1, 1, .wo, 0⟩, ⟨47, 16, .ro, 0⟩]⟩
  | .PC_OVF => ⟨.ctrB, 0x8, [(0x8, 3)], 0, [⟨63, 0, .w1c, 0⟩]⟩
  | .PC_SEL => ⟨.ctrB, 0x1000, [(0x20, 144)], 0, [⟨7, 0, .rw, 0⟩, ⟨17, 8, .rw, 0⟩, ⟨18, 18, .rw, 0⟩, ⟨23, 20, .rw, 0⟩, ⟨24, 24, .rw, 0⟩, ⟨25, 25, .rw, 0⟩, ⟨63, 63, .rw, 0⟩]⟩
  | .PC_VALUE => ⟨.ctrB, 0x1008, [(0x20, 144)], 0, [⟨47, 0, .rw, 0⟩]⟩
  | .PC_SNAP => ⟨.ctrB, 0x1010, [(0x20, 144)], 0, [⟨47, 0, .ro, 0⟩]⟩
  | .EV_ROUTE => ⟨.evB, 0x0, [(0x8, 2048)], 0, [⟨11, 0, .rw, 0⟩, ⟨22, 12, .rw, 0⟩, ⟨25, 24, .rw, 1⟩, ⟨31, 31, .rw, 1⟩, ⟨32, 32, .w1c, 0⟩]⟩
  | .EV_PENDING => ⟨.evB, 0x4000, [(0x8, 32)], 0, [⟨63, 0, .w1c, 0⟩]⟩
  | .EV_FORCE => ⟨.evB, 0x4200, [], 0, [⟨10, 0, .wo, 0⟩, ⟨31, 31, .wo, 0⟩]⟩
  | .EV_MERGE_COUNT => ⟨.evB, 0x4208, [], 1, [⟨31, 0, .ro, 0⟩]⟩
  | .EV_PORT_CAUSE => ⟨.evB, 0x5000, [(0x8, 256)], 0, [⟨2, 0, .w1c, 0⟩]⟩
  | .EV_HP_CAUSE => ⟨.evB, 0x5800, [(0x8, 40)], 0, [⟨2, 0, .w1c, 0⟩]⟩
  | .MCTP_VDM_PARTS => ⟨.evB, 0x5c00, [], 0, [⟨15, 0, .rw, 0⟩]⟩
  | .BUF_CFG => ⟨.coreB, 0x0, [], 0, [⟨7, 0, .rw, 0x80⟩, ⟨15, 8, .rw, 0xe0⟩, ⟨31, 16, .rw, 0x10⟩, ⟨32, 32, .rw, 0⟩]⟩
  | .MARK_CFG => ⟨.coreB, 0x8, [], 0, [⟨7, 0, .rw, 0x3f⟩, ⟨19, 8, .rw, 0x1f4⟩, ⟨35, 20, .rw, 0x82⟩, ⟨51, 36, .rw, 0x2000⟩, ⟨52, 52, .rw, 0⟩]⟩
  | .HOT_CFG => ⟨.coreB, 0x10, [], 0, [⟨15, 0, .rw, 0x40⟩, ⟨23, 16, .rw, 0x10⟩, ⟨31, 24, .rw, 2⟩, ⟨32, 32, .rw, 1⟩]⟩
  | .TC_BUF => ⟨.coreB, 0x40, [(0x8, 8)], 0, [⟨7, 0, .rw, 2⟩, ⟨15, 8, .rw, 0x40⟩, ⟨23, 16, .rw, 0x10⟩]⟩
  | .ALPHA_STATUS => ⟨.coreB, 0x80, [(0x8, 8)], 0, [⟨7, 0, .ro, 0x10⟩, ⟨15, 8, .ro, 0x10⟩, ⟨23, 16, .ro, 0x10⟩, ⟨31, 24, .ro, 0x10⟩]⟩
  | .TC_CLAMP_COUNT => ⟨.coreB, 0x100, [], 1, [⟨31, 0, .ro, 0⟩]⟩
  | .CT_ABORT_COUNT => ⟨.coreB, 0x108, [], 1, [⟨31, 0, .ro, 0⟩]⟩
  | .RESERVE_ONLY_COUNT => ⟨.coreB, 0x110, [], 1, [⟨31, 0, .ro, 0⟩]⟩
  | .PORT_FLUSH_COUNT => ⟨.coreB, 0x118, [], 1, [⟨31, 0, .ro, 0⟩]⟩
  | .FLUSH_NO_NOTICE_COUNT => ⟨.coreB, 0x120, [], 1, [⟨31, 0, .ro, 0⟩]⟩
  | .HOT_ENTER_COUNT => ⟨.coreB, 0x128, [], 1, [⟨31, 0, .ro, 0⟩]⟩
  | .HOT_TABLE_FULL_COUNT => ⟨.coreB, 0x130, [], 1, [⟨31, 0, .ro, 0⟩]⟩
  | .CT_UNDERRUN_COUNT => ⟨.coreB, 0x138, [], 1, [⟨31, 0, .ro, 0⟩]⟩
  | .MARK_COUNT => ⟨.coreB, 0x140, [(0x8, 8)], 1, [⟨31, 0, .ro, 0⟩]⟩
  | .HOT_ENTRY => ⟨.coreB, 0x200, [(0x8, 64)], 0, [⟨25, 0, .ro, 0⟩, ⟨63, 63, .ro, 0⟩]⟩
  | .PORT_SCHED => ⟨.coreB, 0x1000, [(0x80, 272)], 0, [⟨7, 0, .rw, 0xff⟩]⟩
  | .CREDIT_INIT_A => ⟨.coreB, 0x1008, [(0x80, 272)], 0, [⟨11, 0, .rw, 0x200⟩, ⟨27, 16, .rw, 0x100⟩, ⟨43, 32, .rw, 0x200⟩, ⟨59, 48, .rw, 0x100⟩]⟩
  | .CREDIT_INIT_B => ⟨.coreB, 0x1010, [(0x80, 272)], 0, [⟨11, 0, .rw, 0xc0⟩, ⟨27, 16, .rw, 0x80⟩, ⟨43, 32, .rw, 0x60⟩, ⟨59, 48, .rw, 0x60⟩]⟩
  | .QUANTUM => ⟨.coreB, 0x1018, [(0x80, 272)], 0, [⟨7, 0, .rw, 0x10⟩, ⟨15, 8, .rw, 0x10⟩, ⟨23, 16, .rw, 0x10⟩, ⟨31, 24, .rw, 0x10⟩, ⟨39, 32, .rw, 0x10⟩, ⟨47, 40, .rw, 0x10⟩]⟩
  | .PORT_SHAPER => ⟨.coreB, 0x1020, [(0x80, 272)], 0, [⟨19, 0, .rw, 0⟩, ⟨43, 24, .rw, 0⟩, ⟨63, 63, .rw, 0⟩]⟩
  | .TC_SHAPER => ⟨.coreB, 0x1040, [(0x80, 272), (0x8, 8)], 0, [⟨19, 0, .rw, 0⟩, ⟨43, 24, .rw, 0⟩, ⟨63, 63, .rw, 0⟩]⟩
  | .LL_CFG => ⟨.llB, 0x0, [(0x100, 256)], 0, [⟨3, 0, .rw, 2⟩, ⟨7, 4, .rw, 8⟩, ⟨17, 8, .rw, 0xa⟩, ⟨27, 18, .rw, 0x64⟩, ⟨39, 28, .rw, 0x5dc⟩, ⟨49, 40, .rw, 0x64⟩]⟩
  | .LL_STATUS => ⟨.llB, 0x8, [(0x100, 256)], 0, [⟨15, 0, .ro, 0⟩, ⟨31, 16, .ro, 0xffff⟩, ⟨47, 32, .ro, 0⟩, ⟨48, 48, .ro, 0⟩, ⟨49, 49, .ro, 0⟩, ⟨50, 50, .ro, 0⟩, ⟨51, 51, .ro, 0⟩, ⟨52, 52, .ro, 0⟩, ⟨53, 53, .ro, 0⟩, ⟨57, 54, .ro, 0⟩]⟩
  | .LL_CREDIT_A => ⟨.llB, 0x10, [(0x100, 256)], 0, [⟨11, 0, .ro, 0⟩, ⟨27, 16, .ro, 0⟩, ⟨43, 32, .ro, 0⟩, ⟨59, 48, .ro, 0⟩]⟩
  | .LL_CREDIT_B => ⟨.llB, 0x18, [(0x100, 256)], 0, [⟨11, 0, .ro, 0⟩, ⟨27, 16, .ro, 0⟩, ⟨43, 32, .ro, 0⟩, ⟨59, 48, .ro, 0⟩]⟩
  | .LL_REPLAY_USED => ⟨.llB, 0x20, [(0x100, 256)], 0, [⟨14, 0, .ro, 0⟩]⟩
  | .LCRC_ERROR_COUNT => ⟨.llB, 0x40, [(0x100, 256)], 1, [⟨31, 0, .ro, 0⟩]⟩
  | .FRAMING_ERROR_COUNT => ⟨.llB, 0x48, [(0x100, 256)], 1, [⟨31, 0, .ro, 0⟩]⟩
  | .LCB_ERROR_COUNT => ⟨.llB, 0x50, [(0x100, 256)], 1, [⟨31, 0, .ro, 0⟩]⟩
  | .NAK_SENT_COUNT => ⟨.llB, 0x58, [(0x100, 256)], 1, [⟨31, 0, .ro, 0⟩]⟩
  | .NAK_RECV_COUNT => ⟨.llB, 0x60, [(0x100, 256)], 1, [⟨31, 0, .ro, 0⟩]⟩
  | .REPLAY_COUNT => ⟨.llB, 0x68, [(0x100, 256)], 1, [⟨31, 0, .ro, 0⟩]⟩
  | .TIMER_REPLAY_COUNT => ⟨.llB, 0x70, [(0x100, 256)], 1, [⟨31, 0, .ro, 0⟩]⟩
  | .DUP_DISCARD_COUNT => ⟨.llB, 0x78, [(0x100, 256)], 1, [⟨31, 0, .ro, 0⟩]⟩
  | .OOS_DISCARD_COUNT => ⟨.llB, 0x80, [(0x100, 256)], 1, [⟨31, 0, .ro, 0⟩]⟩
  | .ABORT_SENT_COUNT => ⟨.llB, 0x88, [(0x100, 256)], 1, [⟨31, 0, .ro, 0⟩]⟩
  | .ABORT_RECV_COUNT => ⟨.llB, 0x90, [(0x100, 256)], 1, [⟨31, 0, .ro, 0⟩]⟩
  | .RETRAIN_COUNT => ⟨.llB, 0x98, [(0x100, 256)], 1, [⟨31, 0, .ro, 0⟩]⟩
  | .LINK_DOWN_COUNT => ⟨.llB, 0xa0, [(0x100, 256)], 1, [⟨31, 0, .ro, 0⟩]⟩
  | .CREDIT_STALL_CK => ⟨.llB, 0xa8, [(0x100, 256)], 2, [⟨47, 0, .ro, 0⟩]⟩
  | .REPLAY_FULL_CK => ⟨.llB, 0xb0, [(0x100, 256)], 2, [⟨47, 0, .ro, 0⟩]⟩
  | .TICK_SKEW_COUNT => ⟨.llB, 0xb8, [(0x100, 256)], 1, [⟨31, 0, .ro, 0⟩]⟩
  | .RESUME_COUNT => ⟨.llB, 0xc0, [(0x100, 256)], 1, [⟨31, 0, .ro, 0⟩]⟩
  | .FRESH_START_COUNT => ⟨.llB, 0xc8, [(0x100, 256)], 1, [⟨31, 0, .ro, 0⟩]⟩
  | .XL_CTRL => ⟨.xlB, 0x0, [], 0, [⟨6, 0, .rw, 0x10⟩, ⟨14, 8, .rw, 0x20⟩, ⟨27, 16, .rw, 0x800⟩]⟩
  | .XL_MISS_RESOLVE => ⟨.xlB, 0x40, [(0x8, 4)], 0, [⟨7, 0, .wo, 0⟩, ⟨15, 8, .wo, 0⟩]⟩
  | .MULTI_HIT_COUNT => ⟨.xlB, 0x80, [], 1, [⟨31, 0, .ro, 0⟩]⟩
  | .REMISS_COUNT => ⟨.xlB, 0x88, [], 1, [⟨31, 0, .ro, 0⟩]⟩
  | .PARK_DROP_COUNT => ⟨.xlB, 0x90, [], 1, [⟨31, 0, .ro, 0⟩]⟩
  | .ENGINE_MISS_COUNT => ⟨.xlB, 0x98, [], 1, [⟨31, 0, .ro, 0⟩]⟩
  | .PLACE_MISS_COUNT => ⟨.xlB, 0xa0, [], 1, [⟨31, 0, .ro, 0⟩]⟩
  | .XL_MISS_VA => ⟨.xlB, 0x1000, [(0x1000, 4), (0x10, 256)], 0, [⟨47, 0, .ro, 0⟩, ⟨57, 48, .ro, 0⟩, ⟨60, 58, .ro, 0⟩, ⟨61, 61, .ro, 0⟩, ⟨62, 62, .ro, 0⟩, ⟨63, 63, .ro, 0⟩]⟩
  | .XL_MISS_SRC => ⟨.xlB, 0x1008, [(0x1000, 4), (0x10, 256)], 0, [⟨5, 0, .ro, 0⟩]⟩
  | .XL_ASID_ROOT => ⟨.xlB, 0x8000, [(0x10, 1024)], 0, [⟨63, 12, .rw, 0⟩]⟩
  | .XL_ASID_CFG => ⟨.xlB, 0x8008, [(0x10, 1024)], 0, [⟨11, 0, .rw, 0⟩, ⟨63, 63, .rw, 0⟩]⟩
  | .EB_FMF_CFG => ⟨.ebB, 0x0, [], 0, [⟨0, 0, .rw, 0⟩, ⟨7, 4, .rw, 0⟩]⟩
  | .EB_CFG => ⟨.ebB, 0x8, [], 0, [⟨0, 0, .rw, 0⟩]⟩
  | .WINDOW_REFUSE_COUNT => ⟨.ebB, 0x10, [], 1, [⟨31, 0, .ro, 0⟩]⟩
  | .EB_STACK_CFG => ⟨.ebB, 0x40, [(0x8, 10)], 0, [⟨1, 0, .rw, 0⟩, ⟨5, 4, .rw, 0⟩]⟩
  | .EB_PART_CFG => ⟨.ebB, 0x100, [(0x10, 16)], 0, [⟨5, 0, .rw, 0⟩, ⟨7, 6, .rw, 0⟩, ⟨8, 8, .rw, 0⟩, ⟨9, 9, .rw, 0⟩, ⟨24, 16, .rw, 0⟩, ⟨31, 31, .rw, 0⟩, ⟨47, 32, .rw, 0x3e8⟩]⟩
  | .EB_PART_STATUS => ⟨.ebB, 0x108, [(0x10, 16)], 0, [⟨0, 0, .ro, 0⟩, ⟨1, 1, .ro, 0⟩]⟩
  | .EB_PORT_CFG => ⟨.ebB, 0x1000, [(0x40, 40)], 0, [⟨1, 0, .rw, 0⟩, ⟨2, 2, .rw, 0⟩, ⟨7, 4, .rw, 0⟩, ⟨12, 8, .rw, 0⟩, ⟨15, 13, .rw, 6⟩, ⟨16, 16, .rw, 0⟩, ⟨17, 17, .rw, 0⟩, ⟨18, 18, .rw, 0⟩, ⟨25, 19, .rw, 0xa⟩, ⟨26, 26, .rw, 1⟩]⟩
  | .EB_PORT_STATUS => ⟨.ebB, 0x1008, [(0x40, 40)], 0, [⟨0, 0, .ro, 0⟩, ⟨3, 1, .ro, 0⟩, ⟨8, 4, .ro, 0⟩, ⟨9, 9, .ro, 0⟩, ⟨10, 10, .ro, 0⟩, ⟨12, 11, .ro, 0⟩, ⟨13, 13, .ro, 0⟩, ⟨14, 14, .ro, 0⟩, ⟨15, 15, .w1c, 0⟩]⟩
  | .SYN_CPL_COUNT => ⟨.ebB, 0x1010, [(0x40, 40)], 1, [⟨31, 0, .ro, 0⟩]⟩
  | .LATE_CPL_COUNT => ⟨.ebB, 0x1018, [(0x40, 40)], 1, [⟨31, 0, .ro, 0⟩]⟩
  | .DPC_DISCARD_COUNT => ⟨.ebB, 0x1020, [(0x40, 40)], 1, [⟨31, 0, .ro, 0⟩]⟩
  | .POISON_FWD_COUNT => ⟨.ebB, 0x1028, [(0x40, 40)], 1, [⟨31, 0, .ro, 0⟩]⟩
  | .ACS_BLOCK_COUNT => ⟨.ebB, 0x1030, [(0x40, 40)], 1, [⟨31, 0, .ro, 0⟩]⟩
  | .XP_CTRL => ⟨.ebB, 0x4000, [(0x20, 64)], 0, [⟨3, 0, .rw, 0⟩, ⟨7, 4, .rw, 0⟩, ⟨8, 8, .rw, 0⟩, ⟨9, 9, .rw, 0⟩, ⟨63, 63, .rw, 0⟩]⟩
  | .XP_SRC_BASE => ⟨.ebB, 0x4008, [(0x20, 64)], 0, [⟨63, 12, .rw, 0⟩]⟩
  | .XP_SRC_LIMIT => ⟨.ebB, 0x4010, [(0x20, 64)], 0, [⟨63, 12, .rw, 0⟩]⟩
  | .XP_TGT_BASE => ⟨.ebB, 0x4018, [(0x20, 64)], 0, [⟨63, 12, .rw, 0⟩]⟩
  | .SVF_CTRL => ⟨.ebB, 0x8000, [(0x20, 256)], 0, [⟨5, 0, .rw, 0⟩, ⟨11, 8, .rw, 0⟩, ⟨23, 16, .rw, 0⟩, ⟨29, 24, .rw, 0xc⟩, ⟨62, 62, .ro, 0⟩, ⟨63, 63, .rw, 0⟩]⟩
  | .SVF_ID => ⟨.ebB, 0x8008, [(0x20, 256)], 0, [⟨15, 0, .rw, 0⟩, ⟨31, 16, .rw, 0⟩, ⟨47, 32, .rw, 0⟩]⟩
  | .SVF_BAR => ⟨.ebB, 0x8010, [(0x20, 256)], 0, [⟨63, 12, .rw, 0⟩]⟩
  | .FAULT_CTRL => ⟨.fltB, 0x0, [], 0, [⟨1, 0, .rw, 2⟩, ⟨23, 8, .rw, 0x3e8⟩, ⟨51, 32, .rw, 0x40000⟩]⟩
  | .FAULT_SUMMARY => ⟨.fltB, 0x8, [], 0, [⟨0, 0, .ro, 0⟩, ⟨2, 1, .ro, 0⟩, ⟨3, 3, .ro, 0⟩]⟩
  | .FAULT_FORCE => ⟨.fltB, 0x10, [], 0, [⟨10, 0, .wo, 0⟩, ⟨16, 16, .wo, 0⟩, ⟨31, 31, .wo, 0⟩]⟩
  | .LOG_WR => ⟨.fltB, 0x18, [], 0, [⟨31, 0, .ro, 0⟩]⟩
  | .MIRROR_BASE => ⟨.fltB, 0x40, [], 0, [⟨63, 12, .rw, 0⟩]⟩
  | .MIRROR_CFG => ⟨.fltB, 0x48, [], 0, [⟨11, 0, .rw, 0⟩, ⟨12, 12, .rw, 0⟩, ⟨13, 13, .ro, 0⟩]⟩
  | .FAULT_STATUS => ⟨.fltB, 0x100, [(0x8, 19)], 0, [⟨63, 0, .w1c, 0⟩]⟩
  | .FAULT_CLASS => ⟨.fltB, 0x200, [(0x8, 38)], 0, [⟨63, 0, .rw, 0⟩]⟩
  | .FATAL_RECORD => ⟨.fltB, 0x400, [(0x8, 8)], 0, [⟨63, 0, .ro, 0⟩]⟩
  | .DG_HUB => ⟨.fltB, 0x800, [(0x8, 4)], 0, [⟨3, 0, .ro, 8⟩, ⟨11, 4, .ro, 0⟩, ⟨13, 12, .ro, 2⟩, ⟨19, 14, .ro, 0⟩, ⟨20, 20, .ro, 0⟩, ⟨21, 21, .ro, 0⟩]⟩
  | .DG_GROUPS => ⟨.fltB, 0x840, [(0x8, 4)], 0, [⟨63, 0, .ro, 0⟩]⟩
  | .DG_FABRIC => ⟨.fltB, 0x860, [], 0, [⟨8, 0, .ro, 0⟩, ⟨17, 9, .ro, 0⟩]⟩
  | .DG_PCIE => ⟨.fltB, 0x868, [], 0, [⟨39, 0, .ro, 0⟩]⟩
  | .MIRROR_RESYNC_COUNT => ⟨.fltB, 0x880, [], 1, [⟨31, 0, .ro, 0⟩]⟩
  | .BANK_RETIRE_COUNT => ⟨.fltB, 0x888, [], 1, [⟨31, 0, .ro, 0⟩]⟩
  | .ENGINE_FENCE_COUNT => ⟨.fltB, 0x890, [], 1, [⟨31, 0, .ro, 0⟩]⟩
  | .FAULT_LOG => ⟨.fltB, 0x10000, [(0x40, 1024), (0x8, 8)], 0, [⟨63, 0, .ro, 0⟩]⟩
  | .HB_CMD => ⟨.engB, 0x0, [], 0, [⟨11, 0, .wo, 0⟩, ⟨13, 12, .wo, 0⟩]⟩
  | .HB_DATA => ⟨.engB, 0x8, [(0x8, 4)], 0, [⟨63, 0, .rw, 0⟩]⟩
  | .IMG_ADDR => ⟨.engB, 0x40, [], 0, [⟨63, 6, .rw, 0⟩]⟩
  | .IMG_CMD => ⟨.engB, 0x48, [], 0, [⟨0, 0, .wo, 0⟩, ⟨1, 1, .wo, 0⟩, ⟨15, 8, .wo, 0⟩]⟩
  | .IMG_STATUS => ⟨.engB, 0x50, [], 0, [⟨0, 0, .ro, 0⟩, ⟨1, 1, .ro, 0⟩, ⟨15, 8, .ro, 0⟩, ⟨23, 16, .ro, 0⟩, ⟨47, 32, .ro, 0xa000⟩]⟩
  | .SYS_BIND => ⟨.engB, 0x58, [], 0, [⟨11, 0, .rw, 0⟩, ⟨23, 12, .rw, 0⟩, ⟨35, 24, .rw, 0⟩, ⟨47, 36, .rw, 0⟩, ⟨59, 48, .rw, 0⟩]⟩
  | .HANDLER_OVERRUN_COUNT => ⟨.engB, 0x80, [], 1, [⟨31, 0, .ro, 0⟩]⟩
  | .FW_OVERRUN_COUNT => ⟨.engB, 0x88, [], 1, [⟨31, 0, .ro, 0⟩]⟩
  | .ENGINE_LOST_COUNT => ⟨.engB, 0x90, [], 1, [⟨31, 0, .ro, 0⟩]⟩
  | .EVQ_FULL_COUNT => ⟨.engB, 0x98, [], 1, [⟨31, 0, .ro, 0⟩]⟩
  | .CTR_WATCH => ⟨.engB, 0xa000, [(0x10, 256)], 0, [⟨15, 0, .rw, 0⟩, ⟨27, 16, .rw, 0⟩, ⟨28, 28, .rw, 0⟩]⟩
  | .CTR_THRESH => ⟨.engB, 0xa008, [(0x10, 256)], 0, [⟨63, 0, .rw, 0⟩]⟩
  | .CL_CFG => ⟨.engB, 0x1000, [(0x200, 64)], 0, [⟨3, 0, .rw, 4⟩, ⟨7, 4, .rw, 4⟩, ⟨15, 8, .rw, 0x20⟩, ⟨23, 16, .rw, 0x80⟩]⟩
  | .CL_STATUS => ⟨.engB, 0x1008, [(0x200, 64)], 0, [⟨5, 0, .ro, 0⟩, ⟨13, 8, .ro, 0⟩, ⟨21, 16, .ro, 0⟩, ⟨29, 24, .ro, 0⟩]⟩
  | .CL_QDEPTH => ⟨.engB, 0x1010, [(0x200, 64)], 0, [⟨8, 0, .ro, 0⟩, ⟨24, 16, .ro, 0⟩, ⟨40, 32, .ro, 0⟩, ⟨56, 48, .ro, 0⟩]⟩
  | .CL_TOKENS => ⟨.engB, 0x1018, [(0x200, 64)], 0, [⟨31, 0, .ro, 0⟩, ⟨63, 32, .ro, 0⟩]⟩
  | .CL_TOKEN_COST => ⟨.engB, 0x1020, [(0x200, 64)], 0, [⟨15, 0, .ro, 0⟩]⟩
  | .DEFER_P2_CK => ⟨.engB, 0x1028, [(0x200, 64)], 2, [⟨47, 0, .ro, 0⟩]⟩
  | .DEFER_P3_CK => ⟨.engB, 0x1030, [(0x200, 64)], 2, [⟨47, 0, .ro, 0⟩]⟩
  | .TIMER_CFG => ⟨.engB, 0x1040, [(0x200, 64), (0x10, 16)], 0, [⟨31, 0, .rw, 0⟩, ⟨43, 32, .rw, 0⟩, ⟨44, 44, .rw, 0⟩]⟩
  | .TIMER_DUE => ⟨.engB, 0x1048, [(0x200, 64), (0x10, 16)], 0, [⟨47, 0, .rw, 0⟩]⟩
  | .SAMPLE_CFG => ⟨.engB, 0x20000, [(0x40, 512)], 0, [⟨0, 0, .rw, 0⟩, ⟨2, 1, .rw, 0⟩, ⟨12, 8, .rw, 0xc⟩, ⟨23, 16, .rw, 0x40⟩]⟩
  | .SAMPLE_PTR => ⟨.engB, 0x20008, [(0x40, 512)], 0, [⟨7, 0, .ro, 0⟩, ⟨15, 8, .rw, 0⟩, ⟨47, 16, .ro, 0⟩]⟩
  | .ENG_STATUS => ⟨.engB, 0x20010, [(0x40, 512)], 0, [⟨7, 0, .ro, 0⟩, ⟨8, 8, .ro, 0⟩, ⟨9, 9, .ro, 0⟩, ⟨13, 10, .ro, 0⟩]⟩
  | .PORT_CTRL => ⟨.laneB, 0x0, [(0x200, 256)], 0, [⟨0, 0, .rw, 0⟩, ⟨2, 1, .rw, 2⟩, ⟨4, 3, .rw, 2⟩, ⟨5, 5, .rw, 0⟩, ⟨6, 6, .rw, 1⟩, ⟨7, 7, .rw, 1⟩, ⟨8, 8, .rw, 1⟩, ⟨9, 9, .rw, 1⟩, ⟨10, 10, .rw, 1⟩, ⟨11, 11, .rw, 0⟩, ⟨14, 12, .rw, 4⟩]⟩
  | .PORT_TRAIN_CFG => ⟨.laneB, 0x8, [(0x200, 256)], 0, [⟨7, 0, .rw, 0xa⟩, ⟨15, 8, .rw, 0x32⟩, ⟨25, 16, .rw, 0x64⟩, ⟨35, 26, .rw, 0xf0⟩, ⟨38, 36, .rw, 3⟩, ⟨46, 39, .rw, 0x64⟩]⟩
  | .PORT_CMD => ⟨.laneB, 0x10, [(0x200, 256)], 0, [⟨0, 0, .wo, 0⟩, ⟨1, 1, .wo, 0⟩, ⟨2, 2, .wo, 0⟩, ⟨3, 3, .wo, 0⟩, ⟨4, 4, .wo, 0⟩]⟩
  | .PORT_TEST_CFG => ⟨.laneB, 0x18, [(0x200, 256)], 0, [⟨2, 0, .rw, 0⟩, ⟨5, 3, .rw, 5⟩, ⟨7, 6, .rw, 2⟩, ⟨15, 8, .rw, 1⟩]⟩
  | .PORT_STATE => ⟨.laneB, 0x20, [(0x200, 256)], 0, [⟨2, 0, .ro, 0⟩, ⟨4, 3, .ro, 0⟩, ⟨6, 5, .ro, 0⟩, ⟨14, 7, .ro, 0⟩, ⟨15, 15, .ro, 0⟩, ⟨16, 16, .ro, 0⟩, ⟨19, 17, .ro, 0⟩, ⟨20, 20, .ro, 0⟩, ⟨21, 21, .ro, 0⟩, ⟨22, 22, .ro, 0⟩, ⟨23, 23, .ro, 0⟩, ⟨24, 24, .ro, 0⟩, ⟨25, 25, .ro, 0⟩, ⟨26, 26, .ro, 0⟩, ⟨30, 27, .ro, 0⟩]⟩
  | .PORT_PARTNER => ⟨.laneB, 0x28, [(0x200, 256)], 0, [⟨19, 0, .ro, 0⟩, ⟨27, 20, .ro, 0⟩, ⟨43, 28, .ro, 0⟩, ⟨47, 44, .ro, 0⟩]⟩
  | .TEST_RESULT => ⟨.laneB, 0x30, [(0x200, 256)], 0, [⟨7, 0, .ro, 0⟩, ⟨8, 8, .ro, 0⟩, ⟨9, 9, .ro, 0⟩]⟩
  | .TRAIN_FAIL_COUNT => ⟨.laneB, 0x40, [(0x200, 256)], 1, [⟨31, 0, .ro, 0⟩]⟩
  | .WIDTH_CHANGE_COUNT => ⟨.laneB, 0x48, [(0x200, 256)], 1, [⟨31, 0, .ro, 0⟩]⟩
  | .DEGRADE_FAIL_COUNT => ⟨.laneB, 0x50, [(0x200, 256)], 1, [⟨31, 0, .ro, 0⟩]⟩
  | .FILLER_ADJUST_COUNT => ⟨.laneB, 0x58, [(0x200, 256)], 1, [⟨31, 0, .ro, 0⟩]⟩
  | .LANE_CFG => ⟨.laneB, 0x40000, [(0x80, 1024)], 0, [⟨0, 0, .rw, 0⟩, ⟨1, 1, .rw, 1⟩, ⟨15, 8, .rw, 0x10⟩, ⟨26, 16, .rw, 0x200⟩]⟩
  | .LANE_STATUS => ⟨.laneB, 0x40008, [(0x80, 1024)], 0, [⟨0, 0, .ro, 1⟩, ⟨1, 1, .ro, 0⟩, ⟨2, 2, .ro, 0⟩, ⟨3, 3, .ro, 0⟩, ⟨4, 4, .ro, 0⟩, ⟨5, 5, .ro, 0⟩, ⟨6, 6, .ro, 0⟩, ⟨7, 7, .ro, 0⟩, ⟨8, 8, .ro, 0⟩, ⟨9, 9, .w1c, 0⟩]⟩
  | .LANE_CAL_CMD => ⟨.laneB, 0x40010, [(0x80, 1024)], 0, [⟨0, 0, .wo, 0⟩]⟩
  | .LANE_PRBS_CFG => ⟨.laneB, 0x40018, [(0x80, 1024)], 0, [⟨0, 0, .rw, 0⟩, ⟨1, 1, .rw, 0⟩, ⟨4, 2, .rw, 5⟩, ⟨5, 5, .rw, 0⟩, ⟨6, 6, .rw, 0⟩, ⟨12, 8, .rw, 0x14⟩, ⟨16, 16, .ro, 0⟩]⟩
  | .LANE_PRBS_CMD => ⟨.laneB, 0x40020, [(0x80, 1024)], 0, [⟨0, 0, .wo, 0⟩, ⟨1, 1, .wo, 0⟩]⟩
  | .LANE_PRBS_ERRORS => ⟨.laneB, 0x40028, [(0x80, 1024)], 1, [⟨31, 0, .ro, 0⟩]⟩
  | .LANE_FEC_CORRECTED => ⟨.laneB, 0x40030, [(0x80, 1024)], 0, [⟨47, 0, .ro, 0⟩]⟩
  | .LANE_FEC_UNCORRECTED => ⟨.laneB, 0x40038, [(0x80, 1024)], 1, [⟨31, 0, .ro, 0⟩]⟩
  | .LANE_LOCK_LOSS_COUNT => ⟨.laneB, 0x40040, [(0x80, 1024)], 0, [⟨15, 0, .ro, 0⟩, ⟨31, 16, .ro, 0⟩, ⟨47, 32, .ro, 0⟩]⟩
  | .LANE_TX_COEF => ⟨.laneB, 0x40048, [(0x80, 1024)], 0, [⟨7, 0, .ro, 0⟩, ⟨15, 8, .ro, 0⟩, ⟨23, 16, .ro, 0⟩, ⟨31, 24, .ro, 0⟩]⟩
  | .LANE_EYE => ⟨.laneB, 0x40050, [(0x80, 1024)], 0, [⟨15, 0, .ro, 0⟩, ⟨31, 16, .ro, 0⟩]⟩
  | .MV_CFG => ⟨.mvB, 0x0, [(0x10000, 16)], 0, [⟨5, 0, .rw, 0x20⟩, ⟨15, 8, .rw, 0x20⟩, ⟨23, 16, .rw, 0x80⟩]⟩
  | .MV_TOKENS => ⟨.mvB, 0x8, [(0x10000, 16)], 0, [⟨31, 0, .ro, 0⟩, ⟨63, 32, .ro, 0⟩]⟩
  | .MV_TOKEN_COST => ⟨.mvB, 0x10, [(0x10000, 16)], 0, [⟨15, 0, .ro, 0⟩]⟩
  | .MV_STATUS => ⟨.mvB, 0x18, [(0x10000, 16)], 0, [⟨4, 0, .ro, 0⟩, ⟨5, 5, .ro, 0⟩]⟩
  | .MV_DONE_STATUS => ⟨.mvB, 0x20, [(0x10000, 16)], 0, [⟨31, 0, .w1c, 0⟩]⟩
  | .MV_HALT_STATUS => ⟨.mvB, 0x28, [(0x10000, 16)], 0, [⟨31, 0, .w1c, 0⟩]⟩
  | .MV_RETRY_COUNT => ⟨.mvB, 0x40, [(0x10000, 16)], 1, [⟨31, 0, .ro, 0⟩]⟩
  | .MV_HALT_COUNT => ⟨.mvB, 0x48, [(0x10000, 16)], 1, [⟨31, 0, .ro, 0⟩]⟩
  | .MV_ABORT_COUNT => ⟨.mvB, 0x50, [(0x10000, 16)], 1, [⟨31, 0, .ro, 0⟩]⟩
  | .MV_DEFER_CK => ⟨.mvB, 0x58, [(0x10000, 16)], 2, [⟨47, 0, .ro, 0⟩]⟩
  | .MV_BYTES => ⟨.mvB, 0x60, [(0x10000, 16)], 2, [⟨47, 0, .ro, 0⟩]⟩
  | .CH_SRC => ⟨.mvB, 0x1000, [(0x10000, 16), (0x80, 32)], 0, [⟨47, 0, .rw, 0⟩, ⟨59, 48, .rw, 0⟩, ⟨60, 60, .rw, 0⟩]⟩
  | .CH_DST => ⟨.mvB, 0x1008, [(0x10000, 16), (0x80, 32)], 0, [⟨47, 0, .rw, 0⟩, ⟨59, 48, .rw, 0⟩, ⟨60, 60, .rw, 0⟩]⟩
  | .CH_SHAPE => ⟨.mvB, 0x1010, [(0x10000, 16), (0x80, 32)], 0, [⟨15, 0, .rw, 0⟩, ⟨31, 16, .rw, 0⟩, ⟨47, 32, .rw, 0⟩, ⟨63, 48, .rw, 0⟩]⟩
  | .CH_SRC_STRIDE01 => ⟨.mvB, 0x1018, [(0x10000, 16), (0x80, 32)], 0, [⟨31, 0, .rw, 0⟩, ⟨63, 32, .rw, 0⟩]⟩
  | .CH_SRC_STRIDE2 => ⟨.mvB, 0x1020, [(0x10000, 16), (0x80, 32)], 0, [⟨31, 0, .rw, 0⟩]⟩
  | .CH_DST_STRIDE01 => ⟨.mvB, 0x1028, [(0x10000, 16), (0x80, 32)], 0, [⟨31, 0, .rw, 0⟩, ⟨63, 32, .rw, 0⟩]⟩
  | .CH_DST_STRIDE2 => ⟨.mvB, 0x1030, [(0x10000, 16), (0x80, 32)], 0, [⟨31, 0, .rw, 0⟩]⟩
  | .CH_CTRL => ⟨.mvB, 0x1038, [(0x10000, 16), (0x80, 32)], 0, [⟨2, 0, .rw, 3⟩, ⟨4, 3, .rw, 3⟩, ⟨5, 5, .rw, 0⟩, ⟨6, 6, .rw, 0⟩, ⟨7, 7, .rw, 0⟩, ⟨8, 8, .rw, 0⟩, ⟨31, 16, .rw, 0⟩]⟩
  | .CH_LOCK => ⟨.mvB, 0x1040, [(0x10000, 16), (0x80, 32)], 0, [⟨25, 0, .rw, 0⟩]⟩
  | .CH_RECORD => ⟨.mvB, 0x1048, [(0x10000, 16), (0x80, 32)], 0, [⟨47, 0, .rw, 0⟩, ⟨59, 48, .rw, 0⟩, ⟨60, 60, .rw, 0⟩]⟩
  | .CH_CMD => ⟨.mvB, 0x1050, [(0x10000, 16), (0x80, 32)], 0, [⟨0, 0, .wo, 0⟩, ⟨1, 1, .wo, 0⟩, ⟨2, 2, .wo, 0⟩, ⟨3, 3, .wo, 0⟩]⟩
  | .CH_STATE => ⟨.mvB, 0x1058, [(0x10000, 16), (0x80, 32)], 0, [⟨2, 0, .ro, 0⟩, ⟨3, 3, .ro, 0⟩, ⟨4, 4, .ro, 0⟩]⟩
  | .CH_RESULT => ⟨.mvB, 0x1060, [(0x10000, 16), (0x80, 32)], 0, [⟨63, 0, .ro, 0⟩]⟩
  | .CH_RESIDUE => ⟨.mvB, 0x1068, [(0x10000, 16), (0x80, 32)], 0, [⟨47, 0, .ro, 0⟩]⟩
  | .CH_POS => ⟨.mvB, 0x1070, [(0x10000, 16), (0x80, 32)], 0, [⟨15, 0, .ro, 0⟩, ⟨31, 16, .ro, 0⟩, ⟨47, 32, .ro, 0⟩, ⟨63, 48, .ro, 0⟩]⟩
  | .FUNC_CFG => ⟨.hqB, 0x0, [], 0, [⟨5, 0, .rw, 8⟩, ⟨11, 8, .rw, 4⟩, ⟨14, 12, .ro, 4⟩]⟩
  | .FUNC_STATUS => ⟨.hqB, 0x8, [], 0, [⟨0, 0, .ro, 0⟩, ⟨1, 1, .ro, 0⟩]⟩
  | .HALT_WHERE => ⟨.hqB, 0x10, [], 0, [⟨23, 0, .ro, 0⟩, ⟨24, 24, .ro, 0⟩, ⟨25, 25, .ro, 0⟩, ⟨28, 26, .ro, 0⟩]⟩
  | .HALT_INDEX => ⟨.hqB, 0x18, [], 0, [⟨31, 0, .ro, 0⟩]⟩
  | .CQ_DOORBELL => ⟨.hqB, 0x20, [], 0, [⟨23, 0, .wo, 0⟩, ⟨24, 24, .wo, 0⟩, ⟨63, 32, .wo, 0⟩]⟩
  | .STAMP_MISS_COUNT => ⟨.hqB, 0x40, [], 1, [⟨31, 0, .ro, 0⟩]⟩
  | .STAMP_MISS_POSTED_COUNT => ⟨.hqB, 0x48, [], 1, [⟨31, 0, .ro, 0⟩]⟩
  | .DG_DROP_COUNT => ⟨.hqB, 0x50, [], 1, [⟨31, 0, .ro, 0⟩]⟩
  | .DESC_WAIT_CK => ⟨.hqB, 0x58, [], 2, [⟨47, 0, .ro, 0⟩]⟩
  | .FETCH_ERROR_COUNT => ⟨.hqB, 0x60, [], 1, [⟨31, 0, .ro, 0⟩]⟩
  | .RING_ADDR => ⟨.hqB, 0x10000, [(0x80, 4096)], 0, [⟨63, 12, .rw, 0⟩]⟩
  | .RING_CFG => ⟨.hqB, 0x10008, [(0x80, 4096)], 0, [⟨2, 0, .rw, 0⟩, ⟨3, 3, .rw, 0⟩, ⟨8, 4, .rw, 6⟩, ⟨10, 10, .rw, 0⟩, ⟨22, 12, .rw, 0⟩, ⟨26, 24, .rw, 0⟩]⟩
  | .RING_PI => ⟨.hqB, 0x10010, [(0x80, 4096)], 0, [⟨31, 0, .rw, 0⟩]⟩
  | .RING_CI => ⟨.hqB, 0x10018, [(0x80, 4096)], 0, [⟨31, 0, .rw, 0⟩]⟩
  | .RING_CPI => ⟨.hqB, 0x10020, [(0x80, 4096)], 0, [⟨31, 0, .ro, 0⟩]⟩
  | .RING_SHADOW => ⟨.hqB, 0x10028, [(0x80, 4096)], 0, [⟨0, 0, .rw, 0⟩, ⟨63, 3, .rw, 0⟩]⟩
  | .RING_DB_WORD => ⟨.hqB, 0x10030, [(0x80, 4096)], 0, [⟨63, 2, .rw, 0⟩]⟩
  | .RING_HOLD => ⟨.hqB, 0x10038, [(0x80, 4096)], 0, [⟨31, 0, .wo, 0⟩, ⟨38, 32, .wo, 0⟩, ⟨63, 63, .wo, 0⟩]⟩
  | .RING_HOLD_MASK => ⟨.hqB, 0x10040, [(0x80, 4096)], 0, [⟨63, 0, .ro, 0⟩]⟩
  | .RING_ARM => ⟨.hqB, 0x10048, [(0x80, 4096)], 0, [⟨31, 0, .wo, 0⟩, ⟨32, 32, .wo, 0⟩]⟩
  | .RING_STATUS => ⟨.hqB, 0x10050, [(0x80, 4096)], 0, [⟨0, 0, .ro, 0⟩, ⟨1, 1, .w1c, 0⟩, ⟨2, 2, .ro, 0⟩, ⟨3, 3, .ro, 0⟩, ⟨4, 4, .w1c, 0⟩]⟩
  | .RING_REJECT_COUNT => ⟨.hqB, 0x10058, [(0x80, 4096)], 1, [⟨31, 0, .ro, 0⟩]⟩
  | .NOTIFY_FULL_COUNT => ⟨.hqB, 0x10060, [(0x80, 4096)], 1, [⟨31, 0, .ro, 0⟩]⟩
  | .FUNC_CONN_RANGE => ⟨.tpB, 0x0, [], 0, [⟨23, 0, .ro, 0⟩, ⟨48, 24, .ro, 0⟩]⟩
  | .FUNC_KEY_RANGE => ⟨.tpB, 0x8, [], 0, [⟨17, 0, .ro, 0⟩, ⟨36, 18, .ro, 0⟩]⟩
  | .FUNC_TRIG_RANGE => ⟨.tpB, 0x10, [], 0, [⟨15, 0, .ro, 0⟩, ⟨32, 16, .ro, 0⟩]⟩
  | .FUNC_POLICY => ⟨.tpB, 0x18, [], 0, [⟨11, 0, .ro, 0⟩, ⟨12, 12, .ro, 0⟩, ⟨27, 16, .ro, 0⟩, ⟨28, 28, .ro, 0⟩, ⟨29, 29, .ro, 0⟩]⟩
  | .CTX_ADDR => ⟨.tpB, 0x20, [], 0, [⟨63, 12, .rw, 0⟩]⟩
  | .CONN_OPEN_COUNT => ⟨.tpB, 0x28, [], 1, [⟨31, 0, .ro, 0⟩]⟩
  | .CONN_ERROR_COUNT => ⟨.tpB, 0x40, [], 1, [⟨31, 0, .ro, 0⟩]⟩
  | .KEY_REFUSE_COUNT => ⟨.tpB, 0x48, [], 1, [⟨31, 0, .ro, 0⟩]⟩
  | .RNR_COUNT => ⟨.tpB, 0x50, [], 1, [⟨31, 0, .ro, 0⟩]⟩
  | .ROUTE_FAIL_RECV_COUNT => ⟨.tpB, 0x58, [], 1, [⟨31, 0, .ro, 0⟩]⟩
  | .DG_REFUSED_COUNT => ⟨.tpB, 0x60, [], 1, [⟨31, 0, .ro, 0⟩]⟩
  | .TRIG_LATE_COUNT => ⟨.tpB, 0x68, [], 1, [⟨31, 0, .ro, 0⟩]⟩
  | .CTX_FETCH_ERROR_COUNT => ⟨.tpB, 0x70, [], 1, [⟨31, 0, .ro, 0⟩]⟩
  | .MATCH_CFG => ⟨.mfB, 0x0, [], 0, [⟨16, 0, .rw, 0x2000⟩, ⟨31, 20, .rw, 0⟩, ⟨32, 32, .rw, 0⟩, ⟨33, 33, .rw, 0⟩]⟩
  | .MATCH_OVF_ADDR => ⟨.mfB, 0x8, [], 0, [⟨63, 12, .rw, 0⟩]⟩
  | .MATCH_OVF_SIZE => ⟨.mfB, 0x10, [], 0, [⟨23, 0, .rw, 0⟩]⟩
  | .MATCH_STATUS => ⟨.mfB, 0x18, [], 0, [⟨15, 0, .ro, 0⟩, ⟨35, 16, .ro, 0⟩]⟩
  | .UNEXPECTED_COUNT => ⟨.mfB, 0x40, [], 1, [⟨31, 0, .ro, 0⟩]⟩
  | .RNDV_COUNT => ⟨.mfB, 0x48, [], 1, [⟨31, 0, .ro, 0⟩]⟩
  | .UX_REFUSE_COUNT => ⟨.mfB, 0x50, [], 1, [⟨31, 0, .ro, 0⟩]⟩
  | .MATCH_TRUNC_COUNT => ⟨.mfB, 0x58, [], 1, [⟨31, 0, .ro, 0⟩]⟩
  | .OVERFLOW_ENTER_COUNT => ⟨.mfB, 0x60, [], 1, [⟨31, 0, .ro, 0⟩]⟩
  | .OVERFLOW_OP_COUNT => ⟨.mfB, 0x68, [], 1, [⟨31, 0, .ro, 0⟩]⟩
  | .XL_FUNC => ⟨.xfB, 0x0, [], 0, [⟨9, 0, .ro, 0⟩, ⟨15, 15, .ro, 0⟩]⟩
  | .XL_INV_VA => ⟨.xfB, 0x8, [], 0, [⟨47, 12, .rw, 0⟩, ⟨63, 48, .rw, 0⟩]⟩
  | .XL_INV_CMD => ⟨.xfB, 0x10, [], 0, [⟨9, 0, .wo, 0⟩, ⟨16, 16, .wo, 0⟩, ⟨31, 31, .wo, 0⟩]⟩
  | .XL_INV_STATUS => ⟨.xfB, 0x18, [], 0, [⟨0, 0, .ro, 0⟩, ⟨31, 16, .ro, 0⟩]⟩
  | .XL_DEV_BASE => ⟨.xfB, 0x40, [(0x10, 8)], 0, [⟨0, 0, .ro, 0⟩, ⟨63, 12, .ro, 0⟩]⟩
  | .XL_DEV_LIMIT => ⟨.xfB, 0x48, [(0x10, 8)], 0, [⟨63, 12, .ro, 0⟩]⟩
  | .NF_JOB_BIND => ⟨.cfB, 0x0, [(0x8, 8)], 0, [⟨11, 0, .ro, 0⟩, ⟨15, 15, .ro, 0⟩]⟩
  | .TMAP_SEQ => ⟨.twB, 0x0, [], 0, [⟨31, 0, .ro, 0⟩]⟩
  | .TMAP_HOST_NS => ⟨.twB, 0x8, [], 0, [⟨63, 0, .ro, 0⟩]⟩
  | .TMAP_FABRIC_NS => ⟨.twB, 0x10, [], 0, [⟨63, 0, .ro, 0⟩]⟩
  | .TMAP_FABRIC_FRAC => ⟨.twB, 0x18, [], 0, [⟨15, 0, .ro, 0⟩]⟩
  | .TMAP_RATIO => ⟨.twB, 0x20, [], 0, [⟨63, 0, .ro, 0⟩]⟩
  | .TMAP_ERROR_NS => ⟨.twB, 0x28, [], 0, [⟨63, 0, .ro, 0⟩]⟩

/-- The registers of each block, in the order of its register table. -/
def Block.regs : Block → List RegName
  | .amB => [.WRITE_STATUS, .AM_VF_BASE]
  | .coordB => [.NODE_COORD, .DIM_CFG, .COORD_STATUS, .RTT_STALE_COUNT, .JOB_MISMATCH_COUNT]
  | .tpcB => [.TP_CC_CFG, .TP_RTO_CFG, .TP_RETRY_CFG, .RETX_SELECTIVE_COUNT, .RETX_TIMEOUT_COUNT, .DUP_PKT_COUNT, .OUT_OF_WINDOW_COUNT, .WINDOW_DECREASE_COUNT, .CTX_MISS_COUNT, .CANCEL_COUNT]
  | .mtdB => [.MATCH_CTRL, .MATCH_POOL_FREE, .MP_HELD, .MP_COMMIT_COUNT, .MP_SQUASH_COUNT, .MP_SPEC_FULL_COUNT, .MP_HOLD_DROP_COUNT]
  | .collB => [.COLL_CFG, .COLL_STATUS, .COLL_STAGE_USED, .COLL_DONE_COUNT, .COLL_FAIL_COUNT, .COLL_ABORT_SENT_COUNT, .COLL_ABORT_RECV_COUNT, .COLL_SLIP_COUNT, .COLL_STAGE_FULL_COUNT, .COLL_STALE_COUNT, .COLL_ORPHAN_COUNT, .COLL_DUP_COUNT]
  | .lockB => [.LOCK_CFG, .LOCK_BUSY_COUNT, .LOCK_MISUSE_COUNT, .LOCK_TABLE_FULL_COUNT, .LOCK_PLAIN_WRITE_COUNT, .LOCK_BOOST_COUNT, .LOCK_ABANDON_COUNT, .HOST_WAIT_TIMEOUT_COUNT, .LOCK_UNIT_STATUS]
  | .rstB => [.BOOT_STATUS, .RST_CMD, .RST_CAUSE, .PKG_SERIAL, .SEC_FUSES, .REPAIR_CMD, .ID_DIE_A, .ID_DIE_B]
  | .rpB => [.RP_CONTROL, .RP_STATUS, .RP_ROOT_NODE, .RP_PARENT_PIN, .RP_TIME_NS, .RP_TIME_FRAC_TICK, .RP_TURNOVERS, .RP_OFFSET, .RP_RATE_ADJ, .RP_SERVO, .RP_STEP_NS, .RP_STEP_CMD, .RP_TOD_SECONDS, .TICK_OVERRUN_STATUS, .TS_HOLD, .TICK_OVERRUN_COUNT, .RP_PORT_ASYM, .RP_PORT_DELAY]
  | .routeB => [.ROUTE_CONTROL, .GUYLINE_CFG, .DR_CFG, .ROUTE_WEIGHTS, .ROUTE_ADAPT_STATUS, .RING_LINK_DOWN, .ROUTE_FAIL_COUNT, .MISROUTE_COUNT, .HCRC_ERROR_COUNT, .HOP_LIMIT_COUNT, .MCAST_BRANCH_FAIL_COUNT, .MCAST_INVALID_COUNT, .DEROUTE_COUNT, .PORT_ROUTE]
  | .spbB => [.DH_CFG, .DH_STATUS, .DH_MAC, .MOD_SITE, .MOD_STATUS]
  | .lnB => [.LN_CTRL, .LN_LIMITS, .LN_THERMAL, .LN_NARROW, .LN_MISC, .LN_STATUS, .LN_POWER, .LN_POOL, .LN_PLACE_MASK, .POWER_LIMIT_UNMET_COUNT, .EMERGENCY_COUNT, .THERMAL_WARN_COUNT, .SENSOR_FAIL_COUNT, .VR_FAULT_COUNT, .V_SETTLE_FAIL_COUNT, .PLACE_CHANGE_COUNT, .NARROW_COUNT, .WIDEN_COUNT, .LN_CL_FREQ, .LN_CL_STATUS, .LN_DIE_CFG, .LN_DIE_STATUS, .LN_DIE_GAIN, .LN_MV_FLOOR, .LN_PORT]
  | .ctrB => [.PC_CTRL, .PC_OVF, .PC_SEL, .PC_VALUE, .PC_SNAP]
  | .evB => [.EV_ROUTE, .EV_PENDING, .EV_FORCE, .EV_MERGE_COUNT, .EV_PORT_CAUSE, .EV_HP_CAUSE, .MCTP_VDM_PARTS]
  | .coreB => [.BUF_CFG, .MARK_CFG, .HOT_CFG, .TC_BUF, .ALPHA_STATUS, .TC_CLAMP_COUNT, .CT_ABORT_COUNT, .RESERVE_ONLY_COUNT, .PORT_FLUSH_COUNT, .FLUSH_NO_NOTICE_COUNT, .HOT_ENTER_COUNT, .HOT_TABLE_FULL_COUNT, .CT_UNDERRUN_COUNT, .MARK_COUNT, .HOT_ENTRY, .PORT_SCHED, .CREDIT_INIT_A, .CREDIT_INIT_B, .QUANTUM, .PORT_SHAPER, .TC_SHAPER]
  | .llB => [.LL_CFG, .LL_STATUS, .LL_CREDIT_A, .LL_CREDIT_B, .LL_REPLAY_USED, .LCRC_ERROR_COUNT, .FRAMING_ERROR_COUNT, .LCB_ERROR_COUNT, .NAK_SENT_COUNT, .NAK_RECV_COUNT, .REPLAY_COUNT, .TIMER_REPLAY_COUNT, .DUP_DISCARD_COUNT, .OOS_DISCARD_COUNT, .ABORT_SENT_COUNT, .ABORT_RECV_COUNT, .RETRAIN_COUNT, .LINK_DOWN_COUNT, .CREDIT_STALL_CK, .REPLAY_FULL_CK, .TICK_SKEW_COUNT, .RESUME_COUNT, .FRESH_START_COUNT]
  | .xlB => [.XL_CTRL, .XL_MISS_RESOLVE, .MULTI_HIT_COUNT, .REMISS_COUNT, .PARK_DROP_COUNT, .ENGINE_MISS_COUNT, .PLACE_MISS_COUNT, .XL_MISS_VA, .XL_MISS_SRC, .XL_ASID_ROOT, .XL_ASID_CFG]
  | .ebB => [.EB_FMF_CFG, .EB_CFG, .WINDOW_REFUSE_COUNT, .EB_STACK_CFG, .EB_PART_CFG, .EB_PART_STATUS, .EB_PORT_CFG, .EB_PORT_STATUS, .SYN_CPL_COUNT, .LATE_CPL_COUNT, .DPC_DISCARD_COUNT, .POISON_FWD_COUNT, .ACS_BLOCK_COUNT, .XP_CTRL, .XP_SRC_BASE, .XP_SRC_LIMIT, .XP_TGT_BASE, .SVF_CTRL, .SVF_ID, .SVF_BAR]
  | .fltB => [.FAULT_CTRL, .FAULT_SUMMARY, .FAULT_FORCE, .LOG_WR, .MIRROR_BASE, .MIRROR_CFG, .FAULT_STATUS, .FAULT_CLASS, .FATAL_RECORD, .DG_HUB, .DG_GROUPS, .DG_FABRIC, .DG_PCIE, .MIRROR_RESYNC_COUNT, .BANK_RETIRE_COUNT, .ENGINE_FENCE_COUNT, .FAULT_LOG]
  | .engB => [.HB_CMD, .HB_DATA, .IMG_ADDR, .IMG_CMD, .IMG_STATUS, .SYS_BIND, .HANDLER_OVERRUN_COUNT, .FW_OVERRUN_COUNT, .ENGINE_LOST_COUNT, .EVQ_FULL_COUNT, .CTR_WATCH, .CTR_THRESH, .CL_CFG, .CL_STATUS, .CL_QDEPTH, .CL_TOKENS, .CL_TOKEN_COST, .DEFER_P2_CK, .DEFER_P3_CK, .TIMER_CFG, .TIMER_DUE, .SAMPLE_CFG, .SAMPLE_PTR, .ENG_STATUS]
  | .laneB => [.PORT_CTRL, .PORT_TRAIN_CFG, .PORT_CMD, .PORT_TEST_CFG, .PORT_STATE, .PORT_PARTNER, .TEST_RESULT, .TRAIN_FAIL_COUNT, .WIDTH_CHANGE_COUNT, .DEGRADE_FAIL_COUNT, .FILLER_ADJUST_COUNT, .LANE_CFG, .LANE_STATUS, .LANE_CAL_CMD, .LANE_PRBS_CFG, .LANE_PRBS_CMD, .LANE_PRBS_ERRORS, .LANE_FEC_CORRECTED, .LANE_FEC_UNCORRECTED, .LANE_LOCK_LOSS_COUNT, .LANE_TX_COEF, .LANE_EYE]
  | .mvB => [.MV_CFG, .MV_TOKENS, .MV_TOKEN_COST, .MV_STATUS, .MV_DONE_STATUS, .MV_HALT_STATUS, .MV_RETRY_COUNT, .MV_HALT_COUNT, .MV_ABORT_COUNT, .MV_DEFER_CK, .MV_BYTES, .CH_SRC, .CH_DST, .CH_SHAPE, .CH_SRC_STRIDE01, .CH_SRC_STRIDE2, .CH_DST_STRIDE01, .CH_DST_STRIDE2, .CH_CTRL, .CH_LOCK, .CH_RECORD, .CH_CMD, .CH_STATE, .CH_RESULT, .CH_RESIDUE, .CH_POS]
  | .hqB => [.FUNC_CFG, .FUNC_STATUS, .HALT_WHERE, .HALT_INDEX, .CQ_DOORBELL, .STAMP_MISS_COUNT, .STAMP_MISS_POSTED_COUNT, .DG_DROP_COUNT, .DESC_WAIT_CK, .FETCH_ERROR_COUNT, .RING_ADDR, .RING_CFG, .RING_PI, .RING_CI, .RING_CPI, .RING_SHADOW, .RING_DB_WORD, .RING_HOLD, .RING_HOLD_MASK, .RING_ARM, .RING_STATUS, .RING_REJECT_COUNT, .NOTIFY_FULL_COUNT]
  | .tpB => [.FUNC_CONN_RANGE, .FUNC_KEY_RANGE, .FUNC_TRIG_RANGE, .FUNC_POLICY, .CTX_ADDR, .CONN_OPEN_COUNT, .CONN_ERROR_COUNT, .KEY_REFUSE_COUNT, .RNR_COUNT, .ROUTE_FAIL_RECV_COUNT, .DG_REFUSED_COUNT, .TRIG_LATE_COUNT, .CTX_FETCH_ERROR_COUNT]
  | .mfB => [.MATCH_CFG, .MATCH_OVF_ADDR, .MATCH_OVF_SIZE, .MATCH_STATUS, .UNEXPECTED_COUNT, .RNDV_COUNT, .UX_REFUSE_COUNT, .MATCH_TRUNC_COUNT, .OVERFLOW_ENTER_COUNT, .OVERFLOW_OP_COUNT]
  | .xfB => [.XL_FUNC, .XL_INV_VA, .XL_INV_CMD, .XL_INV_STATUS, .XL_DEV_BASE, .XL_DEV_LIMIT]
  | .cfB => [.NF_JOB_BIND]
  | .twB => [.TMAP_SEQ, .TMAP_HOST_NS, .TMAP_FABRIC_NS, .TMAP_FABRIC_FRAC, .TMAP_RATIO, .TMAP_ERROR_NS]
  | .swB => []
  | .mxB => []

/-- A named field of a named register. -/
structure RegFld where
  reg : RegName
  hi : Nat
  lo : Nat
  deriving DecidableEq, Repr

-- WRITE_STATUS (R590)
def F.WRITE_STATUS.LAST_STATUS : RegFld := ⟨.WRITE_STATUS, 7, 0⟩
def F.WRITE_STATUS.REJECTED : RegFld := ⟨.WRITE_STATUS, 8, 8⟩
def F.WRITE_STATUS.FIRST_STATUS : RegFld := ⟨.WRITE_STATUS, 23, 16⟩
def F.WRITE_STATUS.FIRST_OFFSET : RegFld := ⟨.WRITE_STATUS, 63, 32⟩
-- AM_VF_BASE (R590)
def F.AM_VF_BASE.VF_BASE : RegFld := ⟨.AM_VF_BASE, 11, 0⟩
def F.AM_VF_BASE.VF_COUNT : RegFld := ⟨.AM_VF_BASE, 24, 16⟩
def F.AM_VF_BASE.VALID : RegFld := ⟨.AM_VF_BASE, 63, 63⟩
-- NODE_COORD (R82)
def F.NODE_COORD.COORD : RegFld := ⟨.NODE_COORD, 19, 0⟩
-- DIM_CFG (R82)
def F.DIM_CFG.ENABLE : RegFld := ⟨.DIM_CFG, 0, 0⟩
def F.DIM_CFG.SHAPE : RegFld := ⟨.DIM_CFG, 1, 1⟩
def F.DIM_CFG.SIZE : RegFld := ⟨.DIM_CFG, 14, 8⟩
def F.DIM_CFG.WIDTH : RegFld := ⟨.DIM_CFG, 18, 16⟩
def F.DIM_CFG.OFFSET : RegFld := ⟨.DIM_CFG, 28, 24⟩
-- COORD_STATUS (R82)
def F.COORD_STATUS.ENABLED_DIMS : RegFld := ⟨.COORD_STATUS, 2, 0⟩
def F.COORD_STATUS.BITS_USED : RegFld := ⟨.COORD_STATUS, 12, 8⟩
-- RTT_STALE_COUNT (R82)
def F.RTT_STALE_COUNT.COUNT : RegFld := ⟨.RTT_STALE_COUNT, 31, 0⟩
-- JOB_MISMATCH_COUNT (R82)
def F.JOB_MISMATCH_COUNT.COUNT : RegFld := ⟨.JOB_MISMATCH_COUNT, 31, 0⟩
-- TP_CC_CFG (R298)
def F.TP_CC_CFG.W_INIT : RegFld := ⟨.TP_CC_CFG, 12, 0⟩
def F.TP_CC_CFG.W_MIN : RegFld := ⟨.TP_CC_CFG, 25, 13⟩
def F.TP_CC_CFG.W_MAX : RegFld := ⟨.TP_CC_CFG, 38, 26⟩
def F.TP_CC_CFG.AI : RegFld := ⟨.TP_CC_CFG, 46, 39⟩
def F.TP_CC_CFG.MD_SHIFT : RegFld := ⟨.TP_CC_CFG, 50, 47⟩
def F.TP_CC_CFG.CC_FREEZE : RegFld := ⟨.TP_CC_CFG, 51, 51⟩
-- TP_RTO_CFG (R298)
def F.TP_RTO_CFG.RTO_MIN : RegFld := ⟨.TP_RTO_CFG, 15, 0⟩
def F.TP_RTO_CFG.RTO_MAX : RegFld := ⟨.TP_RTO_CFG, 31, 16⟩
def F.TP_RTO_CFG.RTO_INIT : RegFld := ⟨.TP_RTO_CFG, 47, 32⟩
def F.TP_RTO_CFG.RETRY_LIMIT : RegFld := ⟨.TP_RTO_CFG, 51, 48⟩
def F.TP_RTO_CFG.RTO_FREEZE : RegFld := ⟨.TP_RTO_CFG, 52, 52⟩
-- TP_RETRY_CFG (R298)
def F.TP_RETRY_CFG.RNR_TICKS : RegFld := ⟨.TP_RETRY_CFG, 15, 0⟩
def F.TP_RETRY_CFG.RNR_RETRY : RegFld := ⟨.TP_RETRY_CFG, 19, 16⟩
def F.TP_RETRY_CFG.ROUTE_FAIL_LIMIT : RegFld := ⟨.TP_RETRY_CFG, 27, 20⟩
-- MATCH_CTRL (R328)
def F.MATCH_CTRL.SPEC_MAX : RegFld := ⟨.MATCH_CTRL, 6, 0⟩
def F.MATCH_CTRL.SPEC_EN : RegFld := ⟨.MATCH_CTRL, 7, 7⟩
def F.MATCH_CTRL.HOLD_LIMIT : RegFld := ⟨.MATCH_CTRL, 31, 16⟩
-- MATCH_POOL_FREE (R328)
def F.MATCH_POOL_FREE.FREE : RegFld := ⟨.MATCH_POOL_FREE, 19, 0⟩
-- MP_HELD (R328)
def F.MP_HELD.HEADERS : RegFld := ⟨.MP_HELD, 6, 0⟩
def F.MP_HELD.SEGMENTS : RegFld := ⟨.MP_HELD, 30, 16⟩
-- COLL_CFG (R350)
def F.COLL_CFG.SLICE_WINDOW : RegFld := ⟨.COLL_CFG, 7, 0⟩
def F.COLL_CFG.STAGE_TIMEOUT : RegFld := ⟨.COLL_CFG, 31, 16⟩
def F.COLL_CFG.STAGE_LIMIT : RegFld := ⟨.COLL_CFG, 51, 32⟩
-- COLL_STATUS (R350)
def F.COLL_STATUS.IN_USE : RegFld := ⟨.COLL_STATUS, 12, 0⟩
-- COLL_STAGE_USED (R350)
def F.COLL_STAGE_USED.USED : RegFld := ⟨.COLL_STAGE_USED, 19, 0⟩
-- LOCK_CFG (R449)
def F.LOCK_CFG.HOST_WAIT_US : RegFld := ⟨.LOCK_CFG, 9, 0⟩
-- LOCK_UNIT_STATUS (R449)
def F.LOCK_UNIT_STATUS.WAITERS : RegFld := ⟨.LOCK_UNIT_STATUS, 6, 0⟩
def F.LOCK_UNIT_STATUS.WORDS : RegFld := ⟨.LOCK_UNIT_STATUS, 26, 16⟩
-- BOOT_STATUS (R555)
def F.BOOT_STATUS.STATE : RegFld := ⟨.BOOT_STATUS, 2, 0⟩
def F.BOOT_STATUS.FAIL : RegFld := ⟨.BOOT_STATUS, 15, 8⟩
def F.BOOT_STATUS.SLOT : RegFld := ⟨.BOOT_STATUS, 16, 16⟩
def F.BOOT_STATUS.RECORDS_DONE : RegFld := ⟨.BOOT_STATUS, 17, 17⟩
def F.BOOT_STATUS.ENABLES_RELEASED : RegFld := ⟨.BOOT_STATUS, 18, 18⟩
def F.BOOT_STATUS.FABRIC_READY : RegFld := ⟨.BOOT_STATUS, 19, 19⟩
def F.BOOT_STATUS.REJECTED_RECORD : RegFld := ⟨.BOOT_STATUS, 47, 32⟩
def F.BOOT_STATUS.SVN : RegFld := ⟨.BOOT_STATUS, 53, 48⟩
-- RST_CMD (R555)
def F.RST_CMD.TYPE : RegFld := ⟨.RST_CMD, 1, 0⟩
def F.RST_CMD.TARGET : RegFld := ⟨.RST_CMD, 24, 16⟩
def F.RST_CMD.GO : RegFld := ⟨.RST_CMD, 31, 31⟩
-- RST_CAUSE (R555)
def F.RST_CAUSE.CAUSE : RegFld := ⟨.RST_CAUSE, 2, 0⟩
-- PKG_SERIAL (R555)
def F.PKG_SERIAL.SERIAL : RegFld := ⟨.PKG_SERIAL, 63, 0⟩
-- SEC_FUSES (R555)
def F.SEC_FUSES.KEY_REVOKED : RegFld := ⟨.SEC_FUSES, 1, 0⟩
def F.SEC_FUSES.MIN_SVN : RegFld := ⟨.SEC_FUSES, 13, 8⟩
-- REPAIR_CMD (R555)
def F.REPAIR_CMD.CLEAR : RegFld := ⟨.REPAIR_CMD, 0, 0⟩
-- ID_DIE_A (R555)
def F.ID_DIE_A.LOT : RegFld := ⟨.ID_DIE_A, 35, 0⟩
def F.ID_DIE_A.WAFER : RegFld := ⟨.ID_DIE_A, 40, 36⟩
def F.ID_DIE_A.DIE_X : RegFld := ⟨.ID_DIE_A, 48, 41⟩
def F.ID_DIE_A.DIE_Y : RegFld := ⟨.ID_DIE_A, 56, 49⟩
def F.ID_DIE_A.DIE_TYPE : RegFld := ⟨.ID_DIE_A, 58, 57⟩
def F.ID_DIE_A.DIE_INDEX : RegFld := ⟨.ID_DIE_A, 62, 59⟩
-- ID_DIE_B (R555)
def F.ID_DIE_B.FUSE_CHECK : RegFld := ⟨.ID_DIE_B, 15, 0⟩
def F.ID_DIE_B.FUSE_OK : RegFld := ⟨.ID_DIE_B, 16, 16⟩
-- RP_CONTROL (R57)
def F.RP_CONTROL.ROOT : RegFld := ⟨.RP_CONTROL, 0, 0⟩
def F.RP_CONTROL.ROOT_SOURCE : RegFld := ⟨.RP_CONTROL, 2, 1⟩
def F.RP_CONTROL.STEP_ENABLE : RegFld := ⟨.RP_CONTROL, 3, 3⟩
def F.RP_CONTROL.SERVO_FREEZE : RegFld := ⟨.RP_CONTROL, 4, 4⟩
def F.RP_CONTROL.MAX_STRATUM : RegFld := ⟨.RP_CONTROL, 23, 16⟩
-- RP_STATUS (R57)
def F.RP_STATUS.STATE : RegFld := ⟨.RP_STATUS, 1, 0⟩
def F.RP_STATUS.STRATUM : RegFld := ⟨.RP_STATUS, 15, 8⟩
def F.RP_STATUS.PARENT_PORT : RegFld := ⟨.RP_STATUS, 23, 16⟩
def F.RP_STATUS.REF10M_OK : RegFld := ⟨.RP_STATUS, 24, 24⟩
def F.RP_STATUS.PPS_OK : RegFld := ⟨.RP_STATUS, 25, 25⟩
-- RP_ROOT_NODE (R57)
def F.RP_ROOT_NODE.NODE : RegFld := ⟨.RP_ROOT_NODE, 19, 0⟩
-- RP_PARENT_PIN (R57)
def F.RP_PARENT_PIN.PORT_SLOT : RegFld := ⟨.RP_PARENT_PIN, 7, 0⟩
def F.RP_PARENT_PIN.PIN_ENABLE : RegFld := ⟨.RP_PARENT_PIN, 8, 8⟩
-- RP_TIME_NS (R57)
def F.RP_TIME_NS.NS : RegFld := ⟨.RP_TIME_NS, 63, 0⟩
-- RP_TIME_FRAC_TICK (R57)
def F.RP_TIME_FRAC_TICK.FRACTION : RegFld := ⟨.RP_TIME_FRAC_TICK, 15, 0⟩
def F.RP_TIME_FRAC_TICK.TICK : RegFld := ⟨.RP_TIME_FRAC_TICK, 63, 16⟩
-- RP_TURNOVERS (R57)
def F.RP_TURNOVERS.TURNOVERS : RegFld := ⟨.RP_TURNOVERS, 63, 0⟩
-- RP_OFFSET (R57)
def F.RP_OFFSET.OFFSET : RegFld := ⟨.RP_OFFSET, 47, 0⟩
-- RP_RATE_ADJ (R57)
def F.RP_RATE_ADJ.ADJ : RegFld := ⟨.RP_RATE_ADJ, 31, 0⟩
-- RP_SERVO (R57)
def F.RP_SERVO.PHASE_TICKS : RegFld := ⟨.RP_SERVO, 7, 0⟩
def F.RP_SERVO.RATE_SHIFT : RegFld := ⟨.RP_SERVO, 15, 8⟩
def F.RP_SERVO.ALARM_NS : RegFld := ⟨.RP_SERVO, 31, 16⟩
-- RP_STEP_NS (R57)
def F.RP_STEP_NS.STEP : RegFld := ⟨.RP_STEP_NS, 63, 0⟩
-- RP_STEP_CMD (R57)
def F.RP_STEP_CMD.GO : RegFld := ⟨.RP_STEP_CMD, 0, 0⟩
-- RP_TOD_SECONDS (R57)
def F.RP_TOD_SECONDS.SECONDS : RegFld := ⟨.RP_TOD_SECONDS, 63, 0⟩
-- TICK_OVERRUN_STATUS (R57)
def F.TICK_OVERRUN_STATUS.OVERRUN : RegFld := ⟨.TICK_OVERRUN_STATUS, 5, 0⟩
-- TS_HOLD (R57)
def F.TS_HOLD.HOLD : RegFld := ⟨.TS_HOLD, 3, 0⟩
-- RP_PORT_ASYM (R57)
def F.RP_PORT_ASYM.ASYM : RegFld := ⟨.RP_PORT_ASYM, 31, 0⟩
-- RP_PORT_DELAY (R57)
def F.RP_PORT_DELAY.DELAY : RegFld := ⟨.RP_PORT_DELAY, 31, 0⟩
def F.RP_PORT_DELAY.VALID : RegFld := ⟨.RP_PORT_DELAY, 63, 63⟩
-- ROUTE_CONTROL (R112)
def F.ROUTE_CONTROL.HOP_LIMIT : RegFld := ⟨.ROUTE_CONTROL, 5, 0⟩
def F.ROUTE_CONTROL.FAIL_DEROUTE : RegFld := ⟨.ROUTE_CONTROL, 8, 8⟩
def F.ROUTE_CONTROL.ROUTE_FREEZE : RegFld := ⟨.ROUTE_CONTROL, 9, 9⟩
-- GUYLINE_CFG (R112)
def F.GUYLINE_CFG.GL_QUANTUM : RegFld := ⟨.GUYLINE_CFG, 9, 0⟩
def F.GUYLINE_CFG.GL_MAX_AGE : RegFld := ⟨.GUYLINE_CFG, 19, 16⟩
def F.GUYLINE_CFG.GL_STALE_LEVEL : RegFld := ⟨.GUYLINE_CFG, 27, 24⟩
-- DR_CFG (R112)
def F.DR_CFG.DEROUTE_ENABLE : RegFld := ⟨.DR_CFG, 0, 0⟩
def F.DR_CFG.RING_LONG_ENABLE : RegFld := ⟨.DR_CFG, 1, 1⟩
def F.DR_CFG.DR_CANDIDATES : RegFld := ⟨.DR_CFG, 4, 2⟩
def F.DR_CFG.DATELINE_POS : RegFld := ⟨.DR_CFG, 13, 8⟩
-- ROUTE_WEIGHTS (R112)
def F.ROUTE_WEIGHTS.W_LOCAL : RegFld := ⟨.ROUTE_WEIGHTS, 7, 0⟩
def F.ROUTE_WEIGHTS.W_REMOTE : RegFld := ⟨.ROUTE_WEIGHTS, 15, 8⟩
def F.ROUTE_WEIGHTS.W_HOP_MIN : RegFld := ⟨.ROUTE_WEIGHTS, 23, 16⟩
def F.ROUTE_WEIGHTS.W_HOP_MAX : RegFld := ⟨.ROUTE_WEIGHTS, 31, 24⟩
def F.ROUTE_WEIGHTS.DR_LOW : RegFld := ⟨.ROUTE_WEIGHTS, 39, 32⟩
def F.ROUTE_WEIGHTS.DR_HIGH : RegFld := ⟨.ROUTE_WEIGHTS, 47, 40⟩
-- ROUTE_ADAPT_STATUS (R112)
def F.ROUTE_ADAPT_STATUS.W_HOP_EFF : RegFld := ⟨.ROUTE_ADAPT_STATUS, 7, 0⟩
def F.ROUTE_ADAPT_STATUS.SHARE : RegFld := ⟨.ROUTE_ADAPT_STATUS, 15, 8⟩
-- RING_LINK_DOWN (R112)
def F.RING_LINK_DOWN.DOWN : RegFld := ⟨.RING_LINK_DOWN, 63, 0⟩
-- PORT_ROUTE (R112)
def F.PORT_ROUTE.DIM : RegFld := ⟨.PORT_ROUTE, 1, 0⟩
def F.PORT_ROUTE.ROUTE_EN : RegFld := ⟨.PORT_ROUTE, 2, 2⟩
def F.PORT_ROUTE.TARGET : RegFld := ⟨.PORT_ROUTE, 13, 8⟩
def F.PORT_ROUTE.BUNDLE : RegFld := ⟨.PORT_ROUTE, 23, 16⟩
def F.PORT_ROUTE.MISWIRE : RegFld := ⟨.PORT_ROUTE, 32, 32⟩
def F.PORT_ROUTE.FOUR_VC : RegFld := ⟨.PORT_ROUTE, 33, 33⟩
-- DH_CFG (R573)
def F.DH_CFG.MODE : RegFld := ⟨.DH_CFG, 0, 0⟩
def F.DH_CFG.SMB_ADDR : RegFld := ⟨.DH_CFG, 14, 8⟩
-- DH_STATUS (R573)
def F.DH_STATUS.LINK_UP : RegFld := ⟨.DH_STATUS, 0, 0⟩
def F.DH_STATUS.AN_DONE : RegFld := ⟨.DH_STATUS, 1, 1⟩
def F.DH_STATUS.SPEED_UNSUPPORTED : RegFld := ⟨.DH_STATUS, 2, 2⟩
-- DH_MAC (R573)
def F.DH_MAC.MAC : RegFld := ⟨.DH_MAC, 47, 0⟩
-- MOD_SITE (R573)
def F.MOD_SITE.MASTER : RegFld := ⟨.MOD_SITE, 3, 0⟩
def F.MOD_SITE.MUX_ADDR : RegFld := ⟨.MOD_SITE, 10, 4⟩
def F.MOD_SITE.MUX_CHAN : RegFld := ⟨.MOD_SITE, 13, 11⟩
def F.MOD_SITE.FIRST_SLOT : RegFld := ⟨.MOD_SITE, 23, 16⟩
def F.MOD_SITE.SLOTS : RegFld := ⟨.MOD_SITE, 27, 24⟩
def F.MOD_SITE.POWER_EN : RegFld := ⟨.MOD_SITE, 30, 30⟩
def F.MOD_SITE.VALID : RegFld := ⟨.MOD_SITE, 31, 31⟩
-- MOD_STATUS (R573)
def F.MOD_STATUS.PRESENT : RegFld := ⟨.MOD_STATUS, 0, 0⟩
def F.MOD_STATUS.MODULE_STATE : RegFld := ⟨.MOD_STATUS, 3, 1⟩
def F.MOD_STATUS.FLAG_SET : RegFld := ⟨.MOD_STATUS, 4, 4⟩
-- LN_CTRL (R509)
def F.LN_CTRL.VOLT_FREEZE : RegFld := ⟨.LN_CTRL, 0, 0⟩
def F.LN_CTRL.FREQ_FREEZE : RegFld := ⟨.LN_CTRL, 1, 1⟩
def F.LN_CTRL.TOKEN_FREEZE : RegFld := ⟨.LN_CTRL, 2, 2⟩
def F.LN_CTRL.PLACE_FREEZE : RegFld := ⟨.LN_CTRL, 3, 3⟩
def F.LN_CTRL.NARROW_FREEZE : RegFld := ⟨.LN_CTRL, 4, 4⟩
def F.LN_CTRL.GAIN_FREEZE : RegFld := ⟨.LN_CTRL, 5, 5⟩
def F.LN_CTRL.GAIN_SHIFT : RegFld := ⟨.LN_CTRL, 11, 8⟩
def F.LN_CTRL.FREQ_STEP : RegFld := ⟨.LN_CTRL, 21, 16⟩
def F.LN_CTRL.UTIL_UP : RegFld := ⟨.LN_CTRL, 31, 24⟩
-- LN_LIMITS (R509)
def F.LN_LIMITS.P_SUST : RegFld := ⟨.LN_LIMITS, 15, 0⟩
def F.LN_LIMITS.P_BURST : RegFld := ⟨.LN_LIMITS, 31, 16⟩
def F.LN_LIMITS.SUST_SHIFT : RegFld := ⟨.LN_LIMITS, 36, 32⟩
def F.LN_LIMITS.BURST_SHIFT : RegFld := ⟨.LN_LIMITS, 44, 40⟩
-- LN_THERMAL (R509)
def F.LN_THERMAL.T_TARGET : RegFld := ⟨.LN_THERMAL, 7, 0⟩
def F.LN_THERMAL.T_HYST : RegFld := ⟨.LN_THERMAL, 15, 8⟩
def F.LN_THERMAL.T_WARN : RegFld := ⟨.LN_THERMAL, 23, 16⟩
def F.LN_THERMAL.T_CRIT : RegFld := ⟨.LN_THERMAL, 31, 24⟩
def F.LN_THERMAL.PLACE_MARGIN : RegFld := ⟨.LN_THERMAL, 39, 32⟩
def F.LN_THERMAL.PLACE_MIN : RegFld := ⟨.LN_THERMAL, 46, 40⟩
def F.LN_THERMAL.PLACE_CLASSES : RegFld := ⟨.LN_THERMAL, 51, 48⟩
-- LN_NARROW (R509)
def F.LN_NARROW.NARROW_LOW : RegFld := ⟨.LN_NARROW, 7, 0⟩
def F.LN_NARROW.WIDEN_HIGH : RegFld := ⟨.LN_NARROW, 15, 8⟩
def F.LN_NARROW.NARROW_TICKS : RegFld := ⟨.LN_NARROW, 31, 16⟩
def F.LN_NARROW.WIDEN_CELLS : RegFld := ⟨.LN_NARROW, 41, 32⟩
def F.LN_NARROW.NARROW_MIN : RegFld := ⟨.LN_NARROW, 43, 42⟩
-- LN_MISC (R509)
def F.LN_MISC.PMBUS_MS : RegFld := ⟨.LN_MISC, 15, 0⟩
def F.LN_MISC.UNMET_TICKS : RegFld := ⟨.LN_MISC, 31, 16⟩
def F.LN_MISC.OVERRUN_SAFE : RegFld := ⟨.LN_MISC, 39, 32⟩
def F.LN_MISC.V_SETTLE_TICKS : RegFld := ⟨.LN_MISC, 47, 40⟩
def F.LN_MISC.V_MARGIN : RegFld := ⟨.LN_MISC, 55, 48⟩
-- LN_STATUS (R509)
def F.LN_STATUS.UNMET : RegFld := ⟨.LN_STATUS, 0, 0⟩
def F.LN_STATUS.SAFE_CLOCKS : RegFld := ⟨.LN_STATUS, 1, 1⟩
def F.LN_STATUS.EMERGENCY : RegFld := ⟨.LN_STATUS, 28, 16⟩
-- LN_POWER (R509)
def F.LN_POWER.P_MEAS : RegFld := ⟨.LN_POWER, 15, 0⟩
def F.LN_POWER.AVG_S : RegFld := ⟨.LN_POWER, 31, 16⟩
def F.LN_POWER.AVG_B : RegFld := ⟨.LN_POWER, 47, 32⟩
-- LN_POOL (R509)
def F.LN_POOL.POOL : RegFld := ⟨.LN_POOL, 31, 0⟩
def F.LN_POOL.FLOOR : RegFld := ⟨.LN_POOL, 63, 32⟩
-- LN_PLACE_MASK (R509)
def F.LN_PLACE_MASK.MASK : RegFld := ⟨.LN_PLACE_MASK, 63, 0⟩
-- LN_CL_FREQ (R509)
def F.LN_CL_FREQ.F_MIN : RegFld := ⟨.LN_CL_FREQ, 5, 0⟩
def F.LN_CL_FREQ.F_MAX : RegFld := ⟨.LN_CL_FREQ, 13, 8⟩
def F.LN_CL_FREQ.ALLOT_FLOOR : RegFld := ⟨.LN_CL_FREQ, 31, 16⟩
-- LN_CL_STATUS (R509)
def F.LN_CL_STATUS.CODE : RegFld := ⟨.LN_CL_STATUS, 5, 0⟩
def F.LN_CL_STATUS.TARGET : RegFld := ⟨.LN_CL_STATUS, 13, 8⟩
def F.LN_CL_STATUS.RISE_PENDING : RegFld := ⟨.LN_CL_STATUS, 14, 14⟩
def F.LN_CL_STATUS.TEMP : RegFld := ⟨.LN_CL_STATUS, 31, 24⟩
-- LN_DIE_CFG (R509)
def F.LN_DIE_CFG.ICC_MAX : RegFld := ⟨.LN_DIE_CFG, 15, 0⟩
def F.LN_DIE_CFG.V_MIN : RegFld := ⟨.LN_DIE_CFG, 31, 16⟩
def F.LN_DIE_CFG.V_MAX : RegFld := ⟨.LN_DIE_CFG, 47, 32⟩
-- LN_DIE_STATUS (R509)
def F.LN_DIE_STATUS.V_TARGET : RegFld := ⟨.LN_DIE_STATUS, 15, 0⟩
def F.LN_DIE_STATUS.V_MEAS : RegFld := ⟨.LN_DIE_STATUS, 31, 16⟩
def F.LN_DIE_STATUS.CURRENT : RegFld := ⟨.LN_DIE_STATUS, 47, 32⟩
def F.LN_DIE_STATUS.TEMP : RegFld := ⟨.LN_DIE_STATUS, 55, 48⟩
def F.LN_DIE_STATUS.VALID_SENSORS : RegFld := ⟨.LN_DIE_STATUS, 60, 56⟩
-- LN_DIE_GAIN (R509)
def F.LN_DIE_GAIN.GAIN : RegFld := ⟨.LN_DIE_GAIN, 15, 0⟩
-- LN_MV_FLOOR (R509)
def F.LN_MV_FLOOR.MV_ALLOT_FLOOR : RegFld := ⟨.LN_MV_FLOOR, 31, 0⟩
-- LN_PORT (R509)
def F.LN_PORT.NARROW_EN : RegFld := ⟨.LN_PORT, 0, 0⟩
-- PC_CTRL (R573)
def F.PC_CTRL.RUN : RegFld := ⟨.PC_CTRL, 0, 0⟩
def F.PC_CTRL.SNAP : RegFld := ⟨.PC_CTRL, 1, 1⟩
def F.PC_CTRL.SNAP_SEQ : RegFld := ⟨.PC_CTRL, 47, 16⟩
-- PC_OVF (R573)
def F.PC_OVF.OVF : RegFld := ⟨.PC_OVF, 63, 0⟩
-- PC_SEL (R573)
def F.PC_SEL.EVENT : RegFld := ⟨.PC_SEL, 7, 0⟩
def F.PC_SEL.INSTANCE : RegFld := ⟨.PC_SEL, 17, 8⟩
def F.PC_SEL.ALL_INSTANCES : RegFld := ⟨.PC_SEL, 18, 18⟩
def F.PC_SEL.QUAL : RegFld := ⟨.PC_SEL, 23, 20⟩
def F.PC_SEL.QUAL_EN : RegFld := ⟨.PC_SEL, 24, 24⟩
def F.PC_SEL.OVF_EVENT : RegFld := ⟨.PC_SEL, 25, 25⟩
def F.PC_SEL.ENABLE : RegFld := ⟨.PC_SEL, 63, 63⟩
-- PC_VALUE (R573)
def F.PC_VALUE.COUNT : RegFld := ⟨.PC_VALUE, 47, 0⟩
-- PC_SNAP (R573)
def F.PC_SNAP.COUNT : RegFld := ⟨.PC_SNAP, 47, 0⟩
-- EV_ROUTE (R572)
def F.EV_ROUTE.FUNC : RegFld := ⟨.EV_ROUTE, 11, 0⟩
def F.EV_ROUTE.VECTOR : RegFld := ⟨.EV_ROUTE, 22, 12⟩
def F.EV_ROUTE.DEST : RegFld := ⟨.EV_ROUTE, 25, 24⟩
def F.EV_ROUTE.ENABLE : RegFld := ⟨.EV_ROUTE, 31, 31⟩
def F.EV_ROUTE.ROUTE_SUPPRESSED : RegFld := ⟨.EV_ROUTE, 32, 32⟩
-- EV_PENDING (R572)
def F.EV_PENDING.PENDING : RegFld := ⟨.EV_PENDING, 63, 0⟩
-- EV_FORCE (R572)
def F.EV_FORCE.SOURCE : RegFld := ⟨.EV_FORCE, 10, 0⟩
def F.EV_FORCE.GO : RegFld := ⟨.EV_FORCE, 31, 31⟩
-- EV_PORT_CAUSE (R572)
def F.EV_PORT_CAUSE.CAUSE : RegFld := ⟨.EV_PORT_CAUSE, 2, 0⟩
-- EV_HP_CAUSE (R572)
def F.EV_HP_CAUSE.CAUSE : RegFld := ⟨.EV_HP_CAUSE, 2, 0⟩
-- MCTP_VDM_PARTS (R572)
def F.MCTP_VDM_PARTS.PARTS : RegFld := ⟨.MCTP_VDM_PARTS, 15, 0⟩
-- BUF_CFG (R147)
def F.BUF_CFG.OCC_LOW : RegFld := ⟨.BUF_CFG, 7, 0⟩
def F.BUF_CFG.OCC_HIGH : RegFld := ⟨.BUF_CFG, 15, 8⟩
def F.BUF_CFG.MARK_QUIET : RegFld := ⟨.BUF_CFG, 31, 16⟩
def F.BUF_CFG.BUF_FREEZE : RegFld := ⟨.BUF_CFG, 32, 32⟩
-- MARK_CFG (R147)
def F.MARK_CFG.MARK_ENABLE : RegFld := ⟨.MARK_CFG, 7, 0⟩
def F.MARK_CFG.MARK_TARGET_NS : RegFld := ⟨.MARK_CFG, 19, 8⟩
def F.MARK_CFG.K_MIN : RegFld := ⟨.MARK_CFG, 35, 20⟩
def F.MARK_CFG.K_MAX : RegFld := ⟨.MARK_CFG, 51, 36⟩
def F.MARK_CFG.MARK_FREEZE : RegFld := ⟨.MARK_CFG, 52, 52⟩
-- HOT_CFG (R147)
def F.HOT_CFG.HOT_MARKS : RegFld := ⟨.HOT_CFG, 15, 0⟩
def F.HOT_CFG.HOT_COOL : RegFld := ⟨.HOT_CFG, 23, 16⟩
def F.HOT_CFG.HOT_ALPHA : RegFld := ⟨.HOT_CFG, 31, 24⟩
def F.HOT_CFG.HOT_ENABLE : RegFld := ⟨.HOT_CFG, 32, 32⟩
-- TC_BUF (R147)
def F.TC_BUF.ALPHA_MIN : RegFld := ⟨.TC_BUF, 7, 0⟩
def F.TC_BUF.ALPHA_MAX : RegFld := ⟨.TC_BUF, 15, 8⟩
def F.TC_BUF.ALPHA_INIT : RegFld := ⟨.TC_BUF, 23, 16⟩
-- ALPHA_STATUS (R147)
def F.ALPHA_STATUS.Q0 : RegFld := ⟨.ALPHA_STATUS, 7, 0⟩
def F.ALPHA_STATUS.Q1 : RegFld := ⟨.ALPHA_STATUS, 15, 8⟩
def F.ALPHA_STATUS.Q2 : RegFld := ⟨.ALPHA_STATUS, 23, 16⟩
def F.ALPHA_STATUS.Q3 : RegFld := ⟨.ALPHA_STATUS, 31, 24⟩
-- HOT_ENTRY (R147)
def F.HOT_ENTRY.ADDRESS : RegFld := ⟨.HOT_ENTRY, 25, 0⟩
def F.HOT_ENTRY.VALID : RegFld := ⟨.HOT_ENTRY, 63, 63⟩
-- PORT_SCHED (R147)
def F.PORT_SCHED.CT_ENABLE : RegFld := ⟨.PORT_SCHED, 7, 0⟩
-- CREDIT_INIT_A (R147)
def F.CREDIT_INIT_A.VCID0 : RegFld := ⟨.CREDIT_INIT_A, 11, 0⟩
def F.CREDIT_INIT_A.VCID1 : RegFld := ⟨.CREDIT_INIT_A, 27, 16⟩
def F.CREDIT_INIT_A.VCID2 : RegFld := ⟨.CREDIT_INIT_A, 43, 32⟩
def F.CREDIT_INIT_A.VCID3 : RegFld := ⟨.CREDIT_INIT_A, 59, 48⟩
-- CREDIT_INIT_B (R147)
def F.CREDIT_INIT_B.VCID4 : RegFld := ⟨.CREDIT_INIT_B, 11, 0⟩
def F.CREDIT_INIT_B.VCID5 : RegFld := ⟨.CREDIT_INIT_B, 27, 16⟩
def F.CREDIT_INIT_B.VCID6 : RegFld := ⟨.CREDIT_INIT_B, 43, 32⟩
def F.CREDIT_INIT_B.VCID7 : RegFld := ⟨.CREDIT_INIT_B, 59, 48⟩
-- QUANTUM (R147)
def F.QUANTUM.TC0 : RegFld := ⟨.QUANTUM, 7, 0⟩
def F.QUANTUM.TC1 : RegFld := ⟨.QUANTUM, 15, 8⟩
def F.QUANTUM.TC2 : RegFld := ⟨.QUANTUM, 23, 16⟩
def F.QUANTUM.TC3 : RegFld := ⟨.QUANTUM, 31, 24⟩
def F.QUANTUM.TC4 : RegFld := ⟨.QUANTUM, 39, 32⟩
def F.QUANTUM.TC5 : RegFld := ⟨.QUANTUM, 47, 40⟩
-- PORT_SHAPER (R147)
def F.PORT_SHAPER.RATE : RegFld := ⟨.PORT_SHAPER, 19, 0⟩
def F.PORT_SHAPER.BURST : RegFld := ⟨.PORT_SHAPER, 43, 24⟩
def F.PORT_SHAPER.ENABLE : RegFld := ⟨.PORT_SHAPER, 63, 63⟩
-- TC_SHAPER (R147)
def F.TC_SHAPER.RATE : RegFld := ⟨.TC_SHAPER, 19, 0⟩
def F.TC_SHAPER.BURST : RegFld := ⟨.TC_SHAPER, 43, 24⟩
def F.TC_SHAPER.ENABLE : RegFld := ⟨.TC_SHAPER, 63, 63⟩
-- LL_CFG (R215)
def F.LL_CFG.REPLAY_TICKS : RegFld := ⟨.LL_CFG, 3, 0⟩
def F.LL_CFG.RETRAIN_REPLAYS : RegFld := ⟨.LL_CFG, 7, 4⟩
def F.LL_CFG.LINK_DOWN_US : RegFld := ⟨.LL_CFG, 17, 8⟩
def F.LL_CFG.ACK_COALESCE_NS : RegFld := ⟨.LL_CFG, 27, 18⟩
def F.LL_CFG.NAK_HOLDOFF_NS : RegFld := ⟨.LL_CFG, 39, 28⟩
def F.LL_CFG.RESUME_MS : RegFld := ⟨.LL_CFG, 49, 40⟩
-- LL_STATUS (R215)
def F.LL_STATUS.NEXT_LSEQ : RegFld := ⟨.LL_STATUS, 15, 0⟩
def F.LL_STATUS.ACKED : RegFld := ⟨.LL_STATUS, 31, 16⟩
def F.LL_STATUS.ESEQ : RegFld := ⟨.LL_STATUS, 47, 32⟩
def F.LL_STATUS.NAK_PENDING : RegFld := ⟨.LL_STATUS, 48, 48⟩
def F.LL_STATUS.REPLAYING : RegFld := ⟨.LL_STATUS, 49, 49⟩
def F.LL_STATUS.REPLAY_FULL : RegFld := ⟨.LL_STATUS, 50, 50⟩
def F.LL_STATUS.FROZEN : RegFld := ⟨.LL_STATUS, 51, 51⟩
def F.LL_STATUS.RESUMED : RegFld := ⟨.LL_STATUS, 52, 52⟩
def F.LL_STATUS.PARTNER_FATAL : RegFld := ⟨.LL_STATUS, 53, 53⟩
def F.LL_STATUS.PARTNER_CAUSE : RegFld := ⟨.LL_STATUS, 57, 54⟩
-- LL_CREDIT_A (R215)
def F.LL_CREDIT_A.VCID0 : RegFld := ⟨.LL_CREDIT_A, 11, 0⟩
def F.LL_CREDIT_A.VCID1 : RegFld := ⟨.LL_CREDIT_A, 27, 16⟩
def F.LL_CREDIT_A.VCID2 : RegFld := ⟨.LL_CREDIT_A, 43, 32⟩
def F.LL_CREDIT_A.VCID3 : RegFld := ⟨.LL_CREDIT_A, 59, 48⟩
-- LL_CREDIT_B (R215)
def F.LL_CREDIT_B.VCID4 : RegFld := ⟨.LL_CREDIT_B, 11, 0⟩
def F.LL_CREDIT_B.VCID5 : RegFld := ⟨.LL_CREDIT_B, 27, 16⟩
def F.LL_CREDIT_B.VCID6 : RegFld := ⟨.LL_CREDIT_B, 43, 32⟩
def F.LL_CREDIT_B.VCID7 : RegFld := ⟨.LL_CREDIT_B, 59, 48⟩
-- LL_REPLAY_USED (R215)
def F.LL_REPLAY_USED.BLOCKS : RegFld := ⟨.LL_REPLAY_USED, 14, 0⟩
-- XL_CTRL (R447)
def F.XL_CTRL.CPL_TIMEOUT_MS : RegFld := ⟨.XL_CTRL, 6, 0⟩
def F.XL_CTRL.PARK_MAX : RegFld := ⟨.XL_CTRL, 14, 8⟩
def F.XL_CTRL.GS_EXPORT_SIZE : RegFld := ⟨.XL_CTRL, 27, 16⟩
-- XL_MISS_RESOLVE (R447)
def F.XL_MISS_RESOLVE.MISS : RegFld := ⟨.XL_MISS_RESOLVE, 7, 0⟩
def F.XL_MISS_RESOLVE.STATUS : RegFld := ⟨.XL_MISS_RESOLVE, 15, 8⟩
-- XL_MISS_VA (R447)
def F.XL_MISS_VA.ADDR : RegFld := ⟨.XL_MISS_VA, 47, 0⟩
def F.XL_MISS_VA.ASID : RegFld := ⟨.XL_MISS_VA, 57, 48⟩
def F.XL_MISS_VA.ACCESS : RegFld := ⟨.XL_MISS_VA, 60, 58⟩
def F.XL_MISS_VA.PLACEMENT : RegFld := ⟨.XL_MISS_VA, 61, 61⟩
def F.XL_MISS_VA.USER : RegFld := ⟨.XL_MISS_VA, 62, 62⟩
def F.XL_MISS_VA.VALID : RegFld := ⟨.XL_MISS_VA, 63, 63⟩
-- XL_MISS_SRC (R447)
def F.XL_MISS_SRC.SRC : RegFld := ⟨.XL_MISS_SRC, 5, 0⟩
-- XL_ASID_ROOT (R447)
def F.XL_ASID_ROOT.ROOT : RegFld := ⟨.XL_ASID_ROOT, 63, 12⟩
-- XL_ASID_CFG (R447)
def F.XL_ASID_CFG.FUNC : RegFld := ⟨.XL_ASID_CFG, 11, 0⟩
def F.XL_ASID_CFG.VALID : RegFld := ⟨.XL_ASID_CFG, 63, 63⟩
-- EB_FMF_CFG (R494)
def F.EB_FMF_CFG.IN_PARTITION : RegFld := ⟨.EB_FMF_CFG, 0, 0⟩
def F.EB_FMF_CFG.FMF_PART : RegFld := ⟨.EB_FMF_CFG, 7, 4⟩
-- EB_CFG (R494)
def F.EB_CFG.FLIT_LOW_EN : RegFld := ⟨.EB_CFG, 0, 0⟩
-- EB_STACK_CFG (R494)
def F.EB_STACK_CFG.BIFURCATION : RegFld := ⟨.EB_STACK_CFG, 1, 0⟩
def F.EB_STACK_CFG.REFCLK_MODE : RegFld := ⟨.EB_STACK_CFG, 5, 4⟩
-- EB_PART_CFG (R494)
def F.EB_PART_CFG.UPSTREAM_PORT : RegFld := ⟨.EB_PART_CFG, 5, 0⟩
def F.EB_PART_CFG.HOME_HUB : RegFld := ⟨.EB_PART_CFG, 7, 6⟩
def F.EB_PART_CFG.PTM_SRC : RegFld := ⟨.EB_PART_CFG, 8, 8⟩
def F.EB_PART_CFG.SHARED_BRIDGE : RegFld := ⟨.EB_PART_CFG, 9, 9⟩
def F.EB_PART_CFG.TOTAL_VFS : RegFld := ⟨.EB_PART_CFG, 24, 16⟩
def F.EB_PART_CFG.ENABLE : RegFld := ⟨.EB_PART_CFG, 31, 31⟩
def F.EB_PART_CFG.PTM_INTERVAL : RegFld := ⟨.EB_PART_CFG, 47, 32⟩
-- EB_PART_STATUS (R494)
def F.EB_PART_STATUS.UPSTREAM_UP : RegFld := ⟨.EB_PART_STATUS, 0, 0⟩
def F.EB_PART_STATUS.IN_RESET : RegFld := ⟨.EB_PART_STATUS, 1, 1⟩
-- EB_PORT_CFG (R494)
def F.EB_PORT_CFG.ROLE : RegFld := ⟨.EB_PORT_CFG, 1, 0⟩
def F.EB_PORT_CFG.SHARED : RegFld := ⟨.EB_PORT_CFG, 2, 2⟩
def F.EB_PORT_CFG.PARTITION : RegFld := ⟨.EB_PORT_CFG, 7, 4⟩
def F.EB_PORT_CFG.VDEV : RegFld := ⟨.EB_PORT_CFG, 12, 8⟩
def F.EB_PORT_CFG.MAX_SPEED : RegFld := ⟨.EB_PORT_CFG, 15, 13⟩
def F.EB_PORT_CFG.HOTPLUG_EN : RegFld := ⟨.EB_PORT_CFG, 16, 16⟩
def F.EB_PORT_CFG.SYN_STATUS : RegFld := ⟨.EB_PORT_CFG, 17, 17⟩
def F.EB_PORT_CFG.SYN_DPC : RegFld := ⟨.EB_PORT_CFG, 18, 18⟩
def F.EB_PORT_CFG.SW_CPL_TIMEOUT_MS : RegFld := ⟨.EB_PORT_CFG, 25, 19⟩
def F.EB_PORT_CFG.L0P_EN : RegFld := ⟨.EB_PORT_CFG, 26, 26⟩
-- EB_PORT_STATUS (R494)
def F.EB_PORT_STATUS.LINK_UP : RegFld := ⟨.EB_PORT_STATUS, 0, 0⟩
def F.EB_PORT_STATUS.SPEED : RegFld := ⟨.EB_PORT_STATUS, 3, 1⟩
def F.EB_PORT_STATUS.WIDTH : RegFld := ⟨.EB_PORT_STATUS, 8, 4⟩
def F.EB_PORT_STATUS.FLIT : RegFld := ⟨.EB_PORT_STATUS, 9, 9⟩
def F.EB_PORT_STATUS.DPC_ACTIVE : RegFld := ⟨.EB_PORT_STATUS, 10, 10⟩
def F.EB_PORT_STATUS.DPC_CAUSE : RegFld := ⟨.EB_PORT_STATUS, 12, 11⟩
def F.EB_PORT_STATUS.PRESENT : RegFld := ⟨.EB_PORT_STATUS, 13, 13⟩
def F.EB_PORT_STATUS.IDE_SECURE : RegFld := ⟨.EB_PORT_STATUS, 14, 14⟩
def F.EB_PORT_STATUS.CPL_TIMEOUT_SEEN : RegFld := ⟨.EB_PORT_STATUS, 15, 15⟩
-- XP_CTRL (R494)
def F.XP_CTRL.SRC_PART : RegFld := ⟨.XP_CTRL, 3, 0⟩
def F.XP_CTRL.TGT_PART : RegFld := ⟨.XP_CTRL, 7, 4⟩
def F.XP_CTRL.READ : RegFld := ⟨.XP_CTRL, 8, 8⟩
def F.XP_CTRL.WRITE : RegFld := ⟨.XP_CTRL, 9, 9⟩
def F.XP_CTRL.ENABLE : RegFld := ⟨.XP_CTRL, 63, 63⟩
-- XP_SRC_BASE (R494)
def F.XP_SRC_BASE.PAGE : RegFld := ⟨.XP_SRC_BASE, 63, 12⟩
-- XP_SRC_LIMIT (R494)
def F.XP_SRC_LIMIT.PAGE : RegFld := ⟨.XP_SRC_LIMIT, 63, 12⟩
-- XP_TGT_BASE (R494)
def F.XP_TGT_BASE.PAGE : RegFld := ⟨.XP_TGT_BASE, 63, 12⟩
-- SVF_CTRL (R494)
def F.SVF_CTRL.PORT : RegFld := ⟨.SVF_CTRL, 5, 0⟩
def F.SVF_CTRL.PARTITION : RegFld := ⟨.SVF_CTRL, 11, 8⟩
def F.SVF_CTRL.VFUNC : RegFld := ⟨.SVF_CTRL, 23, 16⟩
def F.SVF_CTRL.BAR_LOG2 : RegFld := ⟨.SVF_CTRL, 29, 24⟩
def F.SVF_CTRL.GONE : RegFld := ⟨.SVF_CTRL, 62, 62⟩
def F.SVF_CTRL.ENABLE : RegFld := ⟨.SVF_CTRL, 63, 63⟩
-- SVF_ID (R494)
def F.SVF_ID.PHYS_RID : RegFld := ⟨.SVF_ID, 15, 0⟩
def F.SVF_ID.VENDOR_ID : RegFld := ⟨.SVF_ID, 31, 16⟩
def F.SVF_ID.DEVICE_ID : RegFld := ⟨.SVF_ID, 47, 32⟩
-- SVF_BAR (R494)
def F.SVF_BAR.PHYS_BAR : RegFld := ⟨.SVF_BAR, 63, 12⟩
-- FAULT_CTRL (R533)
def F.FAULT_CTRL.ERR_MIN_CLASS : RegFld := ⟨.FAULT_CTRL, 1, 0⟩
def F.FAULT_CTRL.BANK_CE_LIMIT : RegFld := ⟨.FAULT_CTRL, 23, 8⟩
def F.FAULT_CTRL.WATCHDOG_CK : RegFld := ⟨.FAULT_CTRL, 51, 32⟩
-- FAULT_SUMMARY (R533)
def F.FAULT_SUMMARY.SAFE_STATE : RegFld := ⟨.FAULT_SUMMARY, 0, 0⟩
def F.FAULT_SUMMARY.HIGHEST : RegFld := ⟨.FAULT_SUMMARY, 2, 1⟩
def F.FAULT_SUMMARY.ERR_N : RegFld := ⟨.FAULT_SUMMARY, 3, 3⟩
-- FAULT_FORCE (R533)
def F.FAULT_FORCE.SOURCE : RegFld := ⟨.FAULT_FORCE, 10, 0⟩
def F.FAULT_FORCE.ACT : RegFld := ⟨.FAULT_FORCE, 16, 16⟩
def F.FAULT_FORCE.GO : RegFld := ⟨.FAULT_FORCE, 31, 31⟩
-- LOG_WR (R533)
def F.LOG_WR.COUNT : RegFld := ⟨.LOG_WR, 31, 0⟩
-- MIRROR_BASE (R533)
def F.MIRROR_BASE.BASE : RegFld := ⟨.MIRROR_BASE, 63, 12⟩
-- MIRROR_CFG (R533)
def F.MIRROR_CFG.MIRROR_FUNC : RegFld := ⟨.MIRROR_CFG, 11, 0⟩
def F.MIRROR_CFG.MIRROR_EN : RegFld := ⟨.MIRROR_CFG, 12, 12⟩
def F.MIRROR_CFG.MIRROR_SYNCED : RegFld := ⟨.MIRROR_CFG, 13, 13⟩
-- FAULT_STATUS (R533)
def F.FAULT_STATUS.STATUS : RegFld := ⟨.FAULT_STATUS, 63, 0⟩
-- FAULT_CLASS (R533)
def F.FAULT_CLASS.CLASS : RegFld := ⟨.FAULT_CLASS, 63, 0⟩
-- FATAL_RECORD (R533)
def F.FATAL_RECORD.DATA : RegFld := ⟨.FATAL_RECORD, 63, 0⟩
-- DG_HUB (R533)
def F.DG_HUB.SPARE_ENGINES_LEFT : RegFld := ⟨.DG_HUB, 3, 0⟩
def F.DG_HUB.ENGINES_DOWN : RegFld := ⟨.DG_HUB, 11, 4⟩
def F.DG_HUB.SPARE_BANKS_LEFT : RegFld := ⟨.DG_HUB, 13, 12⟩
def F.DG_HUB.BANKS_FROM_MIRROR : RegFld := ⟨.DG_HUB, 19, 14⟩
def F.DG_HUB.SPARE_COLUMN_IN_USE : RegFld := ⟨.DG_HUB, 20, 20⟩
def F.DG_HUB.COLUMN_PENDING : RegFld := ⟨.DG_HUB, 21, 21⟩
-- DG_GROUPS (R533)
def F.DG_GROUPS.EMPTY : RegFld := ⟨.DG_GROUPS, 63, 0⟩
-- DG_FABRIC (R533)
def F.DG_FABRIC.OUT_OF_SERVICE : RegFld := ⟨.DG_FABRIC, 8, 0⟩
def F.DG_FABRIC.DEGRADED : RegFld := ⟨.DG_FABRIC, 17, 9⟩
-- DG_PCIE (R533)
def F.DG_PCIE.DPC : RegFld := ⟨.DG_PCIE, 39, 0⟩
-- FAULT_LOG (R533)
def F.FAULT_LOG.DATA : RegFld := ⟨.FAULT_LOG, 63, 0⟩
-- HB_CMD (R375)
def F.HB_CMD.SLOT : RegFld := ⟨.HB_CMD, 11, 0⟩
def F.HB_CMD.OP : RegFld := ⟨.HB_CMD, 13, 12⟩
-- HB_DATA (R375)
def F.HB_DATA.DATA : RegFld := ⟨.HB_DATA, 63, 0⟩
-- IMG_ADDR (R375)
def F.IMG_ADDR.ADDR : RegFld := ⟨.IMG_ADDR, 63, 6⟩
-- IMG_CMD (R375)
def F.IMG_CMD.LOAD : RegFld := ⟨.IMG_CMD, 0, 0⟩
def F.IMG_CMD.UNLOAD : RegFld := ⟨.IMG_CMD, 1, 1⟩
def F.IMG_CMD.IMAGE : RegFld := ⟨.IMG_CMD, 15, 8⟩
-- IMG_STATUS (R375)
def F.IMG_STATUS.BUSY : RegFld := ⟨.IMG_STATUS, 0, 0⟩
def F.IMG_STATUS.DONE : RegFld := ⟨.IMG_STATUS, 1, 1⟩
def F.IMG_STATUS.RESULT : RegFld := ⟨.IMG_STATUS, 15, 8⟩
def F.IMG_STATUS.IMAGE : RegFld := ⟨.IMG_STATUS, 23, 16⟩
def F.IMG_STATUS.FREE : RegFld := ⟨.IMG_STATUS, 47, 32⟩
-- SYS_BIND (R375)
def F.SYS_BIND.MISS : RegFld := ⟨.SYS_BIND, 11, 0⟩
def F.SYS_BIND.OVERFLOW : RegFld := ⟨.SYS_BIND, 23, 12⟩
def F.SYS_BIND.FAULT : RegFld := ⟨.SYS_BIND, 35, 24⟩
def F.SYS_BIND.SAMPLING : RegFld := ⟨.SYS_BIND, 47, 36⟩
def F.SYS_BIND.COLL : RegFld := ⟨.SYS_BIND, 59, 48⟩
-- CTR_WATCH (R375)
def F.CTR_WATCH.COUNTER : RegFld := ⟨.CTR_WATCH, 15, 0⟩
def F.CTR_WATCH.SLOT : RegFld := ⟨.CTR_WATCH, 27, 16⟩
def F.CTR_WATCH.ARM : RegFld := ⟨.CTR_WATCH, 28, 28⟩
-- CTR_THRESH (R375)
def F.CTR_THRESH.THRESH : RegFld := ⟨.CTR_THRESH, 63, 0⟩
-- CL_CFG (R375)
def F.CL_CFG.RESERVE_P0 : RegFld := ⟨.CL_CFG, 3, 0⟩
def F.CL_CFG.RESERVE_P1 : RegFld := ⟨.CL_CFG, 7, 4⟩
def F.CL_CFG.P2_FLOOR : RegFld := ⟨.CL_CFG, 15, 8⟩
def F.CL_CFG.P3_FLOOR : RegFld := ⟨.CL_CFG, 23, 16⟩
-- CL_STATUS (R375)
def F.CL_STATUS.RUN0 : RegFld := ⟨.CL_STATUS, 5, 0⟩
def F.CL_STATUS.RUN1 : RegFld := ⟨.CL_STATUS, 13, 8⟩
def F.CL_STATUS.RUN2 : RegFld := ⟨.CL_STATUS, 21, 16⟩
def F.CL_STATUS.RUN3 : RegFld := ⟨.CL_STATUS, 29, 24⟩
-- CL_QDEPTH (R375)
def F.CL_QDEPTH.Q0 : RegFld := ⟨.CL_QDEPTH, 8, 0⟩
def F.CL_QDEPTH.Q1 : RegFld := ⟨.CL_QDEPTH, 24, 16⟩
def F.CL_QDEPTH.Q2 : RegFld := ⟨.CL_QDEPTH, 40, 32⟩
def F.CL_QDEPTH.Q3 : RegFld := ⟨.CL_QDEPTH, 56, 48⟩
-- CL_TOKENS (R375)
def F.CL_TOKENS.ALLOT : RegFld := ⟨.CL_TOKENS, 31, 0⟩
def F.CL_TOKENS.REMAIN : RegFld := ⟨.CL_TOKENS, 63, 32⟩
-- CL_TOKEN_COST (R375)
def F.CL_TOKEN_COST.TOKEN_COST : RegFld := ⟨.CL_TOKEN_COST, 15, 0⟩
-- TIMER_CFG (R375)
def F.TIMER_CFG.PERIOD : RegFld := ⟨.TIMER_CFG, 31, 0⟩
def F.TIMER_CFG.SLOT : RegFld := ⟨.TIMER_CFG, 43, 32⟩
def F.TIMER_CFG.ENABLE : RegFld := ⟨.TIMER_CFG, 44, 44⟩
-- TIMER_DUE (R375)
def F.TIMER_DUE.DUE : RegFld := ⟨.TIMER_DUE, 47, 0⟩
-- SAMPLE_CFG (R375)
def F.SAMPLE_CFG.SAMPLE_EN : RegFld := ⟨.SAMPLE_CFG, 0, 0⟩
def F.SAMPLE_CFG.SAMPLE_MODE : RegFld := ⟨.SAMPLE_CFG, 2, 1⟩
def F.SAMPLE_CFG.PERIOD_EXP : RegFld := ⟨.SAMPLE_CFG, 12, 8⟩
def F.SAMPLE_CFG.WATERMARK : RegFld := ⟨.SAMPLE_CFG, 23, 16⟩
-- SAMPLE_PTR (R375)
def F.SAMPLE_PTR.WR : RegFld := ⟨.SAMPLE_PTR, 7, 0⟩
def F.SAMPLE_PTR.RD : RegFld := ⟨.SAMPLE_PTR, 15, 8⟩
def F.SAMPLE_PTR.SAMPLES_LOST : RegFld := ⟨.SAMPLE_PTR, 47, 16⟩
-- ENG_STATUS (R375)
def F.ENG_STATUS.PHYSICAL : RegFld := ⟨.ENG_STATUS, 7, 0⟩
def F.ENG_STATUS.SPARE_IN_USE : RegFld := ⟨.ENG_STATUS, 8, 8⟩
def F.ENG_STATUS.FENCED : RegFld := ⟨.ENG_STATUS, 9, 9⟩
def F.ENG_STATUS.RUNNING : RegFld := ⟨.ENG_STATUS, 13, 10⟩
-- PORT_CTRL (R186)
def F.PORT_CTRL.ENABLE : RegFld := ⟨.PORT_CTRL, 0, 0⟩
def F.PORT_CTRL.WIDTH_CFG : RegFld := ⟨.PORT_CTRL, 2, 1⟩
def F.PORT_CTRL.MAX_RATE : RegFld := ⟨.PORT_CTRL, 4, 3⟩
def F.PORT_CTRL.FEC_NONE_OK : RegFld := ⟨.PORT_CTRL, 5, 5⟩
def F.PORT_CTRL.VC8 : RegFld := ⟨.PORT_CTRL, 6, 6⟩
def F.PORT_CTRL.RIDGEPOLE : RegFld := ⟨.PORT_CTRL, 7, 7⟩
def F.PORT_CTRL.GUYLINE : RegFld := ⟨.PORT_CTRL, 8, 8⟩
def F.PORT_CTRL.DEGRADE : RegFld := ⟨.PORT_CTRL, 9, 9⟩
def F.PORT_CTRL.RATE_FALLBACK : RegFld := ⟨.PORT_CTRL, 10, 10⟩
def F.PORT_CTRL.REMOTE_LOOP_EN : RegFld := ⟨.PORT_CTRL, 11, 11⟩
def F.PORT_CTRL.MTU : RegFld := ⟨.PORT_CTRL, 14, 12⟩
-- PORT_TRAIN_CFG (R186)
def F.PORT_TRAIN_CFG.NEG_TIMEOUT_MS : RegFld := ⟨.PORT_TRAIN_CFG, 7, 0⟩
def F.PORT_TRAIN_CFG.EQ_TIMEOUT_MS : RegFld := ⟨.PORT_TRAIN_CFG, 15, 8⟩
def F.PORT_TRAIN_CFG.VERIFY_US : RegFld := ⟨.PORT_TRAIN_CFG, 25, 16⟩
def F.PORT_TRAIN_CFG.BER_LIMIT : RegFld := ⟨.PORT_TRAIN_CFG, 35, 26⟩
def F.PORT_TRAIN_CFG.PRESET : RegFld := ⟨.PORT_TRAIN_CFG, 38, 36⟩
def F.PORT_TRAIN_CFG.RETRY_MS : RegFld := ⟨.PORT_TRAIN_CFG, 46, 39⟩
-- PORT_CMD (R186)
def F.PORT_CMD.DRAIN : RegFld := ⟨.PORT_CMD, 0, 0⟩
def F.PORT_CMD.FORCE : RegFld := ⟨.PORT_CMD, 1, 1⟩
def F.PORT_CMD.RESTORE : RegFld := ⟨.PORT_CMD, 2, 2⟩
def F.PORT_CMD.RETRAIN : RegFld := ⟨.PORT_CMD, 3, 3⟩
def F.PORT_CMD.TEST : RegFld := ⟨.PORT_CMD, 4, 4⟩
-- PORT_TEST_CFG (R186)
def F.PORT_TEST_CFG.TEST_MODE : RegFld := ⟨.PORT_TEST_CFG, 2, 0⟩
def F.PORT_TEST_CFG.PATTERN : RegFld := ⟨.PORT_TEST_CFG, 5, 3⟩
def F.PORT_TEST_CFG.TEST_RATE : RegFld := ⟨.PORT_TEST_CFG, 7, 6⟩
def F.PORT_TEST_CFG.TEST_MS : RegFld := ⟨.PORT_TEST_CFG, 15, 8⟩
-- PORT_STATE (R186)
def F.PORT_STATE.STATE : RegFld := ⟨.PORT_STATE, 2, 0⟩
def F.PORT_STATE.RATE : RegFld := ⟨.PORT_STATE, 4, 3⟩
def F.PORT_STATE.WIDTH : RegFld := ⟨.PORT_STATE, 6, 5⟩
def F.PORT_STATE.LANE_SET : RegFld := ⟨.PORT_STATE, 14, 7⟩
def F.PORT_STATE.FEC_NONE : RegFld := ⟨.PORT_STATE, 15, 15⟩
def F.PORT_STATE.FOUR_VC : RegFld := ⟨.PORT_STATE, 16, 16⟩
def F.PORT_STATE.MTU : RegFld := ⟨.PORT_STATE, 19, 17⟩
def F.PORT_STATE.RIDGEPOLE : RegFld := ⟨.PORT_STATE, 20, 20⟩
def F.PORT_STATE.GUYLINE : RegFld := ⟨.PORT_STATE, 21, 21⟩
def F.PORT_STATE.DEGRADED : RegFld := ⟨.PORT_STATE, 22, 22⟩
def F.PORT_STATE.NARROWED : RegFld := ⟨.PORT_STATE, 23, 23⟩
def F.PORT_STATE.DRAINED : RegFld := ⟨.PORT_STATE, 24, 24⟩
def F.PORT_STATE.IN_SERVICE : RegFld := ⟨.PORT_STATE, 25, 25⟩
def F.PORT_STATE.PARTNER_TEST : RegFld := ⟨.PORT_STATE, 26, 26⟩
def F.PORT_STATE.FAIL_REASON : RegFld := ⟨.PORT_STATE, 30, 27⟩
-- PORT_PARTNER (R186)
def F.PORT_PARTNER.NODE : RegFld := ⟨.PORT_PARTNER, 19, 0⟩
def F.PORT_PARTNER.SLOT : RegFld := ⟨.PORT_PARTNER, 27, 20⟩
def F.PORT_PARTNER.IMPL : RegFld := ⟨.PORT_PARTNER, 43, 28⟩
def F.PORT_PARTNER.VERSION : RegFld := ⟨.PORT_PARTNER, 47, 44⟩
-- TEST_RESULT (R186)
def F.TEST_RESULT.PASS_MASK : RegFld := ⟨.TEST_RESULT, 7, 0⟩
def F.TEST_RESULT.DONE : RegFld := ⟨.TEST_RESULT, 8, 8⟩
def F.TEST_RESULT.LOOP_REFUSED : RegFld := ⟨.TEST_RESULT, 9, 9⟩
-- LANE_CFG (R186)
def F.LANE_CFG.RX_ADAPT_FREEZE : RegFld := ⟨.LANE_CFG, 0, 0⟩
def F.LANE_CFG.REMOTE_TUNE_EN : RegFld := ⟨.LANE_CFG, 1, 1⟩
def F.LANE_CFG.REMOTE_TUNE_TICKS : RegFld := ⟨.LANE_CFG, 15, 8⟩
def F.LANE_CFG.EYE_WINDOW : RegFld := ⟨.LANE_CFG, 26, 16⟩
-- LANE_STATUS (R186)
def F.LANE_STATUS.LOS : RegFld := ⟨.LANE_STATUS, 0, 0⟩
def F.LANE_STATUS.CDR_LOCK : RegFld := ⟨.LANE_STATUS, 1, 1⟩
def F.LANE_STATUS.COMMA_LOCK : RegFld := ⟨.LANE_STATUS, 2, 2⟩
def F.LANE_STATUS.CW_LOCK : RegFld := ⟨.LANE_STATUS, 3, 3⟩
def F.LANE_STATUS.BLOCK_LOCK : RegFld := ⟨.LANE_STATUS, 4, 4⟩
def F.LANE_STATUS.DESKEWED : RegFld := ⟨.LANE_STATUS, 5, 5⟩
def F.LANE_STATUS.RX_INVERTED : RegFld := ⟨.LANE_STATUS, 6, 6⟩
def F.LANE_STATUS.POWERED_DOWN : RegFld := ⟨.LANE_STATUS, 7, 7⟩
def F.LANE_STATUS.CAL_PENDING : RegFld := ⟨.LANE_STATUS, 8, 8⟩
def F.LANE_STATUS.CAL_DONE : RegFld := ⟨.LANE_STATUS, 9, 9⟩
-- LANE_CAL_CMD (R186)
def F.LANE_CAL_CMD.CAL : RegFld := ⟨.LANE_CAL_CMD, 0, 0⟩
-- LANE_PRBS_CFG (R186)
def F.LANE_PRBS_CFG.GEN_EN : RegFld := ⟨.LANE_PRBS_CFG, 0, 0⟩
def F.LANE_PRBS_CFG.CHK_EN : RegFld := ⟨.LANE_PRBS_CFG, 1, 1⟩
def F.LANE_PRBS_CFG.PATTERN : RegFld := ⟨.LANE_PRBS_CFG, 4, 2⟩
def F.LANE_PRBS_CFG.INVERT : RegFld := ⟨.LANE_PRBS_CFG, 5, 5⟩
def F.LANE_PRBS_CFG.INJECT_PERIODIC : RegFld := ⟨.LANE_PRBS_CFG, 6, 6⟩
def F.LANE_PRBS_CFG.INJECT_EXP : RegFld := ⟨.LANE_PRBS_CFG, 12, 8⟩
def F.LANE_PRBS_CFG.CHK_SYNC : RegFld := ⟨.LANE_PRBS_CFG, 16, 16⟩
-- LANE_PRBS_CMD (R186)
def F.LANE_PRBS_CMD.INJECT : RegFld := ⟨.LANE_PRBS_CMD, 0, 0⟩
def F.LANE_PRBS_CMD.CLEAR : RegFld := ⟨.LANE_PRBS_CMD, 1, 1⟩
-- LANE_FEC_CORRECTED (R186)
def F.LANE_FEC_CORRECTED.BITS : RegFld := ⟨.LANE_FEC_CORRECTED, 47, 0⟩
-- LANE_LOCK_LOSS_COUNT (R186)
def F.LANE_LOCK_LOSS_COUNT.BLOCK : RegFld := ⟨.LANE_LOCK_LOSS_COUNT, 15, 0⟩
def F.LANE_LOCK_LOSS_COUNT.CDR : RegFld := ⟨.LANE_LOCK_LOSS_COUNT, 31, 16⟩
def F.LANE_LOCK_LOSS_COUNT.LOS : RegFld := ⟨.LANE_LOCK_LOSS_COUNT, 47, 32⟩
-- LANE_TX_COEF (R186)
def F.LANE_TX_COEF.CM2 : RegFld := ⟨.LANE_TX_COEF, 7, 0⟩
def F.LANE_TX_COEF.CM1 : RegFld := ⟨.LANE_TX_COEF, 15, 8⟩
def F.LANE_TX_COEF.C0 : RegFld := ⟨.LANE_TX_COEF, 23, 16⟩
def F.LANE_TX_COEF.C1 : RegFld := ⟨.LANE_TX_COEF, 31, 24⟩
-- LANE_EYE (R186)
def F.LANE_EYE.HEIGHT : RegFld := ⟨.LANE_EYE, 15, 0⟩
def F.LANE_EYE.WIDTH : RegFld := ⟨.LANE_EYE, 31, 16⟩
-- MV_CFG (R468)
def F.MV_CFG.MAX_INFLIGHT : RegFld := ⟨.MV_CFG, 5, 0⟩
def F.MV_CFG.P2_FLOOR : RegFld := ⟨.MV_CFG, 15, 8⟩
def F.MV_CFG.P3_FLOOR : RegFld := ⟨.MV_CFG, 23, 16⟩
-- MV_TOKENS (R468)
def F.MV_TOKENS.ALLOT : RegFld := ⟨.MV_TOKENS, 31, 0⟩
def F.MV_TOKENS.REMAIN : RegFld := ⟨.MV_TOKENS, 63, 32⟩
-- MV_TOKEN_COST (R468)
def F.MV_TOKEN_COST.COST : RegFld := ⟨.MV_TOKEN_COST, 15, 0⟩
-- MV_STATUS (R468)
def F.MV_STATUS.CHANNEL : RegFld := ⟨.MV_STATUS, 4, 0⟩
def F.MV_STATUS.RUNNING : RegFld := ⟨.MV_STATUS, 5, 5⟩
-- MV_DONE_STATUS (R468)
def F.MV_DONE_STATUS.DONE : RegFld := ⟨.MV_DONE_STATUS, 31, 0⟩
-- MV_HALT_STATUS (R468)
def F.MV_HALT_STATUS.HALT : RegFld := ⟨.MV_HALT_STATUS, 31, 0⟩
-- CH_SRC (R468)
def F.CH_SRC.ADDR : RegFld := ⟨.CH_SRC, 47, 0⟩
def F.CH_SRC.FUNC : RegFld := ⟨.CH_SRC, 59, 48⟩
def F.CH_SRC.GS : RegFld := ⟨.CH_SRC, 60, 60⟩
-- CH_DST (R468)
def F.CH_DST.ADDR : RegFld := ⟨.CH_DST, 47, 0⟩
def F.CH_DST.FUNC : RegFld := ⟨.CH_DST, 59, 48⟩
def F.CH_DST.GS : RegFld := ⟨.CH_DST, 60, 60⟩
-- CH_SHAPE (R468)
def F.CH_SHAPE.ELEM_M1 : RegFld := ⟨.CH_SHAPE, 15, 0⟩
def F.CH_SHAPE.COUNT0_M1 : RegFld := ⟨.CH_SHAPE, 31, 16⟩
def F.CH_SHAPE.COUNT1_M1 : RegFld := ⟨.CH_SHAPE, 47, 32⟩
def F.CH_SHAPE.COUNT2_M1 : RegFld := ⟨.CH_SHAPE, 63, 48⟩
-- CH_SRC_STRIDE01 (R468)
def F.CH_SRC_STRIDE01.S0 : RegFld := ⟨.CH_SRC_STRIDE01, 31, 0⟩
def F.CH_SRC_STRIDE01.S1 : RegFld := ⟨.CH_SRC_STRIDE01, 63, 32⟩
-- CH_SRC_STRIDE2 (R468)
def F.CH_SRC_STRIDE2.S2 : RegFld := ⟨.CH_SRC_STRIDE2, 31, 0⟩
-- CH_DST_STRIDE01 (R468)
def F.CH_DST_STRIDE01.S0 : RegFld := ⟨.CH_DST_STRIDE01, 31, 0⟩
def F.CH_DST_STRIDE01.S1 : RegFld := ⟨.CH_DST_STRIDE01, 63, 32⟩
-- CH_DST_STRIDE2 (R468)
def F.CH_DST_STRIDE2.S2 : RegFld := ⟨.CH_DST_STRIDE2, 31, 0⟩
-- CH_CTRL (R468)
def F.CH_CTRL.RETRY : RegFld := ⟨.CH_CTRL, 2, 0⟩
def F.CH_CTRL.CLASS : RegFld := ⟨.CH_CTRL, 4, 3⟩
def F.CH_CTRL.DONE_CTR_EN : RegFld := ⟨.CH_CTRL, 5, 5⟩
def F.CH_CTRL.LOCK_EN : RegFld := ⟨.CH_CTRL, 6, 6⟩
def F.CH_CTRL.RECORD_EN : RegFld := ⟨.CH_CTRL, 7, 7⟩
def F.CH_CTRL.EVENT : RegFld := ⟨.CH_CTRL, 8, 8⟩
def F.CH_CTRL.DONE_CTR : RegFld := ⟨.CH_CTRL, 31, 16⟩
-- CH_LOCK (R468)
def F.CH_LOCK.OFFSET : RegFld := ⟨.CH_LOCK, 25, 0⟩
-- CH_RECORD (R468)
def F.CH_RECORD.ADDR : RegFld := ⟨.CH_RECORD, 47, 0⟩
def F.CH_RECORD.FUNC : RegFld := ⟨.CH_RECORD, 59, 48⟩
def F.CH_RECORD.GS : RegFld := ⟨.CH_RECORD, 60, 60⟩
-- CH_CMD (R468)
def F.CH_CMD.GO : RegFld := ⟨.CH_CMD, 0, 0⟩
def F.CH_CMD.ABORT : RegFld := ⟨.CH_CMD, 1, 1⟩
def F.CH_CMD.RESUME : RegFld := ⟨.CH_CMD, 2, 2⟩
def F.CH_CMD.RESET : RegFld := ⟨.CH_CMD, 3, 3⟩
-- CH_STATE (R468)
def F.CH_STATE.STATE : RegFld := ⟨.CH_STATE, 2, 0⟩
def F.CH_STATE.TOKEN_PAUSE : RegFld := ⟨.CH_STATE, 3, 3⟩
def F.CH_STATE.LOCK_WAIT : RegFld := ⟨.CH_STATE, 4, 4⟩
-- CH_RESULT (R468)
def F.CH_RESULT.RESULT : RegFld := ⟨.CH_RESULT, 63, 0⟩
-- CH_RESIDUE (R468)
def F.CH_RESIDUE.RESIDUE : RegFld := ⟨.CH_RESIDUE, 47, 0⟩
-- CH_POS (R468)
def F.CH_POS.I0 : RegFld := ⟨.CH_POS, 15, 0⟩
def F.CH_POS.I1 : RegFld := ⟨.CH_POS, 31, 16⟩
def F.CH_POS.I2 : RegFld := ⟨.CH_POS, 47, 32⟩
def F.CH_POS.ELEM_OFFSET : RegFld := ⟨.CH_POS, 63, 48⟩
-- FUNC_CFG (R250)
def F.FUNC_CFG.FETCH_DEPTH : RegFld := ⟨.FUNC_CFG, 5, 0⟩
def F.FUNC_CFG.STAMP_RETRY : RegFld := ⟨.FUNC_CFG, 11, 8⟩
def F.FUNC_CFG.DG_MTU : RegFld := ⟨.FUNC_CFG, 14, 12⟩
-- FUNC_STATUS (R250)
def F.FUNC_STATUS.FUNCTION_HALTED : RegFld := ⟨.FUNC_STATUS, 0, 0⟩
def F.FUNC_STATUS.RESET_IN_PROGRESS : RegFld := ⟨.FUNC_STATUS, 1, 1⟩
-- HALT_WHERE (R250)
def F.HALT_WHERE.WHERE : RegFld := ⟨.HALT_WHERE, 23, 0⟩
def F.HALT_WHERE.QUEUE : RegFld := ⟨.HALT_WHERE, 24, 24⟩
def F.HALT_WHERE.IS_CWQ : RegFld := ⟨.HALT_WHERE, 25, 25⟩
def F.HALT_WHERE.REASON : RegFld := ⟨.HALT_WHERE, 28, 26⟩
-- HALT_INDEX (R250)
def F.HALT_INDEX.INDEX : RegFld := ⟨.HALT_INDEX, 31, 0⟩
-- CQ_DOORBELL (R250)
def F.CQ_DOORBELL.CONN : RegFld := ⟨.CQ_DOORBELL, 23, 0⟩
def F.CQ_DOORBELL.QUEUE : RegFld := ⟨.CQ_DOORBELL, 24, 24⟩
def F.CQ_DOORBELL.TAIL : RegFld := ⟨.CQ_DOORBELL, 63, 32⟩
-- RING_ADDR (R250)
def F.RING_ADDR.BASE : RegFld := ⟨.RING_ADDR, 63, 12⟩
-- RING_CFG (R250)
def F.RING_CFG.KIND : RegFld := ⟨.RING_CFG, 2, 0⟩
def F.RING_CFG.DB_POLL : RegFld := ⟨.RING_CFG, 3, 3⟩
def F.RING_CFG.LOG2SIZE : RegFld := ⟨.RING_CFG, 8, 4⟩
def F.RING_CFG.ENABLE : RegFld := ⟨.RING_CFG, 10, 10⟩
def F.RING_CFG.VECTOR : RegFld := ⟨.RING_CFG, 22, 12⟩
def F.RING_CFG.TC : RegFld := ⟨.RING_CFG, 26, 24⟩
-- RING_PI (R250)
def F.RING_PI.PI : RegFld := ⟨.RING_PI, 31, 0⟩
-- RING_CI (R250)
def F.RING_CI.CI : RegFld := ⟨.RING_CI, 31, 0⟩
-- RING_CPI (R250)
def F.RING_CPI.CPI : RegFld := ⟨.RING_CPI, 31, 0⟩
-- RING_SHADOW (R250)
def F.RING_SHADOW.SHADOW_EN : RegFld := ⟨.RING_SHADOW, 0, 0⟩
def F.RING_SHADOW.ADDR : RegFld := ⟨.RING_SHADOW, 63, 3⟩
-- RING_DB_WORD (R250)
def F.RING_DB_WORD.ADDR : RegFld := ⟨.RING_DB_WORD, 63, 2⟩
-- RING_HOLD (R250)
def F.RING_HOLD.START : RegFld := ⟨.RING_HOLD, 31, 0⟩
def F.RING_HOLD.COUNT : RegFld := ⟨.RING_HOLD, 38, 32⟩
def F.RING_HOLD.RELEASE : RegFld := ⟨.RING_HOLD, 63, 63⟩
-- RING_HOLD_MASK (R250)
def F.RING_HOLD_MASK.BUSY : RegFld := ⟨.RING_HOLD_MASK, 63, 0⟩
-- RING_ARM (R250)
def F.RING_ARM.INDEX : RegFld := ⟨.RING_ARM, 31, 0⟩
def F.RING_ARM.ARM : RegFld := ⟨.RING_ARM, 32, 32⟩
-- RING_STATUS (R250)
def F.RING_STATUS.HELD : RegFld := ⟨.RING_STATUS, 0, 0⟩
def F.RING_STATUS.BAD_DB_WORD : RegFld := ⟨.RING_STATUS, 1, 1⟩
def F.RING_STATUS.ARMED : RegFld := ⟨.RING_STATUS, 2, 2⟩
def F.RING_STATUS.FETCH_WAIT : RegFld := ⟨.RING_STATUS, 3, 3⟩
def F.RING_STATUS.FETCH_ERROR : RegFld := ⟨.RING_STATUS, 4, 4⟩
-- FUNC_CONN_RANGE (R297)
def F.FUNC_CONN_RANGE.CONN_BASE : RegFld := ⟨.FUNC_CONN_RANGE, 23, 0⟩
def F.FUNC_CONN_RANGE.CONN_COUNT : RegFld := ⟨.FUNC_CONN_RANGE, 48, 24⟩
-- FUNC_KEY_RANGE (R297)
def F.FUNC_KEY_RANGE.KEY_BASE : RegFld := ⟨.FUNC_KEY_RANGE, 17, 0⟩
def F.FUNC_KEY_RANGE.KEY_COUNT : RegFld := ⟨.FUNC_KEY_RANGE, 36, 18⟩
-- FUNC_TRIG_RANGE (R297)
def F.FUNC_TRIG_RANGE.TRIG_BASE : RegFld := ⟨.FUNC_TRIG_RANGE, 15, 0⟩
def F.FUNC_TRIG_RANGE.TRIG_COUNT : RegFld := ⟨.FUNC_TRIG_RANGE, 32, 16⟩
-- FUNC_POLICY (R297)
def F.FUNC_POLICY.CONN_POLICER : RegFld := ⟨.FUNC_POLICY, 11, 0⟩
def F.FUNC_POLICY.CONN_POLICER_EN : RegFld := ⟨.FUNC_POLICY, 12, 12⟩
def F.FUNC_POLICY.DG_POLICER : RegFld := ⟨.FUNC_POLICY, 27, 16⟩
def F.FUNC_POLICY.DG_POLICER_EN : RegFld := ⟨.FUNC_POLICY, 28, 28⟩
def F.FUNC_POLICY.GS_KEYS : RegFld := ⟨.FUNC_POLICY, 29, 29⟩
-- CTX_ADDR (R297)
def F.CTX_ADDR.BASE : RegFld := ⟨.CTX_ADDR, 63, 12⟩
-- MATCH_CFG (R327)
def F.MATCH_CFG.EAGER_LIMIT : RegFld := ⟨.MATCH_CFG, 16, 0⟩
def F.MATCH_CFG.UX_RING : RegFld := ⟨.MATCH_CFG, 31, 20⟩
def F.MATCH_CFG.UX_EN : RegFld := ⟨.MATCH_CFG, 32, 32⟩
def F.MATCH_CFG.OVF_EN : RegFld := ⟨.MATCH_CFG, 33, 33⟩
-- MATCH_OVF_ADDR (R327)
def F.MATCH_OVF_ADDR.BASE : RegFld := ⟨.MATCH_OVF_ADDR, 63, 12⟩
-- MATCH_OVF_SIZE (R327)
def F.MATCH_OVF_SIZE.PAGES : RegFld := ⟨.MATCH_OVF_SIZE, 23, 0⟩
-- MATCH_STATUS (R327)
def F.MATCH_STATUS.OVERFLOW : RegFld := ⟨.MATCH_STATUS, 15, 0⟩
def F.MATCH_STATUS.EXISTING : RegFld := ⟨.MATCH_STATUS, 35, 16⟩
-- XL_FUNC (R448)
def F.XL_FUNC.XLATE_ASID : RegFld := ⟨.XL_FUNC, 9, 0⟩
def F.XL_FUNC.XLATE_EN : RegFld := ⟨.XL_FUNC, 15, 15⟩
-- XL_INV_VA (R448)
def F.XL_INV_VA.PAGE : RegFld := ⟨.XL_INV_VA, 47, 12⟩
def F.XL_INV_VA.COUNT : RegFld := ⟨.XL_INV_VA, 63, 48⟩
-- XL_INV_CMD (R448)
def F.XL_INV_CMD.ASID : RegFld := ⟨.XL_INV_CMD, 9, 0⟩
def F.XL_INV_CMD.SCOPE : RegFld := ⟨.XL_INV_CMD, 16, 16⟩
def F.XL_INV_CMD.GO : RegFld := ⟨.XL_INV_CMD, 31, 31⟩
-- XL_INV_STATUS (R448)
def F.XL_INV_STATUS.BUSY : RegFld := ⟨.XL_INV_STATUS, 0, 0⟩
def F.XL_INV_STATUS.DONE : RegFld := ⟨.XL_INV_STATUS, 31, 16⟩
-- XL_DEV_BASE (R448)
def F.XL_DEV_BASE.ENABLE : RegFld := ⟨.XL_DEV_BASE, 0, 0⟩
def F.XL_DEV_BASE.PAGE : RegFld := ⟨.XL_DEV_BASE, 63, 12⟩
-- XL_DEV_LIMIT (R448)
def F.XL_DEV_LIMIT.PAGE : RegFld := ⟨.XL_DEV_LIMIT, 63, 12⟩
-- NF_JOB_BIND (R82)
def F.NF_JOB_BIND.JOB_SLOT : RegFld := ⟨.NF_JOB_BIND, 11, 0⟩
def F.NF_JOB_BIND.VALID : RegFld := ⟨.NF_JOB_BIND, 15, 15⟩
-- TMAP_SEQ (R56)
def F.TMAP_SEQ.SEQ : RegFld := ⟨.TMAP_SEQ, 31, 0⟩
-- TMAP_HOST_NS (R56)
def F.TMAP_HOST_NS.NS : RegFld := ⟨.TMAP_HOST_NS, 63, 0⟩
-- TMAP_FABRIC_NS (R56)
def F.TMAP_FABRIC_NS.NS : RegFld := ⟨.TMAP_FABRIC_NS, 63, 0⟩
-- TMAP_FABRIC_FRAC (R56)
def F.TMAP_FABRIC_FRAC.FRAC : RegFld := ⟨.TMAP_FABRIC_FRAC, 15, 0⟩
-- TMAP_RATIO (R56)
def F.TMAP_RATIO.RATIO : RegFld := ⟨.TMAP_RATIO, 63, 0⟩
-- TMAP_ERROR_NS (R56)
def F.TMAP_ERROR_NS.NS : RegFld := ⟨.TMAP_ERROR_NS, 63, 0⟩

-- layout JOB (R68)
def L.JOB.JOB : Fld := ⟨15, 0⟩
def L.JOB.STATE : Fld := ⟨17, 16⟩
def L.JOB.RTT_BASE : Fld := ⟨83, 64⟩
def L.JOB.RANK_COUNT : Fld := ⟨105, 85⟩
def L.JOB.EP_MASK : Fld := ⟨191, 128⟩
-- layout RTE (R76)
def L.RTE.NODE : Fld := ⟨19, 0⟩
def L.RTE.EP : Fld := ⟨25, 20⟩
def L.RTE.JOB : Fld := ⟨47, 32⟩
def L.RTE.PINNED : Fld := ⟨62, 62⟩
def L.RTE.VALID : Fld := ⟨63, 63⟩
-- layout NET (R87)
def L.NET.DST_NODE : Fld := ⟨19, 0⟩
def L.NET.DST_EP : Fld := ⟨25, 20⟩
def L.NET.SRC_NODE : Fld := ⟨51, 32⟩
def L.NET.SRC_EP : Fld := ⟨57, 52⟩
def L.NET.JOB : Fld := ⟨79, 64⟩
def L.NET.MCLASS : Fld := ⟨81, 80⟩
def L.NET.TC : Fld := ⟨84, 82⟩
def L.NET.RVC : Fld := ⟨85, 85⟩
def L.NET.DIM : Fld := ⟨87, 86⟩
def L.NET.DEROUTE : Fld := ⟨91, 88⟩
def L.NET.DATELINE : Fld := ⟨95, 92⟩
def L.NET.PINNED : Fld := ⟨96, 96⟩
def L.NET.MCAST : Fld := ⟨97, 97⟩
def L.NET.MGROUP : Fld := ⟨111, 98⟩
def L.NET.HOPS : Fld := ⟨117, 112⟩
def L.NET.CE : Fld := ⟨119, 118⟩
def L.NET.PLEN : Fld := ⟨132, 120⟩
def L.NET.HCRC : Fld := ⟨255, 240⟩
-- layout MCG (R107)
def L.MCG.CMASK0 : Fld := ⟨63, 0⟩
def L.MCG.CMASK1 : Fld := ⟨127, 64⟩
def L.MCG.CMASK2 : Fld := ⟨191, 128⟩
def L.MCG.CMASK3 : Fld := ⟨255, 192⟩
def L.MCG.EPMASK : Fld := ⟨319, 256⟩
def L.MCG.JOB : Fld := ⟨335, 320⟩
def L.MCG.VALID : Fld := ⟨511, 511⟩
-- layout POL (R142)
def L.POL.CIR : Fld := ⟨19, 0⟩
def L.POL.PIR : Fld := ⟨51, 32⟩
def L.POL.CBS : Fld := ⟨87, 64⟩
def L.POL.PBS : Fld := ⟨119, 96⟩
def L.POL.VALID : Fld := ⟨128, 128⟩
def L.POL.COLOUR_AWARE : Fld := ⟨129, 129⟩
def L.POL.YELLOW_CE : Fld := ⟨130, 130⟩
def L.POL.TC_TOK : Fld := ⟨223, 192⟩
def L.POL.TP_TOK : Fld := ⟨255, 224⟩
def L.POL.LAST : Fld := ⟨287, 256⟩
def L.POL.GREEN_PKTS : Fld := ⟨351, 320⟩
def L.POL.YELLOW_PKTS : Fld := ⟨383, 352⟩
def L.POL.RED_HELD : Fld := ⟨415, 384⟩
def L.POL.RED_DROPPED : Fld := ⟨447, 416⟩
-- layout CAP (R163)
def L.CAP.VERSION : Fld := ⟨3, 0⟩
def L.CAP.LANE : Fld := ⟨10, 8⟩
def L.CAP.RATES : Fld := ⟨18, 16⟩
def L.CAP.WIDTHS : Fld := ⟨27, 24⟩
def L.CAP.FEC_NONE_OK : Fld := ⟨32, 32⟩
def L.CAP.VC8 : Fld := ⟨33, 33⟩
def L.CAP.RIDGEPOLE : Fld := ⟨34, 34⟩
def L.CAP.GUYLINE : Fld := ⟨35, 35⟩
def L.CAP.DEGRADE : Fld := ⟨36, 36⟩
def L.CAP.MTU : Fld := ⟨42, 40⟩
def L.CAP.LANE_MASK : Fld := ⟨55, 48⟩
def L.CAP.PRESET : Fld := ⟨58, 56⟩
def L.CAP.ACK : Fld := ⟨64, 64⟩
def L.CAP.NO_COMMON : Fld := ⟨65, 65⟩
def L.CAP.NODE : Fld := ⟨115, 96⟩
def L.CAP.SLOT : Fld := ⟨127, 120⟩
def L.CAP.IMPL : Fld := ⟨143, 128⟩
-- layout TCF (The control field)
def L.TCF.PRESET_REQ : Fld := ⟨2, 0⟩
def L.TCF.REQ_CM2 : Fld := ⟨4, 3⟩
def L.TCF.REQ_CM1 : Fld := ⟨6, 5⟩
def L.TCF.REQ_C1 : Fld := ⟨8, 7⟩
def L.TCF.ST_CM2 : Fld := ⟨10, 9⟩
def L.TCF.ST_CM1 : Fld := ⟨12, 11⟩
def L.TCF.ST_C1 : Fld := ⟨14, 13⟩
def L.TCF.RX_READY : Fld := ⟨15, 15⟩
def L.TCF.COUNTDOWN : Fld := ⟨19, 16⟩
def L.TCF.CHECK : Fld := ⟨31, 28⟩
-- layout ENV (R189)
def L.ENV.LSEQ : Fld := ⟨15, 0⟩
def L.ENV.VCID : Fld := ⟨19, 16⟩
def L.ENV.KIND : Fld := ⟨23, 20⟩
def L.ENV.LLEN : Fld := ⟨36, 24⟩
-- layout LCB (R195)
def L.LCB.TYPE : Fld := ⟨7, 0⟩
def L.LCB.TICK : Fld := ⟨23, 8⟩
def L.LCB.LCB_CRC : Fld := ⟨511, 480⟩
-- layout ACKL (R196)
def L.ACKL.ACK_SEQ : Fld := ⟨39, 24⟩
def L.ACKL.NAK : Fld := ⟨40, 40⟩
def L.ACKL.NAK_EPOCH : Fld := ⟨44, 41⟩
-- 16v+63:16v+48, v = 0–7 CR_TOTAL[v]
-- layout GLL (R197)
def L.GLL.VECTOR : Fld := ⟨24, 24⟩
def L.GLL.DIM : Fld := ⟨26, 25⟩
-- 4c+35:4c+32, c = 0–63 LEVEL[c]
-- layout TSL (R198)
def L.TSL.ROOT_NODE : Fld := ⟨43, 24⟩
def L.TSL.STRATUM : Fld := ⟨55, 48⟩
def L.TSL.PEER_VALID : Fld := ⟨56, 56⟩
def L.TSL.T_SEND : Fld := ⟨143, 64⟩
def L.TSL.T_PEER_RECV : Fld := ⟨223, 144⟩
def L.TSL.T_PEER_SEND : Fld := ⟨303, 224⟩
-- layout INITL (R200)
def L.INITL.RESUME_INIT : Fld := ⟨24, 24⟩
def L.INITL.ESEQ_INIT : Fld := ⟨47, 32⟩
-- 16v+63:16v+48, v = 0–7 CR_VALUE[v] (INIT)
def L.INITL.REASON_RETRAIN : Fld := ⟨27, 24⟩
def L.INITL.CAUSE_FATAL : Fld := ⟨27, 24⟩
def L.INITL.NODE_FATAL : Fld := ⟨51, 32⟩
def L.INITL.SLOT_FATAL : Fld := ⟨59, 52⟩
-- layout ENT (R228)
def L.ENT.OPCODE : Fld := ⟨7, 0⟩
def L.ENT.FENCE : Fld := ⟨8, 8⟩
def L.ENT.EVENT : Fld := ⟨9, 9⟩
def L.ENT.COUNT : Fld := ⟨12, 10⟩
def L.ENT.JOB_SLOT : Fld := ⟨27, 16⟩
def L.ENT.USER_TAG : Fld := ⟨63, 32⟩
-- layout DG (R231)
def L.DG.RANK_DG_SEND : Fld := ⟨83, 64⟩
def L.DG.MGROUP_MC_SEND : Fld := ⟨77, 64⟩
def L.DG.DST_RING : Fld := ⟨95, 84⟩
def L.DG.LENGTH : Fld := ⟨108, 96⟩
def L.DG.PRECOLOUR : Fld := ⟨110, 109⟩
def L.DG.PINNED : Fld := ⟨111, 111⟩
def L.DG.LOCAL_ADDR : Fld := ⟨191, 128⟩
-- layout RB (R232)
def L.RB.ADDR : Fld := ⟨191, 128⟩
def L.RB.LENGTH : Fld := ⟨204, 192⟩
-- layout CPL (R234)
def L.CPL.OPCODE : Fld := ⟨7, 0⟩
def L.CPL.STATUS : Fld := ⟨15, 8⟩
def L.CPL.USER_TAG : Fld := ⟨63, 32⟩
def L.CPL.INDEX : Fld := ⟨95, 64⟩
def L.CPL.TICK : Fld := ⟨143, 96⟩
def L.CPL.DETAIL : Fld := ⟨191, 160⟩
def L.CPL.RESULT : Fld := ⟨255, 192⟩
-- layout CWE (R241)
def L.CWE.OPCODE : Fld := ⟨7, 0⟩
def L.CWE.SIGNAL : Fld := ⟨8, 8⟩
def L.CWE.UNORDERED : Fld := ⟨9, 9⟩
def L.CWE.PINNED : Fld := ⟨10, 10⟩
def L.CWE.PRECOLOUR : Fld := ⟨12, 11⟩
def L.CWE.TRIGGERED : Fld := ⟨13, 13⟩
def L.CWE.OPERANDS_A : Fld := ⟨119, 16⟩
def L.CWE.STAMP_1 : Fld := ⟨127, 120⟩
def L.CWE.OPERANDS_B : Fld := ⟨247, 128⟩
def L.CWE.STAMP_2 : Fld := ⟨255, 248⟩
def L.CWE.OPERANDS_C : Fld := ⟨375, 256⟩
def L.CWE.STAMP_3 : Fld := ⟨383, 376⟩
def L.CWE.USER_TAG : Fld := ⟨415, 384⟩
def L.CWE.OPERANDS_D : Fld := ⟨503, 416⟩
def L.CWE.STAMP : Fld := ⟨511, 504⟩
-- layout NOTE (R246)
def L.NOTE.KIND : Fld := ⟨7, 0⟩
def L.NOTE.STATUS : Fld := ⟨15, 8⟩
def L.NOTE.CONN : Fld := ⟨39, 16⟩
def L.NOTE.QUEUE : Fld := ⟨40, 40⟩
def L.NOTE.INDEX : Fld := ⟨95, 64⟩
def L.NOTE.USER_TAG : Fld := ⟨127, 96⟩
def L.NOTE.BYTES : Fld := ⟨159, 128⟩
def L.NOTE.MSN : Fld := ⟨183, 160⟩
def L.NOTE.TICK : Fld := ⟨239, 192⟩
-- layout TH (R261)
def L.TH.OPCODE : Fld := ⟨7, 0⟩
def L.TH.UNORDERED : Fld := ⟨8, 8⟩
def L.TH.TRIG_VALID : Fld := ⟨9, 9⟩
def L.TH.RETX : Fld := ⟨10, 10⟩
def L.TH.DST_CONN : Fld := ⟨39, 16⟩
def L.TH.SRC_CONN : Fld := ⟨63, 40⟩
def L.TH.PSN : Fld := ⟨87, 64⟩
def L.TH.MSN : Fld := ⟨111, 88⟩
def L.TH.AUX : Fld := ⟨127, 112⟩
-- layout CWO (R264)
def L.CWO.LENGTH : Fld := ⟨47, 16⟩
def L.CWO.CONTEXT : Fld := ⟨63, 48⟩
def L.CWO.REMOTE_KEY : Fld := ⟨79, 48⟩
def L.CWO.TRIG_REMOTE : Fld := ⟨95, 80⟩
def L.CWO.TRIG_REMOTE_EN : Fld := ⟨96, 96⟩
def L.CWO.REMOTE_FLUSH : Fld := ⟨97, 97⟩
def L.CWO.AOP : Fld := ⟨101, 98⟩
def L.CWO.SIZE8 : Fld := ⟨102, 102⟩
def L.CWO.LOCAL_ADDR : Fld := ⟨191, 128⟩
def L.CWO.REMOTE_OFFSET : Fld := ⟨239, 192⟩
def L.CWO.THRESHOLD_OPERAND : Fld := ⟨319, 256⟩
def L.CWO.TRIG_CTR : Fld := ⟨335, 320⟩
def L.CWO.COMPLETE_CTR : Fld := ⟨351, 336⟩
def L.CWO.COMPLETE_CTR_EN : Fld := ⟨352, 352⟩
def L.CWO.TAG_COMPARE : Fld := ⟨479, 416⟩
def L.CWO.COMPLETE_CTR_b : Fld := ⟨495, 480⟩
def L.CWO.COMPLETE_CTR_EN_b : Fld := ⟨496, 496⟩
-- layout KEY (R282)
def L.KEY.BASE : Fld := ⟨51, 0⟩
def L.KEY.LENGTH : Fld := ⟨95, 52⟩
def L.KEY.JOB_SLOT : Fld := ⟨107, 96⟩
def L.KEY.TAG : Fld := ⟨121, 108⟩
def L.KEY.READ : Fld := ⟨122, 122⟩
def L.KEY.WRITE : Fld := ⟨123, 123⟩
def L.KEY.ATOMIC : Fld := ⟨124, 124⟩
def L.KEY.GS : Fld := ⟨125, 125⟩
def L.KEY.STATE : Fld := ⟨127, 126⟩
-- layout TRG (R286)
def L.TRG.VALUE : Fld := ⟨63, 0⟩
def L.TRG.JOB_SLOT : Fld := ⟨75, 64⟩
def L.TRG.VALID : Fld := ⟨76, 76⟩
def L.TRG.MODE : Fld := ⟨77, 77⟩
def L.TRG.REMOTE_EN : Fld := ⟨78, 78⟩
-- layout RM (R302)
def L.RM.CONTEXT : Fld := ⟨79, 64⟩
def L.RM.SOURCE : Fld := ⟨99, 80⟩
def L.RM.ANY_SOURCE : Fld := ⟨100, 100⟩
def L.RM.HANDLER : Fld := ⟨101, 101⟩
def L.RM.NRING : Fld := ⟨123, 112⟩
def L.RM.TAG : Fld := ⟨191, 128⟩
def L.RM.IGNORE : Fld := ⟨255, 192⟩
def L.RM.ADDR : Fld := ⟨319, 256⟩
def L.RM.LENGTH : Fld := ⟨351, 320⟩
def L.RM.HANDLER_SLOT : Fld := ⟨363, 352⟩
-- layout MN (STATUS is OK, TRUNCATED, ABORTED, or the status of a CANCEL. Notices of one conn)
def L.MN.SOURCE : Fld := ⟨259, 240⟩
def L.MN.CONTEXT : Fld := ⟨279, 264⟩
def L.MN.TAG : Fld := ⟨351, 288⟩
def L.MN.MSG_BYTES : Fld := ⟨383, 352⟩
def L.MN.UNEXPECTED : Fld := ⟨384, 384⟩
def L.MN.RENDEZVOUS : Fld := ⟨385, 385⟩
def L.MN.OVERFLOW : Fld := ⟨386, 386⟩
def L.MN.UX_RING : Fld := ⟨399, 388⟩
def L.MN.UX_INDEX : Fld := ⟨431, 400⟩
def L.MN.UX_COUNT : Fld := ⟨436, 432⟩
def L.MN.POST_RING : Fld := ⟨459, 448⟩
-- layout CP (R332)
def L.CP.SEQ : Fld := ⟨79, 64⟩
def L.CP.MGROUP : Fld := ⟨93, 80⟩
def L.CP.ROOT : Fld := ⟨115, 96⟩
def L.CP.KIND : Fld := ⟨118, 116⟩
def L.CP.REPRO : Fld := ⟨119, 119⟩
def L.CP.DTYPE : Fld := ⟨123, 120⟩
def L.CP.OP : Fld := ⟨127, 124⟩
def L.CP.CRI : Fld := ⟨147, 128⟩
def L.CP.NTOTAL : Fld := ⟨171, 152⟩
def L.CP.NLOCAL : Fld := ⟨176, 172⟩
def L.CP.SLICE : Fld := ⟨179, 177⟩
def L.CP.BYTES : Fld := ⟨223, 192⟩
def L.CP.DONE_CTR : Fld := ⟨239, 224⟩
def L.CP.DONE_CTR_EN : Fld := ⟨240, 240⟩
def L.CP.SRC_ADDR : Fld := ⟨319, 256⟩
def L.CP.DST_ADDR : Fld := ⟨383, 320⟩
def L.CP.DONE_ADDR : Fld := ⟨447, 384⟩
-- layout CDR (R335)
def L.CDR.STATUS : Fld := ⟨7, 0⟩
def L.CDR.KIND : Fld := ⟨10, 8⟩
def L.CDR.SEQ : Fld := ⟨31, 16⟩
def L.CDR.MGROUP : Fld := ⟨45, 32⟩
def L.CDR.TICK : Fld := ⟨111, 64⟩
-- layout CTH (R342)
def L.CTH.DST_CONN : Fld := ⟨39, 16⟩
def L.CTH.MGROUP : Fld := ⟨53, 40⟩
def L.CTH.SEQ : Fld := ⟨79, 64⟩
def L.CTH.STAGE : Fld := ⟨82, 80⟩
def L.CTH.SLICE_IDX : Fld := ⟨111, 88⟩
def L.CTH.STATUS : Fld := ⟨119, 112⟩
def L.CTH.BYTES : Fld := ⟨159, 128⟩
def L.CTH.SLICE_OFFSET : Fld := ⟨191, 160⟩
def L.CTH.KEY : Fld := ⟨211, 192⟩
def L.CTH.DTYPE : Fld := ⟨215, 212⟩
def L.CTH.OP : Fld := ⟨219, 216⟩
def L.CTH.KIND : Fld := ⟨222, 220⟩
def L.CTH.REPRO : Fld := ⟨223, 223⟩
def L.CTH.NCONTRIB : Fld := ⟨243, 224⟩
def L.CTH.SLICE : Fld := ⟨246, 244⟩
-- layout EVR (R358)
def L.EVR.KIND : Fld := ⟨3, 0⟩
def L.EVR.SLOT : Fld := ⟨19, 8⟩
def L.EVR.MISSED : Fld := ⟨31, 24⟩
def L.EVR.TICK : Fld := ⟨79, 32⟩
def L.EVR.ARGS : Fld := ⟨511, 128⟩
-- layout SMP (R368)
def L.SMP.PC : Fld := ⟨47, 0⟩
def L.SMP.THREAD : Fld := ⟨49, 48⟩
def L.SMP.CLASS : Fld := ⟨51, 50⟩
def L.SMP.USER : Fld := ⟨52, 52⟩
def L.SMP.SLOT : Fld := ⟨75, 64⟩
def L.SMP.STALL : Fld := ⟨79, 76⟩
def L.SMP.CYCLES : Fld := ⟨95, 80⟩
def L.SMP.TICK : Fld := ⟨127, 96⟩
def L.SMP.INSN : Fld := ⟨159, 128⟩
-- layout IMG (R370)
def L.IMG.MAGIC : Fld := ⟨31, 0⟩
def L.IMG.VERSION : Fld := ⟨39, 32⟩
def L.IMG.KIND : Fld := ⟨47, 40⟩
def L.IMG.ENTRIES : Fld := ⟨63, 48⟩
def L.IMG.CODE_BYTES : Fld := ⟨95, 64⟩
def L.IMG.IMAGE_BYTES : Fld := ⟨127, 96⟩
def L.IMG.BUILD : Fld := ⟨159, 128⟩
def L.IMG.CRC : Fld := ⟨511, 480⟩
-- layout BND (R372)
def L.BND.IMAGE : Fld := ⟨7, 0⟩
def L.BND.ENTRY : Fld := ⟨13, 8⟩
def L.BND.CLASS : Fld := ⟨15, 14⟩
def L.BND.TICK_EN : Fld := ⟨16, 16⟩
def L.BND.SUPERVISOR : Fld := ⟨17, 17⟩
def L.BND.VALID : Fld := ⟨18, 18⟩
def L.BND.BUDGET : Fld := ⟨31, 20⟩
def L.BND.JOB_SLOT : Fld := ⟨43, 32⟩
def L.BND.FUNC : Fld := ⟨55, 44⟩
def L.BND.ASID : Fld := ⟨65, 56⟩
def L.BND.CLUSTER_MASK : Fld := ⟨191, 128⟩
def L.BND.LAST_FAULT : Fld := ⟨199, 192⟩
def L.BND.FAULT_COUNT : Fld := ⟨215, 200⟩
-- layout EMD (R391)
def L.EMD.DEST : Fld := ⟨19, 0⟩
def L.EMD.DST_EP : Fld := ⟨25, 20⟩
def L.EMD.MCLASS : Fld := ⟨27, 26⟩
def L.EMD.TC : Fld := ⟨30, 28⟩
def L.EMD.PINNED : Fld := ⟨31, 31⟩
def L.EMD.RAW : Fld := ⟨32, 32⟩
def L.EMD.MCAST : Fld := ⟨33, 33⟩
def L.EMD.MGROUP : Fld := ⟨47, 34⟩
def L.EMD.JOB : Fld := ⟨63, 48⟩
def L.EMD.LENGTH : Fld := ⟨76, 64⟩
def L.EMD.SRC_EP : Fld := ⟨82, 77⟩
-- layout TAG (R409)
def L.TAG.VPN : Fld := ⟨47, 12⟩
def L.TAG.ASID : Fld := ⟨57, 48⟩
def L.TAG.G : Fld := ⟨58, 58⟩
def L.TAG.SIZE : Fld := ⟨60, 59⟩
def L.TAG.VALID : Fld := ⟨63, 63⟩
-- layout DAT (R410)
def L.DAT.R : Fld := ⟨0, 0⟩
def L.DAT.W : Fld := ⟨1, 1⟩
def L.DAT.X : Fld := ⟨2, 2⟩
def L.DAT.U : Fld := ⟨3, 3⟩
def L.DAT.DEV : Fld := ⟨4, 4⟩
def L.DAT.TARGET : Fld := ⟨6, 5⟩
def L.DAT.OA : Fld := ⟨47, 12⟩
def L.DAT.FUNC : Fld := ⟨63, 52⟩
-- layout PTE (R412)
def L.PTE.VALID : Fld := ⟨0, 0⟩
def L.PTE.TABLE : Fld := ⟨1, 1⟩
def L.PTE.R : Fld := ⟨2, 2⟩
def L.PTE.W : Fld := ⟨3, 3⟩
def L.PTE.X : Fld := ⟨4, 4⟩
def L.PTE.U : Fld := ⟨5, 5⟩
def L.PTE.DEV : Fld := ⟨6, 6⟩
def L.PTE.G : Fld := ⟨7, 7⟩
def L.PTE.GS : Fld := ⟨8, 8⟩
def L.PTE.ADDR : Fld := ⟨47, 12⟩
-- layout MREC (The status record is also copied to CH_RESULT, CH_RESIDUE and CH_POS.)
def L.MREC.STATUS : Fld := ⟨7, 0⟩
def L.MREC.CHANNEL : Fld := ⟨12, 8⟩
def L.MREC.MOVER : Fld := ⟨19, 16⟩
def L.MREC.RESIDUE : Fld := ⟨111, 64⟩
def L.MREC.ELEM_OFFSET : Fld := ⟨127, 112⟩
def L.MREC.I0 : Fld := ⟨143, 128⟩
def L.MREC.I1 : Fld := ⟨159, 144⟩
def L.MREC.I2 : Fld := ⟨175, 160⟩
def L.MREC.TICK : Fld := ⟨223, 176⟩
def L.MREC.RETRIES : Fld := ⟨239, 224⟩
-- layout FLR (R514)
def L.FLR.SOURCE : Fld := ⟨10, 0⟩
def L.FLR.CLASS : Fld := ⟨12, 11⟩
def L.FLR.FORCED : Fld := ⟨13, 13⟩
def L.FLR.STATUS : Fld := ⟨23, 16⟩
def L.FLR.ACTION : Fld := ⟨31, 24⟩
def L.FLR.TICK : Fld := ⟨79, 32⟩
def L.FLR.OCCURRENCES : Fld := ⟨95, 80⟩
def L.FLR.SEQ : Fld := ⟨127, 96⟩
def L.FLR.LOT : Fld := ⟨163, 128⟩
def L.FLR.WAFER : Fld := ⟨168, 164⟩
def L.FLR.DIE_X : Fld := ⟨176, 169⟩
def L.FLR.DIE_Y : Fld := ⟨184, 177⟩
def L.FLR.DIE_TYPE : Fld := ⟨186, 185⟩
def L.FLR.DIE_INDEX : Fld := ⟨190, 187⟩
def L.FLR.FUSE_CHECK : Fld := ⟨207, 192⟩
def L.FLR.CONTEXT : Fld := ⟨319, 256⟩
def L.FLR.INFO : Fld := ⟨447, 320⟩
-- layout TEL (R561)
def L.TEL.SENSOR : Fld := ⟨15, 0⟩
def L.TEL.VALUE : Fld := ⟨63, 32⟩
def L.TEL.TICK : Fld := ⟨111, 64⟩
def L.TEL.IDENTITY : Fld := ⟨207, 128⟩

end Sys2Proof.Machine
end

