-- ==== Sys2Proof/Machine/State.lean ====
section
/-!
DEFINITION. The state of the QD1K as plain data, and the state right after reset. Registers are one map from a register's
name and instance to its 64 bits; a register the map does not list holds its reset value. Every table the spec places in
the Groundsheet lies in `mem` at the offsets of R28. What has left the part (host-memory writes, messages, link units,
lane columns, pins) is the trace `out`.
-/
namespace Sys2Proof.Machine

open Sys2Proof

/-- Why a step stops with a fault. -/
inductive Fault where
  /-- An access to on-package memory outside the Groundsheet and the engines' local memories. No command of the table
  raises it: every address a command forms is reduced to memory the part has, or refused as the spec says. Safe. -/
  | outsideOnPackageMemory
  deriving DecidableEq, Repr

/-- Why a command has no meaning. -/
inductive Refusal where
  /-- A command that has no meaning in this model; named by its mnemonic. Raised by the arms of exec alone. Safe. -/
  | notModelled (mnemonic : String)
  deriving DecidableEq, Repr

/-- A register: its name and the numbers of its instance (for a function-window register i is the function index, and
for a ring register j is the ring). -/
structure Reg where
  name : RegName
  i : Nat
  j : Nat
  deriving DecidableEq, Repr

/-- A pin the part drives (R503, R530, R536). -/
inductive Pin where
  | errN
  | thermtripN
  | devPerstN (hp : Nat)
  deriving DecidableEq, Repr

/-- A unit that a port hands to its lanes: a packet of the link layer with its envelope (R187, R188), an LCB, an ABORT
block, a lane-layer column (R154, R155), a training frame's control field, a CAP set, or electrical idle. -/
inductive WireUnit where
  | packet (env : BitVec 64) (p : Packet) (lcrc : BitVec 32)
  | lcb (b : BitVec 512)
  | abort
  | column (type : Nat) (body : List Nat)
  | trainingFrame (lane : Nat) (ctl : BitVec 32)
  | capSet (lane : Nat) (cap : BitVec 224) (crc : BitVec 16)
  | fillerOnly
  | electricalIdle (lanes : Nat)
  | prbs (lane : Nat) (pattern : Nat) (invertNext : Bool)
  deriving DecidableEq, Repr

/-- What a PCIe port does beside sending TLPs: hot reset, link disable and retrain, an interrupt for a slot change or for
DPC, the shared bridge's Data Link Layer State Changed in a partition, a VF function level reset, and the keying of IDE. -/
inductive PcieAct where
  | hotReset
  | linkDisable
  | linkRetrain
  | slotInterrupt
  | dpcInterrupt
  | sharedDll (part : Nat)
  | vfReset (rid : Nat)
  | keyed
  deriving DecidableEq, Repr

/-- What leaves the part. -/
inductive Out where
  /-- A posted write to host memory with the requester ID of a function. -/
  | hostWrite (fn : Nat) (addr : Nat) (data : List Byte)
  /-- A read of host memory; its answer comes back as the completion command of its purpose. -/
  | hostRead (fn : Nat) (addr : Nat) (len : Nat)
  /-- A flush read: a zero-length read that confirms the function's earlier posted writes. -/
  | hostFlush (fn : Nat) (addr : Nat)
  /-- A PCIe AtomicOp request. -/
  | hostAtomic (fn : Nat) (addr : Nat) (aop : Nat) (size : Nat) (a : Nat) (b : Nat)
  /-- An MSI-X message. -/
  | msix (fn : Nat) (vector : Nat)
  /-- An event delivered to the service processor. -/
  | spEvent (source : Nat)
  /-- A read of a register answered to its requester. -/
  | regRead (rq : Requester) (v : Word)
  /-- A unit sent on a fabric port. -/
  | wire (port : Nat) (u : WireUnit)
  /-- A pin driven to a level. -/
  | pin (p : Pin) (high : Bool)
  /-- A TLP sent on a PCIe port; port 40 is the hierarchy that the service processor owns. -/
  | tlp (hp : Nat) (t : Tlp)
  /-- What a PCIe port or bridge does beside TLPs. -/
  | pcie (hp : Nat) (act : PcieAct)
  /-- A PTM response with the master time given (R493). -/
  | ptm (hp : Nat) (time : Nat)
  /-- A voltage request of a die over AVSBus, in mV (R501). -/
  | avs (die : Nat) (mv : Nat)
  /-- The whole table region copied to the mirror (R521). -/
  | mirrorCopy (fn : Nat) (base : Nat)
  /-- A slot of the SPI flash written or, with none, erased (R562). -/
  | flash (slot : Nat) (img : Option SlotImage)
  /-- A message of the service processor on one of its management paths (0 SMBus, 1 + p the VDM path of partition p, 17
  the Delholt port, 18 a CMIS transaction, 19 PMBus or AVSBus). -/
  | mgmt (path : Nat) (data : List Byte)
  deriving DecidableEq, Repr

/-- The partner's last timestamp block of a port (R43). -/
structure PeerStamp where
  root : Nat
  stratum : Nat
  tPeerSend : Nat
  tPeerRecv : Nat
  offset : Int
  deriving DecidableEq, Repr

/-- The Ridgepole unit (R30 to R56). `ctr` is fabric time at CK 0 of the current tick in units of 2^-48 ns, `inc` the
rate increment per CK. Corrections are in units of 2^-16 ns per tick. -/
structure TimeSt where
  ctr : Nat := 0
  inc : Nat := 160842843834661
  phase : Int := 0
  phaseLeft : Nat := 0
  integral : Int := 0
  good : Nat := 0
  everLocked : Bool := false
  mayStep : Bool := false
  step : Option Int := none
  todArmed : Bool := false
  lateBefore : Nat := 0
  peers : AMap Nat PeerStamp := []
  ptmLast : AMap Nat Nat := []
  tickCk : Nat := 1750
  lastPps : Option Nat := none
  refRate : Int := 0
  deriving DecidableEq, Repr

/-- A job command that waits: an attach or detach for its tick boundary (R71). -/
structure JobWait where
  e : EntryRef
  slot : Nat
  ep : Nat
  attach : Bool
  deriving DecidableEq, Repr

/-- An invalidation or destroy in progress: the entry, its first index and count, and how many of the units have still
to discard (R72, R80, R108). `marks` are the replications begun before it. -/
structure InvalWait where
  e : EntryRef
  base : Nat
  count : Nat
  slot : Nat
  marks : List Nat
  deriving DecidableEq, Repr

/-- Jobs and translations: the 16 private translation caches, most recently used first (R608), what waits, and the
counts of the running tick for the job table's counters, by slot and byte (R569). -/
structure JobSt where
  rttCache : AMap Nat (List (Nat × Nat)) := []
  mcgCache : AMap (Nat × Nat) (BitVec 512) := []
  waits : List JobWait := []
  destroys : List InvalWait := []
  rttInvals : List InvalWait := []
  mcgInvals : List InvalWait := []
  counts : AMap (Nat × Nat) Nat := []
  deriving DecidableEq, Repr

/-- A branch of a buffered packet: where it goes, the header it goes with, its VCID on that output, the hot entry whose
queue holds it, and how far it has crossed (R117, R121, R130). -/
structure Branch where
  out : Nat
  net : BitVec 256
  vcid : Nat
  hot : Option Nat
  crossed : Nat
  started : Bool
  done : Bool
  enq : Nat
  deriving DecidableEq, Repr

/-- A packet in the packet buffer (R114 to R128): its input, the VCID and generation of its reserve charge, the cells
that have arrived, whether it is whole and has passed its check, and its branches. -/
structure CorePkt where
  id : Nat
  pkt : Packet
  inp : Nat
  rsvVc : Nat
  gen : Nat
  segs : Nat
  tc : Nat
  cellsIn : Nat
  complete : Bool
  cutThrough : Bool
  routed : Bool
  shared : Option (Nat × Nat)
  freed : Bool
  branches : List Branch
  deriving DecidableEq, Repr

/-- A pair matched until a packet's last cell has crossed (R121): input, output, packet, branch, cost reserved. -/
structure Match where
  inp : Nat
  out : Nat
  id : Nat
  enq : Nat
  deriving DecidableEq, Repr

/-- A packet whose cells have crossed, or are crossing, to a fabric port's output stage (R118). -/
structure StagePkt where
  id : Nat
  enq : Nat
  pkt : Packet
  inp : Nat
  vcid : Nat
  cells : Nat
  cellsIn : Nat
  cutThrough : Bool
  deriving DecidableEq, Repr

/-- A Guyline snapshot: two vectors of 64 levels, and its age in turnovers (R96). -/
structure Snapshot where
  same : List Nat
  next : List Nat
  age : Nat
  deriving DecidableEq, Repr

/-- The switch core (R114 to R147) and the routing pipelines (R95 to R108): the packets buffered and the next packet and
enqueue numbers; the matched pairs (R121); the grant and accept pointers (R119, R120); the deficits and pointers of DWRR
(R139); the shapers' tokens and those in force (R140); the output stages (R118); K_EFF with the K_MIN it started from,
and the tick's departures and marks (R129 to R133); the quiet turnovers of hot entries and where they stand (R133 to
R135); the tick's first hops and those the long way (R100); the pointers of link groups and deroutes (R616, R99); the
Guyline snapshots, and those that become current at the turnover (R96); and the IE ports that are not in
service (R20; no command of the table changes which these are: log 14). -/
structure CoreSt where
  pkts : List CorePkt := []
  nextId : Nat := 0
  nextEnq : Nat := 0
  matched : List Match := []
  grantPtr : AMap (Nat × Nat) Nat := []
  acceptPtr : AMap Nat Nat := []
  deficit : AMap (Nat × Nat) Int := []
  drrPtr : AMap Nat Nat := []
  drrFresh : AMap Nat Bool := []
  tokens : AMap (Nat × Nat) Int := []
  shaperOn : List (Nat × Nat) := []
  stage : AMap Nat (List StagePkt) := []
  kEff : AMap (Nat × Nat) Nat := []
  kBase : Nat := 130
  departed : AMap (Nat × Nat) Nat := []
  marks : AMap (Nat × Nat) Nat := []
  addrMarks : AMap (Nat × Nat) Nat := []
  hotCool : AMap Nat Nat := []
  hotFrom : AMap Nat Nat := []
  firstHops : AMap Nat Nat := []
  firstLong : AMap Nat Nat := []
  groupPtr : AMap (Nat × Nat) Nat := []
  derPtr : AMap (Nat × Nat) Nat := []
  snaps : AMap Nat Snapshot := []
  snapsNext : AMap Nat Snapshot := []
  ieDown : List Nat := []
  deriving DecidableEq, Repr

/-- A width change in progress (R176 to R178). `kind`: 0 fault, 1 power narrowing, 2 widening. -/
structure WidthCh where
  kind : Nat
  requester : Bool
  seq : Nat
  set : Nat
  ownCommit : Bool
  ptrCommit : Bool
  readySent : Bool
  readySeen : Bool
  txDone : Bool
  rxDone : Bool
  deriving DecidableEq, Repr

/-- A packet in the replay buffer (R205, R208). -/
structure ReplayEnt where
  lseq : Nat
  env : BitVec 64
  pkt : Packet
  vcid : Nat
  cost : Nat
  blocks : Nat
  id : Nat
  enq : Nat
  deriving DecidableEq, Repr

/-- A packet arriving on a port, between its SOP block and its end (R206). -/
structure RxPkt where
  env : BitVec 64
  net : BitVec 256
  tp : BitVec 256
  kept : Bool
  bad : Bool
  id : Nat
  deriving DecidableEq, Repr

/-- A fabric port beyond its registers. Training: the hold-off (R611), the rates still allowed (R166, R171), what the CAP sets
settled (R165 to R167) and the previous partner, the lanes of the result and those at fault, whether lanes may be given
up, and what VERIFY has seen and sent (R170). Service: the drain and restore in progress with their sequence
numbers, and the port's leaving and joining of its link group at the next turnover (R174, R175). Width changes (R176 to
R179). The link layer: DEBIT, CRED, CR_TOTAL and the partner's advertisement by VCID (R203, R204), the replay timer and
buffer, the passes without progress and the epochs (R205 to R209), the acknowledgement due (R207), the packets in transmission
and in arrival, the INIT exchange and the fresh start (R212, R213); the generation of its charges; and the run of turnovers
of R505. -/
structure PortSt where
  holdOff : Bool := false
  allowed : Nat := 7
  capEight : Bool := false
  capAckSeen : Bool := false
  prevPartner : Nat := 0
  resLanes : Nat := 0
  faultLanes : Nat := 0
  degradeOk : Bool := false
  soak : Bool := false
  localPass : Bool := false
  partnerPass : Bool := false
  partnerSawPass : Bool := false
  txActive : Bool := false
  rxActive : Bool := false
  drainOwn : Bool := false
  drainPartner : Bool := false
  drainAck : Bool := false
  partnerSeq : Nat := 0
  leaveNext : Bool := false
  outOfGroup : Bool := false
  joinNext : Bool := false
  serviceSeq : Nat := 0
  widthSeq : Nat := 0
  width : Option WidthCh := none
  debit : List Nat := [0, 0, 0, 0, 0, 0, 0, 0]
  cred : List Nat := [0, 0, 0, 0, 0, 0, 0, 0]
  crTotal : List Nat := [0, 0, 0, 0, 0, 0, 0, 0]
  adv : List Nat := [0, 0, 0, 0, 0, 0, 0, 0]
  timer : Nat := 0
  noProgress : Nat := 0
  lastEpoch : Nat := 0
  nakEpoch : Nat := 0
  epochCk : Nat := 0
  ackDue : Bool := false
  replay : List ReplayEnt := []
  txNow : Option (Nat × Nat) := none
  rxNow : Option RxPkt := none
  partnerInit : Bool := false
  offered : Bool := false
  freshWait : Bool := false
  gen : Nat := 0
  narrowRun : Nat := 0
  deriving DecidableEq, Repr

/-- A lane: the run of identical CAP sets it has received (R165); the frames with RX_READY in a row, whether its own
RX_READY has been sent, its COUNTDOWN (15 not counting, 16 finished) and the partner's finished countdown (R168); its
receiver settings, its place in the 64-tick sweep and whether a calibration runs (R180, R182); when it last asked for a
step, the partner's request that waits for the turnover, and its answer (R168, R181). -/
structure LaneSt where
  capLast : BitVec 224 := 0
  capRun : Nat := 0
  eqRun : Nat := 0
  eqReady : Bool := false
  eqCount : Nat := 15
  eqDone : Bool := false
  ctle : Nat := 0
  dfe : List Int := [0, 0, 0, 0, 0, 0, 0, 0, 0, 0, 0, 0]
  ffe : Int := 0
  sweep : Nat := 0
  calRun : Bool := false
  tuneTick : Nat := 0
  tuneReq : Nat := 0
  tuneSt : Nat := 0
  deriving DecidableEq, Repr

/-- A fetched entry of a host ring in the descriptor cache (R236): its data once the read has returned, whether the
entry has begun (R225), whether its read has failed (R606), and whether its opcode's command has taken it. -/
structure Desc where
  idx : Nat
  data : Option (BitVec 512)
  begun : Bool
  failed : Bool
  taken : Bool
  deriving DecidableEq, Repr

/-- A notification record, with the connection work queue entry (connection, queue, index) whose CMP advances once the
record is written (R245). -/
structure NoteWait where
  record : BitVec 512
  entry : Option (Nat × Bool × Nat)
  deriving DecidableEq, Repr

/-- A host ring beyond its registers: its descriptor-cache entries, the completed indices at or above CPI (with their
EVENT bits), the arm, the hold, the doorbell word read in this tick, the receive buffers posted and not yet consumed,
and the records that wait for room (R224). -/
structure RingSt where
  descs : List Desc := []
  doneAt : List (Nat × Bool) := []
  armAt : Option Nat := none
  hold : Option (Nat × Nat) := none
  dbValue : Option Nat := none
  polled : Bool := false
  bufs : List Nat := []
  waiting : List NoteWait := []
  deriving DecidableEq, Repr

/-- A packet that a transport unit has ready for its IE port (R610, R144, R145). -/
structure TxPkt where
  pkt : Packet
  policer : Option Nat
  preColour : Nat
  owner : Nat
  held : Bool
  entry : Option EntryRef
  conn : Option (Nat × Nat)
  deriving DecidableEq, Repr

/-- The transport units' queues between the switch core and the endpoints, by IE port: packets that wait for injection (R610,
R144), and packets ejected and not yet taken (R63, R65). -/
structure NiSt where
  tx : AMap Nat (List TxPkt) := []
  ej : AMap Nat (List Packet) := []
  deriving DecidableEq, Repr

/-- A Groundsheet bank: failed, on a spare, served from the mirror, or being restored with the writes held meanwhile (R522 to
R525). -/
structure BankSt where
  failed : Bool
  onSpare : Option Nat
  fromMirror : Bool
  restoring : Bool
  held : List (Nat × List Byte)
  deriving DecidableEq, Repr

/-- Fault containment beyond its registers: the fault log by slot and the last record of each source (R514, R515), whether the
first fatal record is kept (R515); the physical engine of each logical one, and the spare engines in use and failed
(R517); the banks and the queue of those to retire, with each die's spares in use (R522 to R525); whether the mirror is
being copied (R520); failed columns (R519, R541); the repair records and whether they are to be erased (R542); and the
records that PLDM has acknowledged (R560). -/
structure FaultSt where
  log : AMap Nat (BitVec 512) := []
  lastRec : AMap Nat (Nat × Nat) := []
  fatalKept : Bool := false
  physical : AMap Nat Nat := []
  spareBusy : List (Nat × Nat) := []
  spareDead : List (Nat × Nat) := []
  banks : AMap Nat BankSt := []
  bankQueue : List Nat := []
  spareBanks : AMap Nat (List Nat) := []
  mirrorCopying : Bool := false
  failedColumns : List Nat := []
  repair : List (Nat × Nat × Nat) := []
  repairErase : Bool := false
  ackedSeq : List Nat := []
  deriving DecidableEq, Repr

/-- Reset, boot and the board's inputs: what holds the part in cold reset, the FREF inputs that have stopped, whether the
fuses are loaded and each key slot's hash copies agree, the image booted (kept by the service processor through a warm
reset) and the port enables held back from its records (record, port, value: R545), the activation that waits for the next cold reset (R562),
and whether THERMTRIP_N is low. -/
structure SysSt where
  coldHold : Bool := false
  sysResetN : Bool := true
  railOk : Bool := true
  sprefOk : Bool := true
  frefStopped : List Nat := []
  fusesLoaded : Bool := false
  keyOk : List Bool := [true, true]
  image : Option SlotImage := none
  held : List (Nat × Nat × Word) := []
  activation : Option SlotImage := none
  thermTrip : Bool := false
  deriving DecidableEq, Repr

/-- A handler event (R354): its kind, binding slot, merged count, tick, ARGS bits (from bit 128 of the record), the
packet or notice that goes with it, the source that timers and ticks are merged by, and the hub die it arose on. -/
structure HEvent where
  kind : Nat
  slot : Nat
  missed : Nat
  tick : Nat
  args : Nat
  body : List Byte
  src : Nat
  die : Nat
  msg : Option (Nat × Nat)
  deriving DecidableEq, Repr

/-- What a thread waits for (R351, R394 to R396, R418, R437): nothing, a TLB miss (die, number; none while every number
is in use), a host read of a load, the flush reads of a CB (function and stores), a lock word, the attachment's room for
an EMIT, an event since an order number until a turnover and the register its KIND goes to, or the next turnover. -/
inductive TWait where
  | none
  | miss (m : Option (Nat × Nat))
  | load (fn : Nat) (addr : Nat)
  | cb (left : List (Nat × Nat)) (lost : Nat)
  | lock (off : Nat)
  | emit
  | event (since : Nat) (due : Option Nat) (rd : Nat)
  | turnover
  deriving DecidableEq, Repr

/-- A thread context of a logical engine (R376, R399): its registers, the invocation it runs (binding as dispatched and
event), what it waits for, whether it is preempted, its cycles in the tick and since dispatch, its run of turnovers over
budget, its boosts (lock word and priority), and the stores posted since its last CB by function. -/
structure Thread where
  g : List Word := List.replicate 32 0
  v : List (BitVec 512) := List.replicate 16 0
  p : List Word := (BitVec.allOnes 64) :: List.replicate 7 0
  pc : Nat := 0
  resv : Option Nat := none
  ftFrac : Word := 0
  ftCk : Word := 0
  ectl : Word := 0
  epc : Word := 0
  ecause : Word := 0
  eaddr : Word := 0
  evec : Word := 0
  asid : Word := 0
  tlbsel : Word := 0
  slot : Nat := 0
  bind : BitVec 256 := 0
  user : Bool := false
  event : Option HEvent := none
  wait : TWait := .none
  ready : Option (List Byte) := none
  marked : Bool := false
  preempted : Bool := false
  count : Nat := 0
  overruns : Nat := 0
  cycles : Nat := 0
  boosts : List (Nat × Nat) := []
  posted : AMap Nat Nat := []
  stall : Nat := 0
  deriving DecidableEq, Repr

/-- A loaded handler image (R370, R371): firmware or user, its entries (offset, kinds) and the place of its code in the
user code region. -/
structure Image where
  user : Bool
  entries : List (Nat × Nat)
  base : Nat
  bytes : Nat
  deriving DecidableEq, Repr

/-- The clusters' event queues and bindings (R354, R355, R372, R373): queues by (cluster, class), events that wait for
room, the binding table and the accepted writes that wait for their tick boundary; the running threads, the images, the
load in progress, the engines whose code is being reloaded, the instructions left until each engine's next sample, the
clusters' tokens in 1/256 token (R364), the timers that have come due (R375), and the context of each engine that has
yielded (R395). -/
structure EngSt where
  queues : AMap (Nat × Nat) (List HEvent) := []
  held : List HEvent := []
  bindings : AMap Nat (BitVec 256) := []
  bindNext : AMap Nat (BitVec 256) := []
  threads : AMap ThreadId Thread := []
  images : AMap Nat Image := []
  loadAddr : Option Nat := none
  order : Nat := 0
  reloading : List Nat := []
  sampleLeft : AMap Nat Nat := []
  sampleRaised : List Nat := []
  tokens : AMap Nat Int := []
  timersDue : List (Nat × Nat) := []
  yielded : AMap Nat Nat := []
  deriving DecidableEq, Repr

/-- A fetched entry of a connection work queue (R243): its data once read, whether its read failed (R606), whether it
was found unstamped below KT and is read again at every turnover, whether it is posted, and whether it has begun. -/
structure WorkEnt where
  idx : Nat
  data : Option (BitVec 512)
  failed : Bool
  miss : Bool
  posted : Bool
  begun : Bool
  deriving DecidableEq, Repr

/-- A connection work queue (R240 to R245): base, size, notification ring, the known tail KT, the completed index CMP,
the next index to begin and to fetch, and the re-reads after a stamp miss that are left. -/
structure WorkQ where
  base : Nat := 0
  log2 : Nat := 0
  nring : Nat := 0
  kt : Nat := 0
  cmp : Nat := 0
  next : Nat := 0
  fetch : Nat := 0
  ents : List WorkEnt := []
  doneAt : List Nat := []
  want : Bool := false
  due : Bool := false
  turns : Nat := 0
  missAt : Option Nat := none
  retrying : Bool := false
  deriving DecidableEq, Repr

/-- A posted receive of a match domain (R302, R305); `ovf` says that it lies in the overflow area (R325). -/
structure Post where
  seq : Nat
  fn : Nat
  slot : Nat
  ctx : Nat
  ring : Nat
  idx : Nat
  userTag : Nat
  any : Bool
  src : Nat
  tag : BitVec 64
  ign : BitVec 64
  addr : Nat
  len : Nat
  handler : Option Nat
  nring : Nat
  ovf : Bool
  deriving DecidableEq, Repr

/-- An unexpected message of a match domain (R315, R319): its connection, MSN, source, tag and length; the buffers it
took; whether its bytes have all been accounted, the status it has ended with, and whether the entry lies in the
overflow area (R325). -/
structure Unexp where
  conn : Nat
  msn : Nat
  src : Nat
  tag : BitVec 64
  bytes : Nat
  uxRing : Nat
  ux : List Nat
  complete : Bool
  status : Nat
  rndv : Bool
  ovf : Bool
  deriving DecidableEq, Repr

/-- A header held at a match pipeline above its connection's commit pointer (R310), with its claim. -/
structure HeldHdr where
  pipe : Nat
  fn : Nat
  slot : Nat
  ctx : Nat
  conn : Nat
  msn : Nat
  src : Nat
  tag : BitVec 64
  bytes : Nat
  rts : Bool
  claim : Option Nat
  deriving DecidableEq, Repr

/-- A match domain (R299, R301): its posted and unexpected lists in order, and its next POST_SEQ. -/
structure Domain where
  fn : Nat
  slot : Nat
  ctx : Nat
  posts : List Post
  unexp : List Unexp
  nextSeq : Nat
  overflow : Bool
  deriving DecidableEq, Repr

/-- A packet that a connection sends for the first time in order, or has sent (R266, R267): its opcode, MSN, offset and
length, its header without PSN, where its payload is read (0 none, 1 host, 2 Groundsheet), the payload once read, the
key a response was read under (R285), and the PSN of the request it answers; the MSN of the connection's own message it
belongs to, if any; and the parts of its payload that lie in the Groundsheet (offset, bytes). -/
structure TxUnit where
  uid : Nat
  op : Nat
  msn : Nat
  off : Nat
  len : Nat
  hdr : BitVec 256
  src : Nat
  addr : Nat
  payload : Option (List Byte)
  asked : Bool
  pinned : Bool
  pre : Nat
  key : Option Nat
  req : Nat
  own : Option Nat
  fill : List (Nat × List Byte)
  deriving DecidableEq, Repr

/-- A packet sent and not yet acknowledged (R269 to R271). -/
structure SentPkt where
  psn : Nat
  u : TxUnit
  sentAt : Nat
  sends : Nat
  acked : Bool
  rnrAt : Option Nat
  reread : Bool
  deriving DecidableEq, Repr

/-- A message open at its sender (R266, R275): kind 0 PUT, 1 GET, 2 SEND, 3 eager matched, 4 ATOMIC, 5 rendezvous, 6
the QD1K's own RNDV_GET, 9 an entry that ends without an MSN; its work queue entry; the packets of it, how many have a PSN and how many are acknowledged or
refused; the first refusal; its CANCEL (0 none, 1 due or sent, 2 acknowledged); response bytes placed; and, for a
rendezvous, the responses it owes (none until matched). -/
structure SMsg where
  msn : Nat
  kind : Nat
  idx : Nat
  ent : BitVec 512
  len : Nat
  total : Nat
  gone : Nat
  status : Option Nat
  cancel : Nat
  got : List Nat
  gotBytes : Nat
  respTotal : Option Nat
  respGone : Nat
  recv : Option Post
  src : Nat
  tag : BitVec 64
  rtsMsn : Nat
  rnr : Nat
  unexpected : Bool
  done : Bool
  deriving DecidableEq, Repr

/-- Where the bytes of a message at its receiver go (R273, R279, R314, R315): nothing of its own, a receive queue entry
(index, length, address), a posted receive, or unexpected buffers. -/
inductive RDest where
  | plain
  | work (idx : Nat) (len : Nat) (addr : Nat) (tag : Nat)
  | post (p : Post)
  | unexpected (ring : Nat) (bufs : List Nat) (recv : Option Post)
  deriving DecidableEq, Repr

/-- A message open at its receiver (R273, R274): its bytes, those accounted and those placed, whether a packet of it was
refused, its trigger counter, its flush (0 none, 1 wanted, 2 issued), where it is placed, and what it waits for. -/
structure RMsg where
  msn : Nat
  op : Nat
  total : Nat
  acct : Nat
  placed : Nat
  refused : Bool
  status : Nat
  trig : Option Nat
  flush : Nat
  flushPsn : Nat
  unordered : Bool
  dest : RDest
  src : Nat
  tag : BitVec 64
  ctx : Nat
  committed : Bool
  complete : Bool
  deriving DecidableEq, Repr

/-- A packet that waits at its receiver for a translation (R420) or for its message's commit (R311). -/
structure WaitPkt where
  pkt : Packet
  miss : Option (Nat × Nat)
  ie : Nat
  deriving DecidableEq, Repr

/-- A record that waits for the order of its connection's messages (R245, R275). -/
structure RecWait where
  msn : Nat
  ring : Nat
  note : NoteWait
  deriving DecidableEq, Repr

/-- A connection (R251 to R275): 1 OPEN, 2 ERROR, 3 being destroyed. -/
structure ConnSt where
  fn : Nat
  slot : Nat
  rank : Nat
  node : Nat
  ep : Nat
  peer : Nat
  tc : Nat
  mtu : Nat
  pinned : Bool
  st : Nat := 1
  destroy : Option EntryRef := none
  sq : WorkQ := {}
  rq : WorkQ := {}
  nextMsn : Nat := 0
  nextPsn : Nat := 0
  una : Nat := 0
  nextRq : Nat := 0
  w : Nat := 64
  rto : Nat := 64
  srtt : Int := 0
  rttvar : Int := 0
  sampled : Bool := false
  timeouts : Nat := 0
  progress : Nat := 0
  routeFails : Nat := 0
  timedOut : Bool := false
  ceSeen : Bool := false
  limited : Bool := false
  msgs : List SMsg := []
  txq : List TxUnit := []
  sent : List SentPkt := []
  reported : Option Nat := none
  uid : Nat := 0
  srecs : List RecWait := []
  held : Bool := false
  rndvWait : List SMsg := []
  epsn : Nat := 0
  got : List Nat := []
  ackDue : Bool := false
  ce : Nat := 0
  commit : Nat := 0
  seen : List Nat := []
  rmsgs : List RMsg := []
  rhead : Nat := 0
  rdone : List Nat := []
  rrecs : List RecWait := []
  parked : List WaitPkt := []
  heldPkts : List Packet := []
  ctxWait : List Packet := []
  atomics : List Packet := []
  deriving DecidableEq, Repr

/-- A command on a connection, key or counter that waits for a tick boundary or for what must end before it (R257,
R285, R287). -/
inductive ConnWait where
  | modify (e : EntryRef) (conn : Nat) (tc : Option Nat) (err : Bool)
  | revoke (e : EntryRef) (key : Nat) (phase : Nat)
  | trigOff (e : EntryRef) (ctr : Nat)
  deriving DecidableEq, Repr

/-- Connections, the order of the context cache, and the commands that wait (R255). -/
structure XportSt where
  conns : AMap Nat ConnSt := []
  ctxCache : List Nat := []
  waits : List ConnWait := []
  deriving DecidableEq, Repr

/-- The match domains and the headers held (R299 to R312). -/
structure MatchSt where
  domains : List Domain := []
  held : List HeldHdr := []
  deriving DecidableEq, Repr

/-- A local post of a collective instance (R332, R335): its operand, how many slices of it have been sent up, the bytes
of the result placed, and its send-ring entry until it completes. -/
structure CPost where
  fn : Nat
  cri : Nat
  entry : Option EntryRef
  operand : List Byte
  sent : Nat
  dst : Nat
  doneAddr : Nat
  ctr : Option Nat
  deriving DecidableEq, Repr

/-- What the posts and packets of an instance say of it (R333, R345). -/
structure CParams where
  kind : Nat
  repro : Bool
  dtype : Nat
  op : Nat
  slice : Nat
  bytes : Nat
  deriving DecidableEq, Repr

/-- An input of a stage and slice (R340, R344): `own` for the node's own partial; `taken` 0 while it waits, 1 once a
turnover has taken it for folding, 2 once it has been folded. -/
structure CInput where
  stage : Nat
  slice : Nat
  key : Nat
  ncontrib : Nat
  data : List Byte
  par : CParams
  own : Bool
  taken : Nat
  deriving DecidableEq, Repr

/-- An instance of a collective on this node (R336): what its posts say of it; its posts and inputs; the slices being
folded; fast-mode accumulators; partials that wait for the window (R343); reduce results that wait for their placement;
the leading result slices at the root; the slices placed here; the packets held; the highest COLL_MARK received and the
last one sent; when it was created and last progressed; since when it is a tombstone; and whether it is complete. -/
structure CInst where
  mg : Nat
  seq : Nat
  job : Nat
  par : Option CParams := none
  root : Nat := 0
  ntotal : Nat := 0
  nlocal : Nat := 0
  posts : List CPost := []
  inputs : List CInput := []
  folds : List (Nat × Nat) := []
  accs : List CInput := []
  partials : List CInput := []
  pend : List CInput := []
  results : List Nat := []
  downs : List Nat := []
  early : List Packet := []
  marks : Nat := 0
  marked : Nat := 0
  born : Nat := 0
  progress : Nat := 0
  tomb : Option Nat := none
  complete : Bool := false
  deriving DecidableEq, Repr

/-- The collective service (R336 to R349). -/
structure CollSt where
  insts : List CInst := []
  deriving DecidableEq, Repr

/-- A waiter of a lock word (R437): the word and the identity that reads. Its lock priority is that of its identity when the
word passes on (R438, R443). -/
structure LockWaiter where
  off : Nat
  ident : Nat
  deriving DecidableEq, Repr

/-- The lock units (R433 to R444): waiters in order of arrival, and the words recorded as owned. -/
structure LockSt where
  waiters : List LockWaiter := []
  owned : List Nat := []
  deriving DecidableEq, Repr

/-- A TLB invalidation in progress (R424): the function, ASID, range, and the misses raised before it. -/
structure XlInv where
  fn : Nat
  asid : Nat
  whole : Bool
  page : Nat
  count : Nat
  misses : List (Nat × Nat)
  deriving DecidableEq, Repr

/-- The TLBs (R407): entries by (0 engine or 1 placement, number, index), tag and data word; and invalidations. -/
structure XlSt where
  tlb : AMap (Nat × Nat × Nat) (Word × Word) := []
  invs : List XlInv := []
  deriving DecidableEq, Repr

/-- A burst of a mover channel (R454): its place in the pattern and its length, its data once read, and the retries that
are left (R460). -/
structure Burst where
  pos : Nat
  len : Nat
  data : Option (List Byte)
  left : Nat
  deriving DecidableEq, Repr

/-- A bulk mover channel beyond its registers (R452 to R467): the order of its GO, the bytes of the pattern whose reads
are issued and that are written, the first place a failed burst of an abort left unwritten, its bursts, the bursts
reissued, how it ends (0 not, 1 retries spent, 2 abort, 3 function halted, 4 reset), its flush read (0 none, 1 issued, 2
confirmed) with the retries left, whether it holds its lock, and the CK since which it is paused. -/
structure Chan where
  order : Nat := 0
  rd : Nat := 0
  wr : Nat := 0
  hole : Option Nat := none
  bursts : List Burst := []
  retries : Nat := 0
  ending : Nat := 0
  flush : Nat := 0
  flushLeft : Nat := 0
  locked : Bool := false
  pauseCk : Option Nat := none
  deriving DecidableEq, Repr

/-- The bulk movers: their channels, the number of the next GO, and each mover's REMAIN in 2^-14 token (R466). -/
structure MoverSt where
  chans : AMap (Nat × Nat) Chan := []
  order : Nat := 0
  tokens : AMap Nat Int := []
  deriving DecidableEq, Repr

/-- A virtual bridge or downstream port as its owner has programmed it (R474, R482, R488, R489), with its slot's state
changes. -/
structure Bridge where
  sec : Nat := 0
  sub : Nat := 0
  memory : Option (Nat × Nat) := none
  prefetchable : Option (Nat × Nat) := none
  acs : Nat := 0
  dpcTrigger : Nat := 0
  dpcUr : Bool := false
  dpcSurprise : Bool := false
  slotInt : Bool := false
  maxPayload : Nat := 128
  presChanged : Bool := false
  dllChanged : Bool := false
  deriving DecidableEq, Repr

/-- A non-posted request that has left a downstream port (R483, R486): the port, its requester ID and tag there, the port
it came from with its own requester ID and tag, the bytes still due, the target partition of a window request, and the
SVF_MAP entry it went through. -/
structure Pend where
  egress : Nat
  reqId : Nat
  tag : Nat
  ingress : Nat
  origId : Nat
  origTag : Nat
  left : Nat
  window : Option Nat
  svf : Option Nat
  deriving DecidableEq, Repr

/-- The expansion-bus switch beyond its registers (R469 to R493): bridges by HP, the bus of each partition's function bus and of its
shared bridge, the virtual BARs and Command registers of SVF_MAP entries, outstanding requests, window requests that wait
at their ingress port (port, partition, request), ports whose IDE stream is Insecure, AER status bits by port (functions from 64 on), the
HOST_PERST_N released, partitions whose readiness window runs (1) or is over (2), the DEV_PERST_N released, shared
bridges whose DL_Active is cleared, and the next tag for window requests. -/
structure PcieSt where
  bridges : AMap Nat Bridge := []
  fnBus : AMap Nat Nat := []
  shBus : AMap Nat Nat := []
  svfBar : AMap Nat Nat := []
  svfCmd : AMap Nat Nat := []
  out : List Pend := []
  waiting : List (Nat × Nat × Tlp) := []
  insecure : List Nat := []
  aer : AMap Nat Nat := []
  perstUp : List Nat := []
  nf : AMap Nat Nat := []
  devPerst : List Nat := []
  shDown : List Nat := []
  nextTag : Nat := 0
  deriving DecidableEq, Repr

/-- Lantern beyond its registers (R495 to R507): the averages and the pool; per die the PMBus failures in a row, the sum
and number of the current readings since the last poll, and whether it has warned; the last reading of every sensor and
those excluded; the runs of turnovers of R506 and R507; pending rises by cluster with their CODE, the turnovers each die
has waited for its rail, and the dies AVSBus has reported; the clusters' issuing cycles of the tick and those in which P0
or P1 issued. -/
structure LanternSt where
  avgS : Nat := 0
  avgB : Nat := 0
  pool : Nat := 0
  pmFails : AMap Nat Nat := []
  currents : AMap Nat (Nat × Nat) := []
  warned : List Nat := []
  temps : AMap Nat Int := []
  excluded : List Nat := []
  room : Int := 0
  unmetRun : Nat := 0
  metRun : Nat := 0
  lateRun : Nat := 0
  rises : AMap Nat Nat := []
  riseWait : AMap Nat Nat := []
  settled : List Nat := []
  issue : AMap Nat Nat := []
  urgent : List Nat := []
  deriving DecidableEq, Repr

/-- The service processor's management side (R557 to R563): each module's last temperature with its tick, the frames taken
from the Delholt port, and whether a snapshot of the counters waits. -/
structure MgmtSt where
  modTemp : AMap Nat (Int × Nat) := []
  frames : List (List Byte) := []
  snapWait : Bool := false
  deriving DecidableEq, Repr


/-- The state of the QD1K. `regs` holds every register that differs from its reset value or has been written (for a
tick-scoped register, its preparing bank: R585); `active` the active bank of the tick-scoped registers (R35); `mem` the
on-package memory; `draws` counts the free values drawn; `pending` the commands that wait, first in first out. -/
structure State where
  regs : AMap Reg Word := []
  active : AMap Reg Word := []
  unpublished : List Reg := []
  wstat : AMap Requester Word := []
  msix : AMap (Nat × Nat) (BitVec 128) := []
  msixPending : List (Nat × Nat) := []
  msixOn : List Nat := []
  mem : List Host.Cell := []
  poison : List Nat := []
  time : TimeSt := {}
  jobs : JobSt := {}
  core : CoreSt := {}
  ports : AMap Nat PortSt := []
  lanes : AMap Nat LaneSt := []
  rings : AMap (Nat × Nat) RingSt := []
  ni : NiSt := {}
  flt : FaultSt := {}
  sys : SysSt := {}
  eng : EngSt := {}
  xp : XportSt := {}
  mat : MatchSt := {}
  coll : CollSt := {}
  lock : LockSt := {}
  xl : XlSt := {}
  mover : MoverSt := {}
  pcie : PcieSt := {}
  lantern : LanternSt := {}
  mgmt : MgmtSt := {}
  out : List Out := []
  draws : Nat := 0
  pending : List Instr := []
  deriving DecidableEq, Repr

/-- The machine right after reset: every register at the reset value of its field tables, no table written, nothing
waiting. -/
def State.reset : State := {}

end Sys2Proof.Machine
end

