-- ==== Sys2Proof/Machine/Ops.lean ====
section
/-!
DEFINITION. The named operations over registers, memory, tables and ports that every meaning is written with.
-/
namespace Sys2Proof.Machine

open Sys2Proof

/-- What exec answers. -/
abbrev Res := Host.Outcome State Fault Refusal

/-- The status codes of R235. -/
inductive Status where
  | ok | badValue | badState | noResource | notPermitted | rankInvalid | jobMismatch | keyInvalid | keyRevoked | access
  | remoteUnreachable | timeout | truncated | translation | walkBus | walkDevice | aborted | busy | portInService
  | wouldIsolate | barrierLostStores | handlerOverrun | engineLost | functionHalted | powerLimitUnmet | noRecvBuffer
  deriving DecidableEq, Repr

/-- The 8-bit code of a status (R235). -/
def Status.code : Status → Nat
  | .ok => 0x00 | .badValue => 0x01 | .badState => 0x02 | .noResource => 0x03 | .notPermitted => 0x04
  | .rankInvalid => 0x05 | .jobMismatch => 0x06 | .keyInvalid => 0x07 | .keyRevoked => 0x08 | .access => 0x09
  | .remoteUnreachable => 0x0A | .timeout => 0x0B | .truncated => 0x0C | .translation => 0x0D | .walkBus => 0x0E
  | .walkDevice => 0x0F | .aborted => 0x10 | .busy => 0x11 | .portInService => 0x12 | .wouldIsolate => 0x13
  | .barrierLostStores => 0x14 | .handlerOverrun => 0x15 | .engineLost => 0x16 | .functionHalted => 0x17
  | .powerLimitUnmet => 0x18 | .noRecvBuffer => 0x20

/-! ### Registers -/

/-- The default class of a fault source (R510): 1 corrected, 2 contained, 3 fatal. -/
def defaultClass (src : Nat) : Nat :=
  if src ≤ 9 then 3
  else if src ≤ 15 then 2
  else if src ≤ 28 then 1
  else if src ≤ 30 then 2
  else if src = 31 then 1
  else if src ≤ 543 then (if src % 2 = 0 then 1 else 2)
  else if src ≤ 1159 then 2
  else if src ≤ 1191 then (if (src - 1160) % 8 = 2 ∨ (src - 1160) % 8 = 6 then 1 else 2)
  else if src ≤ 1199 then (if src = 1194 ∨ src = 1196 ∨ src = 1197 ∨ src = 1198 then 1 else 2)
  else 1

/-- The word whose fields hold their reset values. -/
def resetWord : List FieldDesc → Nat
  | [] => 0
  | f :: fs => (f.reset % 2 ^ (f.hi - f.lo + 1)) <<< f.lo + resetWord fs

/-- The reset value of a register (R586): that of its field table; HOME_HUB is p div 4 (R19) and FAULT_CLASS holds the
default classes (R533). -/
def Reg.reset (r : Reg) : Word :=
  match r.name with
  | .EB_PART_CFG => BitVec.ofNat 64 (resetWord r.name.desc.fields + (r.i / 4 % 4) <<< 6)
  | .FAULT_CLASS =>
    BitVec.ofNat 64 ((List.range 32).foldl (fun a k => a + (defaultClass (32 * r.i + k)) <<< (2 * k)) 0)
  | n => BitVec.ofNat 64 (resetWord n.desc.fields)

/-- The value of a register (for a tick-scoped one, its preparing bank: R585). -/
def State.rd (s : State) (r : Reg) : Word := mget s.regs r r.reset

/-- The state with a register holding a value. -/
def State.wr (s : State) (r : Reg) (v : Word) : State := { s with regs := mset s.regs r v }

/-- The active bank of a tick-scoped register (R35). -/
def State.rdA (s : State) (r : Reg) : Word := mget s.active r r.reset

/-- The register of a field's name at an instance. -/
def RegFld.at (f : RegFld) (i j : Nat) : Reg := ⟨f.reg, i, j⟩

/-- The bit range of a register field. -/
def RegFld.fld (f : RegFld) : Fld := ⟨f.hi, f.lo⟩

/-- The value of a field of a register instance. -/
def State.f (s : State) (f : RegFld) (i : Nat := 0) (j : Nat := 0) : Nat := f.fld.get (s.rd (f.at i j))

/-- Whether a one-bit field is set. -/
def State.on (s : State) (f : RegFld) (i : Nat := 0) (j : Nat := 0) : Bool := s.f f i j % 2 == 1

/-- The value of a field in the active bank. -/
def State.fa (s : State) (f : RegFld) (i : Nat := 0) (j : Nat := 0) : Nat := f.fld.get (s.rdA (f.at i j))

/-- Whether a one-bit field is set in the active bank. -/
def State.ona (s : State) (f : RegFld) (i : Nat := 0) (j : Nat := 0) : Bool := s.fa f i j % 2 == 1

/-- The state with a field of a register instance set. -/
def State.set (s : State) (f : RegFld) (v : Nat) (i : Nat := 0) (j : Nat := 0) : State :=
  s.wr (f.at i j) (f.fld.set (s.rd (f.at i j)) v)

/-- The number a Bool stands for in a one-bit field. -/
def b2n (b : Bool) : Nat := if b then 1 else 0

/-- A counter register raised by n: saturating at 32 bits, or wrapping at 48, as its kind says (R584's counters). -/
def State.cnt (s : State) (r : RegName) (i : Nat := 0) (j : Nat := 0) (n : Nat := 1) : State :=
  let reg : Reg := ⟨r, i, j⟩
  let v := (s.rd reg).toNat
  s.wr reg (BitVec.ofNat 64 (if r.desc.counter = 2 then (v + n) % 2 ^ 48 else satAdd 32 v n))

/-- A saturating counter kept in a field. -/
def State.cntF (s : State) (f : RegFld) (i : Nat := 0) (j : Nat := 0) (n : Nat := 1) : State :=
  s.set f (satAdd f.fld.width (s.f f i j) n) i j

/-- Every listed register of the names in `ns` with instance i dropped to its reset value. -/
def State.clearRegs (s : State) (p : Reg → Bool) : State := { s with regs := s.regs.filter fun e => !p e.1 }

/-! ### The trace, free values, ports and lanes -/

/-- The state with one more thing having left the part. -/
def State.emit (s : State) (o : Out) : State := { s with out := s.out ++ [o] }

/-- A free value, and the state that has drawn it. -/
def State.drawNat (s : State) : Nat × State := (Config.freeNat s.draws, { s with draws := s.draws + 1 })

/-- The machine state of a port slot. -/
def State.port (s : State) (p : Nat) : PortSt := mget s.ports p {}

/-- The state with a port's machine state replaced. -/
def State.setPort (s : State) (p : Nat) (x : PortSt) : State := { s with ports := mset s.ports p x }

/-- The state with a port's machine state changed by a function. -/
def State.modPort (s : State) (p : Nat) (g : PortSt → PortSt) : State := s.setPort p (g (s.port p))

/-- The state of a lane's receiver settings. -/
def State.lane (s : State) (l : Nat) : LaneSt := mget s.lanes l {}

/-- The state with a lane's settings changed. -/
def State.modLane (s : State) (l : Nat) (g : LaneSt → LaneSt) : State :=
  { s with lanes := mset s.lanes l (g (s.lane l)) }

/-- The state of a host ring. -/
def State.ring (s : State) (f r : Nat) : RingSt := mget s.rings (f, r) {}

/-- The state with a ring's state changed. -/
def State.modRing (s : State) (f r : Nat) (g : RingSt → RingSt) : State :=
  { s with rings := mset s.rings (f, r) (g (s.ring f r)) }

/-- The state with the switch core changed. -/
def State.modCore (s : State) (g : CoreSt → CoreSt) : State := { s with core := g s.core }

/-- A unit sent on a port. -/
def State.wire (s : State) (p : Nat) (u : WireUnit) : State := s.emit (.wire p u)

/-! ### Time -/

/-- Nanoseconds of a counter value. -/
def nsOf (c : Nat) : Nat := c / 2 ^ 48 % 2 ^ 64

/-- The tick number of a counter value (R30). -/
def tickOf (c : Nat) : Nat := c / 2 ^ 48 / 1000 % 2 ^ 48

/-- The current tick number. -/
def State.tick (s : State) : Nat := tickOf s.time.ctr

/-- The counter at CK `ck` of the current tick (R32). -/
def State.ctrAt (s : State) (ck : Nat) : Nat := (s.time.ctr + ck * s.time.inc) % 2 ^ 112

/-- Fabric time as 64 bits of nanoseconds and a 16-bit fraction: the upper 80 bits of the counter. -/
def stamp80 (c : Nat) : Nat := c / 2 ^ 32 % 2 ^ 80

/-- Turnovers since the last cold reset (R34). -/
def State.turnovers (s : State) : Nat := s.f F.RP_TURNOVERS.TURNOVERS

/-- A running count of CK, for the intervals the spec gives in nanoseconds. -/
def State.nowCk (s : State) (ck : Nat) : Nat := s.turnovers * 1750 + ck

/-! ### CRCs -/

/-- One byte into the CRC-16 of R88. -/
def crc16Step (r : Nat) (b : Byte) : Nat :=
  (List.range 8).foldl (fun a _ => if a % 2 = 1 then (a / 2) ^^^ 0x8408 else a / 2) (r ^^^ b.toNat)

/-- The CRC-16 of R88. -/
def crc16 (bs : List Byte) : Nat := bs.foldl crc16Step 0xFFFF

/-- One byte into the CRC-32 of R190, reflected. -/
def crc32Step (r : Nat) (b : Byte) : Nat :=
  (List.range 8).foldl (fun a _ => if a % 2 = 1 then (a / 2) ^^^ 0xEDB88320 else a / 2) (r ^^^ b.toNat)

/-- The CRC-32 of R190: the frame check sequence of IEEE 802.3. -/
def crc32 (bs : List Byte) : Nat := (bs.foldl crc32Step 0xFFFFFFFF) ^^^ 0xFFFFFFFF

/-- HCRC over bytes 0 to 29 of a network header (R88). -/
def hcrcOf (net : BitVec 256) : Nat := crc16 (leBytes 30 net.toNat)

/-- The header with its HCRC computed. -/
def withHcrc (net : BitVec 256) : BitVec 256 := L.NET.HCRC.set net (hcrcOf net)

/-- Whether a header's HCRC holds. -/
def hcrcOk (net : BitVec 256) : Bool := L.NET.HCRC.get net == hcrcOf net

/-- An LCB of a type with its TICK and LCB_CRC (R195); `v` holds its own fields. -/
def mkLcb (ty tick v : Nat) : BitVec 512 :=
  let b := L.LCB.TICK.set (L.LCB.TYPE.set (BitVec.ofNat 512 v) ty) tick
  L.LCB.LCB_CRC.set b (crc32 (leBytes 60 b.toNat))

/-- Whether an LCB's LCB_CRC holds (R193). -/
def lcbOk (b : BitVec 512) : Bool := L.LCB.LCB_CRC.get b == crc32 (leBytes 60 b.toNat)

/-- The types of link-layer control blocks that are reserved (R187). -/
def reservedBlock (ty : Nat) : Bool := (decide (3 ≤ ty) && decide (ty < 0x10)) || (decide (0x17 ≤ ty) && decide (ty < 0x80))

/-- A received control block of an LCB in ACTIVE: one of a reserved type is a framing fault (R191), one that fails its
check is counted (R193), any other is handled. -/
def State.onLcb (s : State) (p : Nat) (lcb : BitVec 512) (g : State → State) : State :=
  if s.f F.PORT_STATE.STATE p ≠ 6 then s
  else if reservedBlock (L.LCB.TYPE.get lcb) then s.cnt .FRAMING_ERROR_COUNT p
  else if !(lcbOk lcb) then s.cnt .LCB_ERROR_COUNT p
  else g s

/-! ### On-package memory: the Groundsheet (R26, R28) and the engines' local memories (R25) -/

/-- What an address that no write has touched reads as: slot 0 of the job table holds the management job, attached to
endpoint 63 (R66, R68); every other byte reads zero (DESIGN CHOICE, assumption log 4). -/
def memInit (a : Nat) : Byte :=
  if a = 0x01F00002 then 0x02 else if a = 0x01F00017 then 0x80 else 0

/-- The byte at an address. -/
def memGet : List Host.Cell → Nat → Byte
  | [], a => memInit a
  | (k, b) :: m, a => if k = a then b else memGet m a

/-- The memory with one byte stored, in canonical form. -/
def memPut : List Host.Cell → Nat → Byte → List Host.Cell
  | [], a, b => if b = memInit a then [] else [(a, b)]
  | (k, c) :: m, a, b =>
    if a < k then (if b = memInit a then (k, c) :: m else (a, b) :: (k, c) :: m)
    else if a = k then (if b = memInit a then m else (a, b) :: m)
    else (k, c) :: memPut m a b

/-- The memory with bytes stored from an address on. -/
def memPuts : List Host.Cell → Nat → List Byte → List Host.Cell
  | m, _, [] => m
  | m, a, b :: bs => memPuts (memPut m a b) (a + 1) bs

/-- Bytes from an address on. -/
def memGets (m : List Host.Cell) (a n : Nat) : List Byte := (List.range n).map fun k => memGet m (a + k)

/-- The canonical form: addresses strictly rising from a bound on, no entry at its initial value. -/
def memWfFrom : Nat → List Host.Cell → Bool
  | _, [] => true
  | lo, (k, b) :: m => decide (lo ≤ k) && decide (b ≠ memInit k) && memWfFrom (k + 1) m

/-- The memory is in canonical form. -/
def Memory.wf (m : List Host.Cell) : Bool := memWfFrom 0 m

/-- Size of the Groundsheet: 64 MiB (R26). -/
def gsSize : Nat := 2 ^ 26

/-- End of the table region that the mirror covers (R520). -/
def tableEnd : Nat := 0x02B00000

/-- Regions of the Groundsheet (R28). -/
def rttBase : Nat := 0x00000000
def keyBase : Nat := 0x01A00000
def mcgBase : Nat := 0x01E00000
def jobBase : Nat := 0x01F00000
def trigBase : Nat := 0x02000000
def polBase : Nat := 0x02100000
def fwBase : Nat := 0x02180000
def exportBase : Nat := 0x03D00000

/-- Local memory of engine e in `mem`: 128 KiB each, above the Groundsheet. -/
def lmBase (e : Nat) : Nat := 2 ^ 26 + e * 2 ^ 17

/-- Logical bank of a Groundsheet offset. -/
def bankOf (off : Nat) : Nat := off / 256 % 128

/-- The record of a bank (R522, R525). -/
def State.bank (s : State) (k : Nat) : BankSt := mget s.flt.banks k ⟨false, none, false, false, []⟩

/-- Groundsheet bytes. -/
def State.gsGets (s : State) (off n : Nat) : List Byte := memGets s.mem (off % gsSize) n

/-- A Groundsheet value of n bytes, little-endian. -/
def State.gsNat (s : State) (off n : Nat) : Nat := leNat (s.gsGets off n)

/-- Banks served from the mirror, whose slots the two caches no longer use (R525). -/
def State.banksLost (s : State) : Nat := (s.flt.banks.filter fun p => p.2.fromMirror).length

/-- Slots of the descriptor cache (R27, R525). -/
def State.descSlots (s : State) : Nat := 32768 - 256 * s.banksLost

/-- Slots of the connection context cache (R27, R525). -/
def State.ctxSlots (s : State) : Nat := 65536 - 512 * s.banksLost

/-- A Groundsheet write as a bank accepts it: the bytes are stored, and in the table region the same bytes follow to
the mirror once it is synced (R521). A write to a bank whose retirement holds accesses is mirrored at the release
(R522); one to a bank served from the mirror, outside the table region, writes nothing (R525). -/
def State.gsPuts (s : State) (off : Nat) (bs : List Byte) : State :=
  let o := off % gsSize
  let k := bankOf o
  let b := s.bank k
  if b.fromMirror ∧ tableEnd ≤ o then s
  else
    let s := { s with mem := memPuts s.mem o bs
                      poison := s.poison.filter fun g => g ≠ o / 256 }
    if o < tableEnd ∧ s.on F.MIRROR_CFG.MIRROR_EN ∧ s.on F.MIRROR_CFG.MIRROR_SYNCED then
      if b.restoring then
        { s with flt := { s.flt with banks := mset s.flt.banks k { b with held := b.held ++ [(o, bs)] } } }
      else
        s.emit (.hostWrite (s.f F.MIRROR_CFG.MIRROR_FUNC) ((s.f F.MIRROR_BASE.BASE) * 4096 + o) bs)
    else s

/-- A Groundsheet write of an n-byte number. -/
def State.gsPut (s : State) (off n v : Nat) : State := s.gsPuts off (leBytes n v)

/-! ### Functions, partitions and host memory (R574) -/

/-- Index of the fabric management function. -/
def fmf : Nat := 0x010

/-- The partition of a VF index, by AM_VF_BASE (R575). -/
def State.vfPart (s : State) (f : Nat) : Option Nat :=
  firstNat 16 fun p =>
    s.on F.AM_VF_BASE.VALID p && decide (s.f F.AM_VF_BASE.VF_BASE p ≤ f) &&
      decide (f < s.f F.AM_VF_BASE.VF_BASE p + s.f F.AM_VF_BASE.VF_COUNT p)

/-- The partition of a PF or VF (R574). -/
def State.partOf (s : State) (f : Nat) : Option Nat := if f < 16 then some f else s.vfPart f

/-- Whether the fabric management function has its place in a partition (R494, R607). -/
def State.fmfPlaced (s : State) : Bool := s.ona F.EB_FMF_CFG.IN_PARTITION

/-- Whether a function index names a function of the part: a PF, the fabric management function or an assigned VF. -/
def State.fnAssigned (s : State) (f : Nat) : Bool := decide (f < 17) || (s.vfPart f).isSome

/-- Whether a function index is legal in a FUNC field whose function issues memory requests (R576). -/
def State.fnLegal (s : State) (f : Nat) : Bool := s.fnAssigned f && (decide (f ≠ fmf) || s.fmfPlaced)

/-- The hub die that processes a function's rings and connections (R19, R607). -/
def State.homeHub (s : State) (f : Nat) : Nat :=
  if f = fmf then 0 else match s.partOf f with
    | some p => s.f F.EB_PART_CFG.HOME_HUB p
    | none => 0

/-- MSI-X vectors of a function: 2,048 for PFs and the fabric management function, 64 for VFs. -/
def msixSize (f : Nat) : Nat := if f < 17 then 2048 else 64

/-- Whether the function is halted or in reset, so that it issues no memory request (R247, R249). -/
def State.fnQuiet (s : State) (f : Nat) : Bool :=
  s.on F.FUNC_STATUS.FUNCTION_HALTED f || s.on F.FUNC_STATUS.RESET_IN_PROGRESS f

/-- A posted write to a function's host memory; none is made while the function is halted or in reset (R247, R249). -/
def State.hostWrite (s : State) (f addr : Nat) (bs : List Byte) : State :=
  if s.fnQuiet f then s else s.emit (.hostWrite f addr bs)

/-- A read of a function's host memory; none is issued while the function is in reset (R249). -/
def State.hostRead (s : State) (f addr n : Nat) : State :=
  if s.on F.FUNC_STATUS.RESET_IN_PROGRESS f then s else s.emit (.hostRead f addr n)

/-- An entry of a function's MSI-X table: 16 bytes, the mask bit of its vector control set after reset (PRESUMED: the
PCI Express Base Specification, assumption log 5). -/
def State.msixEntry (s : State) (f v : Nat) : BitVec 128 := mget s.msix (f, v) (BitVec.ofNat 128 (2 ^ 96))

/-- An MSI-X message: sent unless the vector is masked, which sets its pending bit (R567). -/
def State.msixRaise (s : State) (f v : Nat) : State :=
  if (s.msixEntry f v).toNat.testBit 96 then { s with msixPending := (f, v) :: s.msixPending.filter (· ≠ (f, v)) }
  else s.emit (.msix f v)

/-! ### Whether the part runs -/

/-- The part is neither in cold reset (R535, R593, R596) nor in the safe state (R528). -/
def State.running (s : State) : Bool := !s.sys.coldHold && !(s.on F.FAULT_SUMMARY.SAFE_STATE)

/-- A meaning that the part takes only while it runs: in cold reset and in the safe state the command has no effect. -/
def whenRunning (g : State → State) (s : State) : Res := .next (if s.running then g s else s)

/-- A meaning that the part takes also in the safe state, but not in cold reset. -/
def whenPowered (g : State → State) (s : State) : Res := .next (if s.sys.coldHold then s else g s)

end Sys2Proof.Machine
end

