-- ==== Sys2Proof/Machine/Operands.lean ====
section
/-!
DEFINITION. Operand forms: what a register address names (R579 to R583), what a write of a value leaves in a register
(R12, R582), and the operands of ring and queue entries.
-/
namespace Sys2Proof.Machine

open Sys2Proof

/-- What an address in a window names. -/
inductive Target where
  | reg (r : Reg) (alias_ : Bool)
  | msix (f : Nat) (vec : Nat) (half : Nat)
  | hole
  | firmware
  | noImage
  deriving DecidableEq, Repr

/-- The instance that an offset from a register's first address picks, for its strides. -/
def strideAt : List (Nat × Nat) → Nat → Option (Nat × Nat)
  | [], o => if o = 0 then some (0, 0) else none
  | [(st, n)], o => if o % st = 0 ∧ o / st < n then some (o / st, 0) else none
  | (st, n) :: (st2, n2) :: _, o =>
    if o / st < n ∧ o % st % st2 = 0 ∧ o % st / st2 < n2 then some (o / st, o % st / st2) else none

/-- The register of a block at an offset from the block's base. -/
def findIn : List RegName → Nat → Option (RegName × Nat × Nat)
  | [], _ => none
  | n :: ns, o =>
    if n.desc.off ≤ o then
      match strideAt n.desc.strides (o - n.desc.off) with
      | some (a, b) => some (n, a, b)
      | none => findIn ns o
    else findIn ns o

/-- The blocks of the device register window. -/
def devBlocks : List Block :=
  [.amB, .coordB, .tpcB, .mtdB, .collB, .lockB, .rstB, .rpB, .routeB, .spbB, .lnB, .ctrB, .evB, .coreB, .llB, .xlB,
   .ebB, .fltB, .engB, .laneB, .mvB]

/-- The blocks of a function register window. -/
def fnBlocks : List Block := [.hqB, .tpB, .mfB, .xfB, .cfB, .twB, .swB]

/-- The block that holds an offset, with the offset from its base. -/
def blockAt (bs : List Block) (off : Nat) : Option (Block × Nat) :=
  (bs.find? fun b => decide (b.desc.base ≤ off) && decide (off < b.desc.base + b.desc.size)).map
    fun b => (b, off - b.desc.base)

/-- What an 8-byte-aligned offset of function f's own window names (R579). -/
def fnTarget (f off : Nat) : Target :=
  if 0x110000 ≤ off ∧ off < 0x118000 then
    if (off - 0x110000) / 16 < msixSize f then .msix f ((off - 0x110000) / 16) ((off - 0x110000) / 8 % 2) else .hole
  else if off = 0x105000 then .reg ⟨.WRITE_STATUS, 0, 0⟩ false
  else if off = 0x105008 then .reg ⟨.BOOT_STATUS, 0, 0⟩ true
  else match blockAt fnBlocks off with
    | none => .hole
    | some (b, o) =>
      match findIn b.regs o with
      | some (n, a, _) => .reg ⟨n, f, a⟩ false
      | none => .hole

/-- What an offset within the alias image of function i names (R581). -/
def aliasTarget (i o : Nat) : Target :=
  let b : Block × Nat :=
    if o < 0x1000 then (.hqB, o) else if o < 0x2000 then (.tpB, o - 0x1000)
    else if o < 0x3000 then (.xfB, o - 0x2000) else (.cfB, o - 0x3000)
  match findIn b.1.regs b.2 with
  | some (n, a, _) => .reg ⟨n, i, a⟩ true
  | none => .hole

/-- What an 8-byte-aligned offset of the device register window names (R580, R581, R583). -/
def devTarget (s : State) (off : Nat) : Target :=
  if 0x04000000 ≤ off then
    let i := (off - 0x04000000) / 0x4000
    if i < 4096 ∧ s.fnAssigned i then aliasTarget i (off % 0x4000) else .noImage
  else match blockAt devBlocks off with
    | none => .hole
    | some (b, o) =>
      if b.desc.size / 2 ≤ o then .firmware
      else match findIn b.regs o with
        | some (n, a, c) => .reg ⟨n, a, c⟩ false
        | none => .hole

/-- An access is aligned and of 8 or 4 bytes (R582). -/
def accessOk (off size : Nat) : Bool := (size == 8 && off % 8 == 0) || (size == 4 && off % 4 == 0)

/-- The 64-bit value a write puts to a register that holds `old`: an 8-byte write gives all of it, a 4-byte write its
half (R582); the half not written carries no write, which for a RW field is its old value and for the others no 1. -/
def accessValue (off size : Nat) (old v : Word) (fs : List FieldDesc) : Word :=
  if size = 8 then v
  else
    let keep := fs.foldl (fun a f =>
      if f.acc = .rw ∨ f.acc = .ro then a ||| (Fld.get ⟨f.hi, f.lo⟩ old) <<< f.lo else a) 0
    let lowHalf := (v.toNat % 2 ^ 32)
    if off % 8 = 0 then BitVec.ofNat 64 (keep / 2 ^ 32 * 2 ^ 32 + lowHalf)
    else BitVec.ofNat 64 (keep % 2 ^ 32 + lowHalf * 2 ^ 32)

/-- The bits of a register that no field covers. -/
def rsvMask (fs : List FieldDesc) : Nat :=
  (2 ^ 64 - 1) - fs.foldl (fun a f => a + (2 ^ (f.hi - f.lo + 1) - 1) <<< f.lo) 0

/-- Whether a written value sets a reserved bit (R12). -/
def setsRsv (fs : List FieldDesc) (v : Word) : Bool := v.toNat &&& rsvMask fs != 0

/-- What the register holds after an accepted write, field by field (R12). -/
def fieldsAfter (fs : List FieldDesc) (old v : Word) : Word :=
  fs.foldl (fun w f =>
    let fl : Fld := ⟨f.hi, f.lo⟩
    match f.acc with
    | .rw => fl.set w (fl.get v)
    | .ro => w
    | .wo => fl.set w 0
    | .w1c => fl.set w (fl.get old &&& (2 ^ fl.width - 1 - fl.get v))
    | .w1s => fl.set w (fl.get old ||| fl.get v)) old

/-- A requester that may write the device-wide set-up blocks: the fabric management function or the service
processor. -/
def Requester.manages : Requester → Bool
  | .func f => f.val == fmf
  | .serviceProcessor => true
  | .thread _ _ => false

/-- Whether a requester reaches the device register window: the fabric management function, the service processor and
engine threads (R580). -/
def Requester.reaches : Requester → Bool
  | .func f => f.val == fmf
  | _ => true

/-! ### WRITE_STATUS (R587, R588) -/

/-- The WRITE_STATUS register of a requester. -/
def State.ws (s : State) (rq : Requester) : Word := mget s.wstat rq 0

/-- The record of a register write's status at an offset of its window (R588). -/
def State.wsRecord (s : State) (rq : Requester) (st : Status) (off : Nat) : State :=
  let w := F.WRITE_STATUS.LAST_STATUS.fld.set (s.ws rq) st.code
  let w := if st = .ok then w else
    let w := if F.WRITE_STATUS.REJECTED.fld.on (s.ws rq) then w else
      F.WRITE_STATUS.FIRST_OFFSET.fld.set (F.WRITE_STATUS.FIRST_STATUS.fld.set w st.code) (off % 2 ^ 32)
    F.WRITE_STATUS.REJECTED.fld.set w 1
  { s with wstat := mset s.wstat rq w }

/-- The offset of a register in the window that names it: its own function window or the device window. -/
def Reg.offset (r : Reg) : Nat :=
  let d := r.name.desc
  let b := d.block.desc
  match d.strides with
  | [] => b.base + d.off
  | [(st, _)] => b.base + d.off + st * (if b.perFunction then r.j else r.i)
  | (st, _) :: (st2, _) :: _ => b.base + d.off + st * r.i + st2 * r.j

/-- A register write with its checks already made: on OK the state changes, and the status is recorded either way. -/
def State.writeAs (s : State) (rq : Requester) (off : Nat) (st : Status) (eff : State → State) : State :=
  (if st = .ok then eff s else s).wsRecord rq st off

/-! ### Entries -/

/-- A field of an entry at bits hi:lo. -/
def entryFld (d : BitVec 512) (hi lo : Nat) : Nat := Fld.get ⟨hi, lo⟩ d

/-- Whether all bits hi:lo of an entry are zero. -/
def entryZero (d : BitVec 512) (hi lo : Nat) : Bool := entryFld d hi lo == 0

/-- The first status whose condition holds (R605: the order is that of the list). -/
def firstStatus : List (Bool × Status) → Status
  | [] => .ok
  | (c, st) :: l => if c then st else firstStatus l

/-- A command that has been checked: OK with its effect, or a refusal with its status. -/
abbrev Checked := Status × (State → State)

end Sys2Proof.Machine
end

