-- ==== Sys2Proof/Machine/Flags.lean ====
section
/-!
DEFINITION. Flags and their consequences: handler events (R354 to R356), event sources (R564 to R567), the fault log and
ERR_N (R512 to R515, R530), and the safe state (R528).
-/
namespace Sys2Proof.Machine

open Sys2Proof

/-! ### Handler events -/

/-- The binding of a slot (R372). -/
def State.binding (s : State) (slot : Nat) : BitVec 256 := mget s.eng.bindings slot 0

/-- The state with a binding changed. -/
def State.setBinding (s : State) (slot : Nat) (b : BitVec 256) : State :=
  { s with eng := { s.eng with bindings := mset s.eng.bindings slot b } }

/-- A refusal or abort noted in a binding: LAST_FAULT and FAULT_COUNT (R363, R374). -/
def State.bindFault (s : State) (slot : Nat) (st : Status) : State :=
  let b := L.BND.LAST_FAULT.set (s.binding slot) st.code
  s.setBinding slot (L.BND.FAULT_COUNT.set b (satAdd 16 (L.BND.FAULT_COUNT.get b) 1))

/-- The queue of a class in a cluster. -/
def State.evq (s : State) (c q : Nat) : List HEvent := mget s.eng.queues (c, q) []

/-- The state with a class queue replaced. -/
def State.setEvq (s : State) (c q : Nat) (l : List HEvent) : State :=
  { s with eng := { s.eng with queues := mset s.eng.queues (c, q) l } }

/-- The clusters an event of a binding may join (R355, step 1). -/
def State.allowedClusters (s : State) (b : BitVec 256) : List Nat :=
  let m := L.BND.CLUSTER_MASK.get b
  let k := m &&& s.f F.LN_PLACE_MASK.MASK (L.BND.CLASS.get b)
  bitsOf (if k = 0 then m else k) 64

/-- The clusters considered (R355, step 2): those on the die the event arose on, or else on the lowest-numbered die. -/
def onDie (die : Nat) (cs : List Nat) : List Nat :=
  let here := cs.filter fun c => c / 16 = die
  if here.isEmpty then
    match cs with
    | [] => []
    | c :: _ => cs.filter fun d => d / 16 = c / 16
  else here

/-- The cluster with the fewest events queued in a class, the lowest number among equals (R355, step 3). -/
def State.leastQueued (s : State) (q : Nat) : List Nat → Option Nat
  | [] => none
  | c :: cs =>
    match s.leastQueued q cs with
    | none => some c
    | some d => if (s.evq c q).length ≤ (s.evq d q).length then some c else some d

/-- Whether two events merge (R356): tick or timer events of one kind, slot and source. -/
def mergesWith (e x : HEvent) : Bool :=
  (e.kind == 3 || e.kind == 4) && x.kind == e.kind && x.slot == e.slot && x.src == e.src

/-- The list with the first event that `e` merges into counted once more in MISSED. -/
def mergeIn (e : HEvent) : List HEvent → List HEvent
  | [] => []
  | x :: xs => if mergesWith e x then { x with missed := satAdd 8 x.missed 1 } :: xs else x :: mergeIn e xs

/-- The queue that already holds an event `e` merges into. -/
def State.mergeSpot (s : State) (e : HEvent) : Option (Nat × Nat) :=
  (s.eng.queues.find? fun p => p.2.any (mergesWith e)).map (·.1)

/-- The first address of engine local memory (R366). -/
def localBase : Nat := 0xFFFFFFFE0000

/-- The local-memory offset of a context's event area (R367). -/
def areaOff (k : Nat) : Nat := 0x18000 + 0x1800 * k

/-- The event record of R358. -/
def HEvent.record (e : HEvent) : BitVec 512 :=
  BitVec.ofNat 512 (e.kind % 16 + e.slot % 2 ^ 12 * 2 ^ 8 + e.missed % 2 ^ 8 * 2 ^ 24 + e.tick % 2 ^ 48 * 2 ^ 32 +
    e.args * 2 ^ 128)

/-- The event record, and the packet or notice of kinds 0 and 1, written into a thread's event area (R358). -/
def State.writeEvent (s : State) (t : ThreadId) (e : HEvent) : State :=
  { s with mem := memPuts s.mem (lmBase t.engine + areaOff t.ctx) (leBytes 64 e.record.toNat ++ e.body) }

/-- Whether a thread of cluster c waits in EVWAIT on a slot, and since when (R394). -/
def waitsOn (c slot : Nat) (p : ThreadId × Thread) : Option Nat :=
  match p.2.wait with
  | .event since _ _ => if p.1.engine.val / 8 = c ∧ p.2.slot = slot then some since else none
  | _ => none

/-- The thread that has waited longest for an event of a slot in a cluster (R394). -/
def State.eventWaiter (s : State) (c slot : Nat) : Option (ThreadId × Thread) :=
  (s.eng.threads.foldl (fun (b : Option (Nat × ThreadId × Thread)) p =>
    match waitsOn c slot p, b with
    | some n, none => some (n, p)
    | some n, some (m, q) => if n < m then some (n, p) else some (m, q)
    | none, b => b) none).map (·.2)

/-- The register rd of a thread set; g0 discards what is written to it (R376). -/
def Thread.setG (x : Thread) (rd v : Nat) : Thread :=
  if rd = 0 then x else { x with g := x.g.set rd (BitVec.ofNat 64 v) }

/-- The register of the EVWAIT a thread waits in. -/
def Thread.waitRd (x : Thread) : Nat :=
  match x.wait with
  | .event _ _ rd => rd
  | _ => 0

/-- A waiting thread takes an event (R394): its record is written, its KIND goes to rd, and the thread is ready. -/
def State.giveEvent (s : State) (t : ThreadId) (x : Thread) (e : HEvent) : State :=
  let x := { x.setG x.waitRd e.kind with wait := .none, event := some e, stall := 8 }
  let s := s.writeEvent t e
  { s with eng := { s.eng with threads := mset s.eng.threads t x } }

/-- Whether the entry of an event's binding accepts its KIND (R359). -/
def State.eventAccepted (s : State) (e : HEvent) : Bool :=
  let b := s.binding e.slot
  match mfind s.eng.images (L.BND.IMAGE.get b) with
  | some img => (lget img.entries (L.BND.ENTRY.get b) (0, 0)).2.testBit e.kind
  | none => false

/-- An event joins a class queue of a cluster, or is taken by the thread that waits for it (R355, R394), or consumed where
its KIND is not accepted (R359). -/
def State.joinQueue (s : State) (c q : Nat) (e : HEvent) : State :=
  match s.eventWaiter c e.slot with
  | some p => if s.eventAccepted e then s.giveEvent p.1 p.2 e else s.bindFault e.slot .notPermitted
  | none => s.setEvq c q (s.evq c q ++ [e])

/-- A raised handler event joins its class queue, merges (R356), waits where the queue is full, or is discarded where
its binding is invalid (R355, R374). -/
def State.queueEvent (s : State) (e : HEvent) : State :=
  let b := s.binding e.slot
  let q := L.BND.CLASS.get b
  if L.BND.VALID.get b = 0 then s.bindFault e.slot .aborted
  else match s.mergeSpot e with
    | some (c, q') => s.setEvq c q' (mergeIn e (s.evq c q'))
    | none =>
      match s.leastQueued q (onDie e.die (s.allowedClusters b)) with
      | none => s.bindFault e.slot .aborted
      | some c =>
        if (s.evq c q).length < 256 then s.joinQueue c q e
        else
          let s := s.cnt .EVQ_FULL_COUNT
          if s.eng.held.any (mergesWith e) then { s with eng := { s.eng with held := mergeIn e s.eng.held } }
          else { s with eng := { s.eng with held := s.eng.held ++ [e] } }

/-- An event of a kind for a slot, raised now. -/
def State.hevent (s : State) (kind slot args : Nat) (body : List Byte) (src die : Nat) : HEvent :=
  ⟨kind, slot, 0, s.tick, args, body, src, die, none⟩

/-! ### Event sources -/

/-- Whether a source always goes to the engines (R565). -/
def engineSource (src : Nat) : Bool := (1592 ≤ src && src ≤ 1595) || (1628 ≤ src && src ≤ 1691)

/-- An event delivered by its route (R565, R567). -/
def State.deliver (s : State) (src args : Nat) : State :=
  if engineSource src then
    if src ≤ 1595 then s.queueEvent (s.hevent 5 (s.f F.SYS_BIND.MISS) args [] src (src - 1592))
    else s.queueEvent (s.hevent 8 (s.f F.SYS_BIND.SAMPLING) args [] src ((src - 1628) / 16))
  else if s.on F.EV_ROUTE.ENABLE src then
    match s.f F.EV_ROUTE.DEST src with
    | 0 =>
      let fn := s.f F.EV_ROUTE.FUNC src
      if s.fnQuiet fn || !(s.msixOn.contains fn) then s.set F.EV_ROUTE.ROUTE_SUPPRESSED 1 src
      else s.msixRaise fn (s.f F.EV_ROUTE.VECTOR src)
    | 1 => s.emit (.spEvent src)
    | _ => s.queueEvent (s.hevent 7 (s.f F.SYS_BIND.FAULT) args [] src 4)
  else s

/-- A source raised (R566): its pending bit is set and it is delivered, or it is merged with the one pending. -/
def State.raise (s : State) (src : Nat) (args : Nat := 0) : State :=
  let w := s.f F.EV_PENDING.PENDING (src / 64)
  if w.testBit (src % 64) then s.cnt .EV_MERGE_COUNT
  else (s.set F.EV_PENDING.PENDING (setBit w (src % 64)) (src / 64)).deliver src args

/-! ### Performance counters (R570) -/

/-- The die of a performance counter: 0 to 3 a hub die, 4 die X. -/
def pcDie (i : Nat) : Nat := i / 32

/-- A performance counter counts n more: past 2^48 - 1 it wraps, sets its OVF bit and may raise the overflow event. -/
def State.pcAdd (s : State) (i n : Nat) : State :=
  let v := s.f F.PC_VALUE.COUNT i + n
  let s := s.set F.PC_VALUE.COUNT v i
  if v < 2 ^ 48 then s
  else
    let s := s.set F.PC_OVF.OVF (setBit (s.f F.PC_OVF.OVF (i / 64)) (i % 64)) (i / 64)
    if s.ona F.PC_SEL.OVF_EVENT i then s.raise 1625 else s

/-- Whether counter i counts an event of a die, instance and qualifier. -/
def State.pcCounts (s : State) (i die ev inst qual : Nat) : Bool :=
  s.ona F.PC_SEL.ENABLE i && pcDie i == die && s.fa F.PC_SEL.EVENT i == ev &&
    (s.ona F.PC_SEL.ALL_INSTANCES i || s.fa F.PC_SEL.INSTANCE i == inst) &&
    (!(s.ona F.PC_SEL.QUAL_EN i) || s.fa F.PC_SEL.QUAL i == qual)

/-- n events counted by every counter that selects them, while RUN is set. -/
def State.perf (s : State) (die ev inst qual n : Nat) : State :=
  if s.ona F.PC_CTRL.RUN then
    (s.active.filter fun e => e.1.name == .PC_SEL && s.pcCounts e.1.i die ev inst qual).foldl
      (fun s e => s.pcAdd e.1.i n) s
  else s

/-- The port notice of a slot, with its cause bit: 0 drained, 1 width change, 2 tick skew (R564). -/
def State.portNotice (s : State) (n cause : Nat) : State :=
  (s.set F.EV_PORT_CAUSE.CAUSE (setBit (s.f F.EV_PORT_CAUSE.CAUSE n) cause) n).raise (1200 + n)

/-- The event of a PCIe port, with its cause bit: 0 synthesized completion, 1 link IDE failure, 2 shared device lost. -/
def State.hpNotice (s : State) (n cause : Nat) : State :=
  (s.set F.EV_HP_CAUSE.CAUSE (setBit (s.f F.EV_HP_CAUSE.CAUSE n) cause) n).raise (1520 + n)

/-- An event that is reported for a function by its partition's source, or by the fabric management function's own
(R564, R607): the halt (1,456 + p or 1,692), the bad doorbell word (1,472 + p or 1,693), the fetch error (1,488 + p or
1,694) and the handler fault (1,504 + p or 1,695). -/
def State.fnEvent (s : State) (base own f : Nat) : State :=
  if f = fmf then s.raise own
  else match s.partOf f with
    | some p => s.raise (base + p)
    | none => s

/-! ### Faults -/

/-- The class in force of a fault source (R511). -/
def State.classOf (s : State) (src : Nat) : Nat := (s.f F.FAULT_CLASS.CLASS (src / 32) >>> (2 * (src % 32))) % 4

/-- Whether the source's bit of FAULT_STATUS is set. -/
def State.faultSet (s : State) (src : Nat) : Bool := (s.f F.FAULT_STATUS.STATUS (src / 64)).testBit (src % 64)

/-- The highest class among the sources whose bit is set in a word of FAULT_STATUS. -/
def State.wordClass (s : State) (w : Nat) : Nat :=
  let v := s.f F.FAULT_STATUS.STATUS w
  if v = 0 then 0 else (bitsOf v 64).foldl (fun a k => max a (s.classOf (64 * w + k))) 0

/-- The highest class set in FAULT_STATUS. -/
def State.highestClass (s : State) : Nat := (List.range 19).foldl (fun a w => max a (s.wordClass w)) 0

/-- FAULT_SUMMARY and ERR_N as FAULT_STATUS now has them (R530, R533). -/
def State.errUpdate (s : State) : State :=
  let h := s.highestClass
  let low := decide (0 < h) && decide (s.f F.FAULT_CTRL.ERR_MIN_CLASS ≤ h)
  let s' := s.set F.FAULT_SUMMARY.HIGHEST h
  if low = s.on F.FAULT_SUMMARY.ERR_N then s'
  else (s'.set F.FAULT_SUMMARY.ERR_N (b2n low)).emit (.pin .errN (!low))

/-- The die on which a source's fault arises, numbered as in R509 (0–3 hub dies, 4–11 fabric PHY dies, 12 die X). -/
def dieOfSource (src : Nat) : Nat :=
  if src ≤ 3 then src
  else if src ≤ 7 then src - 4
  else if src ≤ 15 then 12
  else if src ≤ 28 then src - 16
  else if src ≤ 31 then 12
  else if src ≤ 543 then 4 + (src - 32) / 2 / 32
  else if src ≤ 1055 then (src - 544) / 128
  else if src ≤ 1119 then (src - 1056) / 16
  else if src ≤ 1159 then 12
  else if src ≤ 1191 then (src - 1160) / 8
  else 12

/-- A fault log record (R514). -/
def State.faultRecord (s : State) (src : Nat) (forced : Bool) (st : Status) (action context info seq : Nat) :
    BitVec 512 :=
  let d := dieOfSource src
  let idA := (s.rd ⟨.ID_DIE_A, d, 0⟩).toNat % 2 ^ 63
  let r : BitVec 512 := BitVec.ofNat 512 (idA * 2 ^ 128 + (context % 2 ^ 64) * 2 ^ 256 + (info % 2 ^ 128) * 2 ^ 320)
  let r := L.FLR.CLASS.set (L.FLR.SOURCE.set r src) (s.classOf src)
  let r := L.FLR.STATUS.set (L.FLR.FORCED.set r (b2n forced)) st.code
  let r := L.FLR.TICK.set (L.FLR.ACTION.set r action) s.tick
  let r := L.FLR.SEQ.set (L.FLR.OCCURRENCES.set r 1) seq
  L.FLR.FUSE_CHECK.set r (s.f F.ID_DIE_B.FUSE_CHECK d)

/-- A new record at the next slot of the ring; the first of class fatal is also kept in FATAL_RECORD (R515). -/
def State.newRecord (s : State) (src : Nat) (forced : Bool) (st : Status) (action context info seq : Nat) : State :=
  let r := s.faultRecord src forced st action context info seq
  let flt : FaultSt := { s.flt with log := mset s.flt.log (seq % 1024) r
                                    lastRec := mset s.flt.lastRec src (seq, s.tick) }
  let s1 := (({ s with flt := flt } : State).set F.LOG_WR.COUNT (seq + 1)).emit (.mgmt 0 (leBytes 64 r.toNat))
  if s.classOf src = 3 ∧ s.flt.fatalKept = false then
    (List.range 8).foldl (fun t i => t.wr ⟨.FATAL_RECORD, i, 0⟩ (BitVec.ofNat 64 (r.toNat >>> (64 * i))))
      { s1 with flt := { flt with fatalKept := true } }
  else s1

/-- The record of an occurrence in the fault log: merged into the source's record of the same tick while the ring still
holds it, or a new one (R515). -/
def State.logFault (s : State) (src : Nat) (forced : Bool) (st : Status) (action context info : Nat) : State :=
  let seq := s.f F.LOG_WR.COUNT
  match mfind s.flt.lastRec src with
  | some (q, t) =>
    if t = s.tick ∧ seq - q ≤ 1024 then
      let r := mget s.flt.log (q % 1024) 0
      { s with flt := { s.flt with
          log := mset s.flt.log (q % 1024) (L.FLR.OCCURRENCES.set r (satAdd 16 (L.FLR.OCCURRENCES.get r) 1)) } }
    else s.newRecord src forced st action context info seq
  | none => s.newRecord src forced st action context info seq

/-- FAULT_STATUS, the log record and the event of an occurrence: steps 2 to 4 of R512. -/
def State.faultMark (s : State) (src : Nat) (forced : Bool) (st : Status) (action context info : Nat) : State :=
  let w := s.f F.FAULT_STATUS.STATUS (src / 64)
  let s := s.set F.FAULT_STATUS.STATUS (setBit w (src % 64)) (src / 64)
  ((s.logFault src forced st action context info).raise src context).errUpdate

/-! ### The safe state -/

/-- FATAL four times and electrical idle on a port in ACTIVE (R214, R528). -/
def State.fatalPort (s : State) (p cause : Nat) : State :=
  if s.f F.PORT_STATE.STATE p = 6 then
    let b := mkLcb 0x16 s.tick (cause * 2 ^ 24 + s.f F.NODE_COORD.COORD * 2 ^ 32 + p * 2 ^ 52)
    let s := (((s.wire p (.lcb b)).wire p (.lcb b)).wire p (.lcb b)).wire p (.lcb b)
    (s.wire p (.electricalIdle 255)).set F.PORT_STATE.IN_SERVICE 0 p
  else s

/-- A downstream PCIe port closed by DPC as a software trigger, an upstream port reporting ERR_FATAL (R528). -/
def State.safePcie (s : State) (n : Nat) : State :=
  match s.f F.EB_PORT_CFG.ROLE n with
  | 1 => s.emit (.tlp n ⟨.errFatal, 0, 0, 0, false, 0, 0, [], 0, 0, true⟩)
  | 2 =>
    let s := (s.set F.EB_PORT_STATUS.DPC_ACTIVE 1 n).set F.EB_PORT_STATUS.DPC_CAUSE 3 n
    (s.set F.EB_PORT_STATUS.LINK_UP 0 n).set F.DG_PCIE.DPC (setBit (s.f F.DG_PCIE.DPC) n)
  | _ => s

/-- The safe state (R528): `trip` says that a thermal trip is its cause. -/
def State.safeState (s : State) (trip : Bool) : State :=
  if s.on F.FAULT_SUMMARY.SAFE_STATE then s
  else
    let s := s.set F.FAULT_SUMMARY.SAFE_STATE 1
    let s := (List.range 256).foldl (fun s p => s.fatalPort p (if trip then 2 else 1)) s
    let s := (List.range 40).foldl (fun s n => s.safePcie n) s
    let s := (List.range 64).foldl (fun s c => s.set F.LN_CL_STATUS.CODE (s.f F.LN_CL_FREQ.F_MIN c) c) s
    if trip then ({ s with sys := { s.sys with thermTrip := true } }).emit (.pin .thermtripN false) else s

/-- An occurrence of a fault source whose reaction `react` the caller supplies (R512): the reaction, or the safe state
for a source of class fatal; then the status bit, the record and the event. -/
def State.occur (s : State) (src : Nat) (st : Status) (action context info : Nat) (react : State → State := id) :
    State :=
  if s.classOf src = 3 then (s.safeState false).faultMark src false st 9 context info
  else (react s).faultMark src false st action context info

end Sys2Proof.Machine
end

