-- ==== Sys2Proof/Machine/Coords.lean ====
section
/-!
DEFINITION. Coordinates and link groups: the packed coordinate (R58 to R61), the endpoints (R63), service of a port
(R172), link groups and bundles (R83 to R86).
-/
namespace Sys2Proof.Machine

open Sys2Proof

/-- The number of bits that a size needs: ceil(log2 size) (R60). -/
def clog2 (n : Nat) : Nat := (firstNat 8 fun k => decide (n ≤ 2 ^ k)).getD 7

/-- Whether dimension d is enabled (R58). -/
def State.dimOn (s : State) (d : Nat) : Bool := decide (d < 4) && s.on F.DIM_CFG.ENABLE d

/-- Whether dimension d is a ring. -/
def State.isRing (s : State) (d : Nat) : Bool := s.on F.DIM_CFG.SHAPE d

/-- The size of dimension d. -/
def State.dimSize (s : State) (d : Nat) : Nat := s.f F.DIM_CFG.SIZE d

/-- The enabled dimensions, which are contiguous from D0. -/
def State.ndims (s : State) : Nat := ((List.range 4).filter fun d => s.dimOn d).length

/-- The width w_d of dimension d's field (R60): 0 when it is disabled. -/
def State.dimWidth (s : State) (d : Nat) : Nat := if s.dimOn d then clog2 (s.dimSize d) else 0

/-- The offset o_d: the widths of all lower enabled dimensions (R60). -/
def State.dimOffset (s : State) (d : Nat) : Nat := (List.range d).foldl (fun a e => a + s.dimWidth e) 0

/-- Bits of the packed coordinate in use. -/
def State.coordBits (s : State) : Nat := s.dimOffset 4

/-- The coordinate of a node in dimension d. -/
def State.fldOf (s : State) (node d : Nat) : Nat := node / 2 ^ s.dimOffset d % 2 ^ s.dimWidth d

/-- The packed coordinate with dimension d's field replaced. -/
def State.setCoord (s : State) (node d v : Nat) : Nat :=
  node - s.fldOf node d * 2 ^ s.dimOffset d + v % 2 ^ s.dimWidth d * 2 ^ s.dimOffset d

/-- The node's own packed coordinate. -/
def State.own (s : State) : Nat := s.f F.NODE_COORD.COORD

/-- Whether a packed coordinate is illegal (R61). -/
def State.illegalCoord (s : State) (node : Nat) : Bool :=
  decide (2 ^ s.coordBits ≤ node) || (List.range 4).any fun d => s.dimOn d && decide (s.dimSize d ≤ s.fldOf node d)

/-- Whether an endpoint number is reserved (R63). -/
def reservedEp (ep : Nat) : Bool := decide (16 ≤ ep) && decide (ep ≤ 61)

/-- Whether a port is in service (R172). -/
def State.inService (s : State) (p : Nat) : Bool := s.on F.PORT_STATE.IN_SERVICE p

/-- IN_SERVICE as STATE and DRAINED have it (R172). -/
def State.serviceUpdate (s : State) (p : Nat) : State :=
  s.set F.PORT_STATE.IN_SERVICE (b2n (s.f F.PORT_STATE.STATE p == 6 && !(s.on F.PORT_STATE.DRAINED p))) p

/-- The ports in service. -/
def State.portsInService (s : State) : List Nat := (List.range 256).filter s.inService

/-- Whether any fabric port is in service. -/
def State.anyInService (s : State) : Bool := (List.range 256).any s.inService

/-- The dimension and target of a port (R83). -/
def State.portDim (s : State) (p : Nat) : Nat := s.f F.PORT_ROUTE.DIM p
def State.portTarget (s : State) (p : Nat) : Nat := s.f F.PORT_ROUTE.TARGET p

/-- Whether a port is a member of its link group: in service, used for routing, wired as stated, and not taken out of
the group by a drain in progress (R84, R85, R174). -/
def State.inGroup (s : State) (p : Nat) : Bool :=
  s.inService p && s.on F.PORT_ROUTE.ROUTE_EN p && !(s.on F.PORT_ROUTE.MISWIRE p) && !(s.port p).outOfGroup

/-- The link group of (dimension, target) (R84). -/
def State.group (s : State) (d t : Nat) : List Nat :=
  (List.range 256).filter fun p => s.inGroup p && s.portDim p == d && s.portTarget p == t

/-- The ports of the bundle named by a slot (R84). -/
def State.bundle (s : State) (b : Nat) : List Nat :=
  (List.range 256).filter fun p => s.on F.PORT_ROUTE.ROUTE_EN p && s.f F.PORT_ROUTE.BUNDLE p == b

/-- Whether a port speaks for its bundle in the timestamp exchange: the lowest-numbered in service (R43). -/
def State.bundleSpeaker (s : State) (p : Nat) : Bool :=
  if s.on F.PORT_ROUTE.ROUTE_EN p then
    match (s.bundle (s.f F.PORT_ROUTE.BUNDLE p)).filter s.inService with
    | [] => true
    | q :: _ => q == p
  else true

/-- DG_GROUPS: bit c of dimension d set while the link group towards c is empty though a port is routed to it
(R532, R533). -/
def State.groupsUpdate (s : State) (d : Nat) : State :=
  let ps := (List.range 256).filter fun p => s.on F.PORT_ROUTE.ROUTE_EN p && s.portDim p == d
  let v := ps.foldl (fun a p => if (s.group d (s.portTarget p)).isEmpty then setBit a (s.portTarget p) else a) 0
  s.set F.DG_GROUPS.EMPTY v d

/-- DG_FABRIC: port slots out of service and not drained though enabled, and ports DEGRADED (R533). -/
def State.fabricUpdate (s : State) : State :=
  let o := ((List.range 256).filter fun p => !(s.inService p) && !(s.on F.PORT_STATE.DRAINED p)).length
  let d := ((List.range 256).filter fun p => s.on F.PORT_STATE.DEGRADED p).length
  (s.set F.DG_FABRIC.OUT_OF_SERVICE o).set F.DG_FABRIC.DEGRADED d

/-- The quarter (hub die) of a core port (R18): ports 64h to 64h + 63 and IE4h to IE4h + 3. -/
def quarterOf (cp : Nat) : Nat := if cp < 256 then cp / 64 else (cp - 256) / 4

end Sys2Proof.Machine
end

