-- ==== Sys2Proof/Machine/Locks.lean ====
section
/-!
DEFINITION. Threads as the other units see them, reservations (R431), and the lock units (R433 to R444): the operations
that their commands, the engines' lock accesses and the movers share.
-/
namespace Sys2Proof.Machine

open Sys2Proof

/-! ### Threads -/

/-- The invocation a thread context runs, if it runs one. -/
def State.thread (s : State) (t : ThreadId) : Option Thread := mfind s.eng.threads t

/-- The state with a thread's invocation replaced. -/
def State.setThread (s : State) (t : ThreadId) (x : Thread) : State :=
  { s with eng := { s.eng with threads := mset s.eng.threads t x } }

/-- The state with a running thread changed. -/
def State.modThread (s : State) (t : ThreadId) (g : Thread → Thread) : State :=
  match s.thread t with
  | some x => s.setThread t (g x)
  | none => s

/-- Every running thread changed. -/
def State.mapThreads (s : State) (g : ThreadId → Thread → Thread) : State :=
  { s with eng := { s.eng with threads := s.eng.threads.map fun (p : ThreadId × Thread) => (p.1, g p.1 p.2) } }

/-- The class of a thread's binding. -/
def Thread.cls (x : Thread) : Nat := L.BND.CLASS.get x.bind

/-- The effective class: the highest of the binding's class and every boost (R351, R443). -/
def Thread.eff (x : Thread) : Nat := x.boosts.foldl (fun a b => min a b.2) x.cls

/-- The identity of an engine thread (R434). -/
def threadIdent (t : ThreadId) : Nat := 2 ^ 28 + 4 * t.engine.val + t.ctx.val

/-- The identity of the fabric management function. -/
def fmfIdent : Nat := 2 * 2 ^ 28 + fmf

/-- The identity of the service processor. -/
def spIdent : Nat := 3 * 2 ^ 28

/-- The identity of a mover channel. -/
def channelIdent (m ch : Nat) : Nat := 4 * 2 ^ 28 + 32 * m + ch

/-- The thread of an identity. -/
def identThread (i : Nat) : Option ThreadId :=
  if h : i / 2 ^ 28 = 1 ∧ i % 2 ^ 28 < 2048 then
    some ⟨⟨i % 2 ^ 28 / 4, by omega⟩, ⟨i % 4, by omega⟩⟩
  else none

/-! ### Reservations -/

/-- The reservations on the granules of a range of memory end, except the writer's own (R431). -/
def State.endResv (s : State) (by_ : Option ThreadId) (a n : Nat) : State :=
  if n = 0 then s
  else s.mapThreads fun t x =>
    match x.resv with
    | some g => if a / 64 ≤ g ∧ g ≤ (a + n - 1) / 64 ∧ by_ ≠ some t then { x with resv := none } else x
    | none => x

/-! ### Lock words -/

/-- A lock word: OWNER in bits 31:0, ABANDONED in bit 32 (R435). -/
def State.lockWord (s : State) (off : Nat) : Nat := s.gsNat off 8

/-- The lock unit that serves a word (R449): bank group of its bank. -/
def lockUnit (off : Nat) : Nat := bankOf (off % gsSize) / 2

/-- Whether the lock unit records a word: owned or waited on. -/
def State.lockRecorded (s : State) (off : Nat) : Bool :=
  s.lock.owned.contains off || s.lock.waiters.any fun w => w.off == off

/-- The words a lock unit records. -/
def State.lockWords (s : State) (u : Nat) : Nat :=
  let o := s.lock.owned.filter fun a => lockUnit a == u
  o.length + (s.lock.waiters.filter fun w => lockUnit w.off == u && !(o.contains w.off)).length

/-- The waiters a lock unit holds. -/
def State.lockWaiters (s : State) (u : Nat) : Nat := (s.lock.waiters.filter fun w => lockUnit w.off == u).length

/-- Whether a word cannot be recorded for want of a record (R439). -/
def State.lockFull (s : State) (off : Nat) : Bool :=
  !(s.lockRecorded off) && decide (1024 ≤ s.lockWords (lockUnit off))

/-- A lock word stored by its lock unit, which ends the reservations on its granule (R431). -/
def State.lockStore (s : State) (off v : Nat) : State := (s.gsPut off 8 v).endResv none off 8

/-- The lock priority of an identity (R434): an engine thread's effective class, 1 for the fabric management function,
0 for the service processor, 3 for a mover channel. -/
def State.identPrio (s : State) (i : Nat) : Nat :=
  match i / 2 ^ 28 with
  | 1 => match identThread i with
    | some t => match s.thread t with
      | some x => x.eff
      | none => 3
    | none => 3
  | 2 => 1
  | 3 => 0
  | _ => 3

/-- The waiter that takes a word when it passes: highest priority, earliest arrival among equals (R438). -/
def State.bestWaiter (s : State) (off : Nat) : Option LockWaiter :=
  (s.lock.waiters.filter fun w => w.off == off).foldl (fun b w =>
    match b with
    | none => some w
    | some c => if s.identPrio w.ident < s.identPrio c.ident then some w else some c) none

/-- A WAIT read answered: an engine thread gets the word as its load's data, a host read its completion; a mover channel
finds its identity in the word. -/
def State.lockAnswer (s : State) (ident v : Nat) : State :=
  match identThread ident with
  | some t => s.modThread t fun x => { x with ready := some (leBytes 8 v) }
  | none =>
    if ident / 2 ^ 28 = 2 then s.emit (.regRead (.func ⟨fmf, by decide⟩) (BitVec.ofNat 64 v))
    else if ident / 2 ^ 28 = 3 then s.emit (.regRead .serviceProcessor (BitVec.ofNat 64 v))
    else s.set F.CH_STATE.LOCK_WAIT 0 (ident % 2 ^ 28 / 32) (ident % 32)

/-- The boosts a word gave are withdrawn from its former owner (R443). -/
def State.unboost (s : State) (off : Nat) : State :=
  s.mapThreads fun _ x => { x with boosts := x.boosts.filter fun b => b.1 != off }

/-- A word passed to its best waiter, or made free, with ABANDONED set or clear (R438, R444). -/
def State.lockPass (s : State) (off : Nat) (abandoned : Bool) : State :=
  let s := s.unboost off
  let ab := b2n abandoned * 2 ^ 32
  match s.bestWaiter off with
  | some w =>
    let s := s.lockStore off (w.ident + ab)
    ({ s with lock := { s.lock with waiters := s.lock.waiters.filter fun x => !(x.off == off && x.ident == w.ident) } } :
      State).lockAnswer w.ident (w.ident + ab)
  | none =>
    let s := s.lockStore off ab
    { s with lock := { s.lock with owned := s.lock.owned.filter fun a => a != off } }

/-- A word that an identity now owns is recorded. -/
def State.lockOwn (s : State) (off ident : Nat) : State :=
  let s := s.lockStore off (s.lockWord off / 2 ^ 32 * 2 ^ 32 + ident)
  if s.lock.owned.contains off then s else { s with lock := { s.lock with owned := s.lock.owned ++ [off] } }

/-- A CLAIM write (R436, R439). -/
def State.lockClaim (s : State) (off ident data : Nat) : State :=
  if data ≠ ident then s.cnt .LOCK_MISUSE_COUNT
  else if s.lockWord off % 2 ^ 32 ≠ 0 then s
  else if s.lockFull off then s.cnt .LOCK_TABLE_FULL_COUNT
  else s.lockOwn off ident

/-- A RELEASE write (R438). -/
def State.lockRelease (s : State) (off ident data : Nat) : State :=
  if data = ident ∧ s.lockWord off % 2 ^ 32 = ident then
    (if s.lock.owned.contains off then s else { s with lock := { s.lock with owned := s.lock.owned ++ [off] } }).lockPass
      off false
  else s.cnt .LOCK_MISUSE_COUNT

/-- A boost of the owner of a word by a waiter of higher priority, passed on along the words the owners wait for
(R443). -/
def State.lockBoost : Nat → Nat → Nat → State → State
  | 0, _, _, s => s
  | k + 1, off, prio, s =>
    match identThread (s.lockWord off % 2 ^ 32) with
    | none => s
    | some t =>
      match s.thread t with
      | none => s
      | some x =>
        if prio < x.eff then
          let s := (s.setThread t { x with boosts := (off, prio) :: x.boosts.filter fun b => b.1 != off }).cnt
            .LOCK_BOOST_COUNT
          match x.wait with
          | .lock o => s.lockBoost k o prio
          | _ => s
        else s

/-- The answer of a lock unit that takes no further waiter: bit 63 and BUSY. -/
def lockBusyWord : Nat := 2 ^ 63 + Status.busy.code

/-- A WAIT read (R437, R439): its answer, or none while it is held as a waiter. -/
def State.lockWait (s : State) (off ident : Nat) : State × Option Nat :=
  let w := s.lockWord off
  if w % 2 ^ 32 = 0 then
    if s.lockFull off then (s.cnt .LOCK_BUSY_COUNT, some lockBusyWord)
    else let s := s.lockOwn off ident; (s, some (s.lockWord off))
  else if w % 2 ^ 32 = ident then (s, some w)
  else if s.lockFull off || decide (64 ≤ s.lockWaiters (lockUnit off)) then (s.cnt .LOCK_BUSY_COUNT, some lockBusyWord)
  else
    let s := { s with lock := { s.lock with waiters := s.lock.waiters ++ [(⟨off, ident⟩ : LockWaiter)] } }
    (s.lockBoost 64 off (s.identPrio ident), none)

/-- A waiter withdrawn (R437, R442). -/
def State.lockWithdraw (s : State) (ident : Nat) : State :=
  { s with lock := { s.lock with waiters := s.lock.waiters.filter fun w => w.ident != ident } }

/-- Every word of an identity released as abandoned, and its waiters withdrawn (R444). -/
def State.lockAbandon (s : State) (ident : Nat) : State :=
  let s := s.lockWithdraw ident
  (s.lock.owned.filter fun o => s.lockWord o % 2 ^ 32 == ident).foldl
    (fun s o => (s.lockPass o true).cnt .LOCK_ABANDON_COUNT) s

/-- The lock rules applied to the new value of a word that a plain write has changed (R440). -/
def State.lockPlain (s : State) (off : Nat) : State :=
  let s := s.cnt .LOCK_PLAIN_WRITE_COUNT
  if s.lockWord off % 2 ^ 32 = 0 then
    if (s.bestWaiter off).isSome then s.lockPass off (s.lockWord off / 2 ^ 32 % 2 == 1)
    else { s with lock := { s.lock with owned := s.lock.owned.filter fun a => a != off } }
  else if s.lock.owned.contains off then s
  else { s with lock := { s.lock with owned := s.lock.owned ++ [off] } }

/-- A plain write of Groundsheet bytes by an agent: the bytes, the reservations of others (R431), and the lock words
among them that a lock unit records (R440). -/
def State.gsStore (s : State) (by_ : Option ThreadId) (off : Nat) (bs : List Byte) : State :=
  let o := off % gsSize
  let words := (s.lock.owned ++ s.lock.waiters.map fun w => w.off).eraseDups.filter fun w =>
    decide (w < o + bs.length) && decide (o < w + 8)
  let s := (s.gsPuts o bs).endResv by_ o bs.length
  words.foldl (fun s w => s.lockPlain w) s

/-! ### Mover channels: how they end (R463 to R465) -/

/-- A mover channel. -/
def State.chan (s : State) (m c : Nat) : Chan := mget s.mover.chans (m, c) {}

/-- The state with a mover channel changed. -/
def State.modChan (s : State) (m c : Nat) (g : Chan → Chan) : State :=
  { s with mover := { s.mover with chans := mset s.mover.chans (m, c) (g (s.chan m c)) } }

/-- STATE of a channel: 0 IDLE, 1 QUEUED, 2 ACTIVE, 3 HALTED, 4 ENDING. -/
def State.chState (s : State) (m c : Nat) : Nat := s.f F.CH_STATE.STATE m c

/-- Whether a channel's side lies in host memory of a function. -/
def State.srcIs (s : State) (m c f : Nat) : Bool := !(s.on F.CH_SRC.GS m c) && s.f F.CH_SRC.FUNC m c == f
def State.dstIs (s : State) (m c f : Nat) : Bool := !(s.on F.CH_DST.GS m c) && s.f F.CH_DST.FUNC m c == f

/-- A channel enters ENDING: it issues no further read, its lock wait is withdrawn and its lock released as abandoned;
`drop` discards the bursts that are not yet written. -/
def State.chanEnd (s : State) (m c kind : Nat) (drop : Bool) : State :=
  let s := (s.set F.CH_STATE.STATE 4 m c).set F.CH_STATE.TOKEN_PAUSE 0 m c
  let s := (s.set F.CH_STATE.LOCK_WAIT 0 m c).lockAbandon (channelIdent m c)
  s.modChan m c fun x => { x with
    ending := kind, bursts := if drop then [] else x.bursts, locked := false, pauseCk := none }

/-- The QUEUED and ACTIVE channels that name a function end as it halts or is reset (R465). -/
def State.moversHalt (s : State) (f : Nat) : State :=
  (s.mover.chans.map (·.1)).foldl (fun s (k : Nat × Nat) =>
    let st := s.chState k.1 k.2
    if (st = 1 ∨ st = 2) ∧ (s.srcIs k.1 k.2 f || s.dstIs k.1 k.2 f) then
      let s := s.chanEnd k.1 k.2 3 (s.dstIs k.1 k.2 f)
      if s.dstIs k.1 k.2 f then s.modChan k.1 k.2 fun x => { x with flush := 2 } else s
    else s) s

/-! ### The rows of the lock units -/

/-- The identity under which a requester uses the lock windows, if it has one (R433, R434). -/
def Requester.ident : Requester → Option Nat
  | .func f => if f.val = fmf then some fmfIdent else none
  | .serviceProcessor => some spIdent
  | .thread e k => some (threadIdent ⟨e, k⟩)

/-- Whether a host may write a Groundsheet offset (R578): the rank translation table, the multicast group table, the
policer table, and the exported regions with the handlers' shared data. -/
def hostWritable (off : Nat) : Bool :=
  decide (off < 0x00800000) || (decide (mcgBase ≤ off) && decide (off < jobBase)) ||
    (decide (polBase ≤ off) && decide (off < 0x02140000)) || (decide (exportBase ≤ off) && decide (off < gsSize))

/-- An access to a lock window by a requester (R433, R578, R588): a misaligned one is refused and counted; one by the
fabric management function outside the regions that hosts may write is refused, and its WRITE_STATUS takes the status of
every write at its offset in the Groundsheet window. -/
def State.lockWrite (s : State) (rq : Requester) (off window : Nat) (eff : Nat → State → State) : State :=
  match rq, rq.ident with
  | .func _, some i =>
    if off % 8 ≠ 0 then (s.cnt .LOCK_MISUSE_COUNT).wsRecord rq .badValue (window + off)
    else if hostWritable off then (eff i s).wsRecord rq .ok (window + off)
    else s.wsRecord rq .notPermitted (window + off)
  | _, some i => if off % 8 = 0 then eff i s else s.cnt .LOCK_MISUSE_COUNT
  | _, none => s

/-- LOCK_CLAIM (R436): an aligned 8-byte write to the CLAIM window. -/
def execLockClaim (rq : Requester) (off : Nat) (data : Word) : State → Res :=
  whenRunning fun s => s.lockWrite rq (off % gsSize) 0x04000000 fun i s => s.lockClaim (off % gsSize) i data.toNat

/-- LOCK_RELEASE (R438): an aligned 8-byte write to the RELEASE window. -/
def execLockRelease (rq : Requester) (off : Nat) (data : Word) : State → Res :=
  whenRunning fun s => s.lockWrite rq (off % gsSize) 0x0C000000 fun i s => s.lockRelease (off % gsSize) i data.toNat

/-- A WAIT read of a host or the service processor (R437). -/
def State.waitRead (s : State) (ident off : Nat) : State :=
  match s.lockWait off ident with
  | (s, some v) => s.lockAnswer ident v
  | (s, none) => s

/-- LOCK_WAIT_READ (R437, R578): a WAIT read of the fabric management function or the service processor; an engine's WAIT
reads are loads (LD), and a mover's belong to its channel. -/
def execLockWaitRead (rq : Requester) (off : Nat) : State → Res :=
  whenRunning fun s => match rq, rq.ident with
    | .thread _ _, _ => s
    | .func _, some i =>
      if off % 8 = 0 && hostWritable (off % gsSize) then s.waitRead i (off % gsSize) else s.cnt .LOCK_MISUSE_COUNT
    | .serviceProcessor, some i => if off % 8 = 0 then s.waitRead i (off % gsSize) else s.cnt .LOCK_MISUSE_COUNT
    | _, none => s

/-- HOST_WAIT_TIMEOUT (R437): a waiting read of the fabric management function not granted within HOST_WAIT_US. -/
def execHostWaitTimeout (off : Nat) : State → Res :=
  whenRunning fun s =>
    if s.lock.waiters.any fun w => w.off == off && w.ident == fmfIdent then
      let s := { s with lock := { s.lock with
        waiters := s.lock.waiters.filter fun w => !(w.off == off && w.ident == fmfIdent) } }
      (s.cnt .HOST_WAIT_TIMEOUT_COUNT).lockAnswer fmfIdent (2 ^ 63 + Status.timeout.code)
    else s

/-- LOCK_PLAIN_WRITE (R440): a plain write of a word that a lock unit records; `t` is the thread that stores it, if an
engine does. -/
def execLockPlainWrite (t : Option ThreadId) (off : Nat) (v : Word) : State → Res :=
  whenRunning fun s =>
    if off % 8 = 0 && s.lockRecorded (off % gsSize) then s.gsStore t (off % gsSize) (leBytes 8 v.toNat) else s

end Sys2Proof.Machine
end

