-- ==== Sys2Proof/Machine/Rings.lean ====
section
/-!
DEFINITION. Host rings (R216 to R239, R606, R613): the ring registers, doorbells, the descriptor cache, the beginning of
entries and the test for malformed ones, completion in place, notification rings, and the halt of a function (R247).
-/
namespace Sys2Proof.Machine

open Sys2Proof

/-! ### A ring's registers -/

/-- Whether a ring is enabled. -/
def State.ringOn (s : State) (f r : Nat) : Bool := s.on F.RING_CFG.ENABLE f r

/-- The kind of a ring (R216): 0 command, 1 send, 2 receive-post, 3 doorbell, 4 notification. -/
def State.ringKind (s : State) (f r : Nat) : Nat := s.f F.RING_CFG.KIND f r

/-- The number of entries of a ring (R217). -/
def State.ringSize (s : State) (f r : Nat) : Nat := 2 ^ s.f F.RING_CFG.LOG2SIZE f r

/-- The indices of a ring (R219). -/
def State.pi (s : State) (f r : Nat) : Nat := s.f F.RING_PI.PI f r
def State.ci (s : State) (f r : Nat) : Nat := s.f F.RING_CI.CI f r
def State.cpi (s : State) (f r : Nat) : Nat := s.f F.RING_CPI.CPI f r

/-- The address of the entry at an index (R219). -/
def State.entryAddr (s : State) (f r i : Nat) : Nat :=
  s.f F.RING_ADDR.BASE f r * 4096 + 64 * (i % s.ringSize f r)

/-- Whether a ring is an enabled ring of a kind. -/
def State.ringIs (s : State) (f r k : Nat) : Bool := s.ringOn f r && s.ringKind f r == k

/-- The enabled rings that a hub die processes (R218). -/
def State.enabledRings (s : State) (h : Nat) : Nat :=
  (s.regs.filter fun e => e.1.name == .RING_CFG && F.RING_CFG.ENABLE.fld.on e.2 && s.homeHub e.1.i == h).length

/-- Whether a function is in reset, so that every write to its window is rejected (R618). -/
def State.inReset (s : State) (f : Nat) : Bool := s.on F.FUNC_STATUS.RESET_IN_PROGRESS f

/-- Whether boot has failed (R547). -/
def State.bootFailed (s : State) : Bool := s.f F.BOOT_STATUS.STATE == 3

/-- The checks of a write of RING_CFG, in the order of R605. -/
def State.ringCfgCheck (s : State) (f r : Nat) (v : Word) : Status :=
  let k := F.RING_CFG.KIND.fld.get v
  let n := F.RING_CFG.LOG2SIZE.fld.get v
  let en := F.RING_CFG.ENABLE.fld.on v
  firstStatus [
    (s.inReset f, .badState),
    (s.ringOn f r, .badState),
    (en && (s.bootFailed || (f == fmf && !s.fmfPlaced)), .badState),
    (setsRsv RegName.RING_CFG.desc.fields v, .badValue),
    (decide (4 < k), .badValue),
    (F.RING_CFG.DB_POLL.fld.on v && k == 4, .badValue),
    (decide (n < 6) || decide (16 < n), .badValue),
    (decide (msixSize f ≤ F.RING_CFG.VECTOR.fld.get v), .badValue),
    (decide (5 < F.RING_CFG.TC.fld.get v), .badValue),
    (en && decide (4096 ≤ s.enabledRings (s.homeHub f)), .noResource)]

/-- A write of RING_CFG: with ENABLE set, every index of the ring becomes zero (R218). -/
def State.ringCfgWrite (s : State) (f r : Nat) (v : Word) : State :=
  let reg : Reg := ⟨.RING_CFG, f, r⟩
  let s := s.wr reg (fieldsAfter RegName.RING_CFG.desc.fields (s.rd reg) v)
  if F.RING_CFG.ENABLE.fld.on v then
    (((s.set F.RING_PI.PI 0 f r).set F.RING_CI.CI 0 f r).set F.RING_CPI.CPI 0 f r).modRing f r fun _ => {}
  else s

/-- The record of a write to a ring register in the function's own WRITE_STATUS. -/
def State.ringWrite (s : State) (f : Fin 4096) (r : Nat) (n : RegName) (st : Status) (eff : State → State) : State :=
  s.writeAs (.func f) (Reg.offset ⟨n, f, r⟩) st eff

/-- RING_ENABLE (R218): a write of RING_CFG. -/
def execRingEnable (f r : Fin 4096) (v : Word) : State → Res :=
  whenRunning fun s => s.ringWrite f r .RING_CFG (s.ringCfgCheck f r v) fun s => s.ringCfgWrite f r v

/-! ### Vectors and arms (R613) -/

/-- The ring's completion vector raised: not for a function that is halted, in reset or without MSI-X (R567). -/
def State.ringVector (s : State) (f r : Nat) : State :=
  if s.fnQuiet f || !(s.msixOn.contains f) then s else s.msixRaise f (s.f F.RING_CFG.VECTOR f r)

/-- The index that an arm watches: CPI, or PI on a notification ring. -/
def State.armIndex (s : State) (f r : Nat) : Nat := if s.ringKind f r = 4 then s.pi f r else s.cpi f r

/-- Whether an arm at `at` is met by an index: the difference is 1 to 0x7FFF_FFFF. -/
def armMet (idx at_ : Nat) : Bool := decide (1 ≤ wsub 32 idx at_) && decide (wsub 32 idx at_ ≤ 0x7FFFFFFF)

/-- An advance of the watched index: the vector at most once, and the arm that is met disarmed. -/
def State.ringAdvanced (s : State) (f r : Nat) (event : Bool) : State :=
  let met := match (s.ring f r).armAt with
    | some a => armMet (s.armIndex f r) a
    | none => false
  let s := if met then (s.modRing f r fun x => { x with armAt := none }).set F.RING_STATUS.ARMED 0 f r else s
  if met || event then s.ringVector f r else s

/-- RING_ARM (R613). -/
def State.ringArm (s : State) (f r idx : Nat) : State :=
  ((s.modRing f r fun x => { x with armAt := some idx }).set F.RING_STATUS.ARMED 1 f r).ringAdvanced f r false

/-- RING_DISARM (R613). -/
def State.ringDisarm (s : State) (f r : Nat) : State :=
  (s.modRing f r fun x => { x with armAt := none }).set F.RING_STATUS.ARMED 0 f r

/-- The status of a write to a ring register that only a function in reset refuses. -/
def State.windowCheck (s : State) (f : Nat) : Status := if s.inReset f then .badState else .ok

/-- RING_ARM (R613): the write with ARM set. -/
def execRingArm (f r : Fin 4096) (idx : BitVec 32) : State → Res :=
  whenRunning fun s => s.ringWrite f r .RING_ARM (s.windowCheck f) fun s => s.ringArm f r idx.toNat

/-- RING_DISARM (R613): the write with ARM clear. -/
def execRingDisarm (f r : Fin 4096) : State → Res :=
  whenRunning fun s => s.ringWrite f r .RING_ARM (s.windowCheck f) fun s => s.ringDisarm f r

/-! ### Producer and consumer indices (R220, R224, R226, R227) -/

/-- Whether a producer value is accepted (R220). -/
def State.piOk (s : State) (f r v : Nat) : Bool :=
  decide (wsub 32 v (s.cpi f r) ≤ s.ringSize f r) && decide (wsub 32 v (s.pi f r) ≤ s.ringSize f r)

/-- RING_PI_WRITE (R220, R226, R227): a rejected value counts in RING_REJECT_COUNT. -/
def State.ringPiWrite (s : State) (f : Fin 4096) (r : Nat) (v : Word) : State :=
  let st := firstStatus [
    (s.inReset f, .badState),
    (s.ringKind f r == 4 || s.on F.RING_CFG.DB_POLL f r, .badState),
    (setsRsv RegName.RING_PI.desc.fields v, .badValue),
    (!(s.piOk f r (v.toNat % 2 ^ 32)), .badValue)]
  let bad := st == .badValue && !(setsRsv RegName.RING_PI.desc.fields v)
  let s := s.ringWrite f r .RING_PI st fun s => s.set F.RING_PI.PI v.toNat f r
  if bad then s.cnt .RING_REJECT_COUNT f r else s

/-- RING_PI_WRITE (R220, R226). -/
def execRingPiWrite (f r : Fin 4096) (v : Word) : State → Res := whenRunning fun s => s.ringPiWrite f r v

/-- RING_CI_WRITE (R224): the host consumes records of a notification ring. -/
def State.ringCiWrite (s : State) (f : Fin 4096) (r : Nat) (v : Word) : State :=
  let c := s.ci f r
  let st := firstStatus [
    (s.inReset f, .badState),
    (s.ringKind f r != 4, .badState),
    (setsRsv RegName.RING_CI.desc.fields v, .badValue),
    (decide (wsub 32 (s.pi f r) c < wsub 32 (v.toNat % 2 ^ 32) c), .badValue)]
  let bad := st == .badValue && !(setsRsv RegName.RING_CI.desc.fields v)
  let s := s.ringWrite f r .RING_CI st fun s => s.set F.RING_CI.CI v.toNat f r
  if bad then s.cnt .RING_REJECT_COUNT f r else s

/-- RING_CI_WRITE (R224). -/
def execRingCiWrite (f r : Fin 4096) (v : Word) : State → Res := whenRunning fun s => s.ringCiWrite f r v

/-- The bad doorbell word (R227). -/
def State.badDoorbell (s : State) (f r : Nat) : State :=
  ((s.set F.RING_STATUS.BAD_DB_WORD 1 f r).cnt .RING_REJECT_COUNT f r).fnEvent 1472 1693 f

/-- DOORBELL_POLL (R227): the doorbell word of a polled ring is read once in a tick; it is tested and applied at the
next CK 0. -/
def execDoorbellPoll (f r : Fin 4096) (res : ReadResult) : State → Res :=
  whenRunning fun s =>
    if s.ringOn f r && s.on F.RING_CFG.DB_POLL f r && !(s.ring f r).polled && !(s.inReset f) then
      let s := (s.hostRead f (s.f F.RING_DB_WORD.ADDR f r * 4) 4).modRing f r fun x => { x with polled := true }
      match res with
      | .data bs => s.modRing f r fun x => { x with dbValue := some (leNat (bs.take 4)) }
      | _ => s.badDoorbell f r
    else s

/-- The doorbell word read in the ending tick, applied at CK 0 (R227). -/
def State.doorbellApply (s : State) (f r : Nat) : State :=
  let v := (s.ring f r).dbValue
  let s := s.modRing f r fun x => { x with dbValue := none, polled := false }
  match v with
  | none => s
  | some v => if s.piOk f r v then s.set F.RING_PI.PI v f r else s.badDoorbell f r

/-! ### Holds (R238) -/

/-- Whether an index lies at or after the start of the ring's hold. -/
def heldFrom (h : Option (Nat × Nat)) (i : Nat) : Bool :=
  match h with
  | some (st, _) => decide (wsub 32 i st < 2 ^ 31)
  | none => false

/-- Whether an index lies in the range of the ring's hold. -/
def heldRange (h : Option (Nat × Nat)) (i : Nat) : Bool :=
  match h with
  | some (st, n) => decide (wsub 32 i st < n)
  | none => false

/-- The BUSY mask of a hold: entries that have begun or completed. -/
def State.holdMask (s : State) (f r start count : Nat) : Nat :=
  (List.range count).foldl (fun a i =>
    if wsub 32 (start + i) (s.cpi f r) < wsub 32 (s.ci f r) (s.cpi f r) then setBit a i else a) 0

/-- A hold accepted (R238). -/
def State.holdStart (s : State) (f r start count : Nat) : State :=
  let s := s.set F.RING_HOLD_MASK.BUSY (s.holdMask f r start count) f r
  let s := s.modRing f r fun x =>
    { x with hold := some (start, count)
             descs := x.descs.filter fun d => d.begun || !(heldRange (some (start, count)) d.idx) }
  s.set F.RING_STATUS.HELD 1 f r

/-- RING_HOLD_START (R238): the write of RING_HOLD with START and COUNT. -/
def State.ringHold (s : State) (f : Fin 4096) (r start count : Nat) : State :=
  let c := s.cpi f r
  let st := firstStatus [
    (s.inReset f, .badState),
    (s.on F.RING_STATUS.HELD f r, .badState),
    (count == 0 || decide (64 < count), .badValue),
    (decide (wsub 32 (s.pi f r) c < wsub 32 start c + count), .badValue)]
  s.ringWrite f r .RING_HOLD st fun s => s.holdStart f r start count

/-- RING_HOLD_START (R238). -/
def execRingHoldStart (f r : Fin 4096) (start : BitVec 32) (count : BitVec 7) : State → Res :=
  whenRunning fun s => s.ringHold f r start.toNat count.toNat

/-- RING_HOLD_RELEASE (R238). -/
def State.ringRelease (s : State) (f : Fin 4096) (r : Nat) : State :=
  let st := firstStatus [(s.inReset f, .badState), (!(s.on F.RING_STATUS.HELD f r), .badState)]
  s.ringWrite f r .RING_HOLD st fun s =>
    (s.modRing f r fun x => { x with hold := none }).set F.RING_STATUS.HELD 0 f r

/-- RING_HOLD_RELEASE (R238). -/
def execRingHoldRelease (f r : Fin 4096) : State → Res := whenRunning fun s => s.ringRelease f r

/-! ### The descriptor cache (R236, R606) -/

/-- Entries of the descriptor cache in use: of host rings and of connection work queues. -/
def State.descUsed (s : State) : Nat :=
  s.rings.foldl (fun a e => a + e.2.descs.length) 0 +
    s.xp.conns.foldl (fun a e => a + e.2.sq.ents.length + e.2.rq.ents.length) 0

/-- The next index of a ring to fetch: the first from CI on that is not cached and not in a held range. -/
def State.nextFetch (s : State) (f r : Nat) : Option Nat :=
  let x := s.ring f r
  let c := s.ci f r
  (firstNat (wsub 32 (s.pi f r) c) fun k =>
    !(x.descs.any fun d => d.idx == wadd 32 c k) && !(heldRange x.hold (wadd 32 c k))).map fun k => wadd 32 c k

/-- RING_ENTRY_FETCH (R236): one entry is read, up to FETCH_DEPTH not yet begun, when the descriptor cache has room. -/
def State.ringFetch (s : State) (f r : Nat) : State :=
  if s.ringOn f r && s.ringKind f r != 4 && !(s.inReset f) &&
      decide (((s.ring f r).descs.filter fun d => !d.begun).length < s.f F.FUNC_CFG.FETCH_DEPTH f) then
    match s.nextFetch f r with
    | none => s
    | some i =>
      if s.descSlots ≤ s.descUsed then s.set F.RING_STATUS.FETCH_WAIT 1 f r
      else
        ((s.set F.RING_STATUS.FETCH_WAIT 0 f r).modRing f r fun x =>
          { x with descs := x.descs ++ [⟨i, none, false, false, false⟩] }).hostRead f (s.entryAddr f r i) 64
  else s

/-- RING_ENTRY_FETCH (R236). -/
def execRingEntryFetch (f r : Fin 4096) : State → Res := whenRunning fun s => s.ringFetch f r

/-- A failed read of an entry (R606): the event and the count of the function. -/
def State.fetchError (s : State) (f : Nat) : State := (s.cnt .FETCH_ERROR_COUNT f).fnEvent 1488 1694 f

/-- Whether a descriptor is the one a read in flight belongs to. -/
def Desc.inFlight (d : Desc) (i : Nat) : Bool := d.idx == i && d.data.isNone && !d.failed

/-- A read of a host ring entry that ends (R236, R606). -/
def State.ringArrive (s : State) (e : EntryRef) (res : ReadResult) : State :=
  if (s.ring e.fn e.ring).descs.any fun d => d.inFlight e.idx then
    match res with
    | .data bs =>
      s.modRing e.fn e.ring fun x =>
        { x with descs := x.descs.map fun d => if d.inFlight e.idx then { d with data := some (bits512 bs) } else d }
    | _ =>
      ((s.modRing e.fn e.ring fun x =>
        { x with descs := x.descs.map fun d => if d.inFlight e.idx then { d with failed := true } else d }).set
          F.RING_STATUS.FETCH_ERROR 1 e.fn e.ring).fetchError e.fn
  else s

/-- The retry of a failed read of a host ring entry (R606). -/
def State.ringRetry (s : State) (e : EntryRef) : State :=
  if ((s.ring e.fn e.ring).descs.any fun d => d.idx == e.idx && d.failed) && !(s.inReset e.fn) then
    (s.modRing e.fn e.ring fun x =>
      { x with descs := x.descs.map fun d => if d.idx = e.idx then { d with failed := false } else d }).hostRead
        e.fn (s.entryAddr e.fn e.ring e.idx) 64
  else s

/-! ### Completion in place (R222, R223, R234) -/

/-- CPI past the entries that have completed, with the indices still beyond it and whether an entry passed has EVENT. -/
def cpiAfter : Nat → Nat → List (Nat × Bool) → Bool → Nat × List (Nat × Bool) × Bool
  | 0, c, l, ev => (c, l, ev)
  | k + 1, c, l, ev =>
    match l.find? fun p => p.1 == c with
    | some p => cpiAfter k (wadd 32 c 1) (l.filter fun q => q.1 != c) (ev || p.2)
    | none => (c, l, ev)

/-- The completion record of an entry (R234). -/
def State.completionRecord (s : State) (d : BitVec 512) (idx : Nat) (st detail result extra : Nat) : BitVec 512 :=
  BitVec.ofNat 512 (entryFld d 7 0 + st % 256 * 2 ^ 8 + entryFld d 63 32 * 2 ^ 32 + idx % 2 ^ 32 * 2 ^ 64 +
    s.tick * 2 ^ 96 + detail % 2 ^ 32 * 2 ^ 160 + result % 2 ^ 64 * 2 ^ 192 + extra * 2 ^ 256)

/-- The new CPI or PI of a ring written to its shadow (R222). -/
def State.shadowWrite (s : State) (f r v : Nat) : State :=
  if s.on F.RING_SHADOW.SHADOW_EN f r then s.hostWrite f (s.f F.RING_SHADOW.ADDR f r * 8) (leBytes 4 v) else s

/-- CPI advanced over what has completed, with the shadow and the vector (R222, R223, R613). -/
def State.cpiAdvance (s : State) (f r : Nat) : State :=
  let x := s.ring f r
  let c := cpiAfter x.doneAt.length (s.cpi f r) x.doneAt false
  if c.1 = s.cpi f r then s
  else
    let s := (s.set F.RING_CPI.CPI c.1 f r).modRing f r fun x => { x with doneAt := c.2.1 }
    (s.shadowWrite f r c.1).ringAdvanced f r c.2.2

/-- An entry of a host ring completed in place (R222). A halted function's indices stay where they stood, and nothing is
written to its memory (R247). -/
def State.completeEntry (s : State) (e : EntryRef) (st : Status) (detail result : Nat := 0) (extra : Nat := 0) :
    State :=
  if s.fnQuiet e.fn then s
  else match (s.ring e.fn e.ring).descs.find? fun d => d.idx == e.idx with
    | none => s
    | some d =>
      let w := d.data.getD 0
      let rec_ := s.completionRecord w e.idx st.code detail result extra
      let s := s.hostWrite e.fn (s.entryAddr e.fn e.ring e.idx) (leBytes 64 rec_.toNat)
      let s := s.modRing e.fn e.ring fun x =>
        { x with descs := x.descs.filter (fun d => d.idx != e.idx)
                 doneAt := x.doneAt ++ [(e.idx, w.toNat.testBit 9)] }
      s.cpiAdvance e.fn e.ring

/-! ### The halt of a function (R247) -/

/-- The halt: the entry is recorded, no further packet of the function is injected, its mover channels end (R465), and the
event is raised. -/
def State.halt (s : State) (f where_ : Nat) (queue cwq : Bool) (reason idx : Nat) : State :=
  if s.on F.FUNC_STATUS.FUNCTION_HALTED f then s
  else
    let s := s.set F.FUNC_STATUS.FUNCTION_HALTED 1 f
    let s := ((s.set F.HALT_WHERE.WHERE where_ f).set F.HALT_WHERE.QUEUE (b2n queue) f).set F.HALT_WHERE.IS_CWQ (b2n cwq) f
    let s := (s.set F.HALT_WHERE.REASON reason f).set F.HALT_INDEX.INDEX idx f
    let s := { s with ni := { s.ni with tx := s.ni.tx.map fun (p : Nat × List TxPkt) =>
      (p.1, p.2.filter fun t => t.owner != f) } }
    (s.moversHalt f).fnEvent 1456 1692 f

/-! ### The test for malformed entries (R247) -/

/-- The bits of a list of fields. -/
def maskOf (l : List (Nat × Nat)) : Nat := l.foldl (fun a p => a ||| (2 ^ (p.1 + 1) - 2 ^ p.2)) 0

/-- The bits 511:64 that an opcode's operands may use (R229 to R233, R253, R283, R285, R287, R302, R332); the bits that an
opcode does not use are reserved, for every opcode (assumption log 6). -/
def operandMask (d : BitVec 512) : Nat :=
  match entryFld d 7 0 with
  | 0x01 => maskOf [(141, 64), (107, 88), (255, 192), (319, 256), (353, 320)] - maskOf [(111, 108)]
  | 0x02 => maskOf [(92, 64)]
  | 0x03 => maskOf [(87, 64)]
  | 0x08 => maskOf [(175, 64)]
  | 0x09 => maskOf [(95, 64)]
  | 0x0A => maskOf [(83, 64), (191, 128)]
  | 0x10 => maskOf [(79, 64), (115, 96), (148, 128)]
  | 0x11 | 0x12 => maskOf [(85, 64)]
  | 0x13 => maskOf [(79, 64)]
  | 0x14 => maskOf [(83, 64), (116, 96)]
  | 0x15 => maskOf [(77, 64), (110, 96)]
  | 0x40 => maskOf [(111, 64), (191, 128)]
  | 0x41 => maskOf [(77, 64), (111, 84), (191, 128)]
  | 0x48 => maskOf [(93, 64), (147, 96), (179, 152), (240, 192), (447, 256)]
  | 0x60 => maskOf [(204, 128)]
  | 0x61 => maskOf [(101, 64), (123, 112), (351, 128)] + (if entryZero d 101 101 then 0 else maskOf [(363, 352)])
  | 0x80 =>
    (List.range (entryFld d 12 10)).foldl (fun a k => a ||| maskOf [(64 * k + 88, 64 * k + 64), (64 * k + 127, 64 * k + 96)]) 0
  | _ => 0

/-- The bits 63:0 an entry may use (R228). -/
def headerMask (d : BitVec 512) : Nat :=
  maskOf [(9, 0), (27, 16), (63, 32)] ||| (if entryFld d 7 0 = 0x80 then maskOf [(12, 10)] else 0)

/-- Whether an opcode is listed (R229). -/
def opcodeListed (op : Nat) : Bool :=
  [0x00, 0x01, 0x02, 0x03, 0x08, 0x09, 0x0A, 0x10, 0x11, 0x12, 0x13, 0x14, 0x15, 0x40, 0x41, 0x48, 0x60, 0x61, 0x80].contains op

/-- Whether an opcode is valid on a ring kind (R229). -/
def opcodeOnKind (op k : Nat) : Bool :=
  if op = 0 then decide (k < 4)
  else if op < 0x40 then k == 0 else if op < 0x60 then k == 1 else if op < 0x80 then k == 2 else k == 3

/-- Whether a field of the entry holds an unlisted encoding (R11): PRECOLOUR 0b11, and the reserved values of COLL_POST
(R332). -/
def badEncoding (d : BitVec 512) : Bool :=
  match entryFld d 7 0 with
  | 0x40 | 0x41 => entryFld d 110 109 == 3
  | 0x48 =>
    decide (5 ≤ entryFld d 118 116) || decide (7 ≤ entryFld d 123 120) || decide (6 ≤ entryFld d 127 124) ||
      decide (5 ≤ entryFld d 179 177)
  | _ => false

/-- Why an entry of a ring of a kind is malformed (HALT_WHERE's REASON), if it is. -/
def malformed (d : BitVec 512) (k : Nat) : Option Nat :=
  let op := entryFld d 7 0
  if !(opcodeListed op) then some (if 0xA0 ≤ op ∧ op ≤ 0xA4 then 5 else 1)
  else if !(opcodeOnKind op k) then some 5
  else if d.toNat &&& (2 ^ 512 - 1 - (headerMask d ||| operandMask d)) ≠ 0 then some 2
  else if badEncoding d then some 3
  else if op == 0x80 && entryZero d 12 10 then some 4
  else none

/-! ### The beginning of entries (R225) -/

/-- Whether the entry at CI may begin: fetched, not held back, and in order. -/
def State.mayBegin (s : State) (f r : Nat) (d : BitVec 512) : Bool :=
  let k := s.ringKind f r
  let alone := s.cpi f r == s.ci f r
  !(heldFrom (s.ring f r).hold (s.ci f r)) && (if k = 0 then alone else !(d.toNat.testBit 8) || alone)

/-- ENTRY_BEGIN (R225, R247): the fetched entry at CI begins, or halts the function when it is malformed. -/
def State.entryBegin (s : State) (f r : Nat) : State :=
  if s.ringOn f r && s.ringKind f r != 4 && !(s.fnQuiet f) && s.ci f r != s.pi f r then
    match (s.ring f r).descs.find? fun d => d.idx == s.ci f r with
    | some ⟨i, some d, false, _, _⟩ =>
      if s.mayBegin f r d then
        match malformed d (s.ringKind f r) with
        | some why => s.halt f r false false why i
        | none =>
          (s.modRing f r fun x =>
            { x with descs := x.descs.map fun y => if y.idx = i then { y with begun := true } else y }).set
              F.RING_CI.CI (i + 1) f r
      else s
    | _ => s
  else s

/-- ENTRY_BEGIN (R225). -/
def execEntryBegin (f r : Fin 4096) : State → Res := whenRunning fun s => s.entryBegin f r

/-- The entry that a command of an opcode takes: the oldest entry of its ring that has begun and not been taken, which
must be the one named and carry the opcode. -/
def State.begunEntry (s : State) (e : EntryRef) (op : Nat) : Option (BitVec 512) :=
  if s.fnQuiet e.fn || !(s.ringOn e.fn e.ring) then none
  else match (s.ring e.fn e.ring).descs.find? fun d => d.begun && !d.taken with
    | some d => if d.idx = e.idx ∧ entryFld (d.data.getD 0) 7 0 = op then d.data else none
    | none => none

/-- The entry taken by its command. -/
def State.takeEntry (s : State) (e : EntryRef) : State :=
  s.modRing e.fn e.ring fun x =>
    { x with descs := x.descs.map fun d => if d.idx = e.idx then { d with taken := true } else d }

/-- The meaning of an opcode's row on its begun entry; without one the command has no effect. -/
def onEntry (e : EntryRef) (op : Nat) (g : BitVec 512 → State → State) : State → Res :=
  whenRunning fun s => match s.begunEntry e op with
    | some d => g d (s.takeEntry e)
    | none => s

/-- NOP (R229): completes with OK. -/
def execNop (e : EntryRef) : State → Res := onEntry e 0x00 fun _ s => s.completeEntry e .ok

/-- RECV_BUF (R232, R316): posts a receive buffer; a bad length, or one other than 4,096 on UX_RING, completes with
BAD_VALUE. -/
def execRecvBuf (e : EntryRef) : State → Res :=
  onEntry e 0x60 fun d s =>
    let n := entryFld d 204 192
    let ux := s.on F.MATCH_CFG.UX_EN e.fn && s.f F.MATCH_CFG.UX_RING e.fn == e.ring.val
    if n = 0 ∨ 4096 < n ∨ (ux ∧ n ≠ 4096) then s.completeEntry e .badValue
    else s.modRing e.fn e.ring fun x => { x with bufs := x.bufs ++ [e.idx] }

/-- The data of an entry held in the descriptor cache. -/
def State.entryData (s : State) (f r i : Nat) : BitVec 512 :=
  match (s.ring f r).descs.find? fun d => d.idx == i with
  | some d => d.data.getD 0
  | none => 0

/-- The job slot is bound to the function (R75). -/
def State.jobBound (s : State) (f slot : Nat) : Bool :=
  (List.range 8).any fun k => s.on F.NF_JOB_BIND.VALID f k && s.f F.NF_JOB_BIND.JOB_SLOT f k == slot

/-! ### Connection work queues and their records (R224, R245) -/

/-- The connection of a number. -/
def State.conn (s : State) (c : Nat) : Option ConnSt := mfind s.xp.conns c

/-- The state with a connection replaced. -/
def State.setConn (s : State) (c : Nat) (x : ConnSt) : State :=
  { s with xp := { s.xp with conns := mset s.xp.conns c x } }

/-- The state with a connection changed, where it exists. -/
def State.modConn (s : State) (c : Nat) (g : ConnSt → ConnSt) : State :=
  match s.conn c with
  | some x => s.setConn c (g x)
  | none => s

/-- A queue of a connection. -/
def ConnSt.q (x : ConnSt) (recv : Bool) : WorkQ := if recv then x.rq else x.sq

/-- The connection with a queue changed. -/
def ConnSt.modQ (x : ConnSt) (recv : Bool) (g : WorkQ → WorkQ) : ConnSt :=
  if recv then { x with rq := g x.rq } else { x with sq := g x.sq }

/-- CMP past the entries that have completed. -/
def cmpAfter : Nat → Nat → List Nat → Nat × List Nat
  | 0, c, l => (c, l)
  | k + 1, c, l => if l.contains c then cmpAfter k (wadd 32 c 1) (l.filter fun q => q != c) else (c, l)

/-- An entry of a work queue completed: CMP advances past it (R245), and its cached copy is dropped. -/
def WorkQ.complete (q : WorkQ) (i : Nat) : WorkQ :=
  let c := cmpAfter (q.doneAt.length + 1) q.cmp (q.doneAt ++ [i])
  { q with cmp := c.1, doneAt := c.2, ents := q.ents.filter (fun e => e.idx != i), want := true }

/-- The CMP of a record's entry advanced; none moves while the function is halted (R247). -/
def State.noteDone (s : State) : Option (Nat × Bool × Nat) → State
  | some (c, recv, i) =>
    match s.conn c with
    | some x => if s.fnQuiet x.fn then s else s.setConn c (x.modQ recv fun q => q.complete i)
    | none => s
  | none => s

/-- A record written at PI of a notification ring, with PI, the shadow and the vector (R224). -/
def State.notePut (s : State) (f r : Nat) (n : NoteWait) : State :=
  let p := s.pi f r
  let s := s.hostWrite f (s.entryAddr f r p) (leBytes 64 n.record.toNat)
  let s := s.set F.RING_PI.PI (p + 1) f r
  ((s.shadowWrite f r (wadd 32 p 1)).ringAdvanced f r false).noteDone n.entry

/-- Whether a notification ring has room (R224). -/
def State.noteRoom (s : State) (f r : Nat) : Bool := decide (wsub 32 (s.pi f r) (s.ci f r) < s.ringSize f r)

/-- A notification record for a ring: written at once where there is room and none waits before it; otherwise it waits
and is counted (R224). -/
def State.notify (s : State) (f r : Nat) (n : NoteWait) : State :=
  if s.fnQuiet f then s
  else if !(s.ringIs f r 4) then s.noteDone n.entry
  else if s.noteRoom f r && (s.ring f r).waiting.isEmpty then s.notePut f r n
  else (s.modRing f r fun x => { x with waiting := x.waiting ++ [n] }).cnt .NOTIFY_FULL_COUNT f r

/-- NOTIFY_RECORD_WRITE (R224): the first waiting record, once the ring has room. -/
def State.noteWrite (s : State) (f r : Nat) : State :=
  match (s.ring f r).waiting with
  | n :: ns =>
    if s.noteRoom f r && !(s.fnQuiet f) then (s.modRing f r fun x => { x with waiting := ns }).notePut f r n else s
  | [] => s

/-- NOTIFY_RECORD_WRITE (R224). -/
def execNotifyRecordWrite (f r : Fin 4096) : State → Res := whenRunning fun s => s.noteWrite f r

end Sys2Proof.Machine
end

