-- ==== Sys2Proof/Machine/Xlate.lean ====
section
/-!
DEFINITION. Translation (R404 to R425): the TLBs, their matching and rights, miss numbers, invalidation and the address
spaces' configuration.
-/
namespace Sys2Proof.Machine

open Sys2Proof

/-- What a translated access meets: its output (target, address, function), a miss with its number (none while all are
in use), or the status it fails with. -/
inductive Xl where
  | ok (target : Nat) (addr : Nat) (fn : Nat)
  | miss (m : Option (Nat × Nat))
  | fail (st : Status)
  deriving DecidableEq, Repr

/-- The bits of a page of a SIZE (R409): 4 KiB, 2 MiB, 1 GiB or 512 GiB. -/
def pageBits (size : Nat) : Nat := 12 + 9 * size

/-- Whether an entry with a tag matches an access (R408). -/
def tagMatches (tag : Word) (asid va : Nat) : Bool :=
  L.TAG.VALID.on tag && (L.TAG.G.on tag || L.TAG.ASID.get tag == asid) &&
    L.TAG.VPN.get tag * 4096 / 2 ^ pageBits (L.TAG.SIZE.get tag) == va / 2 ^ pageBits (L.TAG.SIZE.get tag)

/-- The entries of a TLB (0 engine or 1 placement, number) that match an access, by index. -/
def State.tlbHits (s : State) (kind num asid va : Nat) : List (Nat × Word × Word) :=
  (s.xl.tlb.filter fun e => e.1.1 == kind && e.1.2.1 == num && tagMatches e.2.1 asid va).map fun e => (e.1.2.2, e.2)

/-- The hit of lowest index (R408). -/
def lowestHit : List (Nat × Word × Word) → Option (Nat × Word × Word)
  | [] => none
  | e :: es => match lowestHit es with
    | some d => if d.1 < e.1 then some d else some e
    | none => some e

/-- The output address of an entry: address bits below the page size come from the access (R410). -/
def outAddr (tag dat : Word) (va : Nat) : Nat :=
  let b := pageBits (L.TAG.SIZE.get tag)
  L.DAT.OA.get dat * 4096 / 2 ^ b * 2 ^ b + va % 2 ^ b

/-- Whether a Groundsheet output is open to user mode: handler shared data and exported regions (R411). -/
def userGs (oa : Nat) : Bool := decide (oa < 4 * gsSize) && decide (exportBase ≤ oa % gsSize)

/-- The checks of an access that hits (R411). `scalar` says that it is a scalar access of 1, 2, 4 or 8 bytes, `place` that
it is a placement or payload read, which ignores U and reaches no register (TARGET 2). -/
def hitCheck (tag dat : Word) (va : Nat) (write scalar user place : Bool) : Xl :=
  let oa := outAddr tag dat va
  let t := L.DAT.TARGET.get dat
  if (if write then !(L.DAT.W.on dat) else !(L.DAT.R.on dat)) then .fail .access
  else if user && !place && !(L.DAT.U.on dat) then .fail .access
  else if L.DAT.DEV.on dat && !scalar then .fail .access
  else if user && !place && t == 1 && !(userGs oa) then .fail .access
  else if place && t == 2 then .fail .access
  else .ok t oa (L.DAT.FUNC.get dat)

/-- The hub die of a TLB. -/
def tlbDie (kind num : Nat) : Nat := if kind = 0 then num / 16 else num / 4

/-- Whether miss m of a die is outstanding. -/
def State.missValid (s : State) (h m : Nat) : Bool := s.on F.XL_MISS_VA.VALID h m

/-- Whether miss m of a die is that of a TLB, address space and page (R418). -/
def State.missIs (s : State) (h m kind num asid va : Nat) : Bool :=
  s.missValid h m && s.f F.XL_MISS_VA.PLACEMENT h m == kind && s.f F.XL_MISS_SRC.SRC h m == num &&
    s.f F.XL_MISS_VA.ASID h m == asid && s.f F.XL_MISS_VA.ADDR h m / 4096 == va / 4096

/-- A miss (R418): joined to the outstanding one of its page, or given the lowest free number with its descriptor and the
translation-miss event; without a number while all 256 are in use. `access` is the code of XL_MISS_VA's ACCESS. -/
def State.raiseMiss (s : State) (kind num asid va access : Nat) (user : Bool) : State × Option (Nat × Nat) :=
  let h := tlbDie kind num
  let s := (s.cnt (if kind = 0 then .ENGINE_MISS_COUNT else .PLACE_MISS_COUNT)).perf h 0x80 (if kind = 0 then num else 64 + num) 0 1
  match firstNat 256 fun m => s.missIs h m kind num asid va with
  | some m => (s, some (h, m))
  | none =>
    match firstNat 256 fun m => !(s.missValid h m) with
    | none => (s, none)
    | some m =>
      let v := va % 2 ^ 48 + asid % 1024 * 2 ^ 48 + access % 8 * 2 ^ 58 + kind % 2 * 2 ^ 61 + b2n user * 2 ^ 62 + 2 ^ 63
      let s := (s.wr ⟨.XL_MISS_VA, h, m⟩ (BitVec.ofNat 64 v)).set F.XL_MISS_SRC.SRC num h m
      (s.raise (1592 + h) m, some (h, m))

/-- An access translated through a TLB (R405 to R411, R418). -/
def State.translate (s : State) (kind num asid va access : Nat) (write scalar user place : Bool) : State × Xl :=
  let hits := s.tlbHits kind num asid va
  match lowestHit hits with
  | some (_, tag, dat) => (if 1 < hits.length then s.cnt .MULTI_HIT_COUNT else s, hitCheck tag dat va write scalar user place)
  | none => let r := s.raiseMiss kind num asid va access user; (r.1, .miss r.2)

/-- Whether a function's placements and payload reads are translated (R405, R448). -/
def State.xlOn (s : State) (f : Nat) : Bool := s.on F.XL_FUNC.XLATE_EN f

/-- The transport unit of an IE port translates an address of a function (R405): an I/O virtual address without XLATE_EN. -/
def State.xlPlace (s : State) (f ie va n : Nat) (write : Bool) : State × Xl :=
  if s.xlOn f then
    s.translate 1 ie (s.f F.XL_FUNC.XLATE_ASID f) (va % 2 ^ 48) (if write then 2 else 3) write
      (n == 1 || n == 2 || n == 4 || n == 8) false true
  else (s, .ok 0 va f)

/-- The parts of a range that lie in one 4 KiB page each: (address, offset in the range, length). -/
def pageParts : Nat → Nat → Nat → Nat → List (Nat × Nat × Nat)
  | 0, _, _, _ => []
  | k + 1, va, off, n =>
    if n = 0 then []
    else
      let m := min n (4096 - va % 4096)
      (va, off, m) :: pageParts k (va + m) (off + m) (n - m)

/-- The translations of every part of a range, until one fails or misses. -/
def State.xlRange (s : State) (f ie : Nat) (write : Bool) (whole : Nat) :
    List (Nat × Nat × Nat) → State × Except Xl (List (Xl × Nat × Nat))
  | [] => (s, .ok [])
  | (va, off, n) :: l =>
    match s.xlPlace f ie va whole write with
    | (s, .ok t a g) =>
      match s.xlRange f ie write whole l with
      | (s, .ok r) => (s, .ok ((.ok t a g, off, n) :: r))
      | (s, .error e) => (s, .error e)
    | (s, e) => (s, .error e)

/-- Bytes of a placement written to the parts of its range: to the Groundsheet, or to host memory with the requester ID
of the entry's function. -/
def State.placeParts (s : State) (bs : List Byte) (parts : List (Xl × Nat × Nat)) : State :=
  parts.foldl (fun s p => match p.1 with
    | .ok 1 a _ => s.gsStore none a ((bs.drop p.2.1).take p.2.2)
    | .ok _ a g => s.hostWrite g a ((bs.drop p.2.1).take p.2.2)
    | _ => s) s

/-- A placement of bytes at an address of a function through an IE port's TLB: done, or the miss or the status that
stops it before any byte is written. -/
def State.place (s : State) (f ie va : Nat) (bs : List Byte) : State × Option Xl :=
  match s.xlRange f ie true bs.length (pageParts (bs.length + 1) va 0 bs.length) with
  | (s, .ok parts) => ((s.placeParts bs parts).perf (ie / 4) 0x41 ie 0 bs.length, none)
  | (s, .error e) => (s, some e)

/-- The checks of a payload read of a range, with the reads issued when all parts hit, and the bytes of the parts that
lie in the Groundsheet, by offset. -/
def State.payloadRead (s : State) (f ie va n : Nat) : State × Except Xl (List (Nat × List Byte)) :=
  match s.xlRange f ie false n (pageParts (n + 1) va 0 n) with
  | (s, .ok parts) =>
    parts.foldl (fun r p => match p.1, r with
      | .ok 1 a _, (s, .ok l) => (s, .ok (l ++ [(p.2.1, s.gsGets a p.2.2)]))
      | .ok _ a g, (s, r) => (s.hostRead g a p.2.2, r)
      | _, r => r) (s, .ok [])
  | (s, .error e) => (s, .error e)

/-- The bytes that a payload's Groundsheet parts give. -/
def fillBytes (fill : List (Nat × List Byte)) : Nat := fill.foldl (fun a p => a + p.2.length) 0

/-- A payload of n bytes from what the host returned, with the Groundsheet parts in their places. -/
def filled (n : Nat) (bs : List Byte) (fill : List (Nat × List Byte)) : List Byte :=
  fill.foldl (fun l p => l.take p.1 ++ p.2 ++ l.drop (p.1 + p.2.length)) (bs.take n ++ List.replicate (n - bs.length) 0)

/-! ### Invalidation (R424) and address spaces (R425) -/

/-- The misses of an address space that are outstanding. -/
def State.missesOf (s : State) (asid : Nat) : List (Nat × Nat) :=
  (List.range 4).flatMap fun h =>
    ((List.range 256).filter fun m => s.missValid h m && s.f F.XL_MISS_VA.ASID h m == asid).map fun m => (h, m)

/-- XL_INV_CMD (R424): a write of GO. -/
def State.xlInvCmd (s : State) (f : Fin 4096) (asid scope : Nat) : State :=
  let st := firstStatus [
    (s.f F.XL_ASID_CFG.FUNC asid != f.val && f.val != fmf, .notPermitted),
    (s.on F.XL_INV_STATUS.BUSY f, .busy),
    (s.inReset f, .badState)]
  s.writeAs (.func f) (Reg.offset ⟨.XL_INV_CMD, f, 0⟩) st fun s =>
    let x : XlInv := ⟨f, asid, scope == 1, s.f F.XL_INV_VA.PAGE f, s.f F.XL_INV_VA.COUNT f, s.missesOf asid⟩
    ({ s with xl := { s.xl with invs := s.xl.invs ++ [x] } }).set F.XL_INV_STATUS.BUSY 1 f

/-- XL_INV_CMD (R424). -/
def execXlInvCmd (f : Fin 4096) (asid : Fin 1024) (scope : Bool) : State → Res :=
  whenRunning fun s => s.xlInvCmd f asid (b2n scope)

/-- Whether an entry lies in the scope of an invalidation. -/
def invCovers (x : XlInv) (tag : Word) : Bool :=
  let b := pageBits (L.TAG.SIZE.get tag)
  let lo := L.TAG.VPN.get tag * 4096 / 2 ^ b * 2 ^ b / 4096
  L.TAG.ASID.get tag == x.asid && (x.whole || (decide (lo < x.page + x.count) && decide (x.page < lo + 2 ^ (b - 12))))

/-- Whether a connection waits for a payload it has asked for. -/
def ConnSt.reading (x : ConnSt) : Bool :=
  (x.txq.any fun u => u.asked && u.payload.isNone) || x.sent.any fun p => p.u.asked && p.u.payload.isNone

/-- Whether an access through the address space has not completed: a thread's load, or a payload read. -/
def State.asidBusy (s : State) (asid : Nat) : Bool :=
  (s.eng.threads.any fun e => e.2.asid.toNat % 1024 == asid && (match e.2.wait with
    | .load _ _ => true
    | _ => false)) ||
    s.xp.conns.any fun c => s.xlOn c.2.fn && s.f F.XL_FUNC.XLATE_ASID c.2.fn == asid && c.2.reading

/-- XL_INV_COMPLETE (R424): the misses raised before it are resolved and the accesses through the address space have
completed; the entries in scope are discarded and BUSY clears. -/
def execXlInvComplete (f : Fin 4096) : State → Res :=
  whenRunning fun s => match s.xl.invs.find? fun x => x.fn == f.val with
    | none => s
    | some x =>
      if x.misses.isEmpty && !(s.asidBusy x.asid) then
        let s := { s with xl := { s.xl with tlb := s.xl.tlb.filter fun e => !(invCovers x e.2.1)
                                            invs := s.xl.invs.filter fun y => y.fn != f.val } }
        (s.set F.XL_INV_STATUS.BUSY 0 f).set F.XL_INV_STATUS.DONE (s.f F.XL_INV_STATUS.DONE f + 1) f
      else s

/-- Whether a binding or a function names an address space (R425). -/
def State.asidNamed (s : State) (asid : Nat) : Bool :=
  (s.eng.bindings.any fun b => L.BND.VALID.on b.2 && L.BND.ASID.get b.2 == asid) ||
    s.regs.any fun e => e.1.name == .XL_FUNC && F.XL_FUNC.XLATE_ASID.fld.get e.2 == asid

/-- The checks of a write of XL_ASID_CFG (R425, R576). -/
def State.asidCfgCheck (s : State) (asid : Nat) (v : Word) : Status :=
  let old := s.rd ⟨.XL_ASID_CFG, asid, 0⟩
  let valid := F.XL_ASID_CFG.VALID.fld.on old
  let clears := valid && v.toNat == old.toNat - 2 ^ 63
  firstStatus [
    (valid && !(clears && !(s.asidNamed asid)), .badState),
    (setsRsv RegName.XL_ASID_CFG.desc.fields v, .badValue),
    (F.XL_ASID_CFG.VALID.fld.on v && asid == 0, .badValue),
    (!(s.fnLegal (F.XL_ASID_CFG.FUNC.fld.get v)), .badValue)]

/-- A write of XL_ASID_CFG: one that clears VALID discards every entry of the address space (R425). -/
def State.asidCfgWrite (s : State) (asid : Nat) (v : Word) : State :=
  let s := if s.on F.XL_ASID_CFG.VALID asid then
    { s with xl := { s.xl with tlb := s.xl.tlb.filter fun e => L.TAG.ASID.get e.2.1 != asid } } else s
  s.wr ⟨.XL_ASID_CFG, asid, 0⟩ v

/-- XL_ASID_CFG_WRITE (R425). -/
def execXlAsidCfgWrite (rq : Requester) (asid : Fin 1024) (v : Word) : State → Res :=
  whenRunning fun s =>
    s.writeAs rq (Reg.offset ⟨.XL_ASID_CFG, asid, 0⟩)
      (if rq.reaches then s.asidCfgCheck asid v else .notPermitted) fun s => s.asidCfgWrite asid v

end Sys2Proof.Machine
end

