-- ==== Sys2Proof/Machine/Jobs.lean ====
section
/-!
DEFINITION. Jobs, rank translation and admission (R63 to R81, R569, R608): the job table, the translation units and
their caches, the isolation check, the IE port of a flow (R20), and the job commands.
-/
namespace Sys2Proof.Machine

open Sys2Proof

/-! ### The job table -/

/-- Bytes 0 to 31 of a job table entry (R68). -/
def State.jobEntry (s : State) (slot : Nat) : BitVec 256 := BitVec.ofNat 256 (s.gsNat (jobBase + 256 * slot) 32)

/-- The state with bytes 0 to 31 of a job table entry written. -/
def State.setJob (s : State) (slot : Nat) (e : BitVec 256) : State := s.gsPut (jobBase + 256 * slot) 32 e.toNat

/-- STATE of a job slot: 0 free, 1 created, 2 attached, 3 draining. -/
def State.jobState (s : State) (slot : Nat) : Nat := L.JOB.STATE.get (s.jobEntry slot)

/-- The job ID of a slot. -/
def State.jobId (s : State) (slot : Nat) : Nat := L.JOB.JOB.get (s.jobEntry slot)

/-- The slot that holds a job (R67). -/
def State.jobSlot (s : State) (job : Nat) : Option Nat :=
  firstNat 4096 fun k => s.jobState k != 0 && s.jobId k == job

/-- The slot of a job that its commands may act on: created or attached, not the management job (R66, R70). -/
def State.jobLive (s : State) (job : Nat) : Option Nat :=
  match s.jobSlot job with
  | some k => if job ≠ 0 ∧ s.jobState k ≠ 3 then some k else none
  | none => none

/-- A count of the running tick for a counter of a job (R569). -/
def State.jobCount (s : State) (slot byte n : Nat) : State :=
  { s with jobs := { s.jobs with counts := mset s.jobs.counts (slot, byte) (mget s.jobs.counts (slot, byte) 0 + n) } }

/-- The tick's counts added to the job table (R569). -/
def State.jobAccumulate (s : State) : State :=
  let s' := s.jobs.counts.foldl (fun s c =>
    let a := jobBase + 256 * c.1.1 + c.1.2
    s.gsPut a 8 ((s.gsNat a 8 + c.2) % 2 ^ 64)) s
  { s' with jobs := { s'.jobs with counts := [] } }

/-! ### Endpoints and IE ports -/

/-- The endpoint of a function (R63): its partition's, or 63 for the fabric management function. -/
def State.fnEp (s : State) (f : Nat) : Nat := if f = fmf then 63 else (s.partOf f).getD 0

/-- The owner of the packets of no function: the collective service (R63). -/
def serviceOwner : Nat := 4096

/-- The function that an endpoint's packets are delivered to: the PF of the partition, or the fabric management
function (R65, R607); endpoint 62 belongs to the collective service. -/
def epFn (ep : Nat) : Nat := if ep = 63 then fmf else if ep = 62 then serviceOwner else ep

/-- The hash that picks an IE port (R20). -/
def ieHash (srcNode srcEp conn : Nat) : Nat :=
  crc16 (leBytes 7 (srcNode % 2 ^ 20 + srcEp % 64 * 2 ^ 20 + conn % 2 ^ 24 * 2 ^ 26))

/-- The IE port of a hub die for a packet's source and its SRC_CONN field (R20); none while the die has none in
service. -/
def State.iePort (s : State) (h srcNode srcEp conn : Nat) : Option Nat :=
  let ps := ((List.range 4).map fun k => 4 * h + k).filter fun p => !(s.core.ieDown.contains p)
  if ps.isEmpty then none else some (lget ps (ieHash srcNode srcEp conn * ps.length / 2 ^ 16) 0)

/-- The IE port through which a function's flow leaves: that of its home hub die (R19, R20). -/
def State.fnIe (s : State) (f conn : Nat) : Nat := (s.iePort (s.homeHub f) s.own (s.fnEp f) conn).getD (4 * s.homeHub f)

/-! ### Rank translation (R77, R608, R615) -/

/-- An entry of the rank translation table as a unit sees it: its own copy, or the table, which it then caches (R608). -/
def State.rttRead (s : State) (u idx : Nat) : State × Nat :=
  let c := mget s.jobs.rttCache u []
  let v := match mfind c idx with
    | some v => v
    | none => s.gsNat (rttBase + 8 * idx) 8
  ({ s with jobs := { s.jobs with rttCache := mset s.jobs.rttCache u (((idx, v) :: mdel c idx).take 4096) } }, v)

/-- A translated rank: node, endpoint and PINNED of its entry. -/
structure RankDst where
  node : Nat
  ep : Nat
  pinned : Bool
  deriving DecidableEq, Repr

/-- The translation of a rank for the job of a slot by a unit (R77). -/
def State.rankTranslate (s : State) (u slot rank : Nat) : State × Option RankDst :=
  let j := s.jobEntry slot
  if L.JOB.STATE.get j = 0 ∨ L.JOB.RANK_COUNT.get j ≤ rank then (s, none)
  else
    let r := s.rttRead u ((L.JOB.RTT_BASE.get j + rank) % 2 ^ 20)
    let e : Word := BitVec.ofNat 64 r.2
    if !(L.RTE.VALID.on e) || L.RTE.JOB.get e != L.JOB.JOB.get j then (r.1.cnt .RTT_STALE_COUNT, none)
    else if s.illegalCoord (L.RTE.NODE.get e) || reservedEp (L.RTE.EP.get e) then (r.1, none)
    else (r.1, some ⟨L.RTE.NODE.get e, L.RTE.EP.get e, L.RTE.PINNED.on e⟩)

/-- Every unit's copies of a range of the table discarded (R80). -/
def State.rttDiscard (s : State) (base count : Nat) : State :=
  { s with jobs := { s.jobs with rttCache := s.jobs.rttCache.map fun (c : Nat × List (Nat × Nat)) =>
      (c.1, c.2.filter fun e => !(decide (base ≤ e.1) && decide (e.1 < base + count))) } }

/-! ### Admission (R65, R73, R74) -/

/-- Whether an endpoint can take packets (R65). -/
def State.epPresent (s : State) (ep : Nat) : Bool :=
  if ep < 16 then s.on F.EB_PART_CFG.ENABLE ep else if ep = 63 then s.fmfPlaced else ep == 62

/-- Whether a packet of a job is admitted at an endpoint (R73, R74). -/
def State.admits (s : State) (job ep : Nat) : Bool :=
  if ep = 63 then job == 0
  else match s.jobSlot job with
    | some k => s.jobState k == 2 && (L.JOB.EP_MASK.get (s.jobEntry k)).testBit ep
    | none => false

/-- The admission of a packet, or its refusal before it reaches its consumer, with the counts of R73 and R569. -/
def State.admission (s : State) (job ep : Nat) : State × Option Status :=
  if !(s.epPresent ep) then (s, some .remoteUnreachable)
  else if s.admits job ep then (s.jobCount ((s.jobSlot job).getD 0) 48 1, none)
  else (s.cnt .JOB_MISMATCH_COUNT ep, some .jobMismatch)

/-! ### The job commands (R70, R230) -/

/-- Whether a range overlaps the slice of a valid job. -/
def State.sliceOverlap (s : State) (base count : Nat) : Bool :=
  (firstNat 4096 fun k =>
    let e := s.jobEntry k
    L.JOB.STATE.get e != 0 && decide (base < L.JOB.RTT_BASE.get e + L.JOB.RANK_COUNT.get e) &&
      decide (L.JOB.RTT_BASE.get e < base + count)).isSome

/-- The lowest-numbered free job slot. -/
def State.freeJobSlot (s : State) : Option Nat := firstNat 4096 fun k => s.jobState k == 0

/-- The checks of a job command that any other function's ring refuses first (R70). -/
def jobStatus (e : EntryRef) (l : List (Bool × Status)) : Status := firstStatus ((e.fn.val != fmf, .notPermitted) :: l)

/-- A job entry written to a slot, its counters zeroed (R68, R569). -/
def State.jobWrite (s : State) (slot job base count : Nat) : State :=
  let e := L.JOB.STATE.set (L.JOB.JOB.set (0 : BitVec 256) job) 1
  let e := L.JOB.RANK_COUNT.set (L.JOB.RTT_BASE.set e base) count
  let s := (s.setJob slot e).gsPuts (jobBase + 256 * slot + 32) (List.replicate 96 0)
  { s with jobs := { s.jobs with counts := s.jobs.counts.filter fun c => c.1.1 != slot } }

/-- JOB_CREATE (R66, R67, R69, R70). -/
def execJobCreate (e : EntryRef) : State → Res :=
  onEntry e 0x10 fun d s =>
    let job := entryFld d 79 64
    let base := entryFld d 115 96
    let n := entryFld d 148 128
    let st := jobStatus e [
      ((s.jobSlot job).isSome, .badState),
      (n == 0 || decide (2 ^ 20 < n) || decide (2 ^ 20 < base + n), .badValue),
      (s.sliceOverlap base n, .badState),
      (s.freeJobSlot.isNone, .noResource)]
    if st = .ok then
      let k := s.freeJobSlot.getD 0
      (s.jobWrite k job base n).completeEntry e .ok 0 k
    else s.completeEntry e st

/-- The checks of an attach or detach (R70). -/
def State.attachCheck (s : State) (e : EntryRef) (d : BitVec 512) : Status :=
  let ep := entryFld d 85 80
  jobStatus e [
    ((s.jobLive (entryFld d 79 64)).isNone, .badState),
    (reservedEp ep || ep == 63, .badValue)]

/-- An attach or detach accepted: it waits for its tick boundary (R71). -/
def State.attachBegin (s : State) (e : EntryRef) (d : BitVec 512) (attach : Bool) : State :=
  let st := s.attachCheck e d
  if st = .ok then
    { s with jobs := { s.jobs with
        waits := s.jobs.waits ++ [⟨e, (s.jobLive (entryFld d 79 64)).getD 0, entryFld d 85 80, attach⟩] } }
  else s.completeEntry e st

/-- JOB_ATTACH (R70, R71). -/
def execJobAttach (e : EntryRef) : State → Res := onEntry e 0x11 fun d s => s.attachBegin e d true

/-- JOB_DETACH (R70, R71). -/
def execJobDetach (e : EntryRef) : State → Res := onEntry e 0x12 fun d s => s.attachBegin e d false

/-- The effect of an attach or detach at its boundary, with its completion (R71). -/
def State.attachEffect (s : State) (w : JobWait) : State :=
  let j := s.jobEntry w.slot
  let m := L.JOB.EP_MASK.get j
  let m := if w.attach then setBit m w.ep else clrBit m w.ep
  (s.setJob w.slot (L.JOB.STATE.set (L.JOB.EP_MASK.set j m) (if m = 0 then 1 else 2))).completeEntry w.e .ok

/-- Every attach and detach accepted before the boundary takes effect (R71). -/
def State.jobBoundary (s : State) : State :=
  let ws := s.jobs.waits
  ws.foldl (fun s w => s.attachEffect w) { s with jobs := { s.jobs with waits := [] } }

/-- JOB_DESTROY (R70, R72). -/
def execJobDestroy (e : EntryRef) : State → Res :=
  onEntry e 0x13 fun d s =>
    let k := (s.jobLive (entryFld d 79 64)).getD 0
    let st := jobStatus e [
      ((s.jobLive (entryFld d 79 64)).isNone, .badState),
      (L.JOB.EP_MASK.get (s.jobEntry k) != 0 || (s.jobs.waits.any fun w => w.slot == k) ||
        (s.xp.conns.any fun c => c.2.slot == k), .badState)]
    if st = .ok then
      let j := s.jobEntry k
      let s := s.setJob k (L.JOB.STATE.set j 3)
      { s with jobs := { s.jobs with
          destroys := s.jobs.destroys ++ [⟨e, L.JOB.RTT_BASE.get j, L.JOB.RANK_COUNT.get j, k, []⟩] } }
    else s.completeEntry e st

/-- JOB_DESTROY_COMPLETE (R72): every cached translation of the slice is discarded, the slot becomes free and the
command completes. -/
def execJobDestroyComplete (e : EntryRef) : State → Res :=
  whenRunning fun s => match s.jobs.destroys.find? fun w => w.e == e with
    | none => s
    | some w =>
      let s := (s.rttDiscard w.base w.count).setJob w.slot 0
      ({ s with jobs := { s.jobs with destroys := s.jobs.destroys.filter fun x => x.e != e } } : State).completeEntry e .ok

/-- RTT_INVALIDATE (R70, R80). -/
def execRttInvalidate (e : EntryRef) : State → Res :=
  onEntry e 0x14 fun d s =>
    let base := entryFld d 83 64
    let n := entryFld d 116 96
    let st := jobStatus e [(n == 0 || decide (2 ^ 20 < base + n), .badValue)]
    if st = .ok then { s with jobs := { s.jobs with rttInvals := s.jobs.rttInvals ++ [⟨e, base, n, 0, []⟩] } }
    else s.completeEntry e st

/-- RTT_INVALIDATE_COMPLETE (R80). -/
def execRttInvalidateComplete (e : EntryRef) : State → Res :=
  whenRunning fun s => match s.jobs.rttInvals.find? fun w => w.e == e with
    | none => s
    | some w =>
      let s := s.rttDiscard w.base w.count
      ({ s with jobs := { s.jobs with rttInvals := s.jobs.rttInvals.filter fun x => x.e != e } } : State).completeEntry
        e .ok

/-- The replications in progress of a range of groups: packets routed whose branches have not all been sent (R108). -/
def State.replicating (s : State) (base count : Nat) : List Nat :=
  (s.core.pkts.filter fun k =>
    k.routed && L.NET.MCAST.on k.pkt.net && decide (base ≤ L.NET.MGROUP.get k.pkt.net) &&
      decide (L.NET.MGROUP.get k.pkt.net < base + count)).map fun k => k.id

/-- MCG_INVALIDATE (R108, R230). -/
def execMcgInvalidate (e : EntryRef) : State → Res :=
  onEntry e 0x15 fun d s =>
    let base := entryFld d 77 64
    let n := entryFld d 110 96
    let st := jobStatus e [(n == 0 || decide (16384 < base + n), .badValue)]
    if st = .ok then
      { s with jobs := { s.jobs with mcgInvals := s.jobs.mcgInvals ++ [⟨e, base, n, 0, s.replicating base n⟩] } }
    else s.completeEntry e st

/-- MCG_INVALIDATE_COMPLETE (R108): the replications begun before the command have sent all their branches, and every
cached copy in the range is discarded. -/
def execMcgInvalidateComplete (e : EntryRef) : State → Res :=
  whenRunning fun s => match s.jobs.mcgInvals.find? fun w => w.e == e with
    | none => s
    | some w =>
      if s.core.pkts.any fun k => w.marks.contains k.id then s
      else
        let s := { s with jobs := { s.jobs with
          mcgCache := s.jobs.mcgCache.filter fun c => !(decide (w.base ≤ c.1.2) && decide (c.1.2 < w.base + w.count))
          mcgInvals := s.jobs.mcgInvals.filter fun x => x.e != e } }
        s.completeEntry e .ok

/-- A multicast group entry as a quarter sees it: its own copy, or the table, which it then caches (R107, R108). -/
def State.mcgRead (s : State) (q g : Nat) : State × BitVec 512 :=
  match mfind s.jobs.mcgCache (q, g) with
  | some e => (s, e)
  | none =>
    let e := BitVec.ofNat 512 (s.gsNat (mcgBase + 64 * g) 64)
    ({ s with jobs := { s.jobs with mcgCache := mset s.jobs.mcgCache (q, g) e } }, e)

/-- Whether a group entry is valid (R107): EPMASK bits 61:16 and 63 set make it invalid. -/
def mcgValid (e : BitVec 512) : Bool :=
  L.MCG.VALID.on e && L.MCG.EPMASK.get e / 2 ^ 16 % 2 ^ 46 == 0 && !((L.MCG.EPMASK.get e).testBit 63)

/-- The mask of a group in dimension d. -/
def mcgMask (e : BitVec 512) (d : Nat) : Nat := Fld.get ⟨64 * d + 63, 64 * d⟩ e

/-- Whether a node is a member of a group (R107). -/
def State.mcgMember (s : State) (e : BitVec 512) (node : Nat) : Bool :=
  (List.range 4).all fun d => !(s.dimOn d) || (mcgMask e d).testBit (s.fldOf node d)

end Sys2Proof.Machine
end

