-- ==== Sys2Proof/Machine/Conn.lean ====
section
/-!
DEFINITION. Connections (R240 to R266): their work queues, doorbells, fetching by stamps, the test for malformed work
entries, notification records in message order, keys and trigger counters as tables, and the building and sending of
packets.
-/
namespace Sys2Proof.Machine

open Sys2Proof

/-! ### Keys and trigger counters (R282, R286) -/

/-- An entry of the key table. -/
def State.key (s : State) (i : Nat) : BitVec 128 := BitVec.ofNat 128 (s.gsNat (keyBase + 16 * i) 16)

/-- The state with a key entry written. -/
def State.setKey (s : State) (i : Nat) (k : BitVec 128) : State := s.gsPut (keyBase + 16 * i) 16 k.toNat

/-- Whether an index lies in a function's key range. -/
def State.keyInRange (s : State) (f i : Nat) : Bool :=
  decide (s.f F.FUNC_KEY_RANGE.KEY_BASE f ≤ i) &&
    decide (i < s.f F.FUNC_KEY_RANGE.KEY_BASE f + s.f F.FUNC_KEY_RANGE.KEY_COUNT f)

/-- A trigger counter entry. -/
def State.trg (s : State) (i : Nat) : BitVec 128 := BitVec.ofNat 128 (s.gsNat (trigBase + 16 * i) 16)

/-- The state with a trigger counter entry written. -/
def State.setTrg (s : State) (i : Nat) (t : BitVec 128) : State := s.gsPut (trigBase + 16 * i) 16 t.toNat

/-- Whether an index lies in a function's trigger counter range. -/
def State.trgInRange (s : State) (f i : Nat) : Bool :=
  decide (s.f F.FUNC_TRIG_RANGE.TRIG_BASE f ≤ i) &&
    decide (i < s.f F.FUNC_TRIG_RANGE.TRIG_BASE f + s.f F.FUNC_TRIG_RANGE.TRIG_COUNT f)

/-- The checks of R288: in the function's range, valid, and under the job slot. -/
def State.trgOk (s : State) (f slot i : Nat) : Bool :=
  s.trgInRange f i && L.TRG.VALID.on (s.trg i) && L.TRG.JOB_SLOT.get (s.trg i) == slot

/-- A counter watch fires (R354, kind 2): the event is queued and ARM clears. -/
def State.watchFire (s : State) (w i v : Nat) : State :=
  let slot := s.f F.CTR_WATCH.SLOT w
  (s.set F.CTR_WATCH.ARM 0 w).queueEvent (s.hevent 2 slot (w + i * 2 ^ 8 + v * 2 ^ 64) [] w 4)

/-- The armed watches of a counter whose value has reached their threshold fire. -/
def State.watchCheck (s : State) (i : Nat) : State :=
  let v := L.TRG.VALUE.get (s.trg i)
  (List.range 256).foldl (fun s w =>
    if s.on F.CTR_WATCH.ARM w && s.f F.CTR_WATCH.COUNTER w == i && decide (s.f F.CTR_THRESH.THRESH w ≤ v) then
      s.watchFire w i v else s) s

/-- A counter raised by 1, or by the event's bytes in MODE 1 (R286), with its watches. -/
def State.ctrAdd (s : State) (i bytes : Nat) : State :=
  let t := s.trg i
  (s.setTrg i (L.TRG.VALUE.set t (L.TRG.VALUE.get t + (if L.TRG.MODE.on t then bytes else 1)))).watchCheck i

/-! ### Work queues (R240 to R244) -/

/-- The size of a work queue: 0 when the connection has none. -/
def WorkQ.size (q : WorkQ) : Nat := if q.log2 = 0 then 0 else 2 ^ q.log2

/-- The lap of an index (R219, R240). -/
def WorkQ.lap (q : WorkQ) (i : Nat) : Nat := i / 2 ^ q.log2 % 256

/-- Whether an entry is stamped valid for an index (R240). -/
def WorkQ.stamped (q : WorkQ) (d : BitVec 512) (i : Nat) : Bool :=
  L.CWE.STAMP_1.get d == q.lap i && L.CWE.STAMP_2.get d == q.lap i && L.CWE.STAMP_3.get d == q.lap i &&
    L.CWE.STAMP.get d == q.lap i

/-- The address of a queue entry. -/
def WorkQ.addr (q : WorkQ) (i : Nat) : Nat := q.base + 64 * (i % 2 ^ q.log2)

/-- What a doorbell word leads to (R242). -/
def State.doorbellCheck (s : State) (f : Nat) (v : Word) : Status :=
  match s.conn (F.CQ_DOORBELL.CONN.fld.get v) with
  | none => .notPermitted
  | some x =>
    let q := x.q (F.CQ_DOORBELL.QUEUE.fld.on v)
    if x.fn ≠ f then .notPermitted
    else if q.size < wsub 32 (F.CQ_DOORBELL.TAIL.fld.get v) q.cmp then .badValue else .ok

/-- A doorbell accepted: KT moves up to the tail, and the queue is fetched again (R242, R243). -/
def State.doorbellTake (s : State) (v : Word) : State :=
  let t := F.CQ_DOORBELL.TAIL.fld.get v
  s.modConn (F.CQ_DOORBELL.CONN.fld.get v) fun x =>
    x.modQ (F.CQ_DOORBELL.QUEUE.fld.on v) fun q =>
      { q with want := true, kt := if wsub 32 q.kt q.cmp < wsub 32 t q.cmp then t else q.kt }

/-- CQ_DOORBELL (R242). -/
def State.cqDoorbell (s : State) (f : Fin 4096) (v : Word) : State :=
  let st := firstStatus [
    (s.doorbellCheck f v == .notPermitted, .notPermitted),
    (s.inReset f, .badState),
    (setsRsv RegName.CQ_DOORBELL.desc.fields v, .badValue),
    (s.doorbellCheck f v == .badValue, .badValue)]
  s.writeAs (.func f) (Reg.offset ⟨.CQ_DOORBELL, f, 0⟩) st fun s => s.doorbellTake v

/-- CQ_DOORBELL (R242). -/
def execCqDoorbell (f : Fin 4096) (v : Word) : State → Res := whenRunning fun s => s.cqDoorbell f v

/-- The doorbells of a DB_BATCH applied in order: the mask of those skipped and the status of the first (R233). -/
def State.dbBatch (s : State) (f : Nat) (d : BitVec 512) : Nat → Nat → Nat × Status → State × Nat × Status
  | 0, _, r => (s, r)
  | n + 1, k, r =>
    let v : Word := BitVec.ofNat 64 (entryFld d (64 * k + 127) (64 * k + 64))
    match s.doorbellCheck f v with
    | .ok => (s.doorbellTake v).dbBatch f d n (k + 1) r
    | st => s.dbBatch f d n (k + 1) (setBit r.1 k, if r.2 = .ok then st else r.2)

/-- DB_BATCH (R233). -/
def execDbBatch (e : EntryRef) : State → Res :=
  onEntry e 0x80 fun d s =>
    let r := s.dbBatch e.fn d (entryFld d 12 10) 0 (0, .ok)
    r.1.completeEntry e r.2.2 r.2.1

/-- Reads of a queue's entries from its next unfetched index up to KT + 7, never passing CMP + size, as far as the
descriptor cache has room (R236, R243). -/
def State.cwqRead (s : State) (c : Nat) (recv retry : Bool) : State :=
  match s.conn c with
  | none => s
  | some x =>
    let q := x.q recv
    let upTo := min (wsub 32 (q.kt + 8) q.cmp) q.size
    let n := min (upTo - wsub 32 q.fetch q.cmp) (s.descSlots - s.descUsed)
    let is := (List.range n).map fun k => wadd 32 q.fetch k
    let s := s.setConn c (x.modQ recv fun q =>
      { q with ents := q.ents ++ is.map (fun i => (⟨i, none, false, false, false, false⟩ : WorkEnt))
               fetch := wadd 32 q.fetch n, want := false, retrying := retry })
    is.foldl (fun s i => s.hostRead x.fn (q.addr i) 64) s

/-- CWQ_FETCH (R243). -/
def execCwqFetch (c : Fin 16777216) (recv : Bool) : State → Res :=
  whenRunning fun s => match s.conn c with
    | some x => if (x.q recv).want && !(s.inReset x.fn) then s.cwqRead c recv false else s
    | none => s

/-- What a pass over the fetched entries finds (R243): the entries kept, KT, the counts of both kinds of miss, and the
index from which entries were discarded. -/
structure Scan where
  ents : List WorkEnt
  kt : Nat
  below : Nat
  cut : Option Nat
  stop : Bool
  deriving DecidableEq, Repr

/-- One entry of the pass: posted by its stamp, or discarded (R243). A read in flight or failed stops the pass, since no
later entry is posted before it (R606). -/
def WorkQ.scanStep (q : WorkQ) (a : Scan) (e : WorkEnt) : Scan :=
  if a.cut.isSome then a
  else if a.stop || e.posted || e.miss then { a with ents := a.ents ++ [e] }
  else match e.data with
    | none => { a with ents := a.ents ++ [e], stop := true }
    | some d =>
      if wsub 32 e.idx q.cmp < wsub 32 a.kt q.cmp then
        if q.stamped d e.idx then { a with ents := a.ents ++ [{ e with posted := true }] }
        else { a with ents := a.ents ++ [{ e with data := none, miss := true }], below := a.below + 1 }
      else if q.stamped d e.idx then
        { a with ents := a.ents ++ [{ e with posted := true }], kt := wadd 32 e.idx 1 }
      else { a with cut := some e.idx }

/-- The fetched entries of a queue handled by index (R243). -/
def State.cwqScan (s : State) (c : Nat) (recv : Bool) : State :=
  match s.conn c with
  | none => s
  | some x =>
    let q := x.q recv
    let a := q.ents.foldl q.scanStep ⟨[], q.kt, 0, none, false⟩
    let again := q.retrying && a.cut == q.missAt
    let s := s.setConn c (x.modQ recv fun q =>
      { q with ents := a.ents, kt := a.kt, want := q.want || (a.kt != q.kt && a.cut.isNone)
               fetch := a.cut.getD q.fetch
               missAt := if a.cut.isSome then a.cut else q.missAt
               turns := if a.cut.isSome && !again then s.f F.FUNC_CFG.STAMP_RETRY x.fn else q.turns })
    let s := if a.below = 0 then s else s.cnt .STAMP_MISS_POSTED_COUNT x.fn 0 a.below
    if a.cut.isSome then s.cnt .STAMP_MISS_COUNT x.fn else s

/-- STAMP_RETRY (R243): the re-reads due at a turnover, of the entries beyond KT that missed and of those below it. -/
def execStampRetry (c : Fin 16777216) (recv : Bool) : State → Res :=
  whenRunning fun s => match s.conn c with
    | none => s
    | some x =>
      let q := x.q recv
      if q.due && !(s.inReset x.fn) then
        let again := q.ents.filter fun e => e.miss
        let s := s.setConn c (x.modQ recv fun q =>
          { q with due := false, turns := q.turns - 1
                   ents := q.ents.map fun e => { e with miss := false } })
        let s := again.foldl (fun s e => s.hostRead x.fn (q.addr e.idx) 64) s
        if 0 < q.turns then s.cwqRead c recv true else s
      else s

/-- Whether a work entry's read is in flight. -/
def WorkEnt.inFlight (e : WorkEnt) (i : Nat) : Bool := e.idx == i && e.data.isNone && !e.failed && !e.miss

/-- The queue with its fetched entries changed. -/
def WorkQ.mapEnts (q : WorkQ) (g : WorkEnt → WorkEnt) : WorkQ := { q with ents := q.ents.map g }

/-! ### Malformed work entries (R241, R247, R264, R265) -/

/-- The bits a work entry may use, beside those common to all (R264). -/
def workMask (d : BitVec 512) : Nat :=
  let trig := if d.toNat.testBit 13 then maskOf [(335, 256)] else 0
  trig ||| match entryFld d 7 0 with
    | 0xA0 => maskOf [(97, 16), (191, 128), (239, 192), (352, 336)]
    | 0xA1 => maskOf [(79, 16), (191, 128), (239, 192), (352, 336)]
    | 0xA2 => maskOf [(47, 16), (96, 80), (191, 128), (352, 336)]
    | 0xA3 => maskOf [(63, 16), (191, 128), (352, 336), (479, 416)]
    | _ => maskOf [(79, 48), (102, 98), (191, 128), (239, 192), (319, 256), (496, 416)]

/-- The bits common to all work entries (R241). -/
def workCommon : Nat := maskOf [(13, 0), (127, 120), (255, 248), (383, 376), (415, 384), (511, 504)]

/-- Why a work entry of a queue is malformed, if it is (R247, R265). -/
def workMalformed (d : BitVec 512) (recv : Bool) : Option Nat :=
  let op := entryFld d 7 0
  if op < 0xA0 ∨ 0xA4 < op then some (if opcodeListed op then 5 else 1)
  else if recv && op != 0xA2 then some 5
  else
    let mask := if recv then
        maskOf [(8, 0), (47, 16), (191, 128), (127, 120), (255, 248), (383, 376), (415, 384), (511, 504)]
      else workCommon ||| workMask d
    if d.toNat &&& (2 ^ 512 - 1 - mask) ≠ 0 then some 2
    else if entryFld d 12 11 = 3 ∨ (op = 0xA4 ∧ d.toNat.testBit 13) then some 3
    else none

/-! ### Records (R245, R246, R275) -/

/-- A notification record (R246). -/
def State.noteRecord (s : State) (kind st c queue idx tag bytes msn extra : Nat) : BitVec 512 :=
  BitVec.ofNat 512 (kind + st % 256 * 2 ^ 8 + c % 2 ^ 24 * 2 ^ 16 + queue % 2 * 2 ^ 40 + idx % 2 ^ 32 * 2 ^ 64 +
    tag % 2 ^ 32 * 2 ^ 96 + bytes % 2 ^ 32 * 2 ^ 128 + msn % 2 ^ 24 * 2 ^ 160 + s.tick * 2 ^ 192 + extra * 2 ^ 240)

/-- The record of a completed send queue entry, when it is due: SIGNAL or an error (R245). -/
def State.sendRecord (s : State) (c : Nat) (x : ConnSt) (m : SMsg) : State :=
  let st := m.status.getD 0
  let bytes := if m.kind = 1 then m.gotBytes else if st = 0 then m.len else 0
  if L.CWE.SIGNAL.on m.ent || st != 0 then
    s.notify x.fn x.sq.nring
      ⟨s.noteRecord 1 st c 0 m.idx (L.CWE.USER_TAG.get m.ent) bytes m.msn 0, some (c, false, m.idx)⟩
  else s.noteDone (some (c, false, m.idx))

/-- The posted entries of a queue that no message has taken. -/
def WorkQ.idle (q : WorkQ) (recv : Bool) : List WorkEnt :=
  q.ents.filter fun e => e.posted && (if recv then !e.begun else decide (wsub 32 e.idx q.next < 2 ^ 31))

/-- The queue with its idle posted entries taken. -/
def WorkQ.taken (q : WorkQ) (recv : Bool) : WorkQ :=
  let go := q.idle recv
  { q with next := if recv then q.next else wadd 32 q.next go.length
           ents := q.ents.map fun e => if go.contains e then { e with begun := true } else e }

/-- The idle posted entries of a queue completed with ABORTED, in index order, of a connection that is not OPEN (R258,
R260). -/
def State.abortPosted (s : State) (c : Nat) (recv : Bool) : State :=
  match s.conn c with
  | none => s
  | some x =>
    let q := x.q recv
    let s := s.setConn c (x.modQ recv fun q => q.taken recv)
    (q.idle recv).foldl (fun s e =>
      s.notify x.fn q.nring
        ⟨s.noteRecord (if recv then 2 else 1) Status.aborted.code c (b2n recv) e.idx (L.CWE.USER_TAG.get (e.data.getD 0)) 0 0 0,
          some (c, recv, e.idx)⟩) s

/-- A read of a work queue entry that ends (R243, R606). -/
def State.workArrive (s : State) (e : WorkRef) (res : ReadResult) : State :=
  match s.conn e.conn with
  | none => s
  | some x =>
    if (x.q e.recv).ents.any fun w => w.inFlight e.idx then
      match res with
      | .data bs =>
        let s := (s.setConn e.conn (x.modQ e.recv fun q => q.mapEnts fun w =>
          if w.inFlight e.idx then { w with data := some (bits512 bs) } else w)).cwqScan e.conn e.recv
        if x.st = 1 then s else s.abortPosted e.conn e.recv
      | _ =>
        (s.setConn e.conn (x.modQ e.recv fun q => q.mapEnts fun w =>
          if w.inFlight e.idx then { w with failed := true } else w)).fetchError x.fn
    else s

/-- The retry of a failed read of a work queue entry (R606). -/
def State.workRetry (s : State) (e : WorkRef) : State :=
  match s.conn e.conn with
  | none => s
  | some x =>
    if ((x.q e.recv).ents.any fun w => w.idx == e.idx && w.failed) && !(s.inReset x.fn) then
      (s.setConn e.conn (x.modQ e.recv fun q => q.mapEnts fun w =>
        if w.idx = e.idx then { w with failed := false } else w)).hostRead x.fn ((x.q e.recv).addr e.idx) 64
    else s

/-- ENTRY_FETCH_COMPLETE (R236, R243, R606). -/
def execEntryFetchComplete (e : FetchRef) (res : ReadResult) : State → Res :=
  whenRunning fun s => match e with
    | .ring r => s.ringArrive r res
    | .work w => s.workArrive w res

/-- FETCH_RETRY (R606). -/
def execFetchRetry (e : FetchRef) : State → Res :=
  whenRunning fun s => match e with
    | .ring r => s.ringRetry r
    | .work w => s.workRetry w

/-- The messages that may be reported now: the completed ones at the head, in message order, and every completed
UNORDERED one (R245). The QD1K's own requests (kind 6) have no entry. -/
def takeDone : List SMsg → Bool → List SMsg × List SMsg
  | [], _ => ([], [])
  | m :: ms, head =>
    if m.done && (head || L.CWE.UNORDERED.on m.ent) then
      let r := takeDone ms head
      (m :: r.1, r.2)
    else
      let r := takeDone ms false
      (r.1, m :: r.2)

/-- The records of completed messages written in order (R245, R275). -/
def State.flushDone (s : State) (c : Nat) : State :=
  match s.conn c with
  | none => s
  | some x =>
    let r := takeDone x.msgs true
    let s := s.setConn c { x with msgs := r.2 }
    r.1.foldl (fun s m => if m.kind = 6 then s else s.sendRecord c x m) s

/-- The records at the receiver whose turn has come: those of messages before the first one not yet accounted
(R275). -/
def State.flushRecv (s : State) (c : Nat) : State :=
  match s.conn c with
  | none => s
  | some x =>
    let go := x.rrecs.filter fun r => decide (2 ^ 23 ≤ wsub 24 r.msn x.rhead)
    let s := s.setConn c { x with rrecs := x.rrecs.filter fun r => decide (wsub 24 r.msn x.rhead < 2 ^ 23) }
    go.foldl (fun s r => s.notify x.fn r.ring r.note) s

/-- RHEAD past the messages accounted. -/
def headAfter : Nat → Nat → List Nat → Nat × List Nat
  | 0, h, l => (h, l)
  | k + 1, h, l => if l.contains h then headAfter k (wadd 24 h 1) (l.filter fun m => m != h) else (h, l)

/-- A message accounted complete at its receiver (R273). -/
def State.recvAccounted (s : State) (c msn : Nat) : State :=
  (s.modConn c fun x =>
    let h := headAfter (x.rdone.length + 1) x.rhead (x.rdone ++ [msn])
    { x with rhead := h.1, rdone := h.2 }).flushRecv c

/-- A record of a message at its receiver: at once where its turn has come or it is unordered, else in its order. -/
def State.recvRecord (s : State) (c msn ring : Nat) (unordered : Bool) (n : NoteWait) : State :=
  match s.conn c with
  | none => s
  | some x =>
    if unordered || decide (2 ^ 23 ≤ wsub 24 msn x.rhead) then s.notify x.fn ring n
    else
      let ms := x.rrecs ++ [(⟨msn, ring, n⟩ : RecWait)]
      s.setConn c { x with rrecs := ms.mergeSort fun a b => decide (wsub 24 a.msn x.rhead ≤ wsub 24 b.msn x.rhead) }

/-! ### Packets (R87, R261, R116) -/

/-- The class of a transport opcode (R262): 0 request, 1 response. -/
def opClass (op : Nat) : Nat := if op = 3 ∨ op = 7 ∨ op = 8 ∨ op = 9 then 1 else 0

/-- The transport opcodes whose first transmissions the policer of a function's connections meters (R296). -/
def meteredOp (op : Nat) : Bool := op == 1 || op == 2 || op == 4 || op == 5 || op == 6 || op == 0x0D

/-- A network header as it is written at injection (R87). -/
def State.netHdr (s : State) (node ep srcEp job mclass tc : Nat) (pinned : Bool) (mgroup : Option Nat) (plen : Nat) :
    BitVec 256 :=
  let v := node % 2 ^ 20 + ep % 64 * 2 ^ 20 + s.own * 2 ^ 32 + srcEp % 64 * 2 ^ 52 + job % 2 ^ 16 * 2 ^ 64 +
    mclass % 4 * 2 ^ 80 + tc % 8 * 2 ^ 82 + b2n pinned * 2 ^ 96 +
    (match mgroup with | some g => 2 ^ 97 + g % 2 ^ 14 * 2 ^ 98 | none => 0) + plen % 2 ^ 13 * 2 ^ 120
  withHcrc (BitVec.ofNat 256 v)

/-- Bytes of the transport header of an opcode (R262, R318, R341). -/
def hdrBytes (op : Nat) : Nat :=
  if (1 ≤ op ∧ op ≤ 6) ∨ op = 0x20 ∨ op = 0x21 ∨ (0x30 ≤ op ∧ op ≤ 0x33) then 32 else 16

/-- A packet handed to the transport unit of an IE port, to be injected (R610). -/
def State.txPush (s : State) (ie : Nat) (t : TxPkt) : State :=
  { s with ni := { s.ni with tx := mset s.ni.tx ie (mget s.ni.tx ie [] ++ [t]) } }

/-- The policer that meters a function's connections (R296). -/
def State.connPolicer (s : State) (f : Nat) : Option Nat :=
  if s.on F.FUNC_POLICY.CONN_POLICER_EN f then some (s.f F.FUNC_POLICY.CONN_POLICER f) else none

/-- The policer that meters a function's datagrams (R296). -/
def State.dgPolicer (s : State) (f : Nat) : Option Nat :=
  if s.on F.FUNC_POLICY.DG_POLICER_EN f then some (s.f F.FUNC_POLICY.DG_POLICER f) else none

/-- A policer entry (R142). -/
def State.policer (s : State) (i : Nat) : BitVec 512 := BitVec.ofNat 512 (s.gsNat (polBase + 64 * i) 64)

/-- Whether a policer entry may meter: valid, and no illegal value (R142, R143). -/
def policerOk (e : BitVec 512) : Bool :=
  L.POL.VALID.on e && decide (L.POL.CIR.get e ≤ L.POL.PIR.get e) && decide (L.POL.CIR.get e ≤ L.POL.CBS.get e) &&
    decide (0 < L.POL.CBS.get e) && decide (L.POL.PIR.get e ≤ L.POL.PBS.get e) && decide (0 < L.POL.PBS.get e)

/-- Whether a policer, if one meters, is usable. -/
def State.policerBad (s : State) : Option Nat → Bool
  | some i => !(policerOk (s.policer i))
  | none => false

/-- A packet of a connection sent with a PSN (R261, R266): `first` says that it is a first transmission, which the
function's policer meters when its opcode is metered (R296). -/
def State.connSend (s : State) (c : Nat) (x : ConnSt) (u : TxUnit) (psn : Nat) (first : Bool) : State :=
  let pay := u.payload.getD []
  let n := hdrBytes u.op
  let net := s.netHdr x.node x.ep (s.fnEp x.fn) (s.jobId x.slot) (opClass u.op) x.tc (x.pinned || u.pinned) none
    (n + pay.length)
  let tp := L.TH.PSN.set (L.TH.RETX.set u.hdr (b2n !first)) psn
  let s := if first then s else s.jobCount x.slot 64 1
  s.txPush (s.fnIe x.fn c)
    ⟨⟨net, tp, pay⟩, if first && meteredOp u.op then s.connPolicer x.fn else none, u.pre, x.fn, false, none,
      some (c, u.uid)⟩

/-- A packet of a connection outside its PSN sequence: an ACK or a NOTICE (R268, R291). -/
def State.connReply (s : State) (c : Nat) (x : ConnSt) (tp : BitVec 256) (pay : List Byte) : State :=
  let net := s.netHdr x.node x.ep (s.fnEp x.fn) (s.jobId x.slot) 1 x.tc x.pinned none (16 + pay.length)
  s.txPush (s.fnIe x.fn c) ⟨⟨net, tp, pay⟩, none, 0, x.fn, false, none, none⟩

/-- The oldest unacknowledged PSN (R272). -/
def ConnSt.oldest (x : ConnSt) : Nat :=
  match x.sent.find? fun p => !p.acked with
  | some p => p.psn
  | none => x.nextPsn

/-- Packets of the transmit queue sent in order, while each has its payload and the window admits it (R266, R272). -/
def State.pump : Nat → Nat → State → State
  | 0, _, s => s
  | k + 1, c, s =>
    match s.conn c with
    | none => s
    | some x =>
      match x.txq with
      | [] => s
      | u :: us =>
        if u.payload.isNone || s.fnQuiet x.fn then s
        else if x.w ≤ wsub 24 x.nextPsn x.oldest then s.setConn c { x with limited := true }
        else
          let s := s.setConn c { x with
            txq := us, nextPsn := wadd 24 x.nextPsn 1
            sent := x.sent ++ [⟨x.nextPsn, u, s.turnovers, 1, false, none, false⟩]
            progress := if x.sent.isEmpty then s.turnovers else x.progress }
          (s.connSend c x u x.nextPsn true).pump k c

/-- Every packet that can be sent now is sent. -/
def State.pumpAll (s : State) (c : Nat) : State :=
  match s.conn c with
  | some x => s.pump (x.txq.length + 1) c
  | none => s

/-- A header with the fields of R261. -/
def tpHdr (op peer conn msn aux : Nat) : BitVec 256 :=
  BitVec.ofNat 256 (op + peer % 2 ^ 24 * 2 ^ 16 + conn % 2 ^ 24 * 2 ^ 40 + msn % 2 ^ 24 * 2 ^ 88 + aux % 2 ^ 16 * 2 ^ 112)

/-- A packet without payload. -/
def bareUnit (op msn : Nat) (hdr : BitVec 256) : TxUnit :=
  ⟨0, op, msn, 0, 0, hdr, 0, 0, some [], true, false, 0, none, 0, none, []⟩

/-- The CANCEL of a message (R291, R308): sent first of what the connection still has to send of it. -/
def State.cancelSend (s : State) (c msn st : Nat) : State :=
  (s.modConn c fun x =>
    let u := { bareUnit 0x0D msn (tpHdr 0x0D x.peer c msn st) with uid := x.uid, own := some msn }
    { x with uid := x.uid + 1, txq := x.txq ++ [u] }).cnt .CANCEL_COUNT |>.pumpAll c

/-- The connection with a unit of its transmit queue changed. -/
def ConnSt.mapUnit (x : ConnSt) (uid : Nat) (g : TxUnit → TxUnit) : ConnSt :=
  { x with txq := x.txq.map fun v => if v.uid = uid then g v else v }

/-- The connection with an open message of its own changed. -/
def ConnSt.mapMsg (x : ConnSt) (msn : Nat) (g : SMsg → SMsg) : ConnSt :=
  { x with msgs := x.msgs.map fun m => if m.msn = msn ∧ m.kind ≠ 9 then g m else m }

/-- The connection with an open message of its peer's changed. -/
def ConnSt.mapR (x : ConnSt) (msn : Nat) (g : RMsg → RMsg) : ConnSt :=
  { x with rmsgs := x.rmsgs.map fun m => if m.msn = msn then g m else m }

/-- A message stopped with a status (R291, R421): its first refusal is kept, its unsent packets are dropped, and its
CANCEL is sent. -/
def State.stopMsg (s : State) (c msn st : Nat) : State :=
  match s.conn c with
  | none => s
  | some x =>
    match x.msgs.find? fun m => m.msn == msn && m.kind != 9 && !m.done with
    | none => s
    | some m =>
      if m.cancel ≠ 0 then s
      else
        let mine (u : TxUnit) : Bool := u.own == some msn
        let left := (x.txq.filter fun u => mine u && opClass u.op == 0).length
        let x := x.mapMsg msn fun y => { y with status := some (y.status.getD st), cancel := 1, total := y.total - left }
        (s.setConn c { x with txq := x.txq.filter fun u => !(mine u) }).cancelSend c msn st

/-- A NOTICE for a packet of the connection, by its PSN, MSN and opcode (R261, R291). -/
def State.noticeFor (s : State) (c : Nat) (x : ConnSt) (psn msn op st : Nat) : State :=
  s.connReply c x (L.TH.PSN.set (tpHdr 0x09 x.peer c msn (st + op * 256)) psn) []

/-- A payload that cannot be read (R421): the connection's own message stops; a response's request is refused, and its
unsent responses are dropped. -/
def State.unitFail (s : State) (c : Nat) (u : TxUnit) (st : Status) : State :=
  match u.own, s.conn c with
  | some m, _ => s.stopMsg c m st.code
  | none, some x =>
    (s.setConn c { x with txq := x.txq.filter fun v => !(v.own.isNone && v.req == u.req) }).noticeFor c x u.req u.msn
      0x02 st.code
  | none, none => s

/-- The connection with a unit changed, whether it waits or has been sent. -/
def ConnSt.mapUid (x : ConnSt) (uid : Nat) (g : TxUnit → TxUnit) : ConnSt :=
  { x.mapUnit uid g with sent := x.sent.map fun p => if p.u.uid = uid then { p with u := g p.u } else p }

/-- The payload of a unit asked for: read through the connection's IE port, where its address translates (R405), or at
once where all of it lies in the Groundsheet. -/
def State.askUnit (s : State) (c : Nat) (x : ConnSt) (u : TxUnit) : State :=
  if u.src = 2 then
    s.modConn c fun y => y.mapUid u.uid fun v => { v with payload := some (s.gsGets u.addr u.len), asked := true }
  else
    match s.payloadRead x.fn (s.fnIe x.fn c) u.addr u.len with
    | (s, .ok fill) =>
      let pay := if fillBytes fill = u.len then some (filled u.len [] fill) else none
      s.modConn c fun y => y.mapUid u.uid fun v => { v with asked := true, fill := fill, payload := pay }
    | (s, .error (.fail st)) => s.unitFail c u st
    | (s, .error _) => s

/-- The payloads not yet asked for are asked for (R421). -/
def State.askPayloads (s : State) (c : Nat) : State :=
  match s.conn c with
  | none => s
  | some x => (x.txq.filter fun u => u.payload.isNone && !u.asked).foldl (fun s u => s.askUnit c x u) s

/-- The packets of a message: (offset, length) of each, all full but the last (R266). -/
def segments (len mtu : Nat) : List (Nat × Nat) :=
  (List.range (max 1 (ceilDiv len mtu))).map fun i => (i * mtu, min mtu (len - i * mtu))

/-- Units appended to a connection's transmit queue, in order, with their payloads asked for. -/
def State.queueUnits (s : State) (c : Nat) (us : List TxUnit) : State :=
  ((s.modConn c fun x =>
    { x with txq := x.txq ++ us.zipIdx.map (fun (p : TxUnit × Nat) => { p.1 with uid := x.uid + p.2 })
             uid := x.uid + us.length }).askPayloads c).pumpAll c

/-! ### The context cache (R255) -/

/-- Whether a connection's context is cached. -/
def State.ctxCached (s : State) (c : Nat) : Bool := s.xp.ctxCache.contains c

/-- A context used or brought in: it becomes the most recent of up to 65,536. -/
def State.ctxUse (s : State) (c : Nat) : State :=
  { s with xp := { s.xp with ctxCache := (c :: s.xp.ctxCache.filter fun k => k != c).take s.ctxSlots } }

/-! ### CONN_CREATE (R254) -/

/-- Whether a connection number lies in a function's range. -/
def State.connInRange (s : State) (f c : Nat) : Bool :=
  decide (s.f F.FUNC_CONN_RANGE.CONN_BASE f ≤ c) &&
    decide (c < s.f F.FUNC_CONN_RANGE.CONN_BASE f + s.f F.FUNC_CONN_RANGE.CONN_COUNT f)

/-- The first statuses of CONN_CREATE, before the translation of the peer (R254). -/
def State.connCheck (s : State) (f slot : Nat) (d : BitVec 512) : Status :=
  let c := entryFld d 87 64
  let sq := entryFld d 324 320
  let rq := entryFld d 329 325
  firstStatus [
    (!(s.connInRange f c) || !(s.jobBound f slot), .notPermitted),
    ((s.conn c).isSome || s.f F.CTX_ADDR.BASE f == 0 || !(s.ringIs f (entryFld d 341 330) 4) ||
      (rq != 0 && !(s.ringIs f (entryFld d 353 342) 4)), .badState),
    (decide (5 < entryFld d 138 136) || decide (s.f F.FUNC_CFG.DG_MTU f < entryFld d 141 139) ||
      decide (sq < 6) || decide (16 < sq) || (rq != 0 && (decide (rq < 6) || decide (16 < rq))) ||
      entryFld d 203 192 != 0 || (rq != 0 && entryFld d 267 256 != 0), .badValue)]

/-- The connection that CONN_CREATE opens (R253, R254). -/
def State.newConn (s : State) (f slot : Nat) (d : BitVec 512) (r : RankDst) : ConnSt :=
  { fn := f, slot := slot, rank := entryFld d 107 88, node := r.node, ep := r.ep, peer := entryFld d 135 112
    tc := entryFld d 138 136, mtu := entryFld d 141 139, pinned := r.pinned
    sq := { base := entryFld d 255 192, log2 := entryFld d 324 320, nring := entryFld d 341 330 }
    rq := { base := entryFld d 319 256, log2 := entryFld d 329 325, nring := entryFld d 353 342 }
    w := s.fa F.TP_CC_CFG.W_INIT, rto := s.f F.TP_RTO_CFG.RTO_INIT, progress := s.turnovers }

/-- CONN_CREATE (R254). -/
def execConnCreate (e : EntryRef) : State → Res :=
  onEntry e 0x01 fun d s =>
    let slot := entryFld d 27 16
    let c := entryFld d 87 64
    match s.connCheck e.fn slot d with
    | .ok =>
      match s.rankTranslate (s.fnIe e.fn c) slot (entryFld d 107 88) with
      | (s, some r) => ((s.setConn c (s.newConn e.fn slot d r)).ctxUse c).completeEntry e .ok
      | (s, none) => s.completeEntry e .rankInvalid
    | st => s.completeEntry e st

end Sys2Proof.Machine
end

