-- ==== Sys2Proof/Machine/Match.lean ====
section
/-!
DEFINITION. Message matching (R299 to R328): match domains, posted and unexpected lists, held headers and their claims,
commits, rendezvous, match notices, overflow, and what ends when a connection leaves OPEN.
-/
namespace Sys2Proof.Machine

open Sys2Proof

/-! ### Domains and the entry pool (R299 to R301) -/

/-- The match pipeline of a domain (R300), numbered as in R328. -/
def State.pipeOf (s : State) (fn slot ctx : Nat) : Nat := 4 * s.homeHub fn + (ctx ^^^ slot) % 4

/-- Whether a domain has a name. -/
def Domain.is (d : Domain) (fn slot ctx : Nat) : Bool := d.fn == fn && d.slot == slot && d.ctx == ctx

/-- The domain of a name, empty where it does not exist. -/
def State.domain (s : State) (fn slot ctx : Nat) : Domain :=
  (s.mat.domains.find? fun d => d.is fn slot ctx).getD ⟨fn, slot, ctx, [], [], 0, false⟩

/-- Whether a held header names a domain. -/
def State.domainHeld (s : State) (d : Domain) : Bool := s.mat.held.any fun h => d.is h.fn h.slot h.ctx

/-- The state with a domain replaced; it ceases to exist when its lists are empty and no held header names it (R301), and
leaves OVERFLOW when its overflow lists are empty (R325). -/
def State.setDomain (s : State) (d : Domain) : State :=
  let d := { d with overflow := d.overflow && ((d.posts.any fun p => p.ovf) || d.unexp.any fun u => u.ovf) }
  let others := s.mat.domains.filter fun x => !(x.is d.fn d.slot d.ctx)
  if d.posts.isEmpty && d.unexp.isEmpty && !(s.domainHeld d) then { s with mat := { s.mat with domains := others } }
  else { s with mat := { s.mat with domains := others ++ [d] } }

/-- Entries of the pool in use: one a domain, two a posted receive, one an unexpected message (R301). -/
def State.poolUsed (s : State) : Nat :=
  s.mat.domains.foldl (fun a d =>
    a + 1 + 2 * (d.posts.filter fun p => !p.ovf).length + (d.unexp.filter fun u => !u.ovf).length) 0

/-- Free entries of the pool (MATCH_POOL_FREE). -/
def State.poolFree (s : State) : Nat := 524288 - s.poolUsed

/-- Entries of a function's overflow area in use. -/
def State.ovfUsed (s : State) (fn : Nat) : Nat :=
  (s.mat.domains.filter fun d => d.fn == fn).foldl (fun a d =>
    a + (d.posts.filter fun p => p.ovf).length + (d.unexp.filter fun u => u.ovf).length) 0

/-- Whether a function's overflow area can take an entry (R324, R326). -/
def State.ovfRoom (s : State) (fn : Nat) : Bool :=
  s.on F.MATCH_CFG.OVF_EN fn && decide (s.ovfUsed fn < Config.overflowEntries (s.f F.MATCH_OVF_SIZE.PAGES fn))

/-- Where an entry of a domain may be stored: in the pool (some false), in the overflow area (some true), or nowhere.
A domain in OVERFLOW keeps new entries in the overflow area (R325). -/
def State.storeAt (s : State) (d : Domain) (need : Nat) : Option Bool :=
  let fresh := if s.mat.domains.any fun x => x.is d.fn d.slot d.ctx then 0 else 1
  if !d.overflow && decide (need + fresh ≤ s.poolFree) then some false
  else if s.ovfRoom d.fn then some true else none

/-- A domain enters OVERFLOW (R324). -/
def State.enterOverflow (s : State) (d : Domain) (ovf : Bool) : State × Domain :=
  if ovf && !d.overflow then
    ((s.cnt .OVERFLOW_ENTER_COUNT d.fn).raise (1596 + s.pipeOf d.fn d.slot d.ctx), { d with overflow := true })
  else (s, d)

/-- An operation of a domain in OVERFLOW passes to the overflow matching event (R325). -/
def State.overflowOp (s : State) (d : Domain) : State :=
  if d.overflow then
    (s.cnt .OVERFLOW_OP_COUNT d.fn).queueEvent
      (s.hevent 6 (s.f F.SYS_BIND.OVERFLOW) (d.fn + d.slot * 2 ^ 12 + d.ctx * 2 ^ 24) [] d.ctx (s.homeHub d.fn))
  else s

/-! ### Searching (R304, R305) -/

/-- Whether a posted receive matches a header (R304). -/
def Post.fits (p : Post) (src : Nat) (tag : BitVec 64) : Bool :=
  (p.any || p.src == src) && ((tag ^^^ p.tag) &&& ~~~p.ign) == 0

/-- The earliest posted receive that fits a header, those in `not` left out (R305). -/
def Domain.search (d : Domain) (src : Nat) (tag : BitVec 64) (not_ : Option Nat) : Option Post :=
  d.posts.find? fun p => p.fits src tag && some p.seq != not_

/-- The claim of a held header (R310, R312): none without SPEC_EN, or in OVERFLOW. -/
def State.claimOf (s : State) (h : HeldHdr) (not_ : Option Nat) : Option Nat :=
  let d := s.domain h.fn h.slot h.ctx
  if s.on F.MATCH_CTRL.SPEC_EN && !d.overflow then (d.search h.src h.tag not_).map fun p => p.seq else none

/-- The claims on an entry that a commit takes are squashed and searched again (R312). -/
def State.squash (s : State) (fn slot ctx seq conn msn : Nat) : State :=
  let hit (x : HeldHdr) : Bool :=
    x.fn == fn && x.slot == slot && x.ctx == ctx && x.claim == some seq && !(x.conn == conn && x.msn == msn)
  let n := (s.mat.held.filter hit).length
  let s' := { s with mat := { s.mat with
    held := s.mat.held.map fun x => if hit x then { x with claim := s.claimOf x (some seq) } else x } }
  if n = 0 then s' else (s'.cnt .MP_SQUASH_COUNT (s.pipeOf fn slot ctx) 0 n).perf (s.pipeOf fn slot ctx / 4) 0x51 (s.pipeOf fn slot ctx) 0 n

/-- Headers held at a pipeline, and the segments its held packets take (MP_HELD). -/
def State.heldHeaders (s : State) (pipe : Nat) : Nat := (s.mat.held.filter fun h => h.pipe == pipe).length

/-- The segments of a packet (R114). -/
def segsOf (p : Packet) : Nat := ceilDiv (32 + L.NET.PLEN.get p.net) 64

/-- Segments held at a pipeline: of the held packets of the messages whose headers it holds (R311). -/
def State.heldSegs (s : State) (pipe : Nat) : Nat :=
  s.mat.held.foldl (fun a h =>
    if h.pipe = pipe then
      match s.conn h.conn with
      | some x => a + ((x.heldPkts.filter fun p => L.TH.MSN.get p.tp == h.msn).map segsOf).sum
      | none => a
    else a) 0

/-! ### Notices (R321) -/

/-- What a match notice says of its message. -/
structure Noticed where
  conn : Nat
  msn : Nat
  st : Nat
  bytes : Nat
  src : Nat
  tag : BitVec 64
  total : Nat
  unexpected : Bool
  rndv : Bool
  uxRing : Nat
  ux : List Nat
  deriving DecidableEq, Repr

/-- The match notice of a posted receive (R246, R321). -/
def State.noticeRecord (s : State) (p : Post) (n : Noticed) : BitVec 512 :=
  let ux := n.unexpected && !n.rndv
  let extra := n.src + p.ctx * 2 ^ 24 + n.tag.toNat * 2 ^ 48 + n.total % 2 ^ 32 * 2 ^ 112 + b2n n.unexpected * 2 ^ 144 +
    b2n n.rndv * 2 ^ 145 + b2n p.ovf * 2 ^ 146 +
    (if ux then n.uxRing * 2 ^ 148 + n.ux.headD 0 * 2 ^ 160 + n.ux.length * 2 ^ 192 else 0) + p.ring * 2 ^ 208
  s.noteRecord 4 n.st n.conn 1 p.idx p.userTag n.bytes n.msn extra

/-- The notice of a matched message, when it is complete (R321): in its connection's order to NRING, or to the handler.
MATCH_TRUNC_COUNT counts eager messages bound to a posted receive (R314). A handler whose binding has become invalid
leaves a notice carrying ABORTED (R374). -/
def State.matchNotice (s : State) (p : Post) (n : Noticed) : State :=
  let s := if n.st = Status.truncated.code ∧ !n.unexpected ∧ !n.rndv then s.cnt .MATCH_TRUNC_COUNT p.fn else s
  let ring (st : Nat) := s.recvRecord n.conn n.msn p.nring false ⟨s.noticeRecord p { n with st := st }, none⟩
  match p.handler with
  | none => ring n.st
  | some slot =>
    if L.BND.VALID.on (s.binding slot) then
      s.queueEvent (s.hevent 1 slot 0 (leBytes 64 (s.noticeRecord p n).toNat) n.conn (s.homeHub p.fn))
    else ring Status.aborted.code

/-- A packet of a message committed to a receive with HANDLER, delivered as a packet-arrival event (R321, R354, R358);
with the binding invalid, its message ends with ABORTED (R374). -/
def State.packetEvent (s : State) (p : Post) (c msn off : Nat) (pkt : Packet) (slot : Nat) : State :=
  let hdr := hdrBytes (L.TH.OPCODE.get pkt.tp)
  let args := c + msn * 2 ^ 24 + off % 2 ^ 32 * 2 ^ 48 + pkt.payload.length * 2 ^ 80 + p.seq % 2 ^ 32 * 2 ^ 96
  let s := if L.BND.VALID.on (s.binding slot) then s else
    s.modConn c fun x => { x with rmsgs := x.rmsgs.map fun m =>
      if m.msn = msn ∧ m.status = 0 then { m with status := Status.aborted.code } else m }
  s.queueEvent (s.hevent 0 slot args (leBytes 32 pkt.net.toNat ++ leBytes hdr pkt.tp.toNat ++ pkt.payload) c
    (s.homeHub p.fn))

/-! ### Rendezvous (R318, R319) -/

/-- The messages of the connection's own that are open, newest minus oldest (R266). -/
def ConnSt.span (x : ConnSt) : Nat :=
  match x.msgs.find? fun m => !m.done && m.kind != 9 with
  | some m => wsub 24 x.nextMsn m.msn
  | none => 0

/-- An RNDV_GET sent: it takes the connection's next MSN (R319). -/
def State.rndvSend (s : State) (c : Nat) (m : SMsg) : State :=
  match s.conn c with
  | none => s
  | some x =>
    let hdr := BitVec.ofNat 256 ((tpHdr 0x21 x.peer c x.nextMsn 0).toNat + m.len % 2 ^ 32 * 2 ^ 128 + m.rtsMsn * 2 ^ 160)
    let u := { bareUnit 0x21 x.nextMsn hdr with own := some x.nextMsn }
    (s.setConn c { x with msgs := x.msgs ++ [{ m with msn := x.nextMsn }], nextMsn := wadd 24 x.nextMsn 1 }).queueUnits
      c [u]

/-- The RNDV_GETs that waited for a message slot, sent while fewer than 16 messages are open (R266, R319). -/
def State.rndvPump : Nat → Nat → State → State
  | 0, _, s => s
  | k + 1, c, s =>
    match s.conn c with
    | some x =>
      match x.rndvWait with
      | m :: ms => if x.span < 16 then ((s.setConn c { x with rndvWait := ms }).rndvSend c m).rndvPump k c else s
      | [] => s
    | none => s

/-- A rendezvous bound to a receive: the RNDV_GET for the bytes that fit (R319). -/
def State.rndvBind (s : State) (c rtsMsn bytes src : Nat) (tag : BitVec 64) (p : Post) (unexpected : Bool) : State :=
  let m : SMsg := ⟨0, 6, 0, 0, min bytes p.len, 1, 0, none, 0, [], 0, none, 0, some p, src, tag, rtsMsn, bytes,
    unexpected, false⟩
  (s.modConn c fun x => { x with rndvWait := x.rndvWait ++ [m] }).rndvPump 1 c

/-! ### Commits (R307, R312 to R316) -/

/-- The buffers of an unexpected eager message: the next RECV_BUF entries of UX_RING (R315), or none. -/
def State.uxTake (s : State) (fn bytes : Nat) : Option (Nat × List Nat) :=
  let r := s.f F.MATCH_CFG.UX_RING fn
  let n := max 1 (ceilDiv bytes 4096)
  let bs := (s.ring fn r).bufs
  if s.on F.MATCH_CFG.UX_EN fn && s.ringIs fn r 2 && decide (n ≤ bs.length) then some (r, bs.take n) else none

/-- A message at its receiver with what the commit of a header decides. -/
def RMsg.commitTo (m : RMsg) (dest : RDest) : RMsg := { m with dest := dest, committed := true }

/-- The buffers an unexpected message takes: none for a rendezvous (R315, R319). -/
def State.uxNeed (s : State) (h : HeldHdr) : Option (Nat × List Nat) :=
  if h.rts then some (0, []) else s.uxTake h.fn h.bytes

/-- A header that no posted receive fits (R315, R316, R319, R326): it joins the unexpected list, or is refused. -/
def State.unexpected (s : State) (h : HeldHdr) : State × Option Status :=
  let d := s.domain h.fn h.slot h.ctx
  if !h.rts && decide (65536 < h.bytes) then (s, some .badValue)
  else match s.uxNeed h, s.storeAt d 1 with
    | some (r, bs), some ovf =>
      let e := s.enterOverflow d ovf
      let s := (e.1.overflowOp e.2).jobCount h.slot 104 1
      let s := s.setDomain { e.2 with unexp := e.2.unexp ++
        [⟨h.conn, h.msn, h.src, h.tag, h.bytes, r, bs, false, 0, h.rts, ovf⟩] }
      if h.rts then ((s.cnt .RNDV_COUNT h.fn).modConn h.conn fun x => x.mapR h.msn fun m => m.commitTo .plain, none)
      else
        let s := (s.modRing h.fn r fun x => { x with bufs := x.bufs.drop bs.length }).cnt .UNEXPECTED_COUNT h.fn
        (s.modConn h.conn fun x => x.mapR h.msn fun m => m.commitTo (.unexpected r bs none), none)
    | _, _ => (s.cnt .UX_REFUSE_COUNT h.fn, some .noRecvBuffer)

/-- A header bound to a posted receive (R314, R319). -/
def State.bindHdr (s : State) (h : HeldHdr) (p : Post) : State :=
  if h.rts then
    (s.modConn h.conn fun x => x.mapR h.msn fun m => m.commitTo .plain).rndvBind h.conn h.msn h.bytes h.src h.tag p false
  else s.modConn h.conn fun x => x.mapR h.msn fun m => m.commitTo (.post p)

/-- A commit counted at its pipeline. -/
def State.commitCount (s : State) (h : HeldHdr) : State :=
  let p := s.pipeOf h.fn h.slot h.ctx
  (s.cnt .MP_COMMIT_COUNT p).perf (p / 4) 0x50 p 0 1

/-- A header committed (R312): searched in the lists as they stand, bound or unexpected, and no longer held. On a
refusal the commit is undone. -/
def State.commitHdr (s : State) (h : HeldHdr) : State × Option Status :=
  let d := s.domain h.fn h.slot h.ctx
  let s0 := { s with mat := { s.mat with held := s.mat.held.filter fun x => !(x.conn == h.conn && x.msn == h.msn) } }
  match d.search h.src h.tag none with
  | some p =>
    let s := s0.overflowOp d
    let s := s.setDomain { d with posts := d.posts.filter fun q => q.seq != p.seq }
    let s := s.squash h.fn h.slot h.ctx p.seq h.conn h.msn
    ((s.commitCount h).bindHdr h { p with ovf := d.overflow }, none)
  | none =>
    match s0.unexpected h with
    | (s, none) => (s.commitCount h, none)
    | (s, some st) => (s.setDomain (s.domain h.fn h.slot h.ctx), some st)

/-! ### RECV_MATCH (R302 to R306, R317) -/

/-- The posted receive that an entry describes. -/
def postOf (e : EntryRef) (d : BitVec 512) (seq : Nat) : Post :=
  { seq := seq, fn := e.fn, slot := entryFld d 27 16, ctx := L.RM.CONTEXT.get d, ring := e.ring, idx := e.idx
    userTag := entryFld d 63 32, any := L.RM.ANY_SOURCE.on d, src := L.RM.SOURCE.get d
    tag := BitVec.ofNat 64 (L.RM.TAG.get d), ign := BitVec.ofNat 64 (L.RM.IGNORE.get d), addr := L.RM.ADDR.get d
    len := L.RM.LENGTH.get d, handler := if L.RM.HANDLER.on d then some (L.RM.HANDLER_SLOT.get d) else none
    nring := L.RM.NRING.get d, ovf := false }

/-- The status of a matched message of so many bytes in a buffer (R314). -/
def truncStatus (st bytes len : Nat) : Nat := if st ≠ 0 then st else if len < bytes then Status.truncated.code else 0

/-- The notice of a complete unexpected eager message bound to a receive: the buffers and the bytes to copy (R317). -/
def State.unexpNotice (s : State) (u : Unexp) (p : Post) : State :=
  s.matchNotice p ⟨u.conn, u.msn, truncStatus u.status u.bytes p.len, min u.bytes p.len, u.src, u.tag, u.bytes, true,
    false, u.uxRing, u.ux⟩

/-- A receive bound to an unexpected message (R306, R315, R317, R319, R322). -/
def State.bindUnexp (s : State) (u : Unexp) (p : Post) : State :=
  if u.rndv then
    if u.status ≠ 0 then
      s.matchNotice p ⟨u.conn, u.msn, u.status, 0, u.src, u.tag, u.bytes, true, true, 0, []⟩
    else s.rndvBind u.conn u.msn u.bytes u.src u.tag p true
  else if u.complete then s.unexpNotice u p
  else s.modConn u.conn fun x => x.mapR u.msn fun m => { m with dest := .unexpected u.uxRing u.ux (some p) }

/-- A RECV_MATCH applied by its pipeline (R306). -/
def State.recvMatch (s : State) (e : EntryRef) (d : BitVec 512) : State :=
  let dom := s.domain e.fn (entryFld d 27 16) (L.RM.CONTEXT.get d)
  let q := postOf e d dom.nextSeq
  let p := { q with ovf := dom.overflow }
  let next := wadd 32 dom.nextSeq 1
  match dom.unexp.find? fun u => p.fits u.src u.tag with
  | some u =>
    let rest := dom.unexp.filter fun v => !(v.conn == u.conn && v.msn == u.msn)
    let s := (s.overflowOp dom).setDomain { dom with nextSeq := next, unexp := rest }
    (s.bindUnexp u p).completeEntry e .ok 0 (p.seq + 2 ^ 32)
  | none =>
    match s.storeAt dom 2 with
    | none => s.completeEntry e .noResource
    | some ovf =>
      let r := s.enterOverflow dom ovf
      let posts := dom.posts ++ [{ p with ovf := ovf }]
      ((r.1.overflowOp r.2).setDomain { r.2 with nextSeq := next, posts := posts }).completeEntry e .ok 0 p.seq

/-- RECV_MATCH (R303, R306). -/
def execRecvMatch (e : EntryRef) : State → Res :=
  onEntry e 0x61 fun d s =>
    let st := firstStatus [
      (!(s.jobBound e.fn (entryFld d 27 16)), .notPermitted),
      (!(s.ringIs e.fn (L.RM.NRING.get d) 4), .badState)]
    if st = .ok then s.recvMatch e d else s.completeEntry e st

/-! ### Unexpected buffers and endings (R315, R322, R323) -/

/-- The bytes that fall in the k-th buffer of a message of so many bytes. -/
def bufBytes (bytes k : Nat) : Nat := min 4096 (bytes - 4096 * k)

/-- The buffers of an unexpected eager message completed in place (R315, R323). -/
def State.uxComplete (s : State) (fn ring : Nat) (bufs : List Nat) (st : Status) (bytes result : Nat) : State :=
  bufs.zipIdx.foldl (fun s (p : Nat × Nat) =>
    if h : fn < 4096 ∧ ring < 4096 then
      s.completeEntry ⟨⟨fn, h.1⟩, ⟨ring, h.2⟩, p.1⟩ st (bufBytes bytes p.2) result
    else s) s

/-- Every unexpected entry changed. -/
def State.mapUnexp (s : State) (g : Unexp → Unexp) : State :=
  { s with mat := { s.mat with domains := s.mat.domains.map fun d => { d with unexp := d.unexp.map g } } }

/-- What ends when a connection leaves OPEN (R323): held headers and packets, bound receives, and the incomplete and
rendezvous entries of the unexpected lists. -/
def State.matchLeave (s : State) (c : Nat) : State :=
  match s.conn c with
  | none => s
  | some x =>
    let mine (u : Unexp) : Bool := u.conn == c && (u.rndv || !u.complete)
    let gone := s.mat.domains.flatMap fun d => d.unexp.filter mine
    let ab := Status.aborted.code
    let keep (d : Domain) : Domain := { d with unexp := d.unexp.filter fun u => !(mine u) }
    let mat : MatchSt := ⟨s.mat.domains.map keep, s.mat.held.filter fun h => h.conn != c⟩
    let s := { s with mat := mat }
    let s := s.setConn c { x with heldPkts := [], rndvWait := [] }
    let s := x.rmsgs.foldl (fun s m => match m.dest with
      | .post p =>
        if m.complete then s
        else s.matchNotice p ⟨c, m.msn, ab, m.placed, m.src, m.tag, m.total, false, false, 0, []⟩
      | .unexpected r bs (some p) =>
        if m.complete then s
        else s.matchNotice p ⟨c, m.msn, ab, 0, m.src, m.tag, m.total, true, false, r, bs⟩
      | _ => s) s
    let s := (x.msgs ++ x.rndvWait).foldl (fun s m => match m.recv with
      | some p =>
        if m.done then s
        else s.matchNotice p ⟨c, m.rtsMsn, ab, m.gotBytes, m.src, m.tag, m.rnr, m.unexpected, true, 0, []⟩
      | none => s) s
    let s := gone.foldl (fun s u => if u.rndv then s else s.uxComplete x.fn u.uxRing u.ux .aborted 0 0) s
    s.mat.domains.foldl (fun s d => s.setDomain d) s

end Sys2Proof.Machine
end

