-- ==== Sys2Proof/Machine/Send.lean ====
section
/-!
DEFINITION. The sender's side of connections (R244, R257 to R266, R275 to R290, R313): work entries as they begin,
triggered entries, the completion of messages, connection errors, the commands on connections, keys and trigger
counters, and datagrams (R231, R614).
-/
namespace Sys2Proof.Machine

open Sys2Proof

/-! ### Ends of entries and of connections -/

/-- A send queue entry that ends without an MSN; it is reported in message order (R245). -/
def State.endEntry (s : State) (c : Nat) (e : WorkEnt) (st : Status) : State :=
  (s.modConn c fun x =>
    let m : SMsg := ⟨x.nextMsn, 9, e.idx, e.data.getD 0, 0, 0, 0, some st.code, 0, [], 0, none, 0, none, 0, 0, 0, 0, false,
      true⟩
    { x with msgs := x.msgs ++ [m], sq := { x.sq with next := wadd 32 e.idx 1 } }).flushDone c

/-- The status of a message that has not completed when its connection leaves OPEN. -/
def leaveMsg (cause : Option Nat) (st : Status) (m : SMsg) : SMsg :=
  if m.done then m
  else { m with done := true, status := some (if some m.msn = cause then st.code else Status.aborted.code) }

/-- The record of a receive queue entry (R245). -/
def State.recvEntry (s : State) (c : Nat) (x : ConnSt) (m : RMsg) (idx tag st bytes : Nat) : State :=
  let d := (x.rq.ents.find? fun e => e.idx == idx).bind fun e => e.data
  if L.CWE.SIGNAL.on (d.getD 0) || st != 0 then
    s.recvRecord c m.msn x.rq.nring m.unordered ⟨s.noteRecord 2 st c 1 idx tag bytes m.msn 0, some (c, true, idx)⟩
  else s.noteDone (some (c, true, idx))

/-- The place of a message's receive queue entry in index order: its distance from CMP (R258). -/
def recvPos (x : ConnSt) (m : RMsg) : Nat :=
  match m.dest with
  | .work idx _ _ _ => wsub 32 idx x.rq.cmp
  | _ => 0

/-- A connection leaves OPEN (R258, R260, R323): its messages end, every uncompleted entry completes, and what it still
had to send, place or answer is dropped. `cause` names the message that ends with `st` in place of ABORTED. -/
def State.leaveOpen (s : State) (c next : Nat) (cause : Option Nat) (st : Status) : State :=
  let s := s.matchLeave c
  match s.conn c with
  | none => s
  | some x =>
    let open_ := x.rmsgs
    let s := s.setConn c { x with
      st := next, msgs := x.msgs.map (leaveMsg cause st), txq := [], sent := [], parked := [], ctxWait := [], atomics := []
      rmsgs := [], ackDue := false, ce := 0 }
    let s := s.flushDone c
    let byIndex := open_.mergeSort fun a b => decide (recvPos x a ≤ recvPos x b)
    let s := byIndex.foldl (fun s m => match m.dest with
      | .work idx _ _ tag => s.recvEntry c x { m with unordered := true } idx tag Status.aborted.code m.placed
      | _ => s) s
    (s.abortPosted c false).abortPosted c true

/-- A connection enters ERROR (R260, R295): the KIND 0x03 record, the count, and the end of everything open. -/
def State.connError (s : State) (c : Nat) (st : Status) (cause : Option Nat) (psn fail : Nat) : State :=
  match s.conn c with
  | none => s
  | some x =>
    if x.st ≠ 1 then s
    else
      let m := x.msgs.find? fun m => some m.msn == cause && m.kind != 9
      let idx := (m.map fun m => m.idx).getD 0
      let tag := (m.map fun m => L.CWE.USER_TAG.get m.ent).getD 0
      let s := s.notify x.fn x.sq.nring
        ⟨s.noteRecord 3 st.code c 0 idx tag 0 (cause.getD 0) (psn % 2 ^ 24 + fail * 2 ^ 24), none⟩
      (s.cnt .CONN_ERROR_COUNT x.fn).leaveOpen c 2 cause st

/-! ### Entries begin (R244, R264, R266, R277 to R281, R313) -/

/-- The header of a request: the first 16 bytes of R261 with UNORDERED and TRIG_VALID, and bits 255:128. -/
def reqHdr (x : ConnSt) (c op msn aux : Nat) (unordered trig : Bool) (hi : Nat) : BitVec 256 :=
  BitVec.ofNat 256 ((tpHdr op x.peer c msn aux).toNat + b2n unordered * 2 ^ 8 + b2n trig * 2 ^ 9 + hi * 2 ^ 128)

/-- The bytes of a packet payload on a connection: 256 × 2^MTU (R253). -/
def ConnSt.mtuBytes (x : ConnSt) : Nat := 256 * 2 ^ x.mtu

/-- The opcode of a packet of a send entry: eager or rendezvous for SEND_MATCHED (R313). -/
def State.sendOp (s : State) (f : Nat) (d : BitVec 512) : Nat :=
  match entryFld d 7 0 with
  | 0xA0 => 1
  | 0xA1 => 2
  | 0xA2 => 4
  | 0xA3 => if s.f F.MATCH_CFG.EAGER_LIMIT f < entryFld d 47 16 then 0x20 else 5
  | _ => 6

/-- The kind of message of an opcode (see `SMsg`). -/
def kindOf (op : Nat) : Nat :=
  match op with
  | 1 => 0
  | 2 => 1
  | 4 => 2
  | 5 => 3
  | 6 => 4
  | _ => 5

/-- Bits 255:128 of the header of a packet of a send entry at an offset (R263, R318). -/
def sendHi (op rq : Nat) (d : BitVec 512) (off : Nat) : Nat :=
  let len := entryFld d 47 16
  match op with
  | 1 => len + entryFld d 79 48 * 2 ^ 32 + (entryFld d 239 192 + off) % 2 ^ 48 * 2 ^ 64 + entryFld d 97 97 * 2 ^ 112
  | 2 => len + entryFld d 79 48 * 2 ^ 32 + entryFld d 239 192 * 2 ^ 64
  | 4 => len + rq % 2 ^ 32 * 2 ^ 32 + off % 2 ^ 32 * 2 ^ 64
  | 5 => len + off % 2 ^ 32 * 2 ^ 32 + entryFld d 479 416 * 2 ^ 64
  | 6 => (if entryFld d 102 102 = 1 then 8 else 4) + entryFld d 79 48 * 2 ^ 32 + entryFld d 239 192 * 2 ^ 64 +
      entryFld d 101 98 * 2 ^ 112
  | _ => len + entryFld d 479 416 * 2 ^ 64

/-- Whether a PUT or SEND entry raises a counter at the target, and AUX of its packets (R261). -/
def sendAux (op : Nat) (d : BitVec 512) : Bool × Nat :=
  if op = 1 ∨ op = 4 then (if entryFld d 96 96 = 1 then (true, entryFld d 95 80) else (false, 0))
  else if op = 5 ∨ op = 0x20 then (false, entryFld d 63 48) else (false, 0)

/-- The payload of an ATOMIC_REQ: OPERAND, then COMPARE (R262). -/
def atomicPay (d : BitVec 512) : List Byte := leBytes 8 (entryFld d 319 256) ++ leBytes 8 (entryFld d 479 416)

/-- The packets of a send entry (R266): those with data are read at LOCAL_ADDR. -/
def sendUnits (x : ConnSt) (c op : Nat) (d : BitVec 512) : List TxUnit :=
  let parts := if op = 1 ∨ op = 4 ∨ op = 5 then segments (entryFld d 47 16) x.mtuBytes else [(0, 0)]
  let aux := sendAux op d
  parts.map fun p =>
    let off := p.1
    let n := p.2
    let hdr := reqHdr x c op x.nextMsn aux.2 (L.CWE.UNORDERED.on d) aux.1 (sendHi op x.nextRq d off)
    let pay := if op = 6 then some (atomicPay d) else if n = 0 then some [] else none
    ⟨0, op, x.nextMsn, off, n, hdr, 1, entryFld d 191 128 + off, pay, pay.isSome, L.CWE.PINNED.on d,
      L.CWE.PRECOLOUR.get d, none, 0, some x.nextMsn, []⟩

/-- A send entry takes its MSN and its packets join the connection's transmit queue (R266). -/
def State.sendEntry (s : State) (c : Nat) (x : ConnSt) (e : WorkEnt) (d : BitVec 512) : State :=
  let op := s.sendOp x.fn d
  let us := sendUnits x c op d
  let len := if op = 6 then (if entryFld d 102 102 = 1 then 8 else 4) else entryFld d 47 16
  let m : SMsg := ⟨x.nextMsn, kindOf op, e.idx, d, len, us.length, 0, none, 0, [], 0, none, 0, none, 0,
    BitVec.ofNat 64 (entryFld d 479 416), 0, 0, false, false⟩
  (s.setConn c { x with
    msgs := x.msgs ++ [m], nextMsn := wadd 24 x.nextMsn 1, sq := { x.sq with next := wadd 32 e.idx 1 }
    nextRq := if op = 4 then wadd 32 x.nextRq 1 else x.nextRq }).queueUnits c us

/-- COMPLETE_CTR of an entry, when enabled (R264, R290). -/
def completeCtr (d : BitVec 512) : Option Nat :=
  if entryFld d 7 0 = 0xA4 then (if entryFld d 496 496 = 1 then some (entryFld d 495 480) else none)
  else if entryFld d 352 352 = 1 then some (entryFld d 351 336) else none

/-- The counter a triggered entry watches fails the checks of R288. -/
def State.trigBad (s : State) (x : ConnSt) (d : BitVec 512) : Bool :=
  L.CWE.TRIGGERED.on d && !(s.trgOk x.fn x.slot (entryFld d 335 320))

/-- A triggered entry whose threshold is not yet met (R288). -/
def State.trigWaits (s : State) (d : BitVec 512) : Bool :=
  L.CWE.TRIGGERED.on d && decide (L.TRG.VALUE.get (s.trg (entryFld d 335 320)) < entryFld d 319 256)

/-- The refusal of a send entry when its turn comes (R143, R288, R290). -/
def State.sendCheck (s : State) (x : ConnSt) (d : BitVec 512) : Status :=
  let ctrBad := match completeCtr d with
    | some i => !(s.trgOk x.fn x.slot i)
    | none => false
  firstStatus [(s.trigBad x d, .notPermitted), (s.trigWaits d, .ok), (ctrBad, .notPermitted),
    (meteredOp (s.sendOp x.fn d) && s.policerBad (s.connPolicer x.fn), .badValue)]

/-- The turn of the entry at the head of a send queue: it halts the function when malformed (R247), ends in ERROR's
connection (R260), is refused, waits for its counter (R288), or begins. -/
def State.workTurn (s : State) (c : Nat) (x : ConnSt) (e : WorkEnt) (d : BitVec 512) : State :=
  if x.st ≠ 1 then s.endEntry c e .aborted
  else match workMalformed d false with
    | some why => s.halt x.fn c false true why e.idx
    | none =>
      if 16 ≤ x.span then s
      else match s.sendCheck x d with
        | .ok =>
          if s.trigWaits d then
            s.setConn c { x with sq := x.sq.mapEnts fun w => if w.idx = e.idx then { w with begun := true } else w }
          else s.sendEntry c x e d
        | st => s.endEntry c e st

/-- The entry at the head of a send queue, posted and read. -/
def ConnSt.headEntry (x : ConnSt) : Option WorkEnt := x.sq.ents.find? fun e => e.idx == x.sq.next && e.posted

/-- A row of a work opcode: the head entry of the named queue has its turn when it carries the opcode. An entry of an
unlisted opcode is taken by the row of PUT, where it halts the function (R247). -/
def State.workBegin (s : State) (w : WorkRef) (op : Nat) : State :=
  match s.conn w.conn with
  | none => s
  | some x =>
    if w.recv || s.fnQuiet x.fn || x.st == 3 then s
    else match x.headEntry with
      | some ⟨i, some d, failed, miss, posted, begun⟩ =>
        let o := entryFld d 7 0
        if i = w.idx ∧ (o = op ∨ (op = 0xA0 ∧ (o < 0xA0 ∨ 0xA4 < o))) then
          s.workTurn w.conn x ⟨i, some d, failed, miss, posted, begun⟩ d
        else s
      | _ => s

/-- PUT (R277). -/
def execPut (e : WorkRef) : State → Res := whenRunning fun s => s.workBegin e 0xA0

/-- GET (R278). -/
def execGet (e : WorkRef) : State → Res := whenRunning fun s => s.workBegin e 0xA1

/-- SEND (R279). -/
def execSend (e : WorkRef) : State → Res := whenRunning fun s => s.workBegin e 0xA2

/-- SEND_MATCHED (R313). -/
def execSendMatched (e : WorkRef) : State → Res := whenRunning fun s => s.workBegin e 0xA3

/-- ATOMIC (R281). -/
def execAtomic (e : WorkRef) : State → Res := whenRunning fun s => s.workBegin e 0xA4

/-! ### Triggered entries fire (R286, R288) -/

/-- The head entry of a connection that waits on a counter. -/
def ConnSt.waitsOn (x : ConnSt) (i : Nat) : Option (WorkEnt × BitVec 512) :=
  match x.headEntry with
  | some e => match e.data with
    | some d => if e.begun ∧ L.CWE.TRIGGERED.on d ∧ entryFld d 335 320 = i then some (e, d) else none
    | none => none
  | none => none

/-- Every waiting entry on a counter whose threshold is met begins (R288). -/
def State.fireTriggers (s : State) (i : Nat) : State :=
  s.xp.conns.foldl (fun s (p : Nat × ConnSt) => match s.conn p.1 with
    | some x => match x.waitsOn i with
      | some (e, d) => if s.fnQuiet x.fn then s else s.workTurn p.1 x e d
      | none => s
    | none => s) s

/-- A trigger counter raised, with its watches and the entries that wait on it (R286, R288, R289). -/
def State.raiseCtr (s : State) (i bytes : Nat) : State := (s.ctrAdd i bytes).fireTriggers i

/-- A counter becomes invalid (R287): the entries that wait on it complete with ABORTED. -/
def State.trgInvalidate (s : State) (i : Nat) : State :=
  let s := s.setTrg i (L.TRG.VALID.set (s.trg i) 0)
  s.xp.conns.foldl (fun s (p : Nat × ConnSt) => match s.conn p.1 with
    | some x => match x.waitsOn i with
      | some (e, _) => s.endEntry p.1 e .aborted
      | none => s
    | none => s) s

/-! ### Messages complete at their sender (R275, R290, R319, R320) -/

/-- Whether a message of the connection's own is complete (R275, R320). -/
def SMsg.finished (m : SMsg) : Bool :=
  let acked := decide (m.total ≤ m.gone)
  if m.status.isSome then acked && m.cancel != 1
  else match m.kind with
    | 1 | 6 => !m.got.isEmpty && decide (m.len ≤ m.gotBytes)
    | 4 => !m.got.isEmpty
    | 5 => acked && (match m.respTotal with
      | some n => decide (n ≤ m.respGone)
      | none => false)
    | _ => acked

/-- What the completion of a message brings beside its record: COMPLETE_CTR on OK (R290), or the match notice of a
rendezvous (R321). -/
def State.msgEffect (s : State) (c : Nat) (m : SMsg) : State :=
  match m.recv with
  | some p => s.matchNotice p ⟨c, m.rtsMsn, truncStatus (m.status.getD 0) m.rnr p.len, m.gotBytes, m.src, m.tag, m.rnr,
      m.unexpected, true, 0, []⟩
  | none =>
    match completeCtr m.ent, m.status with
    | some i, none => if L.TRG.VALID.on (s.trg i) then s.raiseCtr i m.len else s
    | _, _ => s

/-- The messages that have completed end, in order; those behind them may begin (R245, R266). -/
def State.settle (s : State) (c : Nat) : State :=
  match s.conn c with
  | none => s
  | some x =>
    let ready (m : SMsg) : Bool := !m.done && m.kind != 9 && m.finished
    let mark (m : SMsg) : SMsg := if ready m then { m with done := true } else m
    let s := s.setConn c { x with msgs := x.msgs.map mark }
    let s := (x.msgs.filter ready).foldl (fun s m => s.msgEffect c m) s
    (s.flushDone c).rndvPump (x.rndvWait.length + 1) c

/-! ### The commands on connections (R257 to R259) -/

/-- The first statuses of CONN_MODIFY and CONN_DESTROY (R259). -/
def State.connCmdCheck (s : State) (f slot c : Nat) : Status :=
  let x := s.conn c
  firstStatus [
    (!(s.connInRange f c) || (match x with
      | some x => x.slot != slot
      | none => false), .notPermitted),
    ((match x with
      | some x => x.st == 3
      | none => true), .badState)]

/-- CONN_MODIFY (R257, R259). -/
def execConnModify (e : EntryRef) : State → Res :=
  onEntry e 0x02 fun d s =>
    let c := entryFld d 87 64
    let setTc := d.toNat.testBit 88
    let toErr := d.toNat.testBit 92
    let inError := match s.conn c with
      | some x => x.st == 2
      | none => false
    let st := match s.connCmdCheck e.fn (entryFld d 27 16) c with
      | .ok => firstStatus [(inError && setTc, .badState), (setTc && decide (5 < entryFld d 91 89), .badValue)]
      | st => st
    if st = .ok ∧ (setTc ∨ toErr) then
      let tc := if setTc then some (entryFld d 91 89) else none
      { s with xp := { s.xp with waits := s.xp.waits ++ [.modify e c tc toErr] } }
    else s.completeEntry e st

/-- CONN_DESTROY (R258, R259). -/
def execConnDestroy (e : EntryRef) : State → Res :=
  onEntry e 0x03 fun d s =>
    let c := entryFld d 87 64
    match s.connCmdCheck e.fn (entryFld d 27 16) c with
    | .ok => (s.leaveOpen c 3 none .aborted).modConn c fun x => { x with destroy := some e }
    | st => s.completeEntry e st

/-- Whether a packet of a connection is still in the QD1K: to be sent, crossing the switch core, or arrived. -/
def State.connPackets (s : State) (c : Nat) (x : ConnSt) : Bool :=
  let mine (p : Packet) : Bool :=
    (L.NET.SRC_NODE.get p.net == s.own && L.NET.SRC_EP.get p.net == s.fnEp x.fn && L.TH.SRC_CONN.get p.tp == c) ||
      (L.NET.DST_NODE.get p.net == s.own && L.NET.DST_EP.get p.net == s.fnEp x.fn && L.TH.DST_CONN.get p.tp == c)
  (s.ni.tx.any fun q => q.2.any fun t => match t.conn with
    | some y => y.1 == c
    | none => false) || (s.core.pkts.any fun k => mine k.pkt) || s.ni.ej.any fun q => q.2.any mine

/-- Every announced entry of a queue has completed. -/
def WorkQ.idleQ (q : WorkQ) : Bool := q.cmp == q.kt

/-- CONN_DESTROY_COMPLETE (R258): no packet of the connection remains and its entries have all completed; the number
becomes free and the command completes. -/
def execConnDestroyComplete (e : EntryRef) : State → Res :=
  whenRunning fun s => match s.xp.conns.find? fun p => p.2.destroy == some e with
    | none => s
    | some (c, x) =>
      if s.connPackets c x || !x.sq.idleQ || !x.rq.idleQ then s
      else
        let s := { s with xp := { s.xp with conns := mdel s.xp.conns c
                                            ctxCache := s.xp.ctxCache.filter fun k => k != c } }
        s.completeEntry e .ok

/-! ### Keys (R282 to R285) -/

/-- The state of a key: 0 free, 1 valid, 2 revoking, 3 revoked. -/
def State.keyState (s : State) (i : Nat) : Nat := L.KEY.STATE.get (s.key i)

/-- The index that a registration takes: a free one of the function's range, else a revoked one (R283). -/
def State.keyIndex (s : State) (f : Nat) : Option Nat :=
  let b := s.f F.FUNC_KEY_RANGE.KEY_BASE f
  let n := s.f F.FUNC_KEY_RANGE.KEY_COUNT f
  ((firstNat n fun k => s.keyState (b + k) == 0) <|> firstNat n fun k => s.keyState (b + k) == 3).map fun k => b + k

/-- Whether a Groundsheet range lies in the exported region space (R28, R283). -/
def State.exported (s : State) (a n : Nat) : Bool :=
  decide (exportBase ≤ a) && decide (a + n ≤ exportBase + 1024 * s.f F.XL_CTRL.GS_EXPORT_SIZE)

/-- MR_REGISTER (R283). -/
def execMrRegister (e : EntryRef) : State → Res :=
  onEntry e 0x08 fun d s =>
    let a := entryFld d 127 64
    let n := entryFld d 171 128
    let gs := d.toNat.testBit 175
    let slot := entryFld d 27 16
    let st := firstStatus [
      (!(s.jobBound e.fn slot) || (gs && !(s.on F.FUNC_POLICY.GS_KEYS e.fn)), .notPermitted),
      (a % 4096 != 0 || n == 0 || (gs && !(s.exported a n)), .badValue),
      ((s.keyIndex e.fn).isNone, .noResource)]
    if st = .ok then
      let i := (s.keyIndex e.fn).getD 0
      let tag := wadd 14 (L.KEY.TAG.get (s.key i)) 1
      let k : BitVec 128 := BitVec.ofNat 128 (a / 4096 + n * 2 ^ 52 + slot * 2 ^ 96 + tag * 2 ^ 108 +
        entryFld d 175 172 * 2 ^ 122 + 2 ^ 126)
      (s.setKey i k).completeEntry e .ok 0 (i + tag * 2 ^ 18)
    else s.completeEntry e st

/-- A key fails step 1 of R284 for a function. -/
def State.keyWrong (s : State) (f key : Nat) : Bool :=
  let i := key % 2 ^ 18
  !(s.keyInRange f i) || s.keyState i == 0 || L.KEY.TAG.get (s.key i) != key / 2 ^ 18 % 2 ^ 14

/-- MR_REVOKE (R285): an accepted revoke waits for its tick boundary. -/
def execMrRevoke (e : EntryRef) : State → Res :=
  onEntry e 0x09 fun d s =>
    let key := entryFld d 95 64
    let i := key % 2 ^ 18
    let taken := s.xp.waits.any fun w => match w with
      | .revoke _ k _ => k == i
      | _ => false
    let st := firstStatus [
      (s.keyWrong e.fn key, .keyInvalid),
      (decide (2 ≤ s.keyState i) || taken, .badState),
      (L.KEY.JOB_SLOT.get (s.key i) != entryFld d 27 16, .notPermitted)]
    if st = .ok then { s with xp := { s.xp with waits := s.xp.waits ++ [.revoke e i 0] } }
    else s.completeEntry e st

/-- Whether a packet was checked against a key. -/
def usesKey (p : Packet) (i : Nat) : Bool :=
  let op := L.TH.OPCODE.get p.tp
  (op == 1 || op == 2 || op == 6) && Fld.get ⟨177, 160⟩ p.tp == i

/-- Whether a connection still holds a placement, an atomic or an unacknowledged response under a key (R285, R422). -/
def ConnSt.holdsKey (x : ConnSt) (i : Nat) : Bool :=
  (x.parked.any fun w => usesKey w.pkt i) || (x.atomics.any fun p => usesKey p i) ||
    (x.txq.any fun u => u.key == some i) || x.sent.any fun p => !p.acked && p.u.key == some i

/-- MR_REVOKE_COMPLETE (R285): nothing checked before the boundary is left; the flush read is issued and completes, STATE
becomes revoked and the revoke completes. -/
def execMrRevokeComplete (e : EntryRef) : State → Res :=
  whenRunning fun s =>
    let mine (w : ConnWait) : Bool := match w with
      | .revoke f _ 1 => f == e
      | _ => false
    match s.xp.waits.find? mine with
    | some (.revoke _ i _) =>
      if s.xp.conns.any fun p => p.2.holdsKey i then s
      else
        let s := s.emit (.hostFlush e.fn 0)
        let s := s.setKey i (L.KEY.STATE.set (s.key i) 3)
        ({ s with xp := { s.xp with waits := s.xp.waits.filter fun w => !(mine w) } } : State).completeEntry e .ok
    | _ => s

/-! ### Trigger counters (R287) -/

/-- TRIG_COUNTER_SET (R287): the fields are written at once, or the counter is invalidated at the next boundary. -/
def execTrigCounterSet (e : EntryRef) : State → Res :=
  onEntry e 0x0A fun d s =>
    let i := entryFld d 79 64
    let slot := entryFld d 27 16
    let t := s.trg i
    let st := firstStatus [
      (!(s.trgInRange e.fn i) || !(s.jobBound e.fn slot), .notPermitted),
      (L.TRG.VALID.on t && L.TRG.JOB_SLOT.get t != slot, .badState)]
    if st ≠ .ok then s.completeEntry e st
    else if d.toNat.testBit 80 then
      let v := if d.toNat.testBit 83 then entryFld d 191 128 else L.TRG.VALUE.get t
      let s := s.setTrg i (BitVec.ofNat 128 (v + slot * 2 ^ 64 + 2 ^ 76 + entryFld d 82 81 * 2 ^ 77))
      ((s.watchCheck i).fireTriggers i).completeEntry e .ok
    else { s with xp := { s.xp with waits := s.xp.waits ++ [.trigOff e i] } }

/-! ### Tick boundaries -/

/-- What a waiting command does at a tick boundary (R257, R285, R287). -/
def State.waitEffect (s : State) (w : ConnWait) : State :=
  match w with
  | .modify e c tc err =>
    let s := match tc with
      | some t => s.modConn c fun x => { x with tc := t }
      | none => s
    (if err then s.connError c .aborted none 0 0 else s).completeEntry e .ok
  | .revoke e i ph =>
    let s := if ph = 0 then s.setKey i (L.KEY.STATE.set (s.key i) 2) else s
    { s with xp := { s.xp with waits := s.xp.waits ++ [.revoke e i 1] } }
  | .trigOff e i => (s.trgInvalidate i).completeEntry e .ok

/-- The boundary of connection commands: accepted CONN_MODIFYs, revokes and invalidations take effect (R257, R285,
R287). -/
def State.connBoundary (s : State) : State :=
  s.xp.waits.foldl (fun s w => s.waitEffect w) { s with xp := { s.xp with waits := [] } }

/-- The coalesced ACK of a connection (R268): EPSN, the bitmap of the 512 PSNs after it, and the marks. -/
def State.ackSend (s : State) (c : Nat) : State :=
  match s.conn c with
  | none => s
  | some x =>
    if x.ackDue || x.ce != 0 then
      let map := (List.range 512).foldl (fun a i => if x.got.contains (wadd 24 x.epsn (i + 1)) then setBit a i else a) 0
      let tp := L.TH.PSN.set (tpHdr 0x08 x.peer c 0 (x.ce * 256)) x.epsn
      ((s.jobCount x.slot 72 x.ce).setConn c { x with ackDue := false, ce := 0 }).connReply c x tp (leBytes 64 map)
    else s

/-- The window update of a connection (R272), and what the window now admits. -/
def State.windowUpdate (s : State) (c : Nat) : State :=
  match s.conn c with
  | none => s
  | some x =>
    let clear := { x with timedOut := false, ceSeen := false, limited := false }
    if s.ona F.TP_CC_CFG.CC_FREEZE then (s.setConn c clear).pumpAll c
    else
      let min_ := s.fa F.TP_CC_CFG.W_MIN
      let w := if x.timedOut then min_
        else if x.ceSeen then max min_ (x.w - x.w / 2 ^ s.fa F.TP_CC_CFG.MD_SHIFT)
        else if x.limited then min (s.fa F.TP_CC_CFG.W_MAX) (x.w + s.fa F.TP_CC_CFG.AI) else x.w
      let s := if !x.timedOut && x.ceSeen then s.cnt .WINDOW_DECREASE_COUNT else s
      (s.setConn c { clear with w := w }).pumpAll c

/-- The queues whose missed stamps are read again at this turnover (R243). -/
def WorkQ.retryDue (q : WorkQ) : WorkQ := { q with due := decide (0 < q.turns) || q.ents.any fun e => e.miss }

/-- A turnover at which the window unit is late: the previous window is used again, and what it counted is discarded
(R39, R40). -/
def State.windowKeep (s : State) (c : Nat) : State :=
  (s.modConn c fun x => { x with timedOut := false, ceSeen := false, limited := false }).pumpAll c

/-- A turnover for every connection: the commands whose boundary it is, then the ACKs and the windows. A late ACK unit (bit 4 of `late`) leaves its ACKs to the next tick; a late window
unit (bit 3) keeps the windows (R39, R40). -/
def State.connTurnover (s : State) (late : Nat) : State :=
  let s := s.connBoundary
  s.xp.conns.foldl (fun s (p : Nat × ConnSt) =>
    let s := if late.testBit 4 then s else s.ackSend p.1
    let s := if late.testBit 3 then s.windowKeep p.1 else s.windowUpdate p.1
    s.modConn p.1 fun x => { x with sq := x.sq.retryDue, rq := x.rq.retryDue }) s

/-! ### Datagrams (R231, R614) -/

/-- An entry that its command leaves to be taken again: its address misses a translation. -/
def State.untakeEntry (s : State) (e : EntryRef) : State :=
  s.modRing e.fn e.ring fun x =>
    { x with descs := x.descs.map fun d => if d.idx = e.idx then { d with taken := false } else d }

/-- The checks of R614 but the rank. -/
def State.dgCheck (s : State) (e : EntryRef) (d : BitVec 512) (group rank : Bool) : Status :=
  firstStatus [
    (!(s.jobBound e.fn (entryFld d 27 16)) || group, .notPermitted),
    (decide (256 * 2 ^ s.f F.FUNC_CFG.DG_MTU e.fn < entryFld d 108 96), .badValue),
    (rank, .rankInvalid),
    (s.policerBad (s.dgPolicer e.fn), .badValue)]

/-- A datagram or multicast packet handed to its IE port once its payload has been read; its entry completes when it is
injected (R216). -/
def State.dgQueue (s : State) (e : EntryRef) (d : BitVec 512) (ie : Nat) (net : BitVec 256) (op : Nat)
    (res : ReadResult) : State :=
  let n := entryFld d 108 96
  match s.payloadRead e.fn ie (entryFld d 191 128) n with
  | (s, .error (.fail st)) => s.completeEntry e st
  | (s, .error _) => s.untakeEntry e
  | (s, .ok fill) =>
    match (if fillBytes fill = n then some [] else match res with
      | .data bs => some bs
      | _ => none) with
    | none => s.completeEntry e .aborted
    | some bs =>
      let tp := BitVec.ofNat 256 (op + entryFld d 95 84 * 2 ^ 16)
      s.txPush ie ⟨⟨net, tp, filled n bs fill⟩, s.dgPolicer e.fn, entryFld d 110 109, e.fn, false, some e, none⟩

/-- DG_SEND (R231, R614). -/
def execDgSend (e : EntryRef) (payload : ReadResult) : State → Res :=
  onEntry e 0x40 fun d s =>
    let slot := entryFld d 27 16
    let ie := s.fnIe e.fn 0
    let r := s.rankTranslate ie slot (entryFld d 83 64)
    match s.dgCheck e d false r.2.isNone with
    | .ok =>
      let dst := r.2.getD ⟨0, 0, false⟩
      let s := r.1
      s.dgQueue e d ie (s.netHdr dst.node dst.ep (s.fnEp e.fn) (s.jobId slot) 0 (s.f F.RING_CFG.TC e.fn e.ring)
        (dst.pinned || d.toNat.testBit 111) none (16 + entryFld d 108 96)) 0x0B payload
    | .rankInvalid => r.1.completeEntry e .rankInvalid
    | st => s.completeEntry e st

/-- MC_SEND (R109, R231, R614); its packet carries TC 6 (R116). -/
def execMcSend (e : EntryRef) (payload : ReadResult) : State → Res :=
  onEntry e 0x41 fun d s =>
    let slot := entryFld d 27 16
    let ie := s.fnIe e.fn 0
    let g := entryFld d 77 64
    let r := s.mcgRead (s.homeHub e.fn) g
    match s.dgCheck e d (!(mcgValid r.2) || L.MCG.JOB.get r.2 != s.jobId slot) false with
    | .ok =>
      let s := r.1
      s.dgQueue e d ie (s.netHdr s.own 0 (s.fnEp e.fn) (s.jobId slot) 2 6
        (d.toNat.testBit 111) (some g) (16 + entryFld d 108 96)) 0x0C payload
    | st => s.completeEntry e st

end Sys2Proof.Machine
end

