-- ==== Sys2Proof/Machine/Transport.lean ====
section
/-!
DEFINITION. The receiver's side of connections (R65, R73, R255, R256, R262, R267, R268, R273 to R281, R284, R289, R291,
R307 to R323, R420 to R422), and the sender's handling of what comes back: acknowledgements, timeouts, resends, payload
reads and atomics (R269 to R271, R279, R281, R421).
-/
namespace Sys2Proof.Machine

open Sys2Proof

/-! ### Packets that have arrived -/

/-- The first packet ejected to an IE port's transport unit. -/
def State.ejHead (s : State) (ie : Nat) : Option Packet := (mget s.ni.ej ie []).head?

/-- The first ejected packet taken. -/
def State.ejPop (s : State) (ie : Nat) : State :=
  { s with ni := { s.ni with ej := mset s.ni.ej ie (mget s.ni.ej ie []).tail } }

/-- Fields of a packet. -/
def Packet.op (p : Packet) : Nat := L.TH.OPCODE.get p.tp
def Packet.psn (p : Packet) : Nat := L.TH.PSN.get p.tp
def Packet.msn (p : Packet) : Nat := L.TH.MSN.get p.tp
def Packet.aux (p : Packet) : Nat := L.TH.AUX.get p.tp
def Packet.dstConn (p : Packet) : Nat := L.TH.DST_CONN.get p.tp
def Packet.srcConn (p : Packet) : Nat := L.TH.SRC_CONN.get p.tp
def Packet.dstEp (p : Packet) : Nat := L.NET.DST_EP.get p.net
def Packet.job (p : Packet) : Nat := L.NET.JOB.get p.net

/-- Bits hi:lo of the transport header. -/
def Packet.th (p : Packet) (hi lo : Nat) : Nat := Fld.get ⟨hi, lo⟩ p.tp

/-- MSG_OFFSET of a packet: bits 223:192, or 191:160 of a SEND_MATCHED (R263). -/
def Packet.msgOff (p : Packet) : Nat := if p.op = 5 then p.th 191 160 else p.th 223 192

/-- The payload bytes that an opcode fixes (R262); none where it carries data. -/
def payloadOf (op : Nat) : Option Nat :=
  match op with
  | 0x01 | 0x03 | 0x04 | 0x05 | 0x0B | 0x0C => none
  | 0x06 => some 16
  | 0x07 => some 8
  | 0x08 => some 64
  | 0x0A => some 48
  | _ => some 0

/-- Whether a transport opcode is listed (R262, R318). -/
def transportOp (op : Nat) : Bool := (decide (1 ≤ op) && decide (op ≤ 0x0D)) || op == 0x20 || op == 0x21

/-- The header length of a packet agrees with its opcode (R262). -/
def Packet.wellFormed (p : Packet) : Bool :=
  transportOp p.op && L.NET.PLEN.get p.net == hdrBytes p.op + p.payload.length &&
    (match payloadOf p.op with
      | some n => p.payload.length == n
      | none => true)

/-- The rows that take ejected packets: 0 TRANSPORT_RECEIVE, 1 DG_RECEIVE, 2 TRANSPORT_ACK_RECEIVE, 3 NOTICE_RECEIVE, 4
ROUTE_FAIL_RECEIVE, 5 to 8 the collective rows. A reserved opcode is discarded by TRANSPORT_RECEIVE (R262). -/
def rowOf (p : Packet) : Nat :=
  match p.op with
  | 0x08 => 2
  | 0x09 => 3
  | 0x0A => 4
  | 0x0B | 0x0C => 1
  | 0x30 => 5
  | 0x31 => 6
  | 0x32 => 7
  | 0x33 => 8
  | _ => 0

/-- The head of an IE port when it belongs to a row. -/
def State.ejFor (s : State) (ie row : Nat) : Option Packet :=
  match s.ejHead ie with
  | some p => if rowOf p = row then some p else none
  | none => none

/-- The NOTICE for a refused packet that has no receiving connection: on the packet's TC, with 6 and 7 taken as 5 (R291).
None answers an ACK, a NOTICE or a ROUTE_FAIL. -/
def State.noticeBack (s : State) (ie : Nat) (p : Packet) (st : Status) : State :=
  if p.op = 8 ∨ p.op = 9 ∨ p.op = 0x0A then s
  else
    let src := if p.op = 0x0B ∨ p.op = 0x0C then 0 else p.dstConn
    let tp := L.TH.PSN.set (tpHdr 0x09 p.srcConn src p.msn (st.code + p.op * 256)) p.psn
    let net := s.netHdr (L.NET.SRC_NODE.get p.net) (L.NET.SRC_EP.get p.net) p.dstEp p.job 1 (min 5 (L.NET.TC.get p.net))
      false none 16
    let s := match s.jobSlot p.job with
      | some k => s.jobCount k 88 1
      | none => s
    s.txPush ie ⟨⟨net, tp, []⟩, none, 0, epFn p.dstEp, false, none, none⟩

/-- Whether a packet comes from a connection's peer to its function (R267). -/
def State.fromPeer (s : State) (x : ConnSt) (p : Packet) : Bool :=
  p.dstEp == s.fnEp x.fn && L.NET.SRC_NODE.get p.net == x.node && L.NET.SRC_EP.get p.net == x.ep &&
    p.srcConn == x.peer

/-- A refusal on a connection: its NOTICE, sent at once (R291). -/
def State.refuse (s : State) (c : Nat) (x : ConnSt) (p : Packet) (st : Status) : State :=
  (s.jobCount x.slot 88 1).noticeFor c x p.psn p.msn p.op st.code

/-! ### Marking and accounting (R267, R273) -/

/-- A PSN marked received; EPSN moves past the received ones, and an ACK is due (R267). -/
def ConnSt.mark (x : ConnSt) (psn : Nat) : ConnSt :=
  let h := headAfter (x.got.length + 1) x.epsn (x.got ++ [psn])
  { x with epsn := h.1, got := h.2, ackDue := true }

/-- A packet of a connection marked received. -/
def State.markRecv (s : State) (c psn : Nat) : State := s.modConn c fun x => x.mark psn

/-- Whether a PSN is received, or held by a packet that waits (R311, R420). -/
def ConnSt.known (x : ConnSt) (psn : Nat) : Bool :=
  x.got.contains psn || (x.parked.any fun w => w.pkt.psn == psn) || (x.heldPkts.any fun p => p.psn == psn) ||
    x.rmsgs.any fun m => m.flush == 2 && m.flushPsn == psn

/-- Whether a message of the peer has been accounted complete. -/
def ConnSt.msgDone (x : ConnSt) (msn : Nat) : Bool := decide (2 ^ 23 ≤ wsub 24 msn x.rhead) || x.rdone.contains msn

/-- The message of a packet opened at its receiver (R274). -/
def ConnSt.openR (x : ConnSt) (p : Packet) : ConnSt :=
  if x.rmsgs.any fun m => m.msn == p.msn then x
  else
    let op := p.op
    let total := if op = 1 ∨ op = 4 ∨ op = 5 then p.th 159 128 else 0
    let m : RMsg := ⟨p.msn, op, total, 0, 0, false, 0,
      if L.TH.TRIG_VALID.on p.tp then some p.aux else none,
      if op = 1 ∧ p.th 240 240 = 1 then 1 else 0, 0, L.TH.UNORDERED.on p.tp, .plain, x.rank,
      BitVec.ofNat 64 (p.th 255 192), p.aux, false, false⟩
    { x with rmsgs := x.rmsgs ++ [m] }

/-- The open message of a packet. -/
def ConnSt.rmsg (x : ConnSt) (msn : Nat) : Option RMsg := x.rmsgs.find? fun m => m.msn == msn

/-- The status of a code (R235). -/
def Status.ofCode (n : Nat) : Status :=
  ([.badValue, .badState, .noResource, .notPermitted, .rankInvalid, .jobMismatch, .keyInvalid, .keyRevoked, .access,
    .remoteUnreachable, .timeout, .truncated, .translation, .walkBus, .walkDevice, .aborted, .busy, .portInService,
    .wouldIsolate, .barrierLostStores, .handlerOverrun, .engineLost, .functionHalted, .powerLimitUnmet,
    .noRecvBuffer].find? fun t : Status => t.code == n).getD .ok

/-- A message ended at its receiver (R273, R275, R280, R289, R314, R315, R321, R322): its counter rises when no packet of
it was refused, its receive entry, notice or buffers are written, and the order of records moves on. -/
def State.finishR (s : State) (c : Nat) (m : RMsg) : State :=
  match s.conn c with
  | none => s
  | some x =>
    let s := s.setConn c { x with rmsgs := x.rmsgs.filter fun y => y.msn != m.msn }
    let s := match m.trig with
      | some i =>
        if m.refused || m.status != 0 then s
        else if s.trgOk x.fn x.slot i && L.TRG.REMOTE_EN.on (s.trg i) then s.raiseCtr i m.total
        else s.cnt .TRIG_LATE_COUNT x.fn
      | none => s
    let s := match m.dest with
      | .plain => s
      | .work idx len _ tag => s.recvEntry c x m idx tag (truncStatus m.status m.total len) m.placed
      | .post p =>
        s.matchNotice p ⟨c, m.msn, truncStatus m.status m.total p.len, m.placed, m.src, m.tag, m.total, false, false, 0, []⟩
      | .unexpected r bs recv =>
        let s := s.uxComplete x.fn r bs (Status.ofCode m.status) m.total 0
        match recv with
        | some p =>
          s.matchNotice p ⟨c, m.msn, truncStatus m.status m.total p.len, min m.total p.len, m.src, m.tag, m.total, true,
            false, r, bs⟩
        | none =>
          s.mapUnexp fun u => if u.conn = c ∧ u.msn = m.msn then { u with complete := true, status := m.status } else u
    s.recvAccounted c m.msn

/-- The bytes of a packet accounted to its message (R273), refused or placed; a message accounted in full ends, or waits
for the flush read of a REMOTE_FLUSH put, with the packet left unmarked (R277). -/
def State.account (s : State) (c : Nat) (p : Packet) (placed : Nat) (st : Status) : State :=
  let bad := st != .ok
  let s := s.modConn c fun x => x.mapR p.msn fun m =>
    { m with acct := m.acct + p.payload.length, placed := m.placed + placed, refused := m.refused || bad,
             status := if m.status = 0 then st.code else m.status }
  match (s.conn c).bind fun x => x.rmsg p.msn with
  | none => s.markRecv c p.psn
  | some m =>
    if m.acct < m.total then s.markRecv c p.psn
    else if m.flush = 1 && !m.refused then
      match s.conn c with
      | some x => (s.setConn c (x.mapR p.msn fun m => { m with flush := 2, flushPsn := p.psn })).emit (.hostFlush x.fn 0)
      | none => s
    else (s.markRecv c p.psn).finishR c m

/-- A packet refused on its connection, marked received and accounted (R267). -/
def State.refuseAcc (s : State) (c : Nat) (x : ConnSt) (p : Packet) (st : Status) : State :=
  (s.refuse c x p st).account c p 0 st

/-! ### Placement (R273, R277 to R280, R314, R315, R420, R421) -/

/-- Where the bytes of a packet go: a translated address of a function, an untranslated one, the Groundsheet, a handler,
or nowhere. -/
inductive Dst where
  | host (f : Nat) (va : Nat) (bs : List Byte)
  | raw (f : Nat) (addr : Nat) (bs : List Byte)
  | gs (off : Nat) (bs : List Byte)
  | event (p : Post) (slot : Nat)
  | nothing
  deriving DecidableEq, Repr

/-- A posted receive as a destination: its buffer up to LENGTH, or its handler (R314, R321). -/
def postDst (q : Post) (off : Nat) (bs : List Byte) : Dst :=
  match q.handler with
  | some slot => .event q slot
  | none => .host q.fn (q.addr + off) (bs.take (q.len - off))

/-- The destination of a packet that has passed its checks. -/
def State.packetDst (s : State) (x : ConnSt) (p : Packet) : Dst :=
  let off := p.msgOff
  match p.op with
  | 1 =>
    let k := s.key (p.th 191 160 % 2 ^ 18)
    let a := L.KEY.BASE.get k * 4096 + p.th 239 192
    if L.KEY.GS.on k then .gs a p.payload else .host x.fn a p.payload
  | 3 =>
    match x.msgs.find? fun m => m.msn == p.msn && !m.done && m.status.isNone && (m.kind == 1 || m.kind == 6) with
    | some m => match m.recv with
      | some q => postDst q off p.payload
      | none => .host x.fn (entryFld m.ent 191 128 + off) (p.payload.take (m.len - off))
    | none => .nothing
  | 7 =>
    match x.msgs.find? fun m => m.msn == p.msn && !m.done && m.kind == 4 with
    | some m => if p.aux % 256 = 0 then .host x.fn (entryFld m.ent 191 128) (p.payload.take m.len) else .nothing
    | none => .nothing
  | _ =>
    match x.rmsg p.msn with
    | some m => match m.dest with
      | .plain => .nothing
      | .work _ len addr _ => .host x.fn (addr + off) (p.payload.take (len - off))
      | .post q => postDst q off p.payload
      | .unexpected r bs _ =>
        .raw x.fn (entryFld (s.entryData x.fn r (lget bs (off / 4096) 0)) 191 128 + off % 4096) p.payload
    | none => .nothing

/-- The bytes that a destination takes. -/
def Dst.bytes : Dst → Nat
  | .host _ _ bs => bs.length
  | .raw _ _ bs => bs.length
  | .gs _ bs => bs.length
  | _ => 0

/-- The placement writes of a packet issued (R267), unless its address misses or fails. -/
def State.issue (s : State) (c ie : Nat) (p : Packet) : Dst → State × Option Xl
  | .host f va bs => if bs.isEmpty then (s, none) else s.place f ie va bs
  | .raw f a bs => (s.hostWrite f a bs, none)
  | .gs off bs => (s.gsStore none off bs, none)
  | .event q slot => (s.packetEvent q c p.msn p.msgOff p slot, none)
  | .nothing => (s, none)

/-- Packets that a transport unit has parked. -/
def State.parkedAt (s : State) (ie : Nat) : Nat :=
  s.xp.conns.foldl (fun a q => a + (q.2.parked.filter fun w => w.ie == ie).length) 0

/-- A packet whose placement misses: parked, or discarded beyond PARK_MAX (R420). -/
def State.park (s : State) (c ie : Nat) (p : Packet) (miss : Option (Nat × Nat)) : State :=
  if s.f F.XL_CTRL.PARK_MAX ≤ s.parkedAt ie then s.cnt .PARK_DROP_COUNT
  else s.modConn c fun x => { x with parked := x.parked ++ [⟨p, miss, ie⟩] }

/-- What follows a response placed at its requester (R275). -/
def State.respPlaced (s : State) (c : Nat) (p : Packet) : State :=
  ((s.modConn c fun x => x.mapMsg p.msn fun m =>
    { m with got := m.got ++ [p.msgOff], gotBytes := m.gotBytes + p.payload.length
             status := if p.op = 7 ∧ p.aux % 256 ≠ 0 ∧ m.status.isNone then some (p.aux % 256) else m.status }).markRecv
      c p.psn).settle c

/-- Whether an opcode is a response to one of the connection's own messages. -/
def isResp (op : Nat) : Bool := op == 3 || op == 7

/-- A packet that has passed its checks is placed, parked or refused (R267, R420, R421). -/
def State.placePkt (s : State) (c ie : Nat) (p : Packet) : State :=
  match s.conn c with
  | none => s
  | some x =>
    let d := s.packetDst x p
    match s.issue c ie p d with
    | (s, none) =>
      let s := s.jobCount x.slot 56 d.bytes
      if isResp p.op then s.respPlaced c p else s.account c p d.bytes .ok
    | (s, some (.fail st)) =>
      if isResp p.op then ((s.refuse c x p st).markRecv c p.psn).stopMsg c p.msn st.code |>.settle c
      else s.refuseAcc c x p st
    | (s, some (.miss m)) => s.park c ie p m
    | (s, some _) => s

/-! ### Commits (R307, R312, R316) -/

/-- A message at the head of the commit order that no longer waits: its MSN noted. -/
def ConnSt.seeMsn (x : ConnSt) (msn : Nat) : ConnSt :=
  if wsub 24 msn x.commit < 2 ^ 23 ∧ !(x.seen.contains msn) then { x with seen := x.seen ++ [msn] } else x

/-- The held packets of a message taken out of the packet buffer. -/
def ConnSt.release (x : ConnSt) (msn : Nat) : ConnSt :=
  { x with heldPkts := x.heldPkts.filter fun p => p.msn != msn }

/-- A commit that is refused is undone (R316): NO_RECV_BUFFER discards the held packets unmarked, with a NOTICE for the
first; another status refuses each of them. -/
def State.undoCommit (s : State) (c : Nat) (x : ConnSt) (msn : Nat) (st : Status) : State :=
  let ps := x.heldPkts.filter fun p => p.msn == msn
  if st = .noRecvBuffer then
    let s := s.setConn c { x.release msn with rmsgs := x.rmsgs.filter fun m => m.msn != msn }
    match ps with
    | p :: _ => s.refuse c x p st
    | [] => s
  else ps.foldl (fun s p => s.refuseAcc c x p st) (s.setConn c (x.release msn))

/-- The commit pointer moves while the message it names has committed, or its header is held and commits (R307, R312);
the packets held for a committed header are then placed. -/
def State.commitRun : Nat → Nat → Nat → State → State
  | 0, _, _, s => s
  | k + 1, c, ie, s =>
    match s.conn c with
    | none => s
    | some x =>
      let m := x.commit
      if x.seen.contains m then
        (s.setConn c { x with commit := wadd 24 m 1, seen := x.seen.filter fun n => n != m }).commitRun k c ie
      else match s.mat.held.find? fun h => h.conn == c && h.msn == m with
        | none => s
        | some h =>
          match s.commitHdr h with
          | (s, none) =>
            let ps := x.heldPkts.filter fun p => p.msn == m
            let s := s.modConn c fun y => { y.release m with commit := wadd 24 m 1 }
            (ps.foldl (fun s p => s.placePkt c ie p) s).commitRun k c ie
          | (s, some st) => match s.conn c with
            | some y => s.undoCommit c y m st
            | none => s

/-- The commit pointer moved as far as it goes. -/
def State.commits (s : State) (c ie : Nat) : State :=
  match s.conn c with
  | some x => s.commitRun (x.seen.length + s.mat.held.length + 1) c ie
  | none => s

/-- A packet of a message that is not matched commits it (R307). -/
def State.commitOther (s : State) (c ie msn : Nat) : State := (s.modConn c fun x => x.seeMsn msn).commits c ie

/-! ### Matched packets (R310 to R316) -/

/-- The header of a matched packet. -/
def State.hdrOf (s : State) (c : Nat) (x : ConnSt) (p : Packet) : HeldHdr :=
  ⟨s.pipeOf x.fn x.slot p.aux, x.fn, x.slot, p.aux, c, p.msn, x.rank, BitVec.ofNat 64 (p.th 255 192), p.th 159 128,
    p.op == 0x20, none⟩

/-- A matched packet above the commit pointer (R310, R311): its header and the packet are held within SPEC_MAX and
HOLD_LIMIT, or the packet is discarded unmarked. -/
def State.holdMatched (s : State) (c : Nat) (x : ConnSt) (p : Packet) : State :=
  let h := s.hdrOf c x p
  let known := s.mat.held.any fun y => y.conn == c && y.msn == p.msn
  if !known && decide (s.f F.MATCH_CTRL.SPEC_MAX ≤ s.heldHeaders h.pipe) then s.cnt .MP_SPEC_FULL_COUNT h.pipe
  else if s.f F.MATCH_CTRL.HOLD_LIMIT < s.heldSegs h.pipe + segsOf p then s.cnt .MP_HOLD_DROP_COUNT h.pipe
  else
    let y := x.openR p
    let s := s.setConn c { y with heldPkts := y.heldPkts ++ [p] }
    if known then s
    else
      let claim := s.claimOf h none
      let s := { s with mat := { s.mat with held := s.mat.held ++ [{ h with claim := claim }] } }
      s.setDomain (s.domain h.fn h.slot h.ctx)

/-- A matched packet whose message is at the commit pointer and not yet committed. -/
def State.commitMatched (s : State) (c ie : Nat) (x : ConnSt) (p : Packet) : State :=
  match (s.setConn c (x.openR p)).commitHdr (s.hdrOf c x p) with
  | (s, none) =>
    ((s.modConn c fun y => { y with commit := wadd 24 p.msn 1 }).placePkt c ie p).commits c ie
  | (s, some st) =>
    if st = .noRecvBuffer then (s.setConn c { x.release p.msn with rmsgs := x.rmsgs.filter fun m => m.msn != p.msn }).refuse c x p st
    else s.refuseAcc c x p st

/-- A SEND_MATCHED or MATCH_RTS packet (R307 to R316). -/
def State.recvMatched (s : State) (c ie : Nat) (x : ConnSt) (p : Packet) : State :=
  match x.rmsg p.msn with
  | some m =>
    if m.committed then s.placePkt c ie p
    else if p.msn = x.commit then s.commitMatched c ie x p else s.holdMatched c x p
  | none => if p.msn = x.commit then s.commitMatched c ie x p else s.holdMatched c x p

/-! ### Checks (R279, R281, R284, R289) -/

/-- The key check of a packet (R284): the right by its opcode, and the bytes it touches. -/
def State.keyCheck (s : State) (x : ConnSt) (p : Packet) (n : Nat) : Status :=
  let key := p.th 191 160
  let k := s.key (key % 2 ^ 18)
  let right := if p.op = 1 then L.KEY.WRITE.on k else if p.op = 2 then L.KEY.READ.on k else L.KEY.ATOMIC.on k
  let slot := (s.jobSlot p.job).getD x.slot
  firstStatus [
    (s.keyWrong x.fn key, .keyInvalid),
    (decide (2 ≤ L.KEY.STATE.get k), .keyRevoked),
    (L.KEY.JOB_SLOT.get k != slot || !right || decide (L.KEY.LENGTH.get k < p.th 239 192 + n), .access)]

/-- A key refusal counted (R297). -/
def State.keyCount (s : State) (x : ConnSt) (st : Status) : State :=
  if st = .keyInvalid ∨ st = .keyRevoked ∨ st = .access then s.cnt .KEY_REFUSE_COUNT x.fn else s

/-- The trigger counter check of a PUT or SEND packet (R289). -/
def State.trigCheck (s : State) (x : ConnSt) (p : Packet) : Status :=
  if L.TH.TRIG_VALID.on p.tp then
    (if s.trgOk x.fn ((s.jobSlot p.job).getD x.slot) p.aux && L.TRG.REMOTE_EN.on (s.trg p.aux) then .ok else .notPermitted)
  else .ok

/-- A PUT packet (R277). -/
def State.recvPut (s : State) (c ie : Nat) (x : ConnSt) (p : Packet) : State :=
  let s := s.setConn c (x.openR p)
  match s.keyCheck x p p.payload.length, s.trigCheck x p with
  | .ok, .ok => s.placePkt c ie p
  | .ok, st => s.refuseAcc c x p st
  | st, _ => (s.keyCount x st).refuseAcc c x p st

/-- The receive queue entry that a SEND names, when it is posted (R279). -/
def ConnSt.rqEntry (x : ConnSt) (idx : Nat) : Option (BitVec 512) :=
  (x.rq.ents.find? fun e => e.idx == idx && e.posted).bind fun e => e.data

/-- A receive queue entry taken by a message. -/
def ConnSt.takeRq (x : ConnSt) (msn idx : Nat) (d : BitVec 512) : ConnSt :=
  let y := { x with rq := x.rq.mapEnts fun e => if e.idx = idx then { e with begun := true } else e }
  y.mapR msn fun m => m.commitTo (.work idx (entryFld d 47 16) (entryFld d 191 128) (L.CWE.USER_TAG.get d))

/-- A SEND packet (R279, R280): without its entry it is refused with NO_RECV_BUFFER and left unmarked; a malformed entry
halts the function (R247, R265). -/
def State.recvSend (s : State) (c ie : Nat) (x : ConnSt) (p : Packet) : State :=
  let idx := p.th 191 160
  match x.rqEntry idx with
  | none => (s.cnt .RNR_COUNT x.fn).refuse c x p .noRecvBuffer
  | some d =>
    match workMalformed d true with
    | some why => (s.halt x.fn c true true why idx).refuse c x p .functionHalted
    | none =>
      let y := x.openR p
      let y := match y.rmsg p.msn with
        | some m => if m.committed then y else y.takeRq p.msn idx d
        | none => y
      let s := s.setConn c y
      match s.trigCheck x p with
      | .ok => s.placePkt c ie p
      | st => s.refuseAcc c x p st

/-- A one-packet request received: marked and accounted (R273). -/
def State.oneRecv (s : State) (c : Nat) (p : Packet) : State := (s.markRecv c p.psn).recvAccounted c p.msn

/-- A one-packet request refused. -/
def State.oneRefuse (s : State) (c : Nat) (x : ConnSt) (p : Packet) (st : Status) : State :=
  (s.refuse c x p st).oneRecv c p

/-- The responses to a read of n bytes (R278): from address `a` of source `src`, under a key, owed by a message. -/
def respUnits (x : ConnSt) (c : Nat) (p : Packet) (src a n : Nat) (key own : Option Nat) : List TxUnit :=
  (segments n x.mtuBytes).map fun q =>
    let hdr := BitVec.ofNat 256 ((tpHdr 3 x.peer c p.msn 0).toNat + n % 2 ^ 32 * 2 ^ 128 + q.1 % 2 ^ 32 * 2 ^ 192)
    ⟨0, 3, p.msn, q.1, q.2, hdr, src, a + q.1, if q.2 = 0 then some [] else none, q.2 == 0, false, 0, key, p.psn, own, []⟩

/-- A GET_REQ (R278): checked for the whole length, and answered with GET_RESP packets. -/
def State.recvGet (s : State) (c : Nat) (x : ConnSt) (p : Packet) : State :=
  let n := p.th 159 128
  match s.keyCheck x p n with
  | .ok =>
    let i := p.th 191 160 % 2 ^ 18
    let k := s.key i
    (s.oneRecv c p).queueUnits c
      (respUnits x c p (if L.KEY.GS.on k then 2 else 1) (L.KEY.BASE.get k * 4096 + p.th 239 192) n (some i) none)
  | st => (s.keyCount x st).oneRefuse c x p st

/-- An RNDV_GET at the sender of the rendezvous (R320). -/
def State.recvRndv (s : State) (c : Nat) (x : ConnSt) (p : Packet) : State :=
  let n := p.th 159 128
  match x.msgs.find? fun m => m.kind == 5 && m.msn == p.th 183 160 && !m.done && m.status.isNone with
  | none => s.oneRefuse c x p .badValue
  | some m =>
    if m.len < n then s.oneRefuse c x p .badValue
    else
      let us := respUnits x c p 1 (entryFld m.ent 191 128) n none (some m.msn)
      ((s.setConn c (x.mapMsg m.msn fun y => { y with respTotal := some us.length })).oneRecv c p).queueUnits c us

/-! ### Atomics (R281) -/

/-- The result of an operation on an operand of n bytes. -/
def atomicOp (aop n old a cmp : Nat) : Nat :=
  let w := 8 * n
  let a := a % 2 ^ w
  match aop with
  | 0 => (old + a) % 2 ^ w
  | 1 => a
  | 2 => if old = cmp % 2 ^ w then a else old
  | 3 => old &&& a
  | 4 => old ||| a
  | 5 => old ^^^ a
  | 6 => if toSigned w a < toSigned w old then a else old
  | 7 => if toSigned w old < toSigned w a then a else old
  | 8 => min old a
  | _ => max old a

/-- The ATOMIC_RESP to an atomic (R281): the old value, or ACCESS. -/
def State.atomicResp (s : State) (c : Nat) (x : ConnSt) (p : Packet) (old st : Nat) : State :=
  s.queueUnits c [{ bareUnit 7 p.msn (tpHdr 7 x.peer c p.msn st) with payload := some (leBytes 8 old), req := p.psn }]

/-- An atomic that has passed its checks, at a Groundsheet offset (R281). -/
def State.gsAtomic (s : State) (c : Nat) (x : ConnSt) (p : Packet) (a n : Nat) : State :=
  let old := s.gsNat a n
  let v := atomicOp (p.th 243 240) n old (leNat (p.payload.take 8)) (leNat (p.payload.drop 8))
  ((s.gsStore none a (leBytes n v)).oneRecv c p).atomicResp c x p old 0

/-- The bytes of an ATOMIC_REQ's operand. -/
def Packet.atomBytes (p : Packet) : Nat := if p.th 159 128 = 8 then 8 else 4

/-- An atomic whose checks have passed (R281): executed at once in the Groundsheet, or as a PCIe AtomicOp. -/
def State.atomicGo (s : State) (c ie : Nat) (x : ConnSt) (p : Packet) : State :=
  let n := p.atomBytes
  let k := s.key (p.th 191 160 % 2 ^ 18)
  let a := L.KEY.BASE.get k * 4096 + p.th 239 192
  if L.KEY.GS.on k then s.gsAtomic c x p a n
  else match s.xlPlace x.fn ie a n true with
    | (s, .ok 1 off _) => s.gsAtomic c x p off n
    | (s, .ok _ addr g) =>
      ((s.modConn c fun y => { y with atomics := y.atomics ++ [p] }).oneRecv c p).emit
        (.hostAtomic g addr (p.th 243 240) n (leNat (p.payload.take 8)) (leNat (p.payload.drop 8)))
    | (s, .miss m) => s.park c ie p m
    | (s, .fail st) => s.oneRefuse c x p st

/-- The checks of an ATOMIC_REQ after its key's (R281). -/
def State.atomicCheck (s : State) (p : Packet) : Status :=
  let aop := p.th 243 240
  let gs := L.KEY.GS.on (s.key (p.th 191 160 % 2 ^ 18))
  firstStatus [
    (decide (10 ≤ aop) || (!gs && decide (3 ≤ aop)), .notPermitted),
    (p.th 239 192 % p.atomBytes != 0 || (p.th 159 128 != 4 && p.th 159 128 != 8), .badValue)]

/-- An ATOMIC_REQ (R281, R284). -/
def State.recvAtomic (s : State) (c ie : Nat) (x : ConnSt) (p : Packet) : State :=
  match s.keyCheck x p (p.th 159 128), s.atomicCheck p with
  | .ok, .ok => s.atomicGo c ie x p
  | .ok, st => s.oneRefuse c x p st
  | st, _ => (s.keyCount x st).oneRefuse c x p st

/-- ATOMICOP_COMPLETE (R281): the old value, or ACCESS for an error completion, goes back in the ATOMIC_RESP. The old
value that goes with ACCESS is a free value. -/
def execAtomicOpComplete (c : Fin 16777216) (psn : BitVec 24) (res : ReadResult) : State → Res :=
  whenRunning fun s => match s.conn c with
    | none => s
    | some x => match x.atomics.find? fun p => p.psn == psn.toNat with
      | none => s
      | some p =>
        let s := s.setConn c { x with atomics := x.atomics.filter fun q => q.psn != psn.toNat }
        match res with
        | .data bs => s.atomicResp c x p (leNat (bs.take 8)) 0
        | _ => let r := s.drawNat; r.2.atomicResp c x p (r.1 % 2 ^ 64) Status.access.code

/-! ### CANCEL (R291, R322) -/

/-- A CANCEL at the receiver (R291, R307, R322): the message commits, and ends with the CANCEL's status if it is still
open. -/
def State.recvCancel (s : State) (c ie : Nat) (x : ConnSt) (p : Packet) : State :=
  let m := p.msn
  let st := p.aux % 256
  let s := (s.setConn c ((x.release m).seeMsn m)).markRecv c p.psn
  let s := { s with mat := { s.mat with held := s.mat.held.filter fun h => !(h.conn == c && h.msn == m) } }
  let s := match x.rmsg m with
    | some r => s.finishR c { r with status := st }
    | none => if x.msgDone m then s else s.recvAccounted c m
  let s := s.modConn c fun y =>
    { y with msgs := y.msgs.map (fun q => if q.kind = 6 ∧ q.rtsMsn = m ∧ !q.done ∧ q.status.isNone then { q with status := some st } else q)
             rndvWait := y.rndvWait.filter fun q => q.rtsMsn != m }
  let s := (x.rndvWait.filter fun q => q.rtsMsn == m).foldl (fun s q => s.msgEffect c { q with status := some st }) s
  let s := s.mapUnexp fun u => if u.conn = c ∧ u.msn = m ∧ u.rndv then { u with status := st } else u
  ((s.mat.domains.foldl (fun s d => s.setDomain d) s).commits c ie).settle c

/-! ### TRANSPORT_RECEIVE (R262, R267) -/

/-- A packet that has passed the window checks, by its opcode. -/
def State.recvOp (s : State) (c ie : Nat) (x : ConnSt) (p : Packet) : State :=
  if isResp p.op then s.placePkt c ie p
  else if p.op = 0x0D then s.recvCancel c ie x p
  else if x.msgDone p.msn then s.markRecv c p.psn
  else match p.op with
    | 1 => (s.recvPut c ie x p).commitOther c ie p.msn
    | 2 => (s.recvGet c x p).commitOther c ie p.msn
    | 4 => (s.recvSend c ie x p).commitOther c ie p.msn
    | 6 => (s.recvAtomic c ie x p).commitOther c ie p.msn
    | 0x21 => (s.recvRndv c x p).commitOther c ie p.msn
    | _ => s.recvMatched c ie x p

/-- A packet of a connection whose context is at hand (R267). -/
def State.recvConn (s : State) (c ie : Nat) (x : ConnSt) (p : Packet) : State :=
  let d := wsub 24 p.psn x.epsn
  if 2 ^ 23 ≤ d ∨ x.known p.psn then (s.cnt .DUP_PKT_COUNT).modConn c fun y => { y with ackDue := true }
  else if 4096 ≤ d then s.cnt .OUT_OF_WINDOW_COUNT
  else
    let x := if L.NET.CE.get p.net = 0 then x else { x with ce := min (x.ce + 1) 255 }
    let s := s.setConn c x
    s.recvOp c ie x p

/-- A packet admitted at its endpoint (R247, R255, R267): refused without its connection or while the function is halted;
otherwise it waits for the connection's context, or is handled. -/
def State.recvAdmitted (s : State) (ie : Nat) (p : Packet) : State :=
  let c := p.dstConn
  match s.conn c with
  | none => s.noticeBack ie p .badState
  | some x =>
    if !(s.fromPeer x p) || s.inReset x.fn then s.noticeBack ie p .badState
    else if x.st ≠ 1 then s.refuse c x p .badState
    else if s.on F.FUNC_STATUS.FUNCTION_HALTED x.fn then s.refuse c x p .functionHalted
    else if s.ctxCached c then (s.ctxUse c).recvConn c ie x p
    else
      let s := s.setConn c { x with ctxWait := x.ctxWait ++ [p] }
      if x.ctxWait.isEmpty then
        (s.cnt .CTX_MISS_COUNT).hostRead x.fn
          (s.f F.CTX_ADDR.BASE x.fn * 4096 + 2048 * (c - s.f F.FUNC_CONN_RANGE.CONN_BASE x.fn)) 256
      else s

/-- TRANSPORT_RECEIVE (R65, R73, R262, R267). -/
def execTransportReceive (ie : Fin 16) : State → Res :=
  whenRunning fun s => match s.ejFor ie 0 with
    | none => s
    | some p =>
      let s := s.ejPop ie
      match s.admission p.job p.dstEp with
      | (s, some st) => s.noticeBack ie p st
      | (s, none) => if p.wellFormed then s.recvAdmitted ie p else s.cnt .OUT_OF_WINDOW_COUNT

/-- CONTEXT_FETCH_COMPLETE (R255, R256): the packets that wait are handled in their order, or refused with BAD_STATE. -/
def execContextFetchComplete (c : Fin 16777216) (ok : Bool) : State → Res :=
  whenRunning fun s => match s.conn c with
    | none => s
    | some x =>
      if x.ctxWait.isEmpty then s
      else
        let s := s.setConn c { x with ctxWait := [] }
        if ok then
          x.ctxWait.foldl (fun s p => match s.conn c with
            | some y => if y.st = 1 then s.recvConn c (s.fnIe y.fn c) y p else s.refuse c y p .badState
            | none => s) (s.ctxUse c)
        else x.ctxWait.foldl (fun s p => s.refuse c x p .badState) ((s.cnt .CTX_FETCH_ERROR_COUNT x.fn).fnEvent 1488 1694 x.fn)

/-- REMOTE_FLUSH_COMPLETE (R277): the final packet is marked received and its message ends; a flush read that fails is
issued again. -/
def execRemoteFlushComplete (c : Fin 16777216) (psn : BitVec 24) (ok : Bool) : State → Res :=
  whenRunning fun s => match s.conn c with
    | none => s
    | some x => match x.rmsgs.find? fun m => m.flush == 2 && m.flushPsn == psn.toNat with
      | none => s
      | some m => if ok then (s.markRecv c psn.toNat).finishR c m else s.emit (.hostFlush x.fn 0)

/-! ### Datagrams (R231, R232) -/

/-- DG_RECEIVE (R231, R232, R262): the next RECV_BUF of DST_RING is consumed, or the packet is dropped and counted. -/
def execDgReceive (ie : Fin 16) : State → Res :=
  whenRunning fun s => match s.ejFor ie 1 with
    | none => s
    | some p =>
      let s := s.ejPop ie
      match s.admission p.job p.dstEp with
      | (s, some st) => s.noticeBack ie p st
      | (s, none) =>
        let f := epFn p.dstEp
        let r := p.th 27 16
        if !p.wellFormed then s.cnt .OUT_OF_WINDOW_COUNT
        else match (s.ring f r).bufs with
        | [] => s.cnt .DG_DROP_COUNT f
        | b :: bs =>
          if h : f < 4096 ∧ r < 4096 then
            if s.fnQuiet f || !(s.ringIs f r 2) then s.cnt .DG_DROP_COUNT f
            else
              let d := s.entryData f r b
              let n := entryFld d 204 192
              let bytes := p.payload.take n
              let s := (s.hostWrite f (entryFld d 191 128) bytes).modRing f r fun x => { x with bufs := bs }
              s.completeEntry ⟨⟨f, h.1⟩, ⟨r, h.2⟩, b⟩ (if n < p.payload.length then .truncated else .ok) bytes.length
                (L.NET.SRC_NODE.get p.net + L.NET.SRC_EP.get p.net * 2 ^ 20)
          else s

/-! ### The sender hears back (R268 to R271, R279, R291) -/

/-- A sent packet acknowledged: what it counts for in its message (R275, R291, R320). -/
def ConnSt.credit (x : ConnSt) (u : TxUnit) : ConnSt :=
  match u.own with
  | none => x
  | some m =>
    x.mapMsg m fun y =>
      if u.op = 0x0D then { y with cancel := 2 }
      else if u.op = 3 then { y with respGone := y.respGone + 1 } else { y with gone := y.gone + 1 }

/-- The RTT estimate from a sample in turnovers (R271), in units of 1/16 tick. -/
def State.rttSample (s : State) (x : ConnSt) (sample : Nat) : ConnSt :=
  let err := (16 * sample : Nat) - x.srtt
  let srtt := x.srtt + err.tdiv 8
  let rttvar := x.rttvar + ((err.natAbs : Int) - x.rttvar).tdiv 4
  let rto := ceilDiv (srtt + max 16 (4 * rttvar)).toNat 16
  let y := { x with srtt := srtt, rttvar := rttvar, sampled := true }
  if s.on F.TP_RTO_CFG.RTO_FREEZE then y
  else { y with rto := max (s.f F.TP_RTO_CFG.RTO_MIN) (min rto (s.f F.TP_RTO_CFG.RTO_MAX)) }

/-- The packets acknowledged: each samples the round trip if it was sent once, and counts for its message. -/
def State.ackOne (s : State) (x : ConnSt) (p : SentPkt) : ConnSt :=
  let x := x.credit p.u
  let x := if p.sends = 1 then s.rttSample x (s.turnovers - p.sentAt) else x
  { x with progress := s.turnovers, timeouts := 0, routeFails := 0
           sent := x.sent.map fun q => if q.psn = p.psn then { q with acked := true, rnrAt := none } else q }

/-- The acknowledged packets at the head of what was sent are forgotten. -/
def ConnSt.trim (x : ConnSt) : ConnSt := { x with sent := x.sent.dropWhile fun p => p.acked }

/-- The sent packets that satisfy `p` acknowledged, with what follows (R269, R275). -/
def State.ackWhere (s : State) (c : Nat) (p : SentPkt → Bool) : State :=
  match s.conn c with
  | none => s
  | some x =>
    let hit := x.sent.filter fun q => !q.acked && p q
    let y := (hit.foldl (fun x q => s.ackOne x q) x).trim
    ((s.setConn c y).settle c).pumpAll c

/-- The connection of an ACK or NOTICE that reaches its sender: OPEN, from its peer, of a function that is neither halted
nor in reset (R247, R267). -/
def State.backConn (s : State) (p : Packet) : Option ConnSt :=
  match s.conn p.dstConn with
  | some x => if x.st = 1 ∧ s.fromPeer x p ∧ !(s.fnQuiet x.fn) then some x else none
  | none => none

/-- The highest PSN an ACK reports: the highest of its bitmap, else the one below its PSN (R269). -/
def ackHighest (psn map : Nat) : Nat :=
  if map % 2 ^ 512 = 0 then wsub 24 psn 1 else (psn + (map % 2 ^ 512).log2 + 1) % 2 ^ 24

/-- The connection with a further highest reported PSN, which only moves forward (R269). -/
def ConnSt.report (x : ConnSt) (h : Nat) : ConnSt :=
  match x.reported with
  | some g => if wsub 24 h g < 2 ^ 23 then { x with reported := some h } else x
  | none => { x with reported := some h }

/-- TRANSPORT_ACK_RECEIVE (R268, R269, R271, R272). -/
def execTransportAckReceive (ie : Fin 16) : State → Res :=
  whenRunning fun s => match s.ejFor ie 2 with
    | none => s
    | some p =>
      let s := s.ejPop ie
      match s.admission p.job p.dstEp with
      | (s, some _) => s
      | (s, none) =>
        if !p.wellFormed then s.cnt .OUT_OF_WINDOW_COUNT
        else match s.backConn p with
          | none => s
          | some x =>
            let c := p.dstConn
            let map := leNat p.payload
            let seen (q : SentPkt) : Bool :=
              let d := wsub 24 q.psn p.psn
              decide (2 ^ 23 ≤ d) || (decide (1 ≤ d) && decide (d ≤ 512) && map.testBit (d - 1))
            let x := x.report (ackHighest p.psn map)
            (s.setConn c (if p.aux / 256 = 0 then x else { x with ceSeen := true })).ackWhere c seen

/-- A packet sent again (R269, R270, R278, R293): a get's response reads memory again first. -/
def State.resend (s : State) (c psn : Nat) : State :=
  match s.conn c with
  | none => s
  | some x => match x.sent.find? fun q => q.psn == psn && !q.acked with
    | none => s
    | some q =>
      let again := q.u.op == 3 && q.u.len != 0
      let y := { x with sent := x.sent.map fun r =>
        if r.psn = psn then
          { r with sentAt := s.turnovers, sends := r.sends + 1, rnrAt := none, reread := again
                   u := if again then { r.u with payload := none, asked := false } else r.u }
        else r }
      let s := s.setConn c y
      if again then s.askUnit c y { q.u with payload := none, asked := false } else s.connSend c y q.u psn false

/-- The re-read responses whose bytes are at hand are sent (R278). -/
def State.sendReread (s : State) (c : Nat) : State :=
  match s.conn c with
  | none => s
  | some x =>
    let go := x.sent.filter fun q => q.reread && q.u.payload.isSome
    go.foldl (fun s q => s.connSend c x q.u q.psn false)
      (s.setConn c { x with sent := x.sent.map fun q => if q.u.payload.isSome then { q with reread := false } else q })

/-- Whether a sent packet is missing: below the highest PSN reported, and not acknowledged (R269). -/
def ConnSt.missing (x : ConnSt) (q : SentPkt) : Bool :=
  !q.acked && q.rnrAt.isNone && match x.reported with
    | some h => decide (1 ≤ wsub 24 h q.psn) && decide (wsub 24 h q.psn < 2 ^ 23)
    | none => false

/-- RETX_SELECTIVE (R269). -/
def execRetxSelective (c : Fin 16777216) (psn : BitVec 24) : State → Res :=
  whenRunning fun s => match s.conn c with
    | none => s
    | some x => match x.sent.find? fun q => q.psn == psn.toNat with
      | none => s
      | some q =>
        if x.st = 1 ∧ x.missing q ∧ max 16 x.srtt ≤ ((16 * (s.turnovers - q.sentAt) : Nat) : Int) ∧ !(s.fnQuiet x.fn) then
          ((s.cnt .RETX_SELECTIVE_COUNT).resend c psn.toNat).sendReread c
        else s

/-- RTO_EXPIRE (R270). -/
def execRtoExpire (c : Fin 16777216) : State → Res :=
  whenRunning fun s => match s.conn c with
    | none => s
    | some x =>
      let un := x.sent.filter fun q => !q.acked
      if x.st = 1 ∧ !un.isEmpty ∧ x.rto ≤ s.turnovers - x.progress ∧ !(s.fnQuiet x.fn) then
        let s := s.cnt .RETX_TIMEOUT_COUNT
        let rto := if s.on F.TP_RTO_CFG.RTO_FREEZE then x.rto else min (2 * x.rto) (s.f F.TP_RTO_CFG.RTO_MAX)
        let s := s.setConn c { x with rto := rto, timedOut := true, timeouts := x.timeouts + 1, progress := s.turnovers }
        if s.f F.TP_RTO_CFG.RETRY_LIMIT ≤ x.timeouts + 1 then
          let u := un.head?
          s.connError c .timeout (u.bind fun q => q.u.own) ((u.map fun q => q.psn).getD 0) 0
        else ((un.take (s.fa F.TP_CC_CFG.W_MIN)).foldl (fun s q => s.resend c q.psn) s).sendReread c
      else s

/-- RNR_RETRY (R279): the PSN refused for want of a buffer is sent again after RNR_TICKS turnovers. -/
def execRnrRetry (c : Fin 16777216) (psn : BitVec 24) : State → Res :=
  whenRunning fun s => match s.conn c with
    | none => s
    | some x =>
      let due (q : SentPkt) : Bool := q.psn == psn.toNat && (match q.rnrAt with
        | some t => decide (s.f F.TP_RETRY_CFG.RNR_TICKS ≤ s.turnovers - t)
        | none => false)
      if (x.sent.any due) && x.st == 1 && !(s.fnQuiet x.fn) then s.resend c psn.toNat else s

/-- Whether a status of a NOTICE ends the connection (R292). -/
def endsConn (st : Nat) : Bool :=
  st == Status.jobMismatch.code || st == Status.functionHalted.code || st == Status.badState.code ||
    st == Status.remoteUnreachable.code || st == Status.timeout.code

/-- A NOTICE for a connection (R279, R291, R292). -/
def State.noticeConn (s : State) (c : Nat) (x : ConnSt) (psn st : Nat) : State :=
  match x.sent.find? fun q => q.psn == psn && !q.acked with
  | none =>
    match x.sent.find? fun q => q.psn == psn with
    | some q => match q.u.own with
      | some m => (s.stopMsg c m st).settle c
      | none => s
    | none => s
  | some q =>
    if st = Status.noRecvBuffer.code then
      let tries := match q.u.own.bind fun m => x.msgs.find? fun y => y.msn == m && y.kind != 9 with
        | some m => m.rnr + 1
        | none => 1
      let lim := s.f F.TP_RETRY_CFG.RNR_RETRY
      if lim ≠ 15 ∧ lim < tries then s.connError c .noRecvBuffer q.u.own psn 0
      else
        let y := match q.u.own with
          | some m => x.mapMsg m fun z => { z with rnr := tries }
          | none => x
        s.setConn c { y with sent := y.sent.map fun r => if r.psn = psn then { r with rnrAt := some s.turnovers } else r }
    else if endsConn st then s.connError c (Status.ofCode st) q.u.own psn 0
    else
      let s := match q.u.own with
        | some m => if q.u.op = 0x0D then s else s.stopMsg c m st
        | none => s
      s.ackWhere c fun r => r.psn == psn

/-- A route-fail notice for a packet of a connection (R293): the PSN is sent again at once, or the connection fails. -/
def State.routeFailConn (s : State) (c : Nat) (x : ConnSt) (psn node dim : Nat) : State :=
  let n := x.routeFails + 1
  let s := s.setConn c { x with routeFails := n }
  if s.f F.TP_RETRY_CFG.ROUTE_FAIL_LIMIT ≤ n then
    let q := x.sent.find? fun q => q.psn == psn
    s.connError c .remoteUnreachable (q.bind fun q => q.u.own) psn (node + dim * 2 ^ 20 + 2 ^ 22)
  else (s.resend c psn).sendReread c

/-! ### Payloads (R421) -/

/-- PAYLOAD_READ_COMPLETE (R421): the data arrives and what can be sent is sent; an error stops its message with ABORTED
(assumption log 8). -/
def execPayloadReadComplete (c : Fin 16777216) (uid : Nat) (res : ReadResult) : State → Res :=
  whenRunning fun s => match s.conn c with
    | none => s
    | some x =>
      let want (u : TxUnit) : Bool := u.uid == uid && u.asked && u.payload.isNone
      match (x.txq ++ x.sent.map fun q => q.u).find? want with
      | none => s
      | some u =>
        match res with
        | .data bs =>
          let y := x.mapUid uid fun v => { v with payload := some (filled v.len bs v.fill) }
          ((s.setConn c y).pumpAll c).sendReread c
        | _ => ((s.unitFail c u .aborted).settle c).pumpAll c

/-! ### Misses resolved (R419, R420) -/

/-- The first parked packet of a connection in PSN order. -/
def ConnSt.firstParked (x : ConnSt) : Option WaitPkt :=
  x.parked.foldl (fun b w => match b with
    | none => some w
    | some v => if wsub 24 w.pkt.psn x.epsn < wsub 24 v.pkt.psn x.epsn then some w else b) none

/-- A parked packet whose miss has ended with a status: placed, or refused (R420, R421). `done` are the misses that have
ended, with their status. -/
def State.unpark (s : State) (c : Nat) (x : ConnSt) (w : WaitPkt) (st : Status) : State :=
  let s := s.setConn c { x with parked := x.parked.filter fun v => v != w }
  match s.conn c with
  | none => s
  | some x =>
    if st ≠ .ok then
      if isResp w.pkt.op then ((s.refuse c x w.pkt st).markRecv c w.pkt.psn).stopMsg c w.pkt.msn st.code |>.settle c
      else if w.pkt.op = 6 then s.oneRefuse c x w.pkt st
      else s.refuseAcc c x w.pkt st
    else
      let s := if w.pkt.op = 6 then s.atomicGo c w.ie x w.pkt else s.placePkt c w.ie w.pkt
      match s.conn c with
      | some y => if y.parked.any fun v => v.pkt == w.pkt then s.cnt .REMISS_COUNT else s
      | none => s

/-- The parked packets of a connection handled in PSN order, up to one whose miss is still outstanding (R420). -/
def State.unparkRun (h m : Nat) (st : Status) : Nat → Nat → State → State
  | 0, _, s => s
  | k + 1, c, s =>
    match s.conn c with
    | none => s
    | some x => match x.firstParked with
      | none => s
      | some w =>
        match w.miss with
        | none => (s.unpark c x w .ok).unparkRun h m st k c
        | some (h', m') =>
          if h' = h ∧ m' = m then (s.unpark c x w st).unparkRun h m st k c
          else if s.missValid h' m' then s
          else (s.unpark c x w .ok).unparkRun h m st k c

/-- A miss as its descriptor says it (R418): TLB kind and number, address space and page. -/
structure MissDesc where
  kind : Nat
  num : Nat
  asid : Nat
  page : Nat
  deriving DecidableEq, Repr

/-- Whether a range of a function's addresses, translated at an IE port, has a part in the missed page. -/
def State.missCovers (s : State) (d : MissDesc) (f ie addr n : Nat) : Bool :=
  d.kind == 1 && d.num == ie && s.xlOn f && s.f F.XL_FUNC.XLATE_ASID f == d.asid &&
    decide (addr % 2 ^ 48 / 4096 ≤ d.page) && decide (d.page ≤ (addr % 2 ^ 48 + (n - 1)) / 4096)

/-- The payload reads of a connection that wait on a miss which has failed (R421). -/
def State.failPayloads (s : State) (c : Nat) (x : ConnSt) (d : MissDesc) (st : Status) : State :=
  let ie := s.fnIe x.fn c
  let us := (x.txq ++ x.sent.map fun q => q.u).filter fun u =>
    u.payload.isNone && !u.asked && u.src == 1 && s.missCovers d x.fn ie u.addr u.len
  (us.foldl (fun s u => s.unitFail c u st) s).settle c

/-- What a resolved miss (die, number) lets a connection do: its parked packets, and its payloads that wait for their
address (R419 to R421). -/
def State.connResolve (s : State) (h m : Nat) (d : MissDesc) (st : Status) (c : Nat) (x : ConnSt) : State :=
  let s : State := s.unparkRun h m st x.parked.length c
  let s : State := match s.conn c with
    | some y => if st = Status.ok then s else s.failPayloads c y d st
    | none => s
  let s := (s.askPayloads c).pumpAll c
  match s.conn c with
  | some y => ((y.sent.filter fun q => q.reread && !q.u.asked).foldl (fun s q => s.askUnit c y q.u) s).sendReread c
  | none => s

/-- What a resolved miss lets the transport units do. -/
def State.transportResolve (s : State) (h m : Nat) (d : MissDesc) (st : Status) : State :=
  s.xp.conns.foldl (fun s (p : Nat × ConnSt) => s.connResolve h m d st p.1 p.2) s

end Sys2Proof.Machine
end

