-- ==== Sys2Proof/Machine/Coll.lean ====
section
/-!
DEFINITION. Collectives (R329 to R349): posts, instances, the tree, the stages in reproducible and fast mode, results,
aborts; and the notices that reach a node (R291 to R294).
-/
namespace Sys2Proof.Machine

open Sys2Proof

/-! ### Instances (R336, R337) -/

/-- The name of an instance. -/
def CInst.is (i : CInst) (mg seq : Nat) : Bool := i.mg == mg && i.seq == seq

/-- The instance of a name. -/
def State.inst (s : State) (mg seq : Nat) : Option CInst := s.coll.insts.find? fun i => i.is mg seq

/-- The state with an instance replaced. -/
def State.setInst (s : State) (i : CInst) : State :=
  { s with coll := ⟨s.coll.insts.map fun j => if j.is i.mg i.seq then i else j⟩ }

/-- The state without an instance. -/
def State.dropInst (s : State) (mg seq : Nat) : State := { s with coll := ⟨s.coll.insts.filter fun j => !(j.is mg seq)⟩ }

/-- Instance records in use: those of instances that have not completed (assumption log 9). -/
def State.instsUsed (s : State) : Nat := (s.coll.insts.filter fun i => !i.complete).length

/-- A record added; completed ones beyond the 4,096 records make room, oldest first. -/
def State.addInst (s : State) (i : CInst) : State :=
  let l := s.coll.insts.filter fun j => !(j.is i.mg i.seq)
  let l := if l.length < 4096 then l else
    match l.find? fun j => j.complete with
    | some j => l.filter fun k => !(k.is j.mg j.seq)
    | none => l
  { s with coll := ⟨l ++ [i]⟩ }

/-- The IE port through which a group's service sends (R20, R337). -/
def State.collIe (s : State) (mg : Nat) : Nat := (s.iePort (mg % 4) s.own 62 mg).getD (4 * (mg % 4))

/-- A group's entry, as its service reads it. -/
def State.collGroup (s : State) (mg : Nat) : BitVec 512 := BitVec.ofNat 512 (s.gsNat (mcgBase + 64 * mg) 64)

/-- The slice bytes of an instance (R332). -/
def CParams.sliceBytes (p : CParams) : Nat := 256 * 2 ^ p.slice

/-- The number of slices (R343). -/
def CParams.slices (p : CParams) : Nat := max 1 (ceilDiv p.bytes p.sliceBytes)

/-- Bytes of a slice. -/
def CParams.sliceLen (p : CParams) (k : Nat) : Nat := min p.sliceBytes (p.bytes - k * p.sliceBytes)

/-- What a packet or post says of its instance, as one. -/
def paramsOf (p : Packet) : CParams :=
  ⟨p.th 222 220, p.th 223 223 == 1, p.th 215 212, p.th 219 216, p.th 246 244, p.th 159 128⟩

/-- Instance name and position of a collective packet (R342). -/
def Packet.mg (p : Packet) : Nat := p.th 53 40
def Packet.seq (p : Packet) : Nat := p.th 79 64
def Packet.slice (p : Packet) : Nat := p.th 111 88

/-! ### Collective packets (R341, R342) -/

/-- The transport header of a collective packet. -/
def collHdr (i : CInst) (p : CParams) (op stage slice status key ncontrib : Nat) : BitVec 256 :=
  BitVec.ofNat 256 (op + i.mg * 2 ^ 40 + i.seq * 2 ^ 64 + stage * 2 ^ 80 + slice % 2 ^ 24 * 2 ^ 88 + status * 2 ^ 112 +
    p.bytes * 2 ^ 128 + slice * p.sliceBytes % 2 ^ 32 * 2 ^ 160 + key * 2 ^ 192 + p.dtype * 2 ^ 212 + p.op * 2 ^ 216 +
    p.kind * 2 ^ 220 + b2n p.repro * 2 ^ 223 + ncontrib * 2 ^ 224 + p.slice * 2 ^ 244)

/-- A collective packet sent under the instance's job: to a node, or to the group where `dst` is none. -/
def State.collSend (s : State) (i : CInst) (ie owner : Nat) (dst : Option Nat) (tp : BitVec 256) (data : List Byte)
    (entry : Option EntryRef) : State :=
  let net := match dst with
    | some n => s.netHdr n 62 62 i.job 2 6 false none (32 + data.length)
    | none => s.netHdr s.own 0 62 i.job 2 6 false (some i.mg) (32 + data.length)
  s.txPush ie ⟨⟨net, tp, data⟩, none, 0, owner, false, entry, none⟩

/-! ### Ends (R335, R347, R348) -/

/-- The done record of a post (R335), with its counts and DONE_CTR. -/
def State.collRecord (s : State) (i : CInst) (st : Nat) (p : CPost) : State :=
  let kind := (i.par.map fun q => q.kind).getD 0
  let v := st + kind * 2 ^ 8 + i.seq * 2 ^ 16 + i.mg * 2 ^ 32 + s.tick * 2 ^ 64
  let s := s.hostWrite p.fn p.doneAddr (leBytes 16 v)
  if st = 0 then
    let s := s.cnt .COLL_DONE_COUNT
    let s := match s.jobSlot i.job with
      | some k => s.jobCount k 96 1
      | none => s
    match p.ctr with
    | some c => if L.TRG.VALID.on (s.trg c) then s.raiseCtr c 1 else s
    | none => s
  else s.cnt .COLL_FAIL_COUNT

/-- The send-ring entries of posts that have not completed complete with OK (R334). -/
def State.collEntries (s : State) (i : CInst) : State :=
  i.posts.foldl (fun s p => match p.entry with
    | some e => s.completeEntry e .ok
    | none => s) s

/-- An instance aborted with a status (R348): COLL_ABORT goes to the group unless one was received, held packets and folds
are discarded, a done record is written for each local post, and the record stays as a tombstone. -/
def State.collAbort (s : State) (mg seq st : Nat) (tell : Bool) : State :=
  match s.inst mg seq with
  | none => s
  | some i =>
    if i.tomb.isSome || i.complete then s
    else
      let s := if tell then
        let p := i.par.getD ⟨0, false, 0, 0, 0, 0⟩
        (s.cnt .COLL_ABORT_SENT_COUNT).collSend i (s.collIe mg) serviceOwner none (collHdr i p 0x33 0 0 st 0 0) [] none
      else s
      let s := s.raise 1612
      let s := s.setInst { i with posts := [], inputs := [], folds := [], accs := [], partials := [], pend := [], early := [],
                                  tomb := some s.turnovers }
      let s := i.posts.foldl (fun s p => s.collRecord i st p) s
      s.collEntries { i with posts := i.posts.filter fun p => p.entry.isSome }

/-- Leading slices in a list. -/
def leading (l : List Nat) : Nat → Nat → Nat
  | 0, k => k
  | n + 1, k => if l.contains k then leading l n (k + 1) else k

/-- Leading slices known complete at the node: DONE of R343. -/
def CInst.done (i : CInst) (p : CParams) : Nat :=
  if p.kind = 2 then i.marks else leading i.downs i.downs.length 0

/-- An instance whose results are all placed writes its done records (R347). -/
def State.collComplete (s : State) (mg seq : Nat) : State :=
  match s.inst mg seq with
  | none => s
  | some i => match i.par with
    | none => s
    | some p =>
      if i.tomb.isNone && !i.complete && decide (p.slices ≤ i.done p) && i.posts.length == i.nlocal then
        let s := s.setInst { i with complete := true, inputs := [], accs := [], partials := [], pend := [], early := [],
                                    folds := [] }
        i.posts.foldl (fun s p => s.collRecord i 0 p) s
      else s

/-! ### The tree (R339) -/

/-- The tree's dimensions A: enabled, with more than one masked coordinate below the size, in the order D3 to D0. -/
def State.treeDims (s : State) (e : BitVec 512) : List Nat :=
  [3, 2, 1, 0].filter fun d => s.dimOn d && decide (1 < popcount (mcgMask e d) (s.dimSize d))

/-- The inputs that a stage of an instance needs. -/
def State.stageNeed (s : State) (e : BitVec 512) (dims : List Nat) (i : CInst) (stage : Nat) : Nat :=
  if stage = 0 then i.nlocal
  else
    let d := lget dims (stage - 1) 0
    popcount (mcgMask e d) (s.dimSize d)

/-! ### Sending upwards (R334, R343) -/

/-- Whether a post contributes data or a barrier's input. -/
def CParams.contributes (p : CParams) (cri : Nat) : Bool := p.kind != 1 || cri == 0

/-- Slice k of a post's operand sent: as COLL_UP to the own node, or as COLL_DOWN of a broadcast (R347). The last one
carries the post's entry, which completes when it has entered the switch core (R334). -/
def State.postSlice (s : State) (i : CInst) (p : CParams) (q : CPost) (k : Nat) : State :=
  let data := (q.operand.drop (k * p.sliceBytes)).take p.sliceBytes
  let entry := if k + 1 = p.slices then q.entry else none
  let ie := (s.iePort (s.homeHub q.fn) s.own 62 i.mg).getD (4 * s.homeHub q.fn)
  if p.kind = 1 then s.collSend i ie q.fn none (collHdr i p 0x31 0 k 0 0 0) data entry
  else s.collSend i ie q.fn (some s.own) (collHdr i p 0x30 0 k 0 q.cri 1) data entry

/-- The slices that the window lets the node send: all of them for a broadcast or barrier (R343). -/
def State.sliceLimit (s : State) (i : CInst) (p : CParams) : Nat :=
  if p.kind ≤ 1 then p.slices else min p.slices (i.done p + s.f F.COLL_CFG.SLICE_WINDOW)

/-- What the window now lets the node's service send. -/
def State.collPump (s : State) (mg seq : Nat) : State :=
  match s.inst mg seq with
  | none => s
  | some i => match i.par with
    | none => s
    | some p =>
      let lim := s.sliceLimit i p
      let sends (q : CPost) : Bool := p.contributes q.cri && decide (q.sent < lim)
      let go := i.partials.filter fun x => decide (x.slice < lim)
      let s := s.setInst { i with
        posts := i.posts.map fun q => if sends q then { q with sent := lim, entry := if lim = p.slices then none else q.entry } else q
        partials := i.partials.filter fun x => !(decide (x.slice < lim)) }
      let s := i.posts.foldl (fun s q =>
        if sends q then (List.range (lim - q.sent)).foldl (fun s k => s.postSlice i p q (q.sent + k)) s else s) s
      let dims := s.treeDims (s.collGroup mg)
      go.foldl (fun s x =>
        let d := lget dims (x.stage - 1) 0
        s.collSend i (s.collIe mg) serviceOwner (some (s.setCoord s.own d (s.fldOf i.root d)))
          (collHdr i p 0x30 x.stage x.slice 0 x.key x.ncontrib) x.data none) s

/-! ### Results (R347) -/

/-- The bytes of a result slice that a contributor receives, with their place at its DST_ADDR (R329). -/
def CInst.share (i : CInst) (p : CParams) (q : CPost) (slice : Nat) (data : List Byte) : Nat × List Byte :=
  let off := slice * p.sliceBytes
  if p.kind = 4 then
    let n := p.bytes / max 1 i.ntotal
    let lo := q.cri * n
    let a := max off lo
    let b := min (off + data.length) (lo + n)
    (a - lo, (data.drop (a - off)).take (b - a))
  else (off, data)

/-- Bytes placed at a post's DST_ADDR. -/
def State.collPlace (s : State) (i : CInst) (p : CParams) (q : CPost) (ie slice : Nat) (data : List Byte) :
    State × Option Xl :=
  let r := i.share p q slice data
  if r.2.isEmpty then (s, none)
  else
    let s := match s.jobSlot i.job with
      | some k => s.jobCount k 56 r.2.length
      | none => s
    s.place q.fn ie (q.dst + r.1) r.2

/-- The placements of several posts, until one misses or fails. -/
def State.collPlaces (s : State) (i : CInst) (p : CParams) (ie slice : Nat) (data : List Byte) :
    List CPost → State × Option Xl
  | [] => (s, none)
  | q :: qs =>
    match s.collPlace i p q ie slice data with
    | (s, none) => s.collPlaces i p ie slice data qs
    | r => r

/-- A reduce result placed at DST_ADDR of CRI 0; it waits where its address misses. -/
def State.collReduce (s : State) (i : CInst) (p : CParams) (x : CInput) : State :=
  match s.collPlaces i p (s.collIe i.mg) x.slice x.data (i.posts.filter fun q => q.cri == 0) with
  | (s, none) => match s.inst i.mg i.seq with
    | some j => s.setInst { j with results := j.results ++ [x.slice], progress := s.turnovers
                                   pend := j.pend.filter fun y => y.slice != x.slice }
    | none => s
  | (s, some (.fail st)) => s.collAbort i.mg i.seq st.code true
  | (s, some _) => match s.inst i.mg i.seq with
    | some j => s.setInst { j with pend := (j.pend.filter fun y => y.slice != x.slice) ++ [x] }
    | none => s

/-- What follows the end of a stage's fold (R339, R345, R347): the result at the root, the partial sent to the parent, or
the input of the node's own next stage. -/
def State.collNext (s : State) (i : CInst) (p : CParams) (x : CInput) : State × Option CInput :=
  let e := s.collGroup i.mg
  let dims := s.treeDims e
  if dims.length ≤ x.stage then
    if x.ncontrib ≠ i.ntotal then (s.collAbort i.mg i.seq Status.badValue.code true, none)
    else if p.kind = 2 then (s.collReduce i p x, none)
    else (s.collSend i (s.collIe i.mg) serviceOwner none (collHdr i p 0x31 0 x.slice 0 0 0) x.data none, none)
  else
    let d := lget dims x.stage 0
    let y := { x with stage := x.stage + 1, own := true, taken := 0 }
    if s.fldOf s.own d = s.fldOf i.root d then (s, some y)
    else
      match s.inst i.mg i.seq with
      | some j => ((s.setInst { j with partials := j.partials ++ [y] }).collPump i.mg i.seq, none)
      | none => (s, none)

/-- The fold of inputs in ascending KEY order (R344). -/
def foldInputs (p : CParams) (l : List CInput) : Option CInput :=
  match l.mergeSort fun a b => decide (a.key ≤ b.key) with
  | [] => none
  | a :: as => some (as.foldl (fun acc x =>
      { acc with data := combineBytes p.dtype p.op acc.data.length acc.data x.data, ncontrib := acc.ncontrib + x.ncontrib }) a)

/-- The inputs of a stage and slice. -/
def CInst.at (i : CInst) (stage slice : Nat) : List CInput := i.inputs.filter fun x => x.stage == stage && x.slice == slice

/-- The instance with a stage's slice folded. -/
def CInst.folded (i : CInst) (stage slice : Nat) : CInst :=
  { i with inputs := i.inputs.map fun x => if x.stage = stage ∧ x.slice = slice then { x with taken := 2, data := [] } else x
           folds := i.folds.filter fun f => f != (stage, slice)
           accs := i.accs.filter fun x => !(x.stage == stage && x.slice == slice) }

/-- An input folded into its fast-mode accumulator (R346). -/
def CInst.accumulate (i : CInst) (p : CParams) (x : CInput) : CInst :=
  let mine (y : CInput) : Bool := y.stage == x.stage && y.slice == x.slice
  let acc := match i.accs.find? mine with
    | some a => { a with data := combineBytes p.dtype p.op a.data.length a.data x.data, key := min a.key x.key
                         ncontrib := a.ncontrib + x.ncontrib }
    | none => x
  { i with accs := (i.accs.filter fun y => !(mine y)) ++ [acc], inputs := i.inputs ++ [{ x with taken := 2, data := [] }] }

/-- An input accepted at a stage (R340, R344 to R346): a second one of its KEY is discarded, one that disagrees with the
posts aborts the instance, and in fast mode it is folded at once, which may complete the stage and those after it. -/
def State.collInput (mg seq : Nat) : Nat → CInput → State → State
  | 0, _, s => s
  | k + 1, x, s =>
    match s.inst mg seq with
    | none => s
    | some i => match i.par with
      | none => s
      | some p =>
        if (i.at x.stage x.slice).any fun y => y.key == x.key then s.cnt .COLL_DUP_COUNT
        else if x.par ≠ p then s.collAbort mg seq Status.badValue.code true
        else
          let i := { i with progress := s.turnovers }
          if p.repro then s.setInst { i with inputs := i.inputs ++ [x] }
          else
            let j := i.accumulate p x
            let e := s.collGroup mg
            if (j.at x.stage x.slice).length < s.stageNeed e (s.treeDims e) j x.stage then s.setInst j
            else
              match j.accs.find? fun y => y.stage == x.stage && y.slice == x.slice with
              | none => s.setInst j
              | some a =>
                match (s.setInst (j.folded x.stage x.slice)).collNext j p a with
                | (s, some y) => s.collInput mg seq k y
                | (s, none) => s

/-! ### Packets (R337, R338, R343, R347 to R349) -/

/-- Segments that an instance holds on a hub die (R338). -/
def CInst.held (i : CInst) (h : Nat) : Nat :=
  (if h = 0 then
      (i.inputs.filter fun x => !x.own && decide (x.taken < 2)).foldl (fun a x => a + ceilDiv (64 + x.data.length) 64) 0
    else 0) +
    (i.early.filter fun p => (if p.op = 0x30 then 0 else i.mg % 4) == h).foldl (fun a p => a + segsOf p) 0

/-- Segments held on a hub die (COLL_STAGE_USED). -/
def State.stageUsed (s : State) (h : Nat) : Nat := s.coll.insts.foldl (fun a i => a + i.held h) 0

/-- Whether a packet would pass the limit on held segments. -/
def State.stageFull (s : State) (p : Packet) : Bool :=
  decide (s.f F.COLL_CFG.STAGE_LIMIT < s.stageUsed (if p.op = 0x30 then 0 else p.mg % 4) + segsOf p)

/-- A packet refused by the service for want of room (R338). -/
def State.collFull (s : State) (ie : Nat) (p : Packet) : State := (s.cnt .COLL_STAGE_FULL_COUNT).noticeBack ie p .noResource

/-- A packet held until its stage can use it. -/
def State.collHold (s : State) (i : CInst) (p : Packet) : State := s.setInst { i with early := i.early ++ [p] }

/-- A COLL_DOWN slice placed at each local contributor (R347). -/
def State.collDown (s : State) (ie : Nat) (i : CInst) (p : CParams) (pkt : Packet) : State :=
  if i.downs.contains pkt.slice then s
  else match s.collPlaces i p ie pkt.slice pkt.payload i.posts with
    | (s, none) =>
      ((s.setInst { i with downs := i.downs ++ [pkt.slice], progress := s.turnovers }).collComplete i.mg i.seq).collPump
        i.mg i.seq
    | (s, some (.fail st)) => s.noticeBack ie pkt st
    | (s, some _) => s.collHold i pkt

/-- A COLL_MARK received (R343, R347). -/
def State.collMark (s : State) (i : CInst) (n : Nat) : State :=
  ((s.setInst { i with marks := max i.marks n, progress := if i.marks < n then s.turnovers else i.progress }).collComplete
    i.mg i.seq).collPump i.mg i.seq

/-- A packet of an instance whose posts are known. -/
def State.collUse (s : State) (ie : Nat) (i : CInst) (p : CParams) (pkt : Packet) : State :=
  match pkt.op with
  | 0x30 =>
    let x : CInput := ⟨pkt.th 82 80, pkt.slice, pkt.th 211 192, pkt.th 243 224, pkt.payload, paramsOf pkt, false, 0⟩
    if p.repro && s.stageFull pkt then s.collFull ie pkt
    else s.collInput i.mg i.seq 6 x
  | 0x31 => s.collDown ie i p pkt
  | _ => s.collMark i pkt.slice

/-- A packet accepted by the service (R336, R338, R349): for a tombstone or a completed instance it is stale; it waits for
the node's posts, or is used. -/
def State.collAccept (s : State) (ie : Nat) (pkt : Packet) : State :=
  match s.inst pkt.mg pkt.seq with
  | none =>
    if 4096 ≤ s.instsUsed then s.noticeBack ie pkt .noResource
    else if s.stageFull pkt then s.collFull ie pkt
    else s.addInst { mg := pkt.mg, seq := pkt.seq, job := pkt.job, early := [pkt], born := s.turnovers, progress := s.turnovers }
  | some i =>
    if i.tomb.isSome || i.complete then s.cnt .COLL_STALE_COUNT
    else match i.par with
      | none => if s.stageFull pkt then s.collFull ie pkt else s.collHold i pkt
      | some p =>
        if pkt.op = 0x31 ∧ i.posts.length < i.nlocal then
          (if s.stageFull pkt then s.collFull ie pkt else s.collHold i pkt)
        else s.collUse ie i p pkt

/-- The packets held for an instance tried again, in the order they came. -/
def State.collRetry (s : State) (mg seq : Nat) : State :=
  match s.inst mg seq with
  | none => s
  | some i =>
    let s := s.setInst { i with early := [] }
    let s := i.early.foldl (fun s p => s.collAccept (s.collIe mg) p) s
    match i.par with
    | some p => i.pend.foldl (fun s x => s.collReduce i p x) s
    | none => s

/-- A collective row: the head of an IE port, admitted for its job at the service's endpoint (R73). -/
def State.collReceive (s : State) (ie row : Nat) (g : Packet → State → State) : State :=
  match s.ejFor ie row with
  | none => s
  | some p =>
    let s := s.ejPop ie
    match s.admission p.job p.dstEp with
    | (s, some st) => s.noticeBack ie p st
    | (s, none) => if p.dstEp ≠ 62 ∨ !(L.NET.PLEN.get p.net == 32 + p.payload.length) then s.cnt .OUT_OF_WINDOW_COUNT else g p s

/-- COLL_UP_RECEIVE (R344). -/
def execCollUpReceive (ie : Fin 16) : State → Res :=
  whenRunning fun s => s.collReceive ie 5 fun p s => s.collAccept ie p

/-- COLL_DOWN_RECEIVE (R347). -/
def execCollDownReceive (ie : Fin 16) : State → Res :=
  whenRunning fun s => s.collReceive ie 6 fun p s => s.collAccept ie p

/-- COLL_MARK_RECEIVE (R347). -/
def execCollMarkReceive (ie : Fin 16) : State → Res :=
  whenRunning fun s => s.collReceive ie 7 fun p s => s.collAccept ie p

/-- COLL_ABORT_RECEIVE (R348): no further abort is sent. A record that the abort itself creates is a tombstone. -/
def execCollAbortReceive (ie : Fin 16) : State → Res :=
  whenRunning fun s => s.collReceive ie 8 fun p s =>
    match s.inst p.mg p.seq with
    | none =>
      if 4096 ≤ s.instsUsed then s
      else
        let i : CInst := { mg := p.mg, seq := p.seq, job := p.job, born := s.turnovers, progress := s.turnovers }
        ((s.addInst i).cnt .COLL_ABORT_RECV_COUNT).collAbort p.mg p.seq (p.th 119 112) false
    | some i =>
      if i.tomb.isSome || i.complete then s.cnt .COLL_STALE_COUNT
      else (s.cnt .COLL_ABORT_RECV_COUNT).collAbort p.mg p.seq (p.th 119 112) false

/-! ### Folds and turnovers (R344, R345, R347) -/

/-- COLL_FOLD_DONE (R344, R345): the fold of a slice taken at a turnover finishes, and its partial or result goes on. -/
def execCollFoldDone (mg : BitVec 14) (seq : BitVec 16) (stage : Fin 8) (slice : Nat) : State → Res :=
  whenRunning fun s => match s.inst mg.toNat seq.toNat with
    | none => s
    | some i => match i.par with
      | none => s
      | some p =>
        if i.folds.contains (stage.val, slice) then
          match foldInputs p (i.at stage slice) with
          | none => s
          | some x =>
            let u := s.collIe mg.toNat
            match ((s.setInst { i.folded stage slice with progress := s.turnovers }).perf (u / 4) 0x60 u 0 1).collNext i p x with
            | (s, some y) => s.collInput i.mg i.seq 1 y
            | (s, none) => s
        else s

/-- The stages and slices of an instance whose inputs are all present and not yet taken (R344). -/
def State.collReady (s : State) (i : CInst) : List (Nat × Nat) :=
  let e := s.collGroup i.mg
  let dims := s.treeDims e
  let waiting := i.inputs.filter fun x => x.taken == 0
  (waiting.map fun x => (x.stage, x.slice)).eraseDups.filter fun k =>
    decide (s.stageNeed e dims i k.1 ≤ (i.at k.1 k.2).length)

/-- The turnover of an instance: unfinished folds slip, complete inputs are taken, and the root reports its leading slices
(R344, R345, R347). -/
def State.instTurnover (s : State) (i : CInst) : State :=
  match i.par with
  | none => s
  | some p =>
    if i.tomb.isSome || i.complete then s
    else
      let s := if i.folds.isEmpty then s else s.cnt .COLL_SLIP_COUNT 0 0 i.folds.length
      let ready := if p.repro then s.collReady i else []
      let n := leading i.results i.results.length 0
      let s := s.setInst { i with
        folds := i.folds ++ ready, marked := n
        inputs := i.inputs.map fun x => if ready.contains (x.stage, x.slice) then { x with taken := 1 } else x }
      if i.marked < n then
        s.collSend i (s.collIe i.mg) serviceOwner none (collHdr i p 0x32 0 n 0 0 0) [] none
      else s

/-- Whether a collective stage is late at this turnover (R345). -/
def State.collLate (s : State) : Bool := s.coll.insts.any fun i => !i.folds.isEmpty

/-- The turnover of the collective service. -/
def State.collTurnover (s : State) : State := s.coll.insts.foldl (fun s i => s.instTurnover i) s

/-! ### Timeouts (R348, R349) -/

/-- STAGE_TIMEOUT turnovers have passed since a turnover. -/
def State.collPassed (s : State) (since : Nat) : Bool := decide (s.f F.COLL_CFG.STAGE_TIMEOUT ≤ s.turnovers - since)

/-- COLL_STAGE_TIMEOUT (R348). -/
def execCollStageTimeout (mg : BitVec 14) (seq : BitVec 16) : State → Res :=
  whenRunning fun s => match s.inst mg.toNat seq.toNat with
    | some i =>
      if !i.posts.isEmpty && i.tomb.isNone && !i.complete && s.collPassed i.progress then
        s.collAbort i.mg i.seq Status.timeout.code true
      else s
    | none => s

/-- COLL_TOMBSTONE_EXPIRE (R348). -/
def execCollTombstoneExpire (mg : BitVec 14) (seq : BitVec 16) : State → Res :=
  whenRunning fun s => match s.inst mg.toNat seq.toNat with
    | some i => match i.tomb with
      | some t => if s.collPassed t then s.dropInst i.mg i.seq else s
      | none => s
    | none => s

/-- COLL_ORPHAN_EXPIRE (R349). -/
def execCollOrphanExpire (mg : BitVec 14) (seq : BitVec 16) : State → Res :=
  whenRunning fun s => match s.inst mg.toNat seq.toNat with
    | some i =>
      if i.par.isNone && i.tomb.isNone && s.collPassed i.born then (s.dropInst i.mg i.seq).cnt .COLL_ORPHAN_COUNT else s
    | none => s

/-! ### COLL_POST (R332 to R334) -/

/-- What a post says of its instance. -/
def postParams (d : BitVec 512) : CParams :=
  ⟨L.CP.KIND.get d, L.CP.REPRO.on d, L.CP.DTYPE.get d, L.CP.OP.get d, L.CP.SLICE.get d, L.CP.BYTES.get d⟩

/-- The operand values of a post that are not permitted (R333). -/
def State.postBad (s : State) (f : Nat) (d : BitVec 512) (e : BitVec 512) : Bool :=
  let p := postParams d
  let n := L.CP.NTOTAL.get d
  let nl := L.CP.NLOCAL.get d
  let cri := L.CP.CRI.get d
  let unit := dtypeBytes p.dtype * (if p.kind = 4 then max 1 n else 1)
  L.MCG.EPMASK.get e != 2 ^ 62 ||
    s.illegalCoord (L.CP.ROOT.get d) || !(s.mcgMember e (L.CP.ROOT.get d)) ||
    decide (n ≤ cri) || (cri == 0 && L.CP.ROOT.get d != s.own) ||
    n == 0 || nl == 0 || decide (16 < nl) ||
    !(opPermitted p.dtype p.op) ||
    (p.kind == 0 && (p.bytes != 0 || p.dtype != 0 || p.op != 0)) ||
    p.bytes % unit != 0 ||
    L.CP.DONE_ADDR.get d % 16 != 0 ||
    decide (s.f F.FUNC_CFG.DG_MTU f < p.slice)

/-- The first statuses of a COLL_POST (R333). -/
def State.postCheck (s : State) (r : EntryRef) (d e : BitVec 512) : Status :=
  let slot := entryFld d 27 16
  let i := s.inst (L.CP.MGROUP.get d) (L.CP.SEQ.get d)
  let full := match i with
    | some i => !i.complete && (i.tomb.isSome || (i.posts.any fun q => q.cri == L.CP.CRI.get d) ||
        (i.par.isSome && decide (i.nlocal ≤ i.posts.length)))
    | none => false
  let fresh := match i with
    | some i => i.complete
    | none => true
  firstStatus [
    (!(s.jobBound r.fn slot) || !(mcgValid e) || L.MCG.JOB.get e != s.jobId slot || !(s.mcgMember e s.own) ||
      !((L.JOB.EP_MASK.get (s.jobEntry slot)).testBit 62) ||
      (L.CP.DONE_CTR_EN.on d && !(s.trgOk r.fn slot (L.CP.DONE_CTR.get d))), .notPermitted),
    (s.postBad r.fn d e, .badValue),
    (full, .badState),
    (fresh && decide (4096 ≤ s.instsUsed), .noResource)]

/-- Whether a post agrees with the earlier posts of its instance (R333). -/
def CInst.agrees (i : CInst) (d : BitVec 512) : Bool :=
  match i.par with
  | none => true
  | some p => p == postParams d && i.root == L.CP.ROOT.get d && i.ntotal == L.CP.NTOTAL.get d &&
      i.nlocal == L.CP.NLOCAL.get d

/-- A post joins its instance, and sends what it may (R334). -/
def State.postJoin (s : State) (r : EntryRef) (d : BitVec 512) (operand : List Byte) : State :=
  let mg := L.CP.MGROUP.get d
  let seq := L.CP.SEQ.get d
  let p := postParams d
  let up := p.contributes (L.CP.CRI.get d) && p.kind != 0
  let s := match s.inst mg seq with
    | some i => if i.complete then s.addInst { mg := mg, seq := seq, job := s.jobId (entryFld d 27 16), born := s.turnovers } else s
    | none => s.addInst { mg := mg, seq := seq, job := s.jobId (entryFld d 27 16), born := s.turnovers }
  match s.inst mg seq with
  | none => s
  | some i =>
    let q : CPost := ⟨r.fn, L.CP.CRI.get d, if up then some r else none, operand, 0, L.CP.DST_ADDR.get d, L.CP.DONE_ADDR.get d,
      if L.CP.DONE_CTR_EN.on d then some (L.CP.DONE_CTR.get d) else none⟩
    let s := s.setInst { i with
      par := some p, root := L.CP.ROOT.get d, ntotal := L.CP.NTOTAL.get d, nlocal := L.CP.NLOCAL.get d
      posts := i.posts ++ [q], progress := s.turnovers }
    let s := if up then s else s.completeEntry r .ok
    (s.collPump mg seq).collRetry mg seq

/-- COLL_POST (R332 to R334). -/
def execCollPost (e : EntryRef) (operand : ReadResult) : State → Res :=
  onEntry e 0x48 fun d s =>
    let mg := L.CP.MGROUP.get d
    match s.postCheck e d (s.collGroup mg) with
    | .ok =>
      let agrees := match s.inst mg (L.CP.SEQ.get d) with
        | some i => i.complete || i.agrees d
        | none => true
      if !agrees then (s.collAbort mg (L.CP.SEQ.get d) Status.badValue.code true).completeEntry e .badValue
      else
        let p := postParams d
        let n := if p.contributes (L.CP.CRI.get d) then p.bytes else 0
        match s.payloadRead e.fn (s.fnIe e.fn mg) (L.CP.SRC_ADDR.get d) n with
        | (s, .error (.fail st)) => s.completeEntry e st
        | (s, .error _) => s.untakeEntry e
        | (s, .ok fill) =>
          match (if fillBytes fill = n then some [] else match operand with
            | .data bs => some bs
            | _ => none) with
          | none => s.completeEntry e .aborted
          | some bs => s.postJoin e d (filled n bs fill)
    | st => s.completeEntry e st

/-! ### Notices (R291 to R294) -/

/-- NOTICE_RECEIVE (R291, R292, R294, R348): about a datagram or multicast packet it is counted; about a collective packet
it aborts the instance; about a packet of a connection it acts on the message or the connection. -/
def execNoticeReceive (ie : Fin 16) : State → Res :=
  whenRunning fun s => match s.ejFor ie 3 with
    | none => s
    | some p =>
      let s := s.ejPop ie
      match s.admission p.job p.dstEp with
      | (s, some _) => s
      | (s, none) =>
        if !p.wellFormed then s.cnt .OUT_OF_WINDOW_COUNT
        else
        let op := p.aux / 256
        let st := p.aux % 256
        let s := match s.jobSlot p.job with
          | some k => s.jobCount k 80 1
          | none => s
        if p.dstEp = 62 then s.collAbort (p.dstConn % 2 ^ 14) (p.psn % 2 ^ 16) st true
        else if op = 0x0B ∨ op = 0x0C then
          (if s.fnQuiet (epFn p.dstEp) then s else s.cnt .DG_REFUSED_COUNT (epFn p.dstEp))
        else match s.backConn p with
          | some x => s.noticeConn p.dstConn x p.psn st
          | none => s

/-- ROUTE_FAIL_RECEIVE (R293): by the opcode embedded in the notice. -/
def execRouteFailReceive (ie : Fin 16) : State → Res :=
  whenRunning fun s => match s.ejFor ie 4 with
    | none => s
    | some p =>
      let s := s.ejPop ie
      match s.admission p.job p.dstEp with
      | (s, some _) => s
      | (s, none) =>
        if !p.wellFormed then s.cnt .OUT_OF_WINDOW_COUNT
        else
        let inner := leNat (p.payload.drop 32)
        let op := inner % 256
        let c := inner / 2 ^ 40 % 2 ^ 24
        if p.dstEp = 62 then
          s.collAbort (inner / 2 ^ 40 % 2 ^ 14) (inner / 2 ^ 64 % 2 ^ 16) Status.remoteUnreachable.code true
        else
          let dg := op = 0x0B ∨ op = 0x0C
          let x := if dg then none else s.conn c
          let f := (x.map fun x => x.fn).getD (epFn p.dstEp)
          if s.fnQuiet f then s
          else
            let s := s.cnt .ROUTE_FAIL_RECV_COUNT f
            if dg then s.cnt .DG_REFUSED_COUNT f
            else match x with
              | some x =>
                if op = 8 ∨ op = 9 ∨ x.st ≠ 1 then s
                else s.routeFailConn c x (inner / 2 ^ 64 % 2 ^ 24) (p.th 35 16) (p.th 37 36)
              | none => s

end Sys2Proof.Machine
end

