-- ==== Sys2Proof/Machine/Engine.lean ====
section
/-!
DEFINITION. Protocol engines and handlers (R351 to R375), and the fencing of engines (R516, R517): dispatch, budgets,
tokens, sampling, bindings and images.
-/
namespace Sys2Proof.Machine

open Sys2Proof

/-! ### Threads and engines -/

/-- Whether an engine takes dispatches: neither fenced nor with its code being loaded (R353, R516). -/
def State.engUsable (s : State) (e : Nat) : Bool := !(s.on F.ENG_STATUS.FENCED e) && !(s.eng.reloading.contains e)

/-- The running threads of an engine. -/
def State.engThreads (s : State) (e : Nat) : List (ThreadId × Thread) :=
  s.eng.threads.filter fun p => p.1.engine.val == e

/-- The engines of a cluster that take dispatches. -/
def State.clEngines (s : State) (c : Nat) : List Nat := ((List.range 8).map fun k => 8 * c + k).filter s.engUsable

/-- The running threads of a cluster. -/
def State.clThreads (s : State) (c : Nat) : List (ThreadId × Thread) :=
  s.eng.threads.filter fun p => p.1.engine.val / 8 == c

/-- A cluster's tokens in 1/256 token. -/
def State.tokens (s : State) (c : Nat) : Int := mget s.eng.tokens c (256 * toSigned 32 (s.f F.CL_TOKENS.REMAIN c))

/-- The state with a cluster's tokens set; REMAIN shows whole tokens. -/
def State.setTokens (s : State) (c : Nat) (v : Int) : State :=
  ({ s with eng := { s.eng with tokens := mset s.eng.tokens c v } }).set F.CL_TOKENS.REMAIN (ofSigned 32 (v / 256)) c

/-- Whether a class is deferred in a cluster (R364). -/
def State.deferred (s : State) (c q : Nat) : Bool :=
  let a : Int := s.f F.CL_TOKENS.ALLOT c
  (q == 2 && decide (s.tokens c < a * (s.fa F.CL_CFG.P2_FLOOR c : Int))) ||
    (q == 3 && (decide (s.tokens c < a * (s.fa F.CL_CFG.P3_FLOOR c : Int)) ||
      decide (s.tokens c < a * (s.fa F.CL_CFG.P2_FLOOR c : Int))))

/-- Whether a further handler of a class may run in a cluster under its reserves (R352). -/
def State.mayRun (s : State) (c q : Nat) : Bool :=
  let n := 4 * (s.clEngines c).length
  let low (k : Nat) : Nat := ((s.clThreads c).filter fun p => decide (k ≤ p.2.cls)).length
  let r0 := s.fa F.CL_CFG.RESERVE_P0 c
  let r1 := s.fa F.CL_CFG.RESERVE_P1 c
  (q == 0 || decide (low 1 < n - r0)) && (decide (q < 2) || decide (low 2 < n - r0 - r1))

/-- The engine of a cluster with the fewest running threads and a free context, the lowest number among equals, with its
lowest free context (R357). -/
def State.freeThread (s : State) (c : Nat) : Option ThreadId :=
  let best := (s.clEngines c).foldl (fun (b : Option Nat) e =>
    if (s.engThreads e).length < 4 then
      match b with
      | none => some e
      | some d => if (s.engThreads e).length < (s.engThreads d).length then some e else some d
    else b) none
  match best with
  | none => none
  | some e => if h : e < 512 then
      ([0, 1, 2, 3] : List (Fin 4)).findSome? fun k =>
        if (s.thread ⟨⟨e, h⟩, k⟩).isNone then some (⟨⟨e, h⟩, k⟩ : ThreadId) else none
    else none

/-- The thread context freed. -/
def State.dropThread (s : State) (t : ThreadId) : State :=
  { s with eng := { s.eng with threads := mdel s.eng.threads t } }

/-- The handler fault event, to the fabric management function and to the binding's FUNC (R363, R564). -/
def State.handlerFault (s : State) (f : Nat) : State :=
  if f = fmf then s.raise 1695 else (s.raise 1695).fnEvent 1504 1695 f

/-- A user handler aborted with a status (R362, R363): its thread is freed, its event consumed, its locks released as
abandoned (R444). -/
def State.abortHandler (s : State) (t : ThreadId) (x : Thread) (st : Status) : State :=
  (((s.dropThread t).lockAbandon (threadIdent t)).bindFault x.slot st).handlerFault (L.BND.FUNC.get x.bind)

/-! ### Samples and retirement -/

/-- Whether SAMPLE_MODE selects a thread (R368). -/
def sampleSelects (mode : Nat) (user : Bool) : Bool := mode == 0 || (mode == 1 && !user) || (mode == 2 && user)

/-- A sample written at slot WR mod 128, or lost while the buffer is full; the watermark event once (R368, R369). -/
def State.sample (s : State) (t : ThreadId) (x : Thread) (word : Nat) : State :=
  let e := t.engine.val
  let wr := s.f F.SAMPLE_PTR.WR e
  let used (w : Nat) : Nat := wsub 8 w (s.f F.SAMPLE_PTR.RD e)
  if used wr = 128 then s.cntF F.SAMPLE_PTR.SAMPLES_LOST e
  else
    let r := x.pc % 2 ^ 48 + t.ctx.val * 2 ^ 48 + x.eff * 2 ^ 50 + b2n x.user * 2 ^ 52 + x.slot * 2 ^ 64 +
      x.stall * 2 ^ 76 + min x.cycles 65535 * 2 ^ 80 + s.tick % 2 ^ 32 * 2 ^ 96 + word * 2 ^ 128
    let s := { s with mem := memPuts s.mem (lmBase e + 0x1E000 + 32 * (wr % 128)) (leBytes 32 r) }
    let s := s.set F.SAMPLE_PTR.WR (wr + 1) e
    if s.f F.SAMPLE_CFG.WATERMARK e ≤ used (wr + 1) ∧ !(s.eng.sampleRaised.contains e) then
      ({ s with eng := { s.eng with sampleRaised := e :: s.eng.sampleRaised } }).raise (1628 + e / 8) (e % 8)
    else s

/-- The period to the next sample: 2^PERIOD_EXP plus a pseudo-random value in 0 to 255, a free value (R368). -/
def State.samplePeriod (s : State) (e : Nat) : Nat × State :=
  let r := s.drawNat
  (2 ^ s.f F.SAMPLE_CFG.PERIOD_EXP e + r.1 % 256, r.2)

/-- A retired instruction counted towards its engine's next sample. -/
def State.sampleStep (s : State) (t : ThreadId) (x : Thread) (word : Nat) : State :=
  let e := t.engine.val
  if s.on F.SAMPLE_CFG.SAMPLE_EN e && sampleSelects (s.f F.SAMPLE_CFG.SAMPLE_MODE e) x.user then
    let r : Nat × State := match mfind s.eng.sampleLeft e with
      | some n => (n, s)
      | none => s.samplePeriod e
    if r.1 ≤ 1 then
      let q := (r.2.sample t x word).samplePeriod e
      { q.2 with eng := { q.2.eng with sampleLeft := mset q.2.eng.sampleLeft e q.1 } }
    else { r.2 with eng := { r.2.eng with sampleLeft := mset r.2.eng.sampleLeft e (r.1 - 1) } }
  else s

/-- The engine cycles in which a thread held its issue slot: its counts, its cluster's tokens, what Lantern reads of the
cluster's activity, and its job's counter of user handler cycles (R360, R364, R495, R569). -/
def State.useCycles (s : State) (t : ThreadId) (n : Nat) : State :=
  match s.thread t with
  | none => s
  | some x =>
    let c := t.engine.val / 8
    let s := s.setThread t { x with count := x.count + n, cycles := x.cycles + n }
    let s := s.setTokens c (s.tokens c - (n * s.f F.CL_TOKEN_COST.TOKEN_COST c : Nat))
    let issue := mset s.lantern.issue c (mget s.lantern.issue c 0 + n)
    let urgent := if x.eff ≤ 1 then c :: s.lantern.urgent.filter (· != c) else s.lantern.urgent
    let s := ({ s with lantern := { s.lantern with issue := issue, urgent := urgent } } : State).perf (c / 16) 0x20 c x.eff n
    if x.user then s.jobCount (L.BND.JOB_SLOT.get x.bind) 112 n else s

/-- An instruction retires: the thread's PC moves on, its cycles and its sample are counted, and a preemption marked
meanwhile stops it (R361, R368). -/
def State.retire (s : State) (t : ThreadId) (word pc cycles : Nat) : State :=
  match s.thread t with
  | none => s
  | some x =>
    let s := (s.sampleStep t x word).useCycles t cycles
    s.modThread t fun x => { x with pc := pc % 2 ^ 48, stall := 0, ready := none, wait := .none,
                                    preempted := x.preempted || x.marked, marked := false }

/-! ### Dispatch (R357 to R359) -/

/-- The state of a thread at dispatch (R377, R358). -/
def freshThread (t : ThreadId) (b : BitVec 256) (img : Image) (off : Nat) (e : HEvent) : Thread :=
  let g : List Word := (List.replicate 32 0).set 1 (BitVec.ofNat 64 (localBase + areaOff t.ctx))
  let g := g.set 2 (BitVec.ofNat 64 (0xFFFFFFFF2000 + 0x2000 * t.ctx.val))
  { g := g, pc := (if img.user then localBase + 0x6000 else localBase) + img.base + off
    asid := BitVec.ofNat 64 (L.BND.ASID.get b), slot := e.slot, bind := b, user := img.user, event := some e }

/-- The event at the head of a class queue given to a thread, or consumed where its KIND is not accepted (R358, R359). -/
def State.dispatchEvent (s : State) (t : ThreadId) (e : HEvent) : State :=
  let b := s.binding e.slot
  match mfind s.eng.images (L.BND.IMAGE.get b) with
  | none => s.bindFault e.slot .badState
  | some img =>
    let ent := lget img.entries (L.BND.ENTRY.get b) (0, 0)
    if ent.2.testBit e.kind then
      ((s.writeEvent t e).setThread t (freshThread t b img ent.1 e)).perf (t.engine / 128) 0x22 (t.engine / 8) e.kind 1
    else s.bindFault e.slot .notPermitted

/-- A later event for a slot that has become invalid (R374): the message of a packet or notice ends with ABORTED, and the
event is counted in FAULT_COUNT. -/
def State.refuseEvent (s : State) (e : HEvent) : State := s.bindFault e.slot .aborted

/-- The events that wait for room join their queues where there is room now (R354). -/
def State.retryHeld (s : State) : State :=
  s.eng.held.foldl (fun s e =>
    let b := s.binding e.slot
    let q := L.BND.CLASS.get b
    if L.BND.VALID.get b = 0 then s.refuseEvent e
    else match s.leastQueued q (onDie e.die (s.allowedClusters b)) with
      | none => s.refuseEvent e
      | some c =>
        if (s.evq c q).length < 256 then s.joinQueue c q e
        else { s with eng := { s.eng with held := s.eng.held ++ [e] } })
    { s with eng := { s.eng with held := [] } }

/-- Whether a preempted thread may resume: a user handler over budget for the eighth time is aborted instead (R362). -/
def Thread.resumable (x : Thread) : Bool := x.preempted && !(x.user && decide (8 ≤ x.overruns))

/-- The dispatcher's choice of a class: a preempted thread of it resumes, or its head event is given to a free thread
(R357). None where the class offers neither. -/
def State.dispatchClass (s : State) (c q : Nat) : Option State :=
  if s.deferred c q then none
  else match (s.clThreads c).find? fun p => p.2.resumable && p.2.eff == q && s.engUsable p.1.engine.val with
    | some p => some (s.setThread p.1 { p.2 with preempted := false })
    | none =>
      match s.evq c q with
      | [] => none
      | e :: es =>
        if s.mayRun c q then (s.freeThread c).map fun t => ((s.setEvq c q es).dispatchEvent t e).retryHeld else none

/-- HANDLER_DISPATCH (R352, R357 to R359, R364). -/
def execHandlerDispatch (c : Fin 64) : State → Res :=
  whenRunning fun s => (([0, 1, 2, 3] : List Nat).findSome? (s.dispatchClass c)).getD s

/-- HANDLER_OVERRUN_ABORT (R362): a user handler over budget at eight consecutive turnovers. -/
def execHandlerOverrunAbort (t : ThreadId) : State → Res :=
  whenRunning fun s => match s.thread t with
    | some x =>
      if x.user && decide (8 ≤ x.overruns) then (s.cnt .HANDLER_OVERRUN_COUNT).abortHandler t x .handlerOverrun else s
    | none => s

/-! ### Timers, watches and the sampling pointer (R369, R375) -/

/-- CLUSTER_TIMER_FIRE (R375): a timer that the turnover found due. -/
def execClusterTimerFire (c : Fin 64) (k : Fin 16) : State → Res :=
  whenRunning fun s =>
    if s.eng.timersDue.contains (c.val, k.val) && s.on F.TIMER_CFG.ENABLE c k then
      let s := { s with eng := { s.eng with timersDue := s.eng.timersDue.filter (· != (c.val, k.val)) } }
      let s := s.queueEvent (s.hevent 3 (s.f F.TIMER_CFG.SLOT c k) (c + k * 2 ^ 6) [] (16 * c + k) (c / 16))
      let p := s.f F.TIMER_CFG.PERIOD c k
      if p = 0 then s.set F.TIMER_CFG.ENABLE 0 c k else s.set F.TIMER_DUE.DUE (s.f F.TIMER_DUE.DUE c k + p) c k
    else s

/-- The timers that a turnover finds due. -/
def State.timersDueNow (s : State) : List (Nat × Nat) :=
  ((s.regs.filter fun e => e.1.name == .TIMER_CFG && F.TIMER_CFG.ENABLE.fld.on e.2).map fun e => (e.1.i, e.1.j)).filter
    fun p => decide (s.f F.TIMER_DUE.DUE p.1 p.2 ≤ s.turnovers)

/-- Whether a requester is the service processor or a supervisor handler. -/
def State.supervises (s : State) : Requester → Bool
  | .serviceProcessor => true
  | .thread e k => match s.thread ⟨e, k⟩ with
    | some x => !x.user
    | none => false
  | .func _ => false

/-- The checks of a write to CTR_WATCH (R375). -/
def State.watchCheckWrite (s : State) (rq : Requester) (v : Word) : Status :=
  let arm := F.CTR_WATCH.ARM.fld.on v
  let b := s.binding (F.CTR_WATCH.SLOT.fld.get v)
  firstStatus [
    (!rq.reaches, .notPermitted),
    (arm && L.TRG.JOB_SLOT.get (s.trg (F.CTR_WATCH.COUNTER.fld.get v)) != L.BND.JOB_SLOT.get b, .notPermitted),
    (setsRsv RegName.CTR_WATCH.desc.fields v, .badValue)]

/-- CTR_WATCH_ARM (R375, R354): a write of CTR_WATCH; an armed watch whose counter has reached its threshold fires. -/
def execCtrWatchArm (rq : Requester) (w : Fin 256) (v : Word) : State → Res :=
  whenRunning fun s =>
    s.writeAs rq (Reg.offset ⟨.CTR_WATCH, w, 0⟩) (s.watchCheckWrite rq v) fun s =>
      (s.wr ⟨.CTR_WATCH, w, 0⟩ v).watchCheck (F.CTR_WATCH.COUNTER.fld.get v)

/-- SAMPLE_RD_WRITE (R369): RD moves, and the watermark event may be raised again. -/
def execSampleRdWrite (rq : Requester) (e : Fin 512) (rd : BitVec 8) : State → Res :=
  whenRunning fun s =>
    s.writeAs rq (Reg.offset ⟨.SAMPLE_PTR, e, 0⟩) (if rq.reaches then .ok else .notPermitted) fun s =>
      ({ s with eng := { s.eng with sampleRaised := s.eng.sampleRaised.filter (· != e.val) } }).set
        F.SAMPLE_PTR.RD rd.toNat e

/-! ### Bindings (R372 to R374) -/

/-- The 32 bytes of HB_DATA. -/
def State.hbData (s : State) : BitVec 256 :=
  BitVec.ofNat 256 ((List.range 4).foldl (fun a i => a + (s.rd ⟨.HB_DATA, i, 0⟩).toNat * 2 ^ (64 * i)) 0)

/-- Whether a binding of an image would be of KIND 0. -/
def State.imgFirmware (s : State) (n : Nat) : Bool :=
  match mfind s.eng.images n with
  | some img => !img.user
  | none => false

/-- The checks of an HB_CMD WRITE (R373, R605). -/
def State.hbCheck (s : State) (rq : Requester) (d : BitVec 256) : Status :=
  let img := mfind s.eng.images (L.BND.IMAGE.get d)
  firstStatus [
    (!rq.reaches, .notPermitted),
    (s.imgFirmware (L.BND.IMAGE.get d) && rq != .serviceProcessor, .notPermitted),
    (img.isNone, .badState),
    (!(s.jobBound (L.BND.FUNC.get d) (L.BND.JOB_SLOT.get d)), .notPermitted),
    (match img with
      | some i => decide (i.entries.length ≤ L.BND.ENTRY.get d) || (i.user && decide (L.BND.CLASS.get d < 2))
      | none => true, .badValue),
    (L.BND.BUDGET.get d == 0 || L.BND.CLUSTER_MASK.get d == 0 || !(s.fnLegal (L.BND.FUNC.get d)), .badValue),
    (Fld.get ⟨19, 19⟩ d != 0 || Fld.get ⟨127, 66⟩ d != 0 || Fld.get ⟨255, 216⟩ d != 0, .badValue)]

/-- Every queued event of a slot consumed with ABORTED (R374). -/
def State.dropEvents (s : State) (slot : Nat) : State :=
  let n := (s.eng.queues.foldl (fun a p => a + (p.2.filter fun e => e.slot == slot).length) 0) +
    (s.eng.held.filter fun e => e.slot == slot).length
  let qs := s.eng.queues.map fun (p : (Nat × Nat) × List HEvent) => (p.1, p.2.filter fun e => e.slot != slot)
  (List.range n).foldl (fun s _ => s.bindFault slot .aborted)
    { s with eng := { s.eng with queues := qs, held := s.eng.held.filter fun e => e.slot != slot } }

/-- HB_WRITE (R373): accepted at once, in effect at the next tick boundary. -/
def execHbWrite (rq : Requester) (slot : Fin 4096) : State → Res :=
  whenRunning fun s =>
    let d := s.hbData
    s.writeAs rq (Reg.offset ⟨.HB_CMD, 0, 0⟩) (s.hbCheck rq d) fun s =>
      { s with eng := { s.eng with bindNext := mset s.eng.bindNext slot.val d } }

/-- HB_READ (R375): the slot as it stands, into HB_DATA. -/
def execHbRead (rq : Requester) (slot : Fin 4096) : State → Res :=
  whenRunning fun s =>
    s.writeAs rq (Reg.offset ⟨.HB_CMD, 0, 0⟩) (if rq.reaches then .ok else .notPermitted) fun s =>
      (List.range 4).foldl (fun t i =>
        t.wr ⟨.HB_DATA, i, 0⟩ (BitVec.ofNat 64 ((s.binding slot).toNat / 2 ^ (64 * i)))) s

/-- HB_DISABLE (R374). -/
def execHbDisable (rq : Requester) (slot : Fin 4096) : State → Res :=
  whenRunning fun s =>
    s.writeAs rq (Reg.offset ⟨.HB_CMD, 0, 0⟩) (if rq.reaches then .ok else .notPermitted) fun s =>
      (s.setBinding slot (L.BND.VALID.set (s.binding slot) 0)).dropEvents slot

/-- An accepted binding write takes effect (R373): the RW fields of the data, LAST_FAULT and FAULT_COUNT as they were. -/
def State.bindEffect (s : State) (slot : Nat) (d : BitVec 256) : State :=
  let old := s.binding slot
  let d := L.BND.SUPERVISOR.set d (b2n (s.imgFirmware (L.BND.IMAGE.get d)))
  let d := L.BND.LAST_FAULT.set (L.BND.FAULT_COUNT.set d (L.BND.FAULT_COUNT.get old)) (L.BND.LAST_FAULT.get old)
  let s := s.setBinding slot d
  if L.BND.VALID.on d then s else s.dropEvents slot

/-! ### Images (R370, R371) -/

/-- Size of the user code region (R367). -/
def userCode : Nat := 40960

/-- The user images, by their place. -/
def State.userImages (s : State) : List Image := (s.eng.images.map fun p => p.2).filter fun i => i.user

/-- The lowest offset of the user code region where n bytes fit. -/
def State.codeFit (s : State) (n : Nat) : Option Nat :=
  let is := s.userImages
  let ok (a : Nat) : Bool := decide (a + n ≤ userCode) && is.all fun i => decide (a + n ≤ i.base) || decide (i.base + i.bytes ≤ a)
  ((0 :: is.map fun i => i.base + i.bytes).filter ok).foldl (fun (b : Option Nat) a => match b with
    | none => some a
    | some c => some (min a c)) none

/-- The user code bytes free. -/
def State.codeFree (s : State) : Nat := userCode - s.userImages.foldl (fun a i => a + i.bytes) 0

/-- An image number that no loaded image has, the lowest. -/
def State.freeImage (s : State) : Option Nat := firstNat 256 fun n => !(mhas s.eng.images n)

/-- The entry table of an image: offset and KINDS of each entry. -/
def imageEntries (bs : List Byte) (n : Nat) : List (Nat × Nat) :=
  (List.range n).map fun k =>
    let v := leNat ((bs.drop (64 + 16 * k)).take 16)
    (v % 2 ^ 32, v / 2 ^ 32 % 2 ^ 10)

/-- Whether an image is well made (R370): MAGIC, VERSION, KIND, lengths, offsets, reserved bits and CRC. -/
def imageOk (bs : List Byte) : Bool :=
  let h := bits512 (bs.take 64)
  let n := L.IMG.ENTRIES.get h
  let code := L.IMG.CODE_BYTES.get h
  let len := 64 + 16 * n + code
  decide (64 ≤ bs.length) && L.IMG.MAGIC.get h == 0x51425945 && L.IMG.VERSION.get h == 1 &&
    decide (L.IMG.KIND.get h ≤ 1) && decide (1 ≤ n) && decide (n ≤ 64) && code % 4 == 0 &&
    (L.IMG.KIND.get h == 0 || (decide (code ≤ userCode) && L.IMG.IMAGE_BYTES.get h == len)) &&
    decide (len ≤ bs.length) && Fld.get ⟨479, 160⟩ h == 0 &&
    ((List.range n).all fun k =>
      let v := leNat ((bs.drop (64 + 16 * k)).take 16)
      v % 4 == 0 && decide (v % 2 ^ 32 < code) && v / 2 ^ 42 == 0) &&
    L.IMG.CRC.get h == crc32 (bs.take 60 ++ (bs.take len).drop 64)

/-- Code bytes written into a code region of every engine, with the master copy in the Groundsheet's firmware
structures (R371). -/
def State.placeCode (s : State) (off : Nat) (code : List Byte) : State :=
  let s := s.gsPuts (fwBase + off) code
  (List.range 512).foldl (fun s e => { s with mem := memPuts s.mem (lmBase e + off) code }) s

/-- An image entered in the table, its code placed at `base` of its region (R371, R544). -/
def State.addImage (s : State) (num base : Nat) (bs : List Byte) : State :=
  let h := bits512 (bs.take 64)
  let n := L.IMG.ENTRIES.get h
  let code := (bs.drop (64 + 16 * n)).take (L.IMG.CODE_BYTES.get h)
  let user := L.IMG.KIND.get h == 1
  let img : Image := ⟨user, imageEntries bs n, base, code.length⟩
  ({ s with eng := { s.eng with images := mset s.eng.images num img } }).placeCode
    ((if user then 0x6000 else 0) + base) code

/-- IMG_STATUS after a load that ended with a status. -/
def State.imgDone (s : State) (st : Status) (num : Nat) : State :=
  let s := { s with eng := { s.eng with loadAddr := none } }
  let s := ((s.set F.IMG_STATUS.BUSY 0).set F.IMG_STATUS.DONE 1).set F.IMG_STATUS.RESULT st.code
  (s.set F.IMG_STATUS.IMAGE num).set F.IMG_STATUS.FREE s.codeFree

/-- IMG_LOAD (R371): the read of the image at IMG_ADDR starts with its header. -/
def execImgLoad (rq : Requester) : State → Res :=
  whenRunning fun s =>
    let st := firstStatus [(!rq.reaches, .notPermitted), (s.eng.loadAddr.isSome, .busy)]
    s.writeAs rq (Reg.offset ⟨.IMG_CMD, 0, 0⟩) st fun s =>
      let a := s.f F.IMG_ADDR.ADDR * 64
      let s := { s with eng := { s.eng with loadAddr := some a } }
      ((s.set F.IMG_STATUS.BUSY 1).set F.IMG_STATUS.DONE 0).hostRead fmf a 64

/-- IMAGE_LOAD_COMPLETE (R371): the whole image as it was read, checked and placed, or the RESULT that applies. -/
def execImageLoadComplete (res : ReadResult) : State → Res :=
  whenRunning fun s => match s.eng.loadAddr with
    | none => s
    | some a =>
      match res with
      | .error | .poisoned => s.imgDone .aborted 0
      | .data bs =>
        let h := bits512 (bs.take 64)
        let s := if L.IMG.IMAGE_BYTES.get h ≤ 64 then s else s.hostRead fmf (a + 64) (L.IMG.IMAGE_BYTES.get h - 64)
        if !(imageOk bs) then s.imgDone .badValue 0
        else if L.IMG.KIND.get h = 0 then s.imgDone .notPermitted 0
        else match s.codeFit (L.IMG.CODE_BYTES.get h), s.freeImage with
          | some base, some num => (s.addImage num base bs).imgDone .ok num
          | _, _ => s.imgDone .noResource 0

/-- Whether a valid binding, or a running thread, uses an image. -/
def State.imageUsed (s : State) (n : Nat) : Bool :=
  (s.eng.bindings.any fun b => L.BND.VALID.on b.2 && L.BND.IMAGE.get b.2 == n) ||
    s.eng.threads.any fun p => L.BND.IMAGE.get p.2.bind == n

/-- IMG_UNLOAD (R371). -/
def execImgUnload (rq : Requester) (img : Fin 256) : State → Res :=
  whenRunning fun s =>
    let st := firstStatus [(!rq.reaches, .notPermitted), (s.eng.loadAddr.isSome, .busy),
      (s.imageUsed img || !(mhas s.eng.images img.val), .badState)]
    s.writeAs rq (Reg.offset ⟨.IMG_CMD, 0, 0⟩) st fun s =>
      let s := { s with eng := { s.eng with images := mdel s.eng.images img.val } }
      s.set F.IMG_STATUS.FREE s.codeFree

/-! ### Fencing (R353, R516, R517) -/

/-- A thread lost with its engine (R353, R444): a supervisor handler's event returns to the head of its class queue, a
user handler's is consumed with ENGINE_LOST; its locks are abandoned. -/
def State.loseThread (s : State) (p : ThreadId × Thread) : State :=
  let s := (s.dropThread p.1).lockAbandon (threadIdent p.1)
  if p.2.user then (s.bindFault p.2.slot .engineLost).cnt .ENGINE_LOST_COUNT
  else match p.2.event with
    | some e => s.setEvq (p.1.engine / 8) p.2.cls (e :: s.evq (p.1.engine / 8) p.2.cls)
    | none => s

/-- Every thread of an engine lost at once, and the waiters and words of its four identities (R353, R444). -/
def State.loseThreads (s : State) (e : Nat) : State :=
  let s := (s.engThreads e).foldl (fun s p => s.loseThread p) s
  (List.range 4).foldl (fun s k => s.lockAbandon (2 ^ 28 + 4 * e + k)) s

/-- The physical engine on its die that runs as logical engine e. -/
def State.physEngine (s : State) (e : Nat) : Nat := mget s.flt.physical e (e % 128)

/-- A die's lowest free spare engine (R516). -/
def State.freeSpare (s : State) (d : Nat) : Option Nat :=
  firstNat 8 fun k => !(s.flt.spareBusy.contains (d, k)) && !(s.flt.spareDead.contains (d, k))

/-- DG_HUB's count of free spare engines and of engines down (R532). -/
def State.engDegraded (s : State) (d : Nat) : State :=
  let left := ((List.range 8).filter fun k => !(s.flt.spareBusy.contains (d, k)) && !(s.flt.spareDead.contains (d, k))).length
  let down := ((List.range 128).filter fun k =>
    s.on F.ENG_STATUS.FENCED (128 * d + k) && !(s.eng.reloading.contains (128 * d + k))).length
  (s.set F.DG_HUB.SPARE_ENGINES_LEFT left d).set F.DG_HUB.ENGINES_DOWN down d

/-- An engine fenced at once (R516): its threads and locks, its repair record (R542), and the lowest free spare of its die,
which starts to load; without one it stays fenced. -/
def State.fenceEngine (s : State) (e : Nat) : State :=
  let d := e / 128
  let phys := s.physEngine e
  let s := (s.loseThreads e).set F.ENG_STATUS.FENCED 1 e
  let flt : FaultSt := { s.flt with
    spareDead := if 128 ≤ phys then (d, phys - 128) :: s.flt.spareDead else s.flt.spareDead
    repair := s.flt.repair ++ [(0, d, phys)] }
  let s := ({ s with flt := flt } : State).cnt .ENGINE_FENCE_COUNT
  let rl := s.eng.reloading.filter (· != e)
  match s.freeSpare d with
  | some k =>
    let flt : FaultSt := { s.flt with spareBusy := (d, k) :: s.flt.spareBusy
                                      physical := mset s.flt.physical e (128 + k) }
    { s with flt := flt, eng := { s.eng with reloading := e :: rl } }
  | none => ({ s with eng := { s.eng with reloading := rl } }).engDegraded d

/-- An occurrence of an engine's source, with the fence as its reaction (R510, R512, R516). -/
def State.engineFault (s : State) (e : Nat) : State :=
  s.occur (544 + e) .engineLost (if (s.freeSpare (e / 128)).isSome then 1 else 2) (s.physEngine e) 0
    fun s => s.fenceEngine e

/-- ENGINE_FENCE_CMD (R517): from the service processor or a supervisor handler. -/
def execEngineFenceCmd (rq : Requester) (e : Fin 512) : State → Res :=
  whenRunning fun s =>
    s.writeAs rq (Reg.offset ⟨.ENG_STATUS, e, 0⟩) (if s.supervises rq then .ok else .notPermitted) fun s => s.engineFault e

/-- Whether a thread could issue but for the order of R351: it neither waits nor is preempted, and its class is not
deferred. -/
def State.issuable (s : State) (p : ThreadId × Thread) : Bool :=
  (match p.2.wait with
    | .none => true
    | .lock _ => p.2.ready.isSome
    | _ => false) && !p.2.preempted && !(s.deferred (p.1.engine / 8) p.2.eff) && s.engUsable p.1.engine

/-- WATCHDOG_EXPIRE (R517): the engine has retired nothing for WATCHDOG_CK while a thread of it is ready. -/
def execWatchdogExpire (e : Fin 512) : State → Res :=
  whenRunning fun s => if (s.engThreads e).any s.issuable then s.engineFault e else s

/-- The code regions of an engine loaded from the Groundsheet master copies; the rest of its local memory is cleared. -/
def State.loadCode (s : State) (e : Nat) : State :=
  let keep := s.mem.filter fun (p : Host.Cell) => decide (p.1 < lmBase e) || decide (lmBase (e + 1) ≤ p.1)
  let code := s.mem.filter fun (p : Host.Cell) => decide (fwBase ≤ p.1) && decide (p.1 < fwBase + 0x10000)
  { s with mem := code.foldl (fun m (p : Host.Cell) => memPut m (lmBase e + (p.1 - fwBase)) p.2) keep }

/-- SPARE_LOAD_COMPLETE (R516): the spare takes dispatches under the engine's number. -/
def execSpareLoadComplete (e : Fin 512) : State → Res :=
  whenRunning fun s =>
    if s.eng.reloading.contains e.val then
      let s := ({ s with eng := { s.eng with reloading := s.eng.reloading.filter (· != e.val) } }).loadCode e
      let s := ((s.set F.ENG_STATUS.FENCED 0 e).set F.ENG_STATUS.SPARE_IN_USE 1 e).set F.ENG_STATUS.PHYSICAL (s.physEngine e) e
      s.engDegraded (e / 128)
    else s

/-! ### The turnover -/

/-- Whether a thread's condition lets it count as over budget: not in event wait, YIELDT, CB, or preempted (R361, R395). -/
def Thread.countsOver (x : Thread) : Bool :=
  !x.preempted && (match x.wait with
    | .event _ _ _ | .turnover | .cb _ _ => false
    | _ => true)

/-- A thread at CK 0 (R360 to R362): over budget, it is marked and stops at its next instruction boundary, which is now
unless an access of it is under way; its count is reloaded; YIELDT ends. -/
def Thread.turnover (x : Thread) : Thread :=
  let over_ := x.countsOver && decide (L.BND.BUDGET.get x.bind < x.count)
  let busy := match x.wait with
    | .load _ _ | .miss _ => true
    | .lock _ => x.ready.isSome
    | _ => false
  let wait : TWait := match x.wait with
    | .turnover => .none
    | .lock o => if over_ && !busy then .none else .lock o
    | .emit => if over_ then .none else .emit
    | w => w
  { x with count := 0, overruns := if over_ then x.overruns + 1 else 0, wait := wait
           marked := x.marked || (over_ && busy), preempted := x.preempted || (over_ && !busy) }

/-- Budgets at the turnover: preemption, FW_OVERRUN_COUNT, and the withdrawal of preempted waiters (R361, R362, R442). -/
def State.budgets (s : State) : State :=
  let overs := s.eng.threads.filter fun p => p.2.countsOver && decide (L.BND.BUDGET.get p.2.bind < p.2.count)
  let fw := (overs.filter fun p => !p.2.user).length
  let s := s.mapThreads fun _ x => x.turnover
  let s := overs.foldl (fun s p => match p.2.wait with
    | .lock _ => if p.2.ready.isSome then s else s.lockWithdraw (threadIdent p.1)
    | _ => s) s
  if fw = 0 then s else s.cnt .FW_OVERRUN_COUNT 0 0 fw

/-- Tokens at CK 0 (R364): the CK for which a class was deferred in the ending tick are a free value, and REMAIN becomes
ALLOT. -/
def State.tokenReload (s : State) (c : Nat) : State :=
  let d2 := s.deferred c 2
  let d3 := s.deferred c 3
  let r := s.drawNat
  let s := if d2 || d3 then r.2 else s
  let n := r.1 % (s.time.tickCk + 1)
  let s := if d2 then s.cnt .DEFER_P2_CK c 0 n else s
  let s := if d3 then s.cnt .DEFER_P3_CK c 0 n else s
  if (mfind s.eng.tokens c).isSome || s.f F.CL_TOKENS.ALLOT c != 0 then
    s.setTokens c (256 * (s.f F.CL_TOKENS.ALLOT c : Int))
  else s

/-- A pair inserted in order of its number. -/
def insertPair {α : Type} (x : Nat × α) : List (Nat × α) → List (Nat × α)
  | [] => [x]
  | y :: ys => if x.1 ≤ y.1 then x :: y :: ys else y :: insertPair x ys

/-- The tick events of the bindings with TICK_EN, in slot order (R354, R356). -/
def State.tickEvents (s : State) : State :=
  let bs := (s.eng.bindings.filter fun b => L.BND.VALID.on b.2 && L.BND.TICK_EN.on b.2).foldr insertPair []
  bs.foldl (fun s (b : Nat × BitVec 256) => s.queueEvent (s.hevent 4 b.1 0 [] 0 4)) s

/-- The accepted binding writes take effect at the tick boundary (R373). -/
def State.bindEffects (s : State) : State :=
  s.eng.bindNext.foldl (fun s (p : Nat × BitVec 256) => s.bindEffect p.1 p.2)
    { s with eng := { s.eng with bindNext := [] } }

/-- The engines' part of a turnover: bindings, budgets, tokens, timers due, tick events, and the events that wait. -/
def State.engTurnover (s : State) : State :=
  let s := s.bindEffects.budgets
  let s := (List.range 64).foldl (fun s c => s.tokenReload c) s
  let s := { s with eng := { s.eng with timersDue := s.timersDueNow } }
  s.tickEvents.retryHeld

end Sys2Proof.Machine
end

