-- ==== Sys2Proof/Machine/Cpu.lean ====
section
/-!
DEFINITION. The Cormel engines' arithmetic and words (R376 to R389), exceptions (R400, R401), and the end of a
translation miss (R419).
-/
namespace Sys2Proof.Machine

open Sys2Proof

/-! ### Instruction words (R381 to R384) -/

/-- Fields of a word: MAJOR, PRED, rd, ra, rb, FN (R381). -/
def wMajor (w : Nat) : Nat := w / 2 ^ 26 % 64
def wPred (w : Nat) : Nat := w / 2 ^ 23 % 8
def wRd (w : Nat) : Nat := w / 2 ^ 18 % 32
def wRa (w : Nat) : Nat := w / 2 ^ 13 % 32
def wRb (w : Nat) : Nat := w / 2 ^ 8 % 32
def wFn (w : Nat) : Nat := w % 256

/-- The immediates of the formats, the signed ones as 64-bit codes. -/
def wImm (w : Nat) : Nat := w % 2 ^ 13
def wImmS (w : Nat) : Nat := ofSigned 64 (toSigned 13 w)
def wImm18S (w : Nat) : Nat := ofSigned 64 (toSigned 18 w)
def wOff18 (w : Nat) : Nat := ofSigned 64 (toSigned 18 w * 4)
def wOff23 (w : Nat) : Nat := ofSigned 64 (toSigned 23 w * 4)

/-- Fields of the vector format: vd, VA, VB, ESIZE, TYPE, FN. -/
def wVd (w : Nat) : Nat := w / 2 ^ 18 % 16
def wVa (w : Nat) : Nat := w / 2 ^ 14 % 16
def wVb (w : Nat) : Nat := w / 2 ^ 10 % 16
def wEs (w : Nat) : Nat := w / 2 ^ 8 % 4
def wTy (w : Nat) : Nat := w / 2 ^ 5 % 8
def wVf (w : Nat) : Nat := w % 32

/-- ESIZE and TYPE form a pair of R381. -/
def pairOk (es ty : Nat) : Bool := decide (ty ≤ 1) || (ty == 2 && decide (1 ≤ es)) || (ty == 3 && es == 1)

/-- The fields of a VOP word that must be zero, and the types its FN permits (R388). -/
def vopOk (w : Nat) : Bool :=
  let top := w / 2 ^ 22 % 2 == 0
  pairOk (wEs w) (wTy w) &&
    match wVf w with
    | 8 => top && decide (2 ≤ wTy w)
    | 10 | 11 => w / 2 ^ 21 % 4 == 0
    | 12 => top && w / 2 ^ 10 % 8 == 0
    | 13 => wEs w == 3 && w / 2 ^ 13 % 2 == 0
    | 14 => top && wEs w == 3
    | 15 => top && wVb w == 0
    | n => top && decide (n ≤ 9)

/-- A register field that names a predicate. -/
def isPred (r : Nat) : Bool := decide (r < 8)

/-- Whether a word is legal (R382, R384). -/
def legalWord (w : Nat) : Bool :=
  match wMajor w with
  | 0x01 => decide (wFn w ≤ 0x13) && (decide (wFn w < 0x0D) || wRb w == 0)
  | 0x06 => w / 2 ^ 8 % 32 == 0 && decide (w / 2 ^ 6 % 4 ≤ 2)
  | 0x08 => decide (wFn w ≤ 6)
  | 0x09 => decide (wFn w ≤ 5) && isPred (wRd w)
  | 0x0B => match wFn w with
    | 4 => isPred (wRd w) && wRb w == 0
    | 5 => isPred (wRa w) && wRb w == 0
    | n => decide (n ≤ 3) && isPred (wRd w) && isPred (wRa w) && isPred (wRb w)
  | 0x1C => ((wFn w == 4 || wFn w == 5) && wRb w == 0) || wFn w == 0x0C || wFn w == 0x0D
  | 0x28 | 0x29 => w / 2 ^ 22 % 2 == 0
  | 0x2A => vopOk w
  | 0x2B => pairOk (wEs w) (wTy w) && wVb w == 0 && decide (wVf w % 8 ≤ 5) && wVf w / 8 % 2 == 0
  | 0x30 => wRa w == 0
  | 0x31 => wRd w == 0
  | 0x32 => decide (wFn w ≤ 4) && wRa w == 0 && wRb w == 0 && (wFn w == 2 || wRd w == 0)
  | 0x33 => wRa w == 0
  | 0x34 => wRb w == 0 && wFn w == 0
  | 0x35 => wFn w == 1 || wFn w == 2 || (wFn w == 8 && decide (wRd w ≤ 2))
  | n => n == 0x02 || n == 0x03 || n == 0x04 || n == 0x05 || n == 0x07 || n == 0x0A ||
      (decide (0x10 ≤ n) && decide (n ≤ 0x16)) || (decide (0x18 ≤ n) && decide (n ≤ 0x1B)) ||
      (decide (0x20 ≤ n) && decide (n ≤ 0x22))

/-! ### Integer operations (R384, R385) -/

/-- Leading zeros of a 64-bit value. -/
def clz64 (a : Nat) : Nat := if a = 0 then 64 else 63 - Nat.log2 a

/-- The bytes of a 64-bit value in reverse. -/
def bswap64 (a : Nat) : Nat := leNat (leBytes 8 a).reverse

/-- A w-bit value sign-extended to 64 bits. -/
def sext (w a : Nat) : Nat := ofSigned 64 (toSigned w a)

/-- Whether a is below b as signed 64-bit values. -/
def slt (a b : Nat) : Bool := decide (toSigned 64 a < toSigned 64 b)

/-- A shift right that keeps the sign. -/
def sra64 (a k : Nat) : Nat := ofSigned 64 (toSigned 64 a / 2 ^ k)

/-- The FN operations of ALU. -/
def aluOp (fn a b : Nat) : Nat :=
  match fn with
  | 0x00 => a + b
  | 0x01 => a + 2 ^ 64 - b
  | 0x02 => a &&& b
  | 0x03 => a ||| b
  | 0x04 => a ^^^ b
  | 0x05 => a &&& (2 ^ 64 - 1 - b)
  | 0x06 => a * 2 ^ (b % 64)
  | 0x07 => a / 2 ^ (b % 64)
  | 0x08 => sra64 a (b % 64)
  | 0x09 => if slt a b then a else b
  | 0x0A => if slt a b then b else a
  | 0x0B => min a b
  | 0x0C => max a b
  | 0x0D => clz64 a
  | 0x0E => popcount a 64
  | 0x0F => bswap64 a
  | 0x10 => sext 8 a
  | 0x11 => sext 16 a
  | 0x12 => sext 32 a
  | _ => a % 2 ^ 32

/-- The FN operations of MULDIV. -/
def mulDivOp (fn a b : Nat) : Nat :=
  let sa := toSigned 64 a
  let sb := toSigned 64 b
  match fn with
  | 0 => a * b
  | 1 => ofSigned 64 (sa * sb / 2 ^ 64)
  | 2 => a * b / 2 ^ 64
  | 3 => if b = 0 then 2 ^ 64 - 1 else ofSigned 64 (sa.tdiv sb)
  | 4 => if b = 0 then 2 ^ 64 - 1 else a / b
  | 5 => if b = 0 then a else ofSigned 64 (sa.tmod sb)
  | _ => if b = 0 then a else a % b

/-- The conditions of CMP. -/
def cmpOp (fn a b : Nat) : Bool :=
  match fn with
  | 0 => a == b
  | 1 => a != b
  | 2 => slt a b
  | 3 => !(slt a b)
  | 4 => decide (a < b)
  | _ => decide (b ≤ a)

/-- The conditions of CMPI. -/
def cmpiOp (c a b : Nat) : Bool :=
  match c with
  | 0 => a == b
  | 1 => a != b
  | 2 => slt a b
  | _ => decide (a < b)

/-- The combinations of PRED. -/
def predOp (fn a b : Nat) : Nat :=
  match fn with
  | 0 => a &&& b
  | 1 => a ||| b
  | 2 => a ^^^ b
  | _ => a &&& (2 ^ 64 - 1 - b)

/-- 64 ones or 64 zeros (R380). -/
def allOf (b : Bool) : Nat := if b then 2 ^ 64 - 1 else 0

/-! ### Vectors (R388, R389) -/

/-- The elements of w bits of a 512-bit value. -/
def velems (w v : Nat) : List Nat := (List.range (512 / w)).map fun e => v / 2 ^ (w * e) % 2 ^ w

/-- The 512-bit value of a list of elements. -/
def vpack (w : Nat) : List Nat → Nat
  | [] => 0
  | x :: xs => x % 2 ^ w + 2 ^ w * vpack w xs

/-- The floating-point format of an ESIZE and TYPE, if it is one. -/
def vfmt (es ty : Nat) : Option Fmt :=
  if ty = 3 then some bf16
  else if ty = 2 then (match es with
    | 1 => some fp16
    | 2 => some fp32
    | _ => some fp64)
  else none

/-- Whether a w-bit element is below another. -/
def vless (w : Nat) (signed : Bool) (a b : Nat) : Bool :=
  if signed then decide (toSigned w a < toSigned w b) else decide (a < b)

/-- An element operation of VADD to VFMA; `d` is the destination's old element (R388). -/
def velemOp (es ty fn d a b : Nat) : Nat :=
  let w := 8 * 2 ^ es
  match fn with
  | 5 => a &&& b
  | 6 => a ||| b
  | 7 => a ^^^ b
  | _ => match vfmt es ty with
    | some f => match fn with
      | 0 => f.add a b
      | 1 => f.sub a b
      | 2 => f.mul a b
      | 3 => f.minMax false a b
      | 4 => f.minMax true a b
      | _ => f.fma d a b
    | none => match fn with
      | 0 => (a + b) % 2 ^ w
      | 1 => (a + 2 ^ w - b) % 2 ^ w
      | 2 => a * b % 2 ^ w
      | 3 => if vless w (ty == 0) a b then a else b
      | _ => if vless w (ty == 0) a b then b else a

/-- An element comparison of VCMPEQ (10) or VCMPLT (11). -/
def velemCmp (es ty fn a b : Nat) : Bool :=
  match vfmt es ty with
  | some f => if fn = 10 then f.eq a b else f.lt a b
  | none => if fn = 10 then a == b else vless (8 * 2 ^ es) (ty == 0) a b

/-- The elements written where the predicate's bits are set, the old ones elsewhere (R379). -/
def vmerge (w p old new : Nat) : Nat :=
  vpack w ((List.range (512 / w)).map fun e =>
    if p.testBit e then new / 2 ^ (w * e) % 2 ^ w else old / 2 ^ (w * e) % 2 ^ w)

/-- Three lists of elements combined. -/
def zip3 (f : Nat → Nat → Nat → Nat) : List Nat → List Nat → List Nat → List Nat
  | x :: xs, y :: ys, z :: zs => f x y z :: zip3 f xs ys zs
  | _, _, _ => []

/-- The identity of a reduction (R389). -/
def vredIdent (es ty op : Nat) : Nat :=
  let w := 8 * 2 ^ es
  match op with
  | 3 => 2 ^ w - 1
  | 4 | 5 => 0
  | _ => match vfmt es ty with
    | some f => match op with
      | 0 => f.signBit
      | 1 => f.infCode
      | _ => f.signBit + f.infCode
    | none => match op with
      | 0 => 0
      | 1 => if ty = 0 then 2 ^ (w - 1) - 1 else 2 ^ w - 1
      | _ => if ty = 0 then 2 ^ (w - 1) else 0

/-- The combination of a reduction. -/
def vredComb (es ty op a b : Nat) : Nat :=
  match op with
  | 0 => velemOp es ty 0 0 a b
  | 1 => velemOp es ty 3 0 a b
  | 2 => velemOp es ty 4 0 a b
  | 3 => a &&& b
  | 4 => a ||| b
  | _ => a ^^^ b

/-- One level of the tree: neighbours combined. -/
def pairUp (f : Nat → Nat → Nat) : List Nat → List Nat
  | a :: b :: l => f a b :: pairUp f l
  | l => l

/-- The tree reduction, in k levels. -/
def treeFold (f : Nat → Nat → Nat) : Nat → List Nat → Nat
  | 0, l => l.headD 0
  | k + 1, l => treeFold f k (pairUp f l)

/-- The reduction of R389, as its g register receives it. -/
def vred (es ty op order p va : Nat) : Nat :=
  let w := 8 * 2 ^ es
  let y := (List.range (512 / w)).map fun e => if p.testBit e then va / 2 ^ (w * e) % 2 ^ w else vredIdent es ty op
  let f := vredComb es ty op
  let r := if order = 0 then treeFold f (6 - es) y else match y with
    | [] => 0
    | a :: l => l.foldl f a
  if ty = 0 then sext w r else r

/-! ### Threads' registers -/

/-- A g register. -/
def Thread.rg (x : Thread) (r : Nat) : Nat := (lget x.g r 0).toNat

/-- A predicate register; p0 reads as all ones (R376). -/
def Thread.rp (x : Thread) (r : Nat) : Nat := if r = 0 then 2 ^ 64 - 1 else (lget x.p r 0).toNat

/-- A predicate register written; p0 discards what is written to it. -/
def Thread.setP (x : Thread) (r v : Nat) : Thread :=
  if r = 0 then x else { x with p := x.p.set r (BitVec.ofNat 64 v) }

/-- A v register. -/
def Thread.rv (x : Thread) (r : Nat) : Nat := (lget x.v r 0).toNat

/-- A v register written. -/
def Thread.setV (x : Thread) (r v : Nat) : Thread := { x with v := x.v.set r (BitVec.ofNat 512 v) }

/-- The instruction word that a PC names in an engine's local memory (R378). -/
def State.wordAt (s : State) (e pc : Nat) : Nat := leNat (memGets s.mem (lmBase e + (pc - localBase)) 4)

/-- Whether a mode may execute at a PC (R367, R402). -/
def fetchOk (user : Bool) (pc : Nat) : Bool :=
  if user then decide (localBase + 0x6000 ≤ pc) && decide (pc < localBase + 0x10000)
  else decide (localBase ≤ pc) && decide (pc < localBase + 0x6000)

/-! ### Exceptions (R400, R401) -/

/-- An exception of a thread with its status and EADDR (R401): a user handler is aborted; supervisor code continues at its
EVEC, or with EVEC zero its thread is freed and fault source 10 occurs. -/
def State.except (s : State) (t : ThreadId) (st : Status) (eaddr : Nat) : State :=
  match s.thread t with
  | none => s
  | some x =>
    if x.user then s.abortHandler t x st
    else if x.evec = 0 then
      (s.dropThread t).occur 10 st 10 (s.physEngine t.engine) (st.code + x.pc * 2 ^ 64)
    else
      s.setThread t { x with epc := BitVec.ofNat 64 x.pc, ecause := BitVec.ofNat 64 st.code
                             eaddr := BitVec.ofNat 64 eaddr, pc := x.evec.toNat % 2 ^ 48, evec := 0, resv := none
                             wait := .none, ready := none, preempted := x.preempted || x.marked, marked := false }

/-! ### The end of a miss (R419) -/

/-- The threads that wait on a miss. -/
def State.missWaiters (s : State) (h m : Nat) : List ThreadId :=
  (s.eng.threads.filter fun p => p.2.wait == .miss (some (h, m))).map fun p => p.1

/-- The threads of a die that wait without a miss number look up again. -/
def State.unnumbered (s : State) (h : Nat) : State :=
  s.mapThreads fun t x => if x.wait = .miss none ∧ t.engine.val / 128 = h then { x with wait := .none } else x

/-- A thread's waiters after a miss: they look up again, or raise the exception of the status (R419). -/
def State.threadsResolve (s : State) (h m va : Nat) (st : Status) : State :=
  if st = .ok then
    s.mapThreads fun _ x => if x.wait = .miss (some (h, m)) then { x with wait := .none, stall := 4 } else x
  else (s.missWaiters h m).foldl (fun s t => s.except t st va) s

/-- The begun entries of datagrams, multicasts and collective posts whose address lies in a page that failed (R421). -/
def State.failEntries (s : State) (d : MissDesc) (st : Status) : State :=
  let es := s.rings.flatMap fun (p : (Nat × Nat) × RingSt) =>
    (p.2.descs.filter fun x => x.begun && !x.taken && (match x.data with
      | some b =>
        let op := entryFld b 7 0
        let ie := s.fnIe p.1.1 0
        if op = 0x40 ∨ op = 0x41 then s.missCovers d p.1.1 ie (entryFld b 191 128) (entryFld b 108 96)
        else if op = 0x48 then s.missCovers d p.1.1 (s.fnIe p.1.1 (L.CP.MGROUP.get b)) (L.CP.SRC_ADDR.get b) (L.CP.BYTES.get b)
        else false
      | none => false)).map fun x => (p.1, x.idx)
  es.foldl (fun s p =>
    if h : p.1.1 < 4096 ∧ p.1.2 < 4096 then s.completeEntry ⟨⟨p.1.1, h.1⟩, ⟨p.1.2, h.2⟩, p.2⟩ st else s) s

/-- The status that a code of XL_MISS_RESOLVE names (R419). -/
def resolveStatus (v : Nat) : Option Status :=
  if v = 0 then some .ok else if v = Status.translation.code then some .translation
  else if v = Status.walkBus.code then some .walkBus else if v = Status.walkDevice.code then some .walkDevice else none

/-- What the end of a miss lets every waiter do (R419 to R421, R424). -/
def State.missEnd (s : State) (h m : Nat) (st : Status) : State :=
  let va := s.f F.XL_MISS_VA.ADDR h m
  let d : MissDesc := ⟨s.f F.XL_MISS_VA.PLACEMENT h m, s.f F.XL_MISS_SRC.SRC h m, s.f F.XL_MISS_VA.ASID h m, va / 4096⟩
  let s := s.set F.XL_MISS_VA.VALID 0 h m
  let invs : List XlInv := s.xl.invs.map fun x => { x with misses := x.misses.filter (· != (h, m)) }
  let s : State := { s with xl := { s.xl with invs := invs } }
  let s := ((s.threadsResolve h m va st).unnumbered h).transportResolve h m d st
  let s := if st = .ok ∨ d.kind = 0 then s else s.failEntries d st
  s.coll.insts.foldl (fun s (i : CInst) => s.collRetry i.mg i.seq) s

/-- A write of XL_MISS_RESOLVE (R419). -/
def State.missResolve (s : State) (rq : Requester) (h m code : Nat) : State :=
  let st := firstStatus [(!rq.reaches, .notPermitted),
    (!(s.missValid h m) || (resolveStatus code).isNone, .badValue)]
  s.writeAs rq (Reg.offset ⟨.XL_MISS_RESOLVE, h, 0⟩) st fun s => s.missEnd h m ((resolveStatus code).getD .ok)

/-- XL_MISS_RESOLVE (R419). -/
def execXlMissResolve (rq : Requester) (h : Fin 4) (m : Fin 256) (code : BitVec 8) : State → Res :=
  whenRunning fun s => s.missResolve rq h m code.toNat

end Sys2Proof.Machine
end

