-- ==== Sys2Proof/Machine/Tick.lean ====
section
/-!
DEFINITION. The fabric time base (R30 to R57): the time tree, its servo and steps, the references at the root, and
fabric time for hosts. The turnover itself is put together in Turnover.lean.
-/
namespace Sys2Proof.Machine

open Sys2Proof

/-- The nominal rate increment (R32). -/
def nominalInc : Nat := 160842843834661

/-- The bound of the servo: 500 ppm, in 2^-16 ns per tick of 1,000 ns (R32). -/
def servoBound : Int := 32768

/-- The time base's state with the Ridgepole record changed. -/
def State.modTime (s : State) (g : TimeSt → TimeSt) : State := { s with time := g s.time }

/-- STATE of the time base: 0 FREE, 1 ACQUIRE, 2 LOCKED, 3 HOLDOVER; a change raises the state change event. -/
def State.rpState (s : State) (st : Nat) : State :=
  if s.f F.RP_STATUS.STATE = st then s else (s.set F.RP_STATUS.STATE st).raise 1621

/-- The whole-tick part of a step in units of 2^-16 ns: 1,000 ns times round(S / 1,000), halves away from zero (R49). -/
def wholeTicks (st : Int) : Int :=
  let t : Int := 1000 * 65536
  let q : Int := (2 * (st.natAbs : Int) + t) / (2 * t)
  if st < 0 then -(q * t) else q * t

/-- The rate increment for a correction in 2^-16 ns per tick, within the bound (R32, R52). -/
def incFor (corr : Int) : Nat :=
  let c := max (-servoBound) (min servoBound corr)
  ((nominalInc : Int) + (nominalInc : Int) * c / (1000 * 65536)).toNat

/-- RP_RATE_ADJ for a correction: a signed fraction of nominal in 2^-32. -/
def rateAdj (corr : Int) : Nat := ofSigned 32 (max (-servoBound) (min servoBound corr) * 65536 / 1000)

/-- The phase correction spread over PHASE_TICKS turnovers, replacing what was left of the one before (R52). -/
def State.phaseCorrect (s : State) (corr : Int) : State :=
  s.modTime fun t => { t with phase := corr, phaseLeft := max 1 (s.f F.RP_SERVO.PHASE_TICKS) }

/-- The servo's response to the offset of an exchange (R52). -/
def State.servo (s : State) (offset : Int) : State :=
  if s.on F.RP_CONTROL.SERVO_FREEZE then s
  else (s.phaseCorrect (-offset)).modTime fun t =>
    { t with integral := t.integral - offset / (2 ^ s.f F.RP_SERVO.RATE_SHIFT : Nat) }

/-- Whether a port is eligible as parent (R44). -/
def State.rpEligible (s : State) (p : Nat) : Bool :=
  s.inService p && s.on F.PORT_STATE.RIDGEPOLE p &&
    match mfind s.time.peers p with
    | some x => x.root == s.f F.RP_ROOT_NODE.NODE && decide (x.stratum < s.f F.RP_CONTROL.MAX_STRATUM)
    | none => false

/-- The stratum a port's partner last advertised. -/
def State.peerStratum (s : State) (p : Nat) : Nat :=
  match mfind s.time.peers p with
  | some x => x.stratum
  | none => 255

/-- The eligible port of lowest stratum, then lowest dimension, then lowest slot (R44). -/
def State.bestParent (s : State) (ps : List Nat) : Option Nat :=
  (ps.filter s.rpEligible).foldl (fun b p =>
    match b with
    | none => some p
    | some q =>
      let kp := s.peerStratum p * 65536 + s.portDim p * 1024 + p
      let kq := s.peerStratum q * 65536 + s.portDim q * 1024 + q
      if kp < kq then some p else some q) none

/-- The node's current parent port, in ACQUIRE and LOCKED. -/
def State.parent (s : State) : Option Nat :=
  let st := s.f F.RP_STATUS.STATE
  if st = 1 ∨ st = 2 then some (s.f F.RP_STATUS.PARENT_PORT) else none

/-- The parent that an exchange leaves the node with (R44, R45). -/
def State.chooseParent (s : State) : Option Nat :=
  let pin := s.f F.RP_PARENT_PIN.PORT_SLOT
  let pinned := s.on F.RP_PARENT_PIN.PIN_ENABLE
  if pinned && s.rpEligible pin then some pin
  else
    let others := (List.range 256).filter fun p => !(pinned && p == pin)
    match s.parent with
    | some c =>
      if s.rpEligible c && !(pinned && c == pin) then
        match s.bestParent others with
        | some b => if s.peerStratum b + 2 ≤ s.peerStratum c then some b else some c
        | none => some c
      else s.bestParent others
    | none => s.bestParent others

/-- The node without an eligible parent: HOLDOVER once it has locked, else FREE (R45, "States of the time base"). -/
def State.noParent (s : State) : State :=
  let s := (s.set F.RP_STATUS.STRATUM 255).modTime fun t => { t with good := 0 }
  if s.time.everLocked then s.rpState 3
  else (s.rpState 0).modTime fun t => { t with inc := nominalInc, integral := 0, phase := 0, phaseLeft := 0 }

/-- A parent taken: ACQUIRE, with a step allowed at the first exchange after FREE, though the parent changes before it
(R49). -/
def State.takeParent (s : State) (p : Nat) : State :=
  if s.parent = some p then s
  else
    let fromFree := s.f F.RP_STATUS.STATE == 0
    ((s.set F.RP_STATUS.PARENT_PORT p).rpState 1).modTime fun t => { t with good := 0, mayStep := fromFree || t.mayStep }

/-- The parent's port has left service: HOLDOVER or FREE at once (R45). -/
def State.parentLost (s : State) (p : Nat) : State :=
  if !(s.on F.RP_CONTROL.ROOT) && s.parent == some p then s.noParent else s

/-- The advertised stratum: 0 at the root, the parent's plus one when LOCKED, else 255 (R44). -/
def State.stratumUpdate (s : State) : State :=
  if s.on F.RP_CONTROL.ROOT then s.set F.RP_STATUS.STRATUM 0
  else match s.parent with
    | some p => s.set F.RP_STATUS.STRATUM (if s.f F.RP_STATUS.STATE = 2 then min 255 (s.peerStratum p + 1) else 255)
    | none => s.set F.RP_STATUS.STRATUM 255

/-- The exchange of the parent: a first step, or the servo, then the count towards LOCKED and the alarm
(R49, R50, R52). -/
def State.parentExchange (s : State) (offset : Int) : State :=
  let s := s.set F.RP_OFFSET.OFFSET (ofSigned 48 offset)
  let small := decide (offset.natAbs < 4 * 65536)
  let s :=
    if s.time.mayStep && s.on F.RP_CONTROL.STEP_ENABLE then
      s.modTime fun t => { t with step := some (t.step.getD 0 - offset), mayStep := false }
    else (s.servo offset).modTime fun t => { t with mayStep := false }
  let s := s.modTime fun t => { t with good := if small then t.good + 1 else 0 }
  let s :=
    if s.f F.RP_STATUS.STATE = 1 ∧ 8 ≤ s.time.good then
      (s.rpState 2).modTime fun t => { t with everLocked := true }
    else if s.f F.RP_STATUS.STATE = 2 ∧ s.f F.RP_SERVO.ALARM_NS * 65536 < offset.natAbs then s.raise 1620
    else s
  s.stratumUpdate

/-- Delay and offset of an exchange in units of 2^-16 ns (R43). -/
def exchange (t1 t2 t3 t4 : Nat) (asym : Int) : Int × Int :=
  let d (a b : Nat) : Int := toSigned 80 (wsub 80 a b)
  ((d t4 t1 - d t3 t2).tdiv 2, (d t1 t2 + d t4 t3).tdiv 2 - asym.tdiv 2)

/-- PORT_ASYM of a port in 2^-16 ns: the register holds picoseconds. -/
def State.asym (s : State) (p : Nat) : Int := (toSigned 32 (s.f F.RP_PORT_ASYM.ASYM p) * 65536).tdiv 1000

/-- The tick skew check of a GUYLINE or TIMESTAMP LCB (R201). -/
def State.skewCheck (s : State) (p : Nat) (lcb : BitVec 512) : State :=
  if wsub 16 s.tick (L.LCB.TICK.get lcb) ≤ 1 then s else (s.cnt .TICK_SKEW_COUNT p).portNotice p 2

/-- A partner's timestamp block noted, and the exchange it completes when PEER_VALID is set (R43 to R45). -/
def State.timestampTake (s : State) (p : Nat) (lcb : BitVec 512) (ck : Nat) : State :=
  let t4 := stamp80 (s.ctrAt ck)
  let t3 := L.TSL.T_SEND.get lcb
  let old := mget s.time.peers p ⟨0, 255, 0, 0, 0⟩
  let valid := L.TSL.PEER_VALID.on lcb
  let ex := exchange (L.TSL.T_PEER_SEND.get lcb) (L.TSL.T_PEER_RECV.get lcb) t3 t4 (s.asym p)
  let x : PeerStamp := ⟨L.TSL.ROOT_NODE.get lcb, L.TSL.STRATUM.get lcb, t3, t4, if valid then ex.2 else old.offset⟩
  let s := s.modTime fun t => { t with peers := mset t.peers p x }
  if valid && s.bundleSpeaker p then
    let s := (s.set F.RP_PORT_DELAY.DELAY (ofSigned 32 ex.1) p).set F.RP_PORT_DELAY.VALID 1 p
    if s.on F.RP_CONTROL.ROOT then s.stratumUpdate
    else match s.chooseParent with
      | none => s.noParent
      | some q =>
        let s := s.takeParent q
        if q = p then s.parentExchange ex.2 else s.stratumUpdate
  else s

/-- TIMESTAMP_LCB_RECEIVE (R43, R193, R198, R201). -/
def execTimestampLcbReceive (p : Fin 256) (lcb : BitVec 512) (ck : Nat) : State → Res :=
  whenRunning fun s =>
    s.onLcb p lcb fun s => (s.skewCheck p lcb).timestampTake p lcb ck

/-- RP_STEP_CMD_GO (R49, R57): a step of RP_STEP_NS at the next turnover, added to one already pending. -/
def execRpStepCmdGo (rq : Requester) : State → Res :=
  whenRunning fun s =>
    s.writeAs rq (Reg.offset ⟨.RP_STEP_CMD, 0, 0⟩) (if rq.reaches then .ok else .notPermitted) fun s =>
      s.modTime fun t => { t with step := some (t.step.getD 0 + toSigned 64 (s.f F.RP_STEP_NS.STEP) * 65536) }

/-- RP_TOD_SECONDS_WRITE (R47): accepted only at the root with ROOT_SOURCE 0b10. -/
def execRpTodSecondsWrite (rq : Requester) (v : Word) : State → Res :=
  whenRunning fun s =>
    let st : Status :=
      if !rq.reaches then .notPermitted
      else if s.on F.RP_CONTROL.ROOT && s.f F.RP_CONTROL.ROOT_SOURCE == 2 then .ok else .badState
    s.writeAs rq (Reg.offset ⟨.RP_TOD_SECONDS, 0, 0⟩) st fun s =>
      (s.wr ⟨.RP_TOD_SECONDS, 0, 0⟩ v).modTime fun t => { t with todArmed := true }

/-- The offset of an edge from the nearest whole second of fabric time, in 2^-16 ns. -/
def ppsOffset (c : Nat) : Int :=
  let sec : Int := 1000000000 * 65536
  let r : Int := (stamp80 c : Int) % sec
  if 2 * r < sec then r else r - sec

/-- TB_PPS_EDGE (R46, R47, R595): the root stamps the edge; with ROOT_SOURCE 0b10 it takes an armed step or disciplines
its phase. Two edges a second apart within 200 ppm set PPS_OK. A node that is not the root ignores the edge. -/
def execTbPpsEdge (ck : Nat) : State → Res :=
  whenRunning fun s =>
    if !(s.on F.RP_CONTROL.ROOT) then s
    else
      let now := s.nowCk ck
      let spaced := match s.time.lastPps with
        | some a => decide (1749650000 ≤ now - a) && decide (now - a ≤ 1750350000)
        | none => false
      let s := s.modTime fun t => { t with lastPps := some now }
      let s := if spaced then s.set F.RP_STATUS.PPS_OK 1 else s
      if s.f F.RP_CONTROL.ROOT_SOURCE ≠ 2 then s
      else if s.time.todArmed then
        let want : Int := (s.f F.RP_TOD_SECONDS.SECONDS : Int) * 1000000000 * 65536
        s.modTime fun t =>
          { t with step := some (t.step.getD 0 + toSigned 80 (ofSigned 80 (want - (stamp80 (s.ctrAt ck) : Int))))
                   todArmed := false }
      else if s.on F.RP_STATUS.PPS_OK && !(s.on F.RP_CONTROL.SERVO_FREEZE) then
        s.phaseCorrect (-(ppsOffset (s.ctrAt ck)))
      else s

/-- TB_PPS_LOSS (R48): the root goes on with TB_10M, PPS_OK clears and the reference event is raised. -/
def execTbPpsLoss : State → Res :=
  whenRunning fun s =>
    if s.on F.RP_CONTROL.ROOT && s.on F.RP_STATUS.PPS_OK then
      ((s.set F.RP_STATUS.PPS_OK 0).modTime fun t => { t with lastPps := none }).raise 1619
    else s

/-- TB_10M_LOSS (R48): the root holds its last rate on CK, REF10M_OK clears and the reference event is raised. -/
def execTb10mLoss : State → Res :=
  whenRunning fun s =>
    if s.on F.RP_CONTROL.ROOT && s.on F.RP_STATUS.REF10M_OK then (s.set F.RP_STATUS.REF10M_OK 0).raise 1619 else s

/-- TB_10M_RETURN (R48, R595): REF10M_OK is set again at the root; the servo slews to the reference without a step. -/
def execTb10mReturn : State → Res :=
  whenRunning fun s => if s.on F.RP_CONTROL.ROOT then s.set F.RP_STATUS.REF10M_OK 1 else s

/-- RP_TIME_READ (R57): fabric time at the CK of the read; RP_TIME_FRAC_TICK is latched in the same CK. -/
def execRpTimeRead (rq : Requester) (ck : Nat) : State → Res :=
  whenPowered fun s =>
    if rq.reaches then
      let c := s.ctrAt ck
      let s := (s.set F.RP_TIME_FRAC_TICK.FRACTION (c / 2 ^ 32)).set F.RP_TIME_FRAC_TICK.TICK (tickOf c)
      s.emit (.regRead rq (BitVec.ofNat 64 (nsOf c)))
    else s

/-- The functions of a partition's network function: its PF and its VFs. -/
def State.fnsOf (s : State) (p : Nat) : List Nat :=
  p :: (if s.on F.AM_VF_BASE.VALID p then
    (List.range (s.f F.AM_VF_BASE.VF_COUNT p)).map fun k => s.f F.AM_VF_BASE.VF_BASE p + k else [])

/-- The time map registers of a function published under TMAP_SEQ (R56). -/
def State.publishTmap (s : State) (host c ratio err : Nat) (f : Nat) : State :=
  let s := ((s.set F.TMAP_HOST_NS.NS host f).set F.TMAP_FABRIC_NS.NS (nsOf c) f).set F.TMAP_FABRIC_FRAC.FRAC (c / 2 ^ 32) f
  let s := (s.set F.TMAP_RATIO.RATIO ratio f).set F.TMAP_ERROR_NS.NS err f
  s.set F.TMAP_SEQ.SEQ (s.f F.TMAP_SEQ.SEQ f + 2) f

/-- PTM_EXCHANGE (R56): due every PTM_INTERVAL ticks on the upstream port of an enabled partition whose link is up. -/
def execPtmExchange (part : Fin 16) (hostNs ratio : Word) (err : Fin 3) (ck : Nat) : State → Res :=
  whenRunning fun s =>
    let due := match mfind s.time.ptmLast part.val with
      | some t => decide (s.f F.EB_PART_CFG.PTM_INTERVAL part ≤ s.turnovers - t)
      | none => true
    if s.on F.EB_PART_CFG.ENABLE part && s.on F.EB_PART_STATUS.UPSTREAM_UP part && due then
      let s := s.modTime fun t => { t with ptmLast := mset t.ptmLast part.val s.turnovers }
      (s.fnsOf part).foldl (fun s f => s.publishTmap hostNs.toNat (s.ctrAt ck) ratio.toNat err f) s
    else s

/-! ### Pieces of the turnover -/

/-- CK until the first CK at or beyond the next tick boundary (R31). -/
def State.ckToBoundary (s : State) : Nat :=
  ceilDiv ((nsOf s.time.ctr / 1000 + 1) * 1000 * 2 ^ 48 - s.time.ctr % 2 ^ 112) s.time.inc

/-- The counter at the boundary, the tick number with it, and RP_TURNOVERS (R31, R34). -/
def State.tickAdvance (s : State) : State :=
  let n := s.ckToBoundary
  let s := s.modTime fun t => { t with ctr := (t.ctr + n * t.inc) % 2 ^ 112, tickCk := n }
  s.set F.RP_TURNOVERS.TURNOVERS (s.turnovers + 1)

/-- A pending step applied (R49, R51): the whole-tick part to the counter, the remainder to the phase correction. -/
def State.stepApply (s : State) : State :=
  match s.time.step with
  | none => s
  | some st =>
    let w := wholeTicks st
    let s := s.modTime fun t =>
      { t with step := none
               ctr := ((t.ctr : Int) + w * 2 ^ 32).toNat % 2 ^ 112
               phase := t.phase + (st - w)
               phaseLeft := max t.phaseLeft (max 1 (s.f F.RP_SERVO.PHASE_TICKS)) }
    if w = 0 then s else s.raise 1622

/-- The servo correction for the new tick loaded into the rate increment (R46, R52). At a root that follows TB_10M the
measured rate is added while REF10M_OK holds, and the last one is held when it does not (R48). -/
def State.servoLoad (s : State) (ref10m : Int) : State :=
  if s.on F.RP_CONTROL.SERVO_FREEZE then s
  else
    let root := s.on F.RP_CONTROL.ROOT
    let src := s.f F.RP_CONTROL.ROOT_SOURCE
    let ref := if root && src != 0 && s.on F.RP_STATUS.REF10M_OK then ref10m * 1000 / 65536 else s.time.refRate
    let share := if s.time.phaseLeft = 0 then 0 else s.time.phase.tdiv (s.time.phaseLeft : Int)
    let rate := if root then (if src = 0 then 0 else ref) else s.time.integral
    let corr := share + rate
    let s := s.modTime fun t =>
      { t with refRate := ref, phase := t.phase - share, phaseLeft := t.phaseLeft - 1, inc := incFor corr }
    s.set F.RP_RATE_ADJ.ADJ (rateAdj corr)

/-- TIMESTAMP LCBs queued to every port that negotiated Ridgepole support, on ticks that are multiples of 64 (R43,
R198), with the partner's last block echoed. At which CK from 16 on a block crosses the reference plane is free. -/
def State.timestampSend (s : State) : State :=
  if s.tick % 64 ≠ 0 then s
  else (List.range 256).foldl (fun s p =>
    if s.inService p && s.on F.PORT_STATE.RIDGEPOLE p && s.bundleSpeaker p then
      let r := s.drawNat
      let s := r.2
      let x := mfind s.time.peers p
      let v := s.f F.RP_ROOT_NODE.NODE * 2 ^ 24 + s.f F.RP_STATUS.STRATUM * 2 ^ 48 +
        (match x with | some _ => 2 ^ 56 | none => 0) + stamp80 (s.ctrAt (16 + r.1 % 1733)) * 2 ^ 64 +
        (match x with | some y => y.tPeerRecv * 2 ^ 144 + y.tPeerSend * 2 ^ 224 | none => 0)
      s.wire p (.lcb (mkLcb 0x12 s.tick v))
    else s) s

/-- The recorded lateness of the six units at CK 0 (R40). -/
def State.overruns (s : State) (late : Nat) : State :=
  let s := (List.range 6).foldl (fun s u =>
    if late.testBit u then
      let s := s.cnt .TICK_OVERRUN_COUNT u
      if s.time.lateBefore.testBit u then s
      else (s.set F.TICK_OVERRUN_STATUS.OVERRUN (setBit (s.f F.TICK_OVERRUN_STATUS.OVERRUN) u)).raise 1618
    else s) s
  s.modTime fun t => { t with lateBefore := late }

/-- The groups of tick-scoped configuration registers that TS_HOLD holds back (R38): 0 shapers, 1 congestion control,
2 Lantern limits, 3 adaptive routing weights; 4 for the registers that take effect at the next turnover and are in no
group (R215, R375, R570). -/
def holdGroup : RegName → Nat
  | .PORT_SHAPER | .TC_SHAPER => 0
  | .MARK_CFG | .TP_CC_CFG => 1
  | .LN_LIMITS => 2
  | .ROUTE_WEIGHTS => 3
  | _ => 4

/-- Whether a register is tick-scoped. -/
def tickScoped : RegName → Bool
  | .PORT_SHAPER | .TC_SHAPER | .MARK_CFG | .TP_CC_CFG | .LN_LIMITS | .ROUTE_WEIGHTS | .LL_CFG | .CL_CFG | .PC_SEL
  | .PC_CTRL => true
  | _ => false

/-- The banks swapped (R35 to R38): every written tick-scoped register is published unless its group is held. -/
def State.bankSwap (s : State) : State :=
  let hold := s.f F.TS_HOLD.HOLD
  let held (r : Reg) : Bool := holdGroup r.name < 4 && hold.testBit (holdGroup r.name)
  let pub := s.unpublished.filter fun r => !held r
  { s with active := pub.foldl (fun a r => mset a r (s.rd r)) s.active
           unpublished := s.unpublished.filter held }

end Sys2Proof.Machine
end

