-- ==== Sys2Proof/Machine/Route.lean ====
section
/-!
DEFINITION. Dimension routing, date lines and multicast trees (R83 to R113): the cost of a hop, the hops of cliques and
rings, the route of a unicast packet and the replication of a multicast packet, route-fail notices, and the entry of a
routed packet into its virtual output queues with its congestion mark (R116, R117, R132, R134).
-/
namespace Sys2Proof.Machine

open Sys2Proof

/-! ### Headers and queues -/

/-- The VCID of a class and routing VC on a core port (R90). -/
def State.vcidOn (s : State) (out mclass rvc : Nat) : Nat :=
  if out < 256 ∧ s.on F.PORT_ROUTE.FOUR_VC out then mclass else 2 * mclass + rvc

/-- A bit of a one-bit-per-dimension header field. -/
def dimBit (f : Fld) (net : BitVec 256) (d : Nat) : Bool := (f.get net).testBit d

/-- The header with a bit of such a field set to a value. -/
def setDimBit (f : Fld) (net : BitVec 256) (d : Nat) (b : Bool) : BitVec 256 :=
  f.set net (if b then setBit (f.get net) d else clrBit (f.get net) d)

/-- Cells of a packet (R115). -/
def cellsOf (net : BitVec 256) : Nat := ceilDiv (32 + L.NET.PLEN.get net) 256

/-- Segments of a packet (R114): its credit cost too (R203). -/
def pktSegs (net : BitVec 256) : Nat := ceilDiv (32 + L.NET.PLEN.get net) 64

/-- Bytes of a packet for schedulers, shapers and policers (R114). -/
def bytesOf (net : BitVec 256) : Nat := 32 + L.NET.PLEN.get net

/-- The branches of buffered packets that have not crossed, with their packets. -/
def State.waitingBranches (s : State) : List (CorePkt × Branch) :=
  s.core.pkts.flatMap fun k => (k.branches.filter fun b => !b.done).map fun b => (k, b)

/-- Cells queued for an output on a VCID. -/
def State.queuedCells (s : State) (out vcid : Nat) : Nat :=
  s.waitingBranches.foldl (fun a (p : CorePkt × Branch) =>
    if p.2.out = out ∧ p.2.vcid = vcid then a + (cellsOf p.2.net - p.2.crossed) else a) 0

/-- Cells queued for an output on every VCID (R95). -/
def State.queuedAll (s : State) (out : Nat) : Nat :=
  s.waitingBranches.foldl (fun a (p : CorePkt × Branch) =>
    if p.2.out = out then a + (cellsOf p.2.net - p.2.crossed) else a) 0

/-- Segments queued for an output and traffic class in all four quarters (R132). -/
def State.queuedSegs (s : State) (out tc : Nat) : Nat :=
  s.waitingBranches.foldl (fun a (p : CorePkt × Branch) =>
    if p.2.out = out ∧ p.1.tc = tc then a + (p.1.segs - 4 * p.2.crossed) else a) 0

/-- The route hash (R89). -/
def routeHash (net : BitVec 256) : Nat :=
  let src := L.NET.SRC_NODE.get net
  let dst := if L.NET.MCAST.on net then src else L.NET.DST_NODE.get net
  crc16 (leBytes 9 (src + L.NET.SRC_EP.get net * 2 ^ 20 + dst * 2 ^ 26 + L.NET.DST_EP.get net * 2 ^ 46 +
    L.NET.JOB.get net * 2 ^ 52 + L.NET.TC.get net * 2 ^ 68))

/-- Whether a packet is routed pinned (R101). -/
def routedPinned (net : BitVec 256) : Bool := L.NET.PINNED.on net || L.NET.MCLASS.get net == 3

/-! ### Route-fail notices (R105, R293) -/

/-- Whether a packet is itself a route-fail notice. -/
def isRouteFail (net tp : BitVec 256) : Bool := L.NET.MCLASS.get net == 3 && L.TH.OPCODE.get tp == 0x0A

/-- The route-fail notice of a packet that failed in a dimension, handed to an IE port of the core quarter on which it
failed; none where no IE port of the quarter is in service. -/
def State.routeFailNotice (s : State) (q : Nat) (net tp : BitVec 256) (dim : Nat) : State :=
  if isRouteFail net tp then s
  else match s.iePort q (L.NET.SRC_NODE.get net) (L.NET.SRC_EP.get net) (L.TH.SRC_CONN.get tp) with
    | none => s
    | some ie =>
      let h := s.netHdr (L.NET.SRC_NODE.get net) (L.NET.SRC_EP.get net) 63 (L.NET.JOB.get net) 3 7 true none 64
      let t : BitVec 256 := BitVec.ofNat 256 (0x0A + s.own * 2 ^ 16 + dim % 4 * 2 ^ 36 +
        Status.code .remoteUnreachable * 2 ^ 112)
      s.txPush ie ⟨⟨h, t, leBytes 32 net.toNat ++ leBytes 16 tp.toNat⟩, none, 0, serviceOwner, false, none, none⟩

/-- The fail action of R105: the packet is counted and its source told. -/
def State.routeFail (s : State) (q : Nat) (net tp : BitVec 256) (dim : Nat) (ctr : RegName) : State :=
  (s.cnt ctr).routeFailNotice q net tp dim

/-! ### Ports of a link group -/

/-- The ports of a link group that a hop on a routing VC may take (R86). -/
def State.eligible (s : State) (d t rvc : Nat) : List Nat :=
  (s.group d t).filter fun p => rvc == 0 || !(s.on F.PORT_ROUTE.FOUR_VC p)

/-- The least number of a list. -/
def minOf : List Nat → Option Nat
  | [] => none
  | a :: l => match minOf l with
    | none => some a
    | some b => some (min a b)

/-- The cells queued on the best port of a link group for a class and routing VC, saturating (R97). -/
def State.bestQueue (s : State) (d t mclass rvc : Nat) : Nat :=
  min 1023 ((minOf ((s.eligible d t rvc).map fun p => s.queuedCells p (s.vcidOn p mclass rvc))).getD 1023)

/-- The first of some ports at or after a pointer, wrapping. -/
def rotated (ptr : Nat) (ps : List Nat) : Option Nat :=
  match ps.find? fun p => decide (ptr ≤ p) with
  | some p => some p
  | none => ps.head?

/-- The port of a link group for a hop (R86, R101, R616), and the rotating pointer where it broke a tie. -/
def State.pickPort (s : State) (net : BitVec 256) (d t rvc : Nat) : State × Option Nat :=
  let ps := s.eligible d t rvc
  if ps.isEmpty then (s, none)
  else if routedPinned net then (s, some (lget ps (routeHash net * ps.length / 2 ^ 16) 0))
  else
    let q (p : Nat) : Nat := s.queuedCells p (s.vcidOn p (L.NET.MCLASS.get net) rvc)
    let tied := ps.filter fun p => some (q p) == minOf (ps.map q)
    match tied with
    | [p] => (s, some p)
    | _ =>
      match rotated (mget s.core.groupPtr (d, t) 0) tied with
      | none => (s, none)
      | some p => (s.modCore fun c => { c with groupPtr := mset c.groupPtr (d, t) ((p + 1) % 256) }, some p)

/-! ### Levels of neighbours (R96, R97) -/

/-- An entry of the snapshot of the neighbour at the far end of a link group: its SAME or its NEXT vector. -/
def State.snapLevel (s : State) (d t : Nat) (next : Bool) (c : Nat) : Nat :=
  let stale := s.f F.GUYLINE_CFG.GL_STALE_LEVEL
  match s.group d t with
  | [] => stale
  | p :: _ =>
    if !(s.on F.PORT_STATE.GUYLINE p) then stale
    else match mfind s.core.snaps p with
      | none => stale
      | some x =>
        let v := if next then x.next else x.same
        if s.f F.GUYLINE_CFG.GL_MAX_AGE < x.age ∨ v.isEmpty then stale else lget v c 0

/-- Ring distances from c to t: towards +1 and towards −1. -/
def ringDist (n c t : Nat) : Nat × Nat := ((t + n - c % n) % n, n - (t + n - c % n) % n)

/-- The level a neighbour publishes for what comes after dimension d is done (R97, first row; R98). -/
def State.afterLevel (s : State) (net : BitVec 256) (d t : Nat) : Nat :=
  let e := d + 1
  let own := s.fldOf s.own e
  let dst := s.fldOf (L.NET.DST_NODE.get net) e
  if !(s.dimOn e) || own == dst then 0
  else
    let c := if s.isRing e then
        let r := ringDist (s.dimSize e) own dst
        if r.1 ≤ r.2 then 0 else 1
      else dst
    min 14 (s.snapLevel d t true c)

/-- The cost of a candidate (R97). -/
def State.hopCost (s : State) (d q g x : Nat) : Nat :=
  (s.fa F.ROUTE_WEIGHTS.W_LOCAL d * q + s.fa F.ROUTE_WEIGHTS.W_REMOTE d * g + s.f F.ROUTE_ADAPT_STATUS.W_HOP_EFF d * x) %
    2 ^ 32

/-- A candidate hop: its cost, its extra hops, the coordinate or direction of its link group, whether it deroutes. -/
structure Cand where
  cost : Nat
  x : Nat
  via : Bool
  t : Nat
  deriving DecidableEq, Repr

/-- Whether a candidate is preferred (R98): lower cost, smaller x, direct, lower coordinate or + direction. -/
def Cand.better (a b : Cand) : Bool :=
  decide (a.cost < b.cost) || (a.cost == b.cost && (decide (a.x < b.x) || (a.x == b.x &&
    ((!a.via && b.via) || (a.via == b.via && decide (a.t < b.t))))))

/-- The candidate chosen (R98). -/
def bestCand (l : List Cand) : Option Cand :=
  l.foldl (fun b c => match b with
    | none => some c
    | some a => if c.better a then some c else some a) none

/-- A first hop in a dimension counted (R100). -/
def State.firstHop (s : State) (d : Nat) (long : Bool) : State :=
  let s := s.modCore fun c => { c with firstHops := mset c.firstHops d (mget c.firstHops d 0 + 1) }
  if long then
    (s.modCore fun c => { c with firstLong := mset c.firstLong d (mget c.firstLong d 0 + 1) }).cnt .DEROUTE_COUNT d
  else s

/-- What a hop comes to: a port with the header for it, no eligible port, or a header inconsistent with its arrival. -/
inductive Hop where
  | port (p : Nat) (net : BitVec 256)
  | nowhere
  | misroute
  deriving DecidableEq, Repr

/-- A hop through the link group (d, t) with a header whose RVC is set. -/
def State.hopVia (s : State) (net : BitVec 256) (d t : Nat) : State × Hop :=
  match s.pickPort net d t (L.NET.RVC.get net) with
  | (s, some p) => (s, .port p net)
  | (s, none) => (s, .nowhere)

/-! ### Cliques (R99, R101, R103) -/

/-- The intermediates a scan from the deroute pointer meets (R99). -/
def State.scanVia (s : State) (d ptr t : Nat) : List Nat :=
  let n := s.dimSize d
  let all := (List.range n).map fun k => (ptr + k) % n
  let ok := all.filter fun i => i != s.fldOf s.own d && i != t && !(s.group d i).isEmpty
  ok.take (s.f F.DR_CFG.DR_CANDIDATES d + 1)

/-- The intermediates eligible for a pinned packet (R101). -/
def State.pinnedVia (s : State) (d t : Nat) : List Nat :=
  (List.range (s.dimSize d)).filter fun i =>
    i != s.fldOf s.own d && i != t && !(s.group d i).isEmpty && decide (s.snapLevel d i false t < 15)

/-- Whether a packet may deroute (R103). -/
def State.mayDeroute (s : State) (net : BitVec 256) (d t : Nat) : Bool :=
  (s.on F.DR_CFG.DEROUTE_ENABLE d && !(routedPinned net) && !(L.NET.MCAST.on net)) ||
    ((s.group d t).isEmpty && s.on F.ROUTE_CONTROL.FAIL_DEROUTE)

/-- The first hop of a packet in a clique: its candidate (R97, R98, R101). -/
def State.cliqueCand (s : State) (inp : Nat) (net : BitVec 256) (d t : Nat) : Option Cand :=
  let cls := L.NET.MCLASS.get net
  let may := s.mayDeroute net d t
  if routedPinned net then
    if !(s.group d t).isEmpty then some ⟨0, 0, false, t⟩
    else if may then
      let l := s.pinnedVia d t
      if l.isEmpty then none else some ⟨0, 1, true, lget l (routeHash net * l.length / 2 ^ 16) 0⟩
    else none
  else
    let direct := if (s.group d t).isEmpty then []
      else [(⟨s.hopCost d (s.bestQueue d t cls 0) (s.afterLevel net d t) 0, 0, false, t⟩ : Cand)]
    let vias := if may then s.scanVia d (mget s.core.derPtr (inp, d) 0) t else []
    let vias := (vias.filter fun i => s.snapLevel d i false t != 15).map fun i =>
      (⟨s.hopCost d (s.bestQueue d i cls 0) (s.snapLevel d i false t) 1, 1, true, i⟩ : Cand)
    bestCand (direct ++ vias)

/-- A hop in a clique (R103). -/
def State.cliqueHop (s : State) (inp : Nat) (net : BitVec 256) (d : Nat) (entering : Bool) : State × Hop :=
  let t := s.fldOf (L.NET.DST_NODE.get net) d
  if !entering then
    if dimBit L.NET.DEROUTE net d then s.hopVia (L.NET.RVC.set net 1) d t else (s, .misroute)
  else
    let k := s.cliqueCand inp net d t
    let s := s.modCore fun c => { c with
      derPtr := mset c.derPtr (inp, d) ((mget c.derPtr (inp, d) 0 + 1) % max 1 (s.dimSize d)) }
    match k with
    | none => (s, .nowhere)
    | some k =>
      match s.hopVia (if k.via then setDimBit L.NET.DEROUTE net d true else net) d k.t with
      | (s, .port p h) => (s.firstHop d k.via, .port p h)
      | r => r

/-! ### Rings (R91, R103, R104) -/

/-- The ring links of a path: link j joins j and j + 1 (R104). -/
def ringLinks (n c dir k : Nat) : List Nat :=
  (List.range k).map fun j => if dir = 0 then (c + j) % n else (c + 2 * n - 1 - j) % n

/-- Whether a direction of a ring is clear over a distance (R104). -/
def State.clear (s : State) (d c dir k : Nat) : Bool :=
  !(s.group d dir).isEmpty &&
    (ringLinks (s.dimSize d) c dir k).all fun j => !((s.f F.RING_LINK_DOWN.DOWN d).testBit j)

/-- The date line position of a ring (R91). -/
def State.dateline (s : State) (d : Nat) : Nat :=
  if s.f F.DR_CFG.DATELINE_POS d = 63 then s.dimSize d - 1 else s.f F.DR_CFG.DATELINE_POS d

/-- Whether the link from c in a direction is the date line (R91). -/
def State.crossesDateline (s : State) (d c dir : Nat) : Bool :=
  if dir = 0 then c == s.dateline d else c == (s.dateline d + 1) % s.dimSize d

/-- The header as a ring hop in its direction leaves it (R91, R103). -/
def State.ringHeader (s : State) (net : BitVec 256) (d dir : Nat) : BitVec 256 :=
  let net := if s.crossesDateline d (s.fldOf s.own d) dir then setDimBit L.NET.DATELINE net d true else net
  L.NET.RVC.set net (b2n (dimBit L.NET.DATELINE net d))

/-- The distance in a direction. -/
def dirDist (r : Nat × Nat) (dir : Nat) : Nat := if dir = 0 then r.1 else r.2

/-- The direction of a packet that enters a ring (R98, R101, R103, R104), as a candidate. -/
def State.ringCand (s : State) (net : BitVec 256) (d : Nat) : Option Cand :=
  let c := s.fldOf s.own d
  let r := ringDist (s.dimSize d) c (s.fldOf (L.NET.DST_NODE.get net) d)
  let m := min r.1 r.2
  let ok (dir : Nat) : Bool := s.clear d c dir (dirDist r dir)
  let cand := [0, 1].filter fun dir =>
    ok dir && (dirDist r dir == m || s.on F.DR_CFG.RING_LONG_ENABLE d || !(ok (1 - dir)))
  let x (dir : Nat) : Nat := dirDist r dir - m
  if routedPinned net then
    let first := if r.1 = r.2 then routeHash net % 2 else if r.1 < r.2 then 0 else 1
    let dir := if cand.contains first then some first else if cand.contains (1 - first) then some (1 - first) else none
    dir.map fun dir => ⟨0, x dir, false, dir⟩
  else
    let level (dir : Nat) : Nat :=
      if 1 < dirDist r dir then s.snapLevel d dir false dir else s.afterLevel net d dir
    let open_ := cand.filter fun dir => !(decide (1 < dirDist r dir) && level dir == 15)
    bestCand (open_.map fun dir =>
      let rvc := L.NET.RVC.get (s.ringHeader net d dir)
      (⟨s.hopCost d (s.bestQueue d dir (L.NET.MCLASS.get net) rvc) (level dir) (x dir), x dir, false, dir⟩ : Cand))

/-- A hop in a ring in the direction the header holds (R103). -/
def State.ringStep (s : State) (net : BitVec 256) (d : Nat) : State × Hop :=
  let dir := b2n (dimBit L.NET.DEROUTE net d)
  s.hopVia (s.ringHeader net d dir) d dir

/-- A hop in a ring (R103). -/
def State.ringHop (s : State) (net : BitVec 256) (d : Nat) (entering : Bool) : State × Hop :=
  if !entering then s.ringStep net d
  else match s.ringCand net d with
    | none => (s, .nowhere)
    | some k =>
      match s.ringStep (setDimBit L.NET.DEROUTE net d (k.t == 1)) d with
      | (s, .port p h) => (s.firstHop d (decide (0 < k.x)), .port p h)
      | r => r

/-- A hop in a dimension. -/
def State.dimHop (s : State) (inp : Nat) (net : BitVec 256) (d : Nat) (entering : Bool) : State × Hop :=
  if s.isRing d then s.ringHop net d entering else s.cliqueHop inp net d entering

/-! ### Unicast (R103, R106) -/

/-- Where a packet leaves the fabric or the core: an output and its header. -/
abbrev Exit := Nat × BitVec 256

/-- HOPS and HCRC of a forwarded header (R103). -/
def forwarded (net : BitVec 256) : BitVec 256 := withHcrc (L.NET.HOPS.set net (min 63 (L.NET.HOPS.get net + 1)))

/-- The header as it enters a dimension (R103). -/
def enterDim (net : BitVec 256) (d : Nat) : BitVec 256 :=
  setDimBit L.NET.DATELINE (setDimBit L.NET.DEROUTE (L.NET.RVC.set (L.NET.DIM.set net d) 0) d false) d false

/-- The hub die that handles a packet for the node's own endpoint (R20); H0 for a reserved endpoint. -/
def State.ejectDie (s : State) (net : BitVec 256) : Nat :=
  let ep := L.NET.DST_EP.get net
  if ep < 16 then s.f F.EB_PART_CFG.HOME_HUB ep
  else if ep = 62 ∧ (L.NET.MCAST.on net ∨ L.NET.MCLASS.get net = 2) then L.NET.MGROUP.get net % 4
  else 0

/-- The collective group of a packet for the collective service: MGROUP of the header, or of a collective transport
header where the network header carries none (R20, R342). -/
def State.ejectPort (s : State) (net tp : BitVec 256) : Option Nat :=
  let die := if L.NET.DST_EP.get net = 62 ∧ L.NET.MCLASS.get net = 2 ∧ !(L.NET.MCAST.on net) then
    L.TH.SRC_CONN.get tp % 4 else s.ejectDie net
  (s.iePort die (L.NET.SRC_NODE.get net) (L.NET.SRC_EP.get net) (L.TH.SRC_CONN.get tp)).map fun p => 256 + p

/-- The lowest dimension in which a packet still has to travel (R103). -/
def State.nextDim (s : State) (net : BitVec 256) (from_ : Nat) : Option Nat :=
  (List.range s.ndims).find? fun e =>
    decide (from_ ≤ e) && s.fldOf (L.NET.DST_NODE.get net) e != s.fldOf s.own e

/-- The output of a unicast packet (R103, R106), whose header check and arrival dimension have passed. -/
def State.routeUnicast (s : State) (inp : Nat) (net tp : BitVec 256) : State × List Exit :=
  let q := quarterOf inp
  if s.illegalCoord (L.NET.DST_NODE.get net) then
    (s.routeFail q net tp (L.NET.DIM.get net) .ROUTE_FAIL_COUNT, [])
  else match s.nextDim net (L.NET.DIM.get net) with
    | none =>
      match s.ejectPort net tp with
      | some out => (s, [(out, net)])
      | none => (s.routeFail q net tp (L.NET.DIM.get net) .ROUTE_FAIL_COUNT, [])
    | some d =>
      if s.f F.ROUTE_CONTROL.HOP_LIMIT ≤ L.NET.HOPS.get net then (s.routeFail q net tp d .HOP_LIMIT_COUNT, [])
      else
        let entering := decide (256 ≤ inp) || s.portDim inp != d
        match s.dimHop inp (if entering then enterDim net d else net) d entering with
        | (s, .port p h) => (s, [(p, forwarded h)])
        | (s, .nowhere) => (s.routeFail q net tp d .ROUTE_FAIL_COUNT, [])
        | (s, .misroute) => (s.routeFail q net tp d .MISROUTE_COUNT, [])

/-! ### Multicast (R110, R111) -/

/-- A branch of a multicast packet that fails (R111). -/
def State.branchFail (s : State) (inp : Nat) (net tp : BitVec 256) (d : Nat) : State :=
  s.routeFail (quarterOf inp) net tp d .MCAST_BRANCH_FAIL_COUNT

/-- A copy forwarded in a dimension (R110): hop limit, hop, HOPS and HCRC. -/
def State.forward (s : State) (inp : Nat) (net tp : BitVec 256) (d : Nat) (hop : State → State × Hop) :
    State × List Exit :=
  if s.f F.ROUTE_CONTROL.HOP_LIMIT ≤ L.NET.HOPS.get net then
    (s.routeFail (quarterOf inp) net tp d .HOP_LIMIT_COUNT, [])
  else match hop s with
    | (s, .port p h) => (s, [(p, forwarded h)])
    | (s, .nowhere) => (s.branchFail inp net tp d, [])
    | (s, .misroute) => (s.routeFail (quarterOf inp) net tp d .MISROUTE_COUNT, [])

/-- Work over a list that changes the state and collects exits. -/
def collect {α : Type} (g : State → α → State × List Exit) : List α → State → State × List Exit
  | [], s => (s, [])
  | a :: l, s =>
    let r := g s a
    let r2 := collect g l r.1
    (r2.1, r.2 ++ r2.2)

/-- Delivery to every endpoint of the group at a member node (R110, R20). -/
def State.mcDeliver (s : State) (inp : Nat) (net tp : BitVec 256) (e : BitVec 512) : State × List Exit :=
  collect (fun s ep =>
    let h := withHcrc (L.NET.DST_EP.set net ep)
    match s.ejectPort h tp with
    | some out => (s, [(out, h)])
    | none => (s.branchFail inp h tp (L.NET.DIM.get net), []))
    (bitsOf (L.MCG.EPMASK.get e) 64) s

/-- The masked coordinates of a ring other than its own that a direction serves, and those no direction reaches
(R110): 0 towards +1, 1 towards −1, 2 none. -/
def State.served (s : State) (e : BitVec 512) (d dir : Nat) : List Nat :=
  let n := s.dimSize d
  let c := s.fldOf s.own d
  (bitsOf (mcgMask e d) n).filter fun t =>
    let r := ringDist n c t
    let cp := s.clear d c 0 r.1
    let cm := s.clear d c 1 r.2
    let side := if !cp && !cm then 2 else if (cp && decide (r.1 ≤ n / 2)) || !cm then 0 else 1
    t != c && side == dir

/-- The coordinate at the largest distance in a direction. -/
def farthest (n c dir : Nat) (l : List Nat) : Option Nat :=
  l.foldl (fun b t => match b with
    | none => some t
    | some u => if dirDist (ringDist n c u) dir < dirDist (ringDist n c t) dir then some t else some u) none

/-- A ring branch in one direction, as a unicast packet to its farthest coordinate (R110). -/
def State.ringBranch (s : State) (inp : Nat) (net tp : BitVec 256) (e : BitVec 512) (d dir : Nat) :
    State × List Exit :=
  let n := s.dimSize d
  let c := s.fldOf s.own d
  match farthest n c dir (s.served e d dir) with
  | none => (s, [])
  | some t =>
    let b := L.NET.DST_NODE.set net (s.setCoord (L.NET.DST_NODE.get net) d t)
    let b := setDimBit L.NET.DEROUTE (enterDim b d) d (dir == 1)
    let r := ringDist n c t
    let g := s.forward inp b tp d fun s => s.ringStep b d
    (if g.2.isEmpty then g.1 else g.1.firstHop d (decide (min r.1 r.2 < dirDist r dir)), g.2)

/-- The branches that a member or source node starts from dimension d on (R110, `start`). -/
def State.mcStart (s : State) (inp : Nat) (net tp : BitVec 256) (e : BitVec 512) : Nat → Nat → State × List Exit
  | 0, _ => s.mcDeliver inp net tp e
  | k + 1, d =>
    let c := s.fldOf s.own d
    let r :=
      if s.isRing d then
        let a := s.ringBranch inp net tp e d 0
        let b := a.1.ringBranch inp net tp e d 1
        let lost := (s.served e d 2).foldl (fun t u =>
          t.branchFail inp (L.NET.DST_NODE.set net (s.setCoord (L.NET.DST_NODE.get net) d u)) tp d) b.1
        (lost, a.2 ++ b.2)
      else
        collect (fun s t =>
          let b := enterDim (L.NET.DST_NODE.set net (s.setCoord (L.NET.DST_NODE.get net) d t)) d
          s.forward inp b tp d fun s => s.cliqueHop inp b d true)
          ((bitsOf (mcgMask e d) (s.dimSize d)).filter fun t => t != c) s
    if (mcgMask e d).testBit c then
      let q := r.1.mcStart inp net tp e k (d + 1)
      (q.1, r.2 ++ q.2)
    else r

/-- The replication of a multicast packet (R110). -/
def State.replicate (s : State) (inp : Nat) (net tp : BitVec 256) : State × List Exit :=
  let g := s.mcgRead (quarterOf inp) (L.NET.MGROUP.get net)
  let s := g.1
  let e := g.2
  let n := s.ndims
  if !(mcgValid e) then ((s.cnt .MCAST_INVALID_COUNT).raise 1617, [])
  else if 256 ≤ inp then s.mcStart inp net tp e n 0
  else
    let d := s.portDim inp
    let c := s.fldOf s.own d
    let far := s.fldOf (L.NET.DST_NODE.get net) d != c
    if s.isRing d then
      let a := if (mcgMask e d).testBit c then s.mcStart inp net tp e (n - 1 - d) (d + 1) else (s, [])
      let b := if far then a.1.forward inp net tp d fun s => s.ringStep net d else (a.1, [])
      (b.1, a.2 ++ b.2)
    else if far then s.forward inp net tp d fun s => s.cliqueHop inp net d false
    else s.mcStart inp net tp e (n - 1 - d) (d + 1)

/-- The outputs of a packet (R103): none where it is dropped or fails. -/
def State.route (s : State) (inp : Nat) (net tp : BitVec 256) : State × List Exit :=
  if !(hcrcOk net) then (s.cnt .HCRC_ERROR_COUNT, [])
  else if inp < 256 ∧ (L.NET.DIM.get net ≠ s.portDim inp ∨ !(s.dimOn (L.NET.DIM.get net))) then
    (s.routeFail (quarterOf inp) net tp (L.NET.DIM.get net) .MISROUTE_COUNT, [])
  else if L.NET.MCAST.on net then s.replicate inp net tp
  else s.routeUnicast inp net tp

/-! ### Queues and marks (R116, R117, R132, R134) -/

/-- The traffic class a packet is scheduled in (R116). -/
def schedTc (net : BitVec 256) : Nat :=
  match L.NET.MCLASS.get net with
  | 3 => 7
  | 2 => 6
  | _ => min 5 (L.NET.TC.get net)

/-- The fabric address of a header: destination coordinate and endpoint. -/
def fabricAddr (net : BitVec 256) : Nat := L.NET.DST_NODE.get net + L.NET.DST_EP.get net * 2 ^ 20

/-- The hot entry that holds an address and takes its packets (R134): from the tick after the entry became hot. -/
def State.hotFor (s : State) (addr : Nat) : Option Nat :=
  firstNat 64 fun e => s.on F.HOT_ENTRY.VALID e && s.f F.HOT_ENTRY.ADDRESS e == addr &&
    decide (mget s.core.hotFrom e 0 < s.turnovers)

/-- K_EFF of an output and class (R131): K_MIN after reset (assumption log 12). -/
def State.kEff (s : State) (out tc : Nat) : Nat := mget s.core.kEff (out, tc) s.core.kBase

/-- A packet enqueued towards an output: its mark (R132) and its branch. -/
def State.enqueue (s : State) (inp tc : Nat) (x : Exit) : State × Branch :=
  let hot := s.hotFor (fabricAddr x.2)
  let mark := (s.fa F.MARK_CFG.MARK_ENABLE).testBit tc &&
    (hot.isSome || decide (s.kEff x.1 tc ≤ s.queuedSegs x.1 tc))
  let net := if mark && L.NET.CE.get x.2 == 0 then withHcrc (L.NET.CE.set x.2 1) else x.2
  let a := (x.1, fabricAddr x.2)
  let k := (quarterOf inp, tc)
  let s := if mark && L.NET.CE.get x.2 == 0 then s.perf (quarterOf x.1) 0x03 x.1 tc 1 else s
  let s := if mark then
      (s.cnt .MARK_COUNT tc).modCore fun c => { c with
        marks := mset c.marks k (mget c.marks k 0 + 1)
        addrMarks := mset c.addrMarks a (mget c.addrMarks a 0 + 1) }
    else s
  (s.modCore fun c => { c with nextEnq := c.nextEnq + 1 },
    ⟨x.1, net, s.vcidOn x.1 (L.NET.MCLASS.get net) (L.NET.RVC.get net), hot, 0, false, false, s.core.nextEnq⟩)

/-- The branches of a packet enqueued one after the other. -/
def State.enqueueAll (s : State) (inp tc : Nat) : List Exit → State × List Branch
  | [] => (s, [])
  | x :: l =>
    let r := s.enqueue inp tc x
    let q := r.1.enqueueAll inp tc l
    (q.1, r.2 :: q.2)

/-- The state with a buffered packet changed. -/
def State.modPkt (s : State) (id : Nat) (g : CorePkt → CorePkt) : State :=
  s.modCore fun c => { c with pkts := c.pkts.map fun k => if k.id = id then g k else k }

/-- A packet's charge on its input's reserve freed, its credit returned to the link partner (R128, R204) unless the
charge is older than a fresh start (R213). -/
def State.freeReserve (s : State) (k : CorePkt) : State :=
  if k.freed || decide (256 ≤ k.inp) || (s.port k.inp).gen != k.gen then s
  else s.modPort k.inp fun x => { x with
    crTotal := lset x.crTotal k.rsvVc (wadd 16 (lget x.crTotal k.rsvVc 0) k.segs)
    ackDue := true }

/-- A packet leaves the buffer: its charge is released (R128, R130). -/
def State.releasePkt (s : State) (k : CorePkt) : State :=
  (s.freeReserve k).modCore fun c => { c with pkts := c.pkts.filter fun x => x.id != k.id }

/-- A packet that is whole and has nothing left to send leaves the buffer. -/
def State.settlePkt (s : State) (id : Nat) : State :=
  match s.core.pkts.find? fun k => k.id == id with
  | some k => if k.complete && k.routed && k.branches.all (fun b => b.done) then s.releasePkt k else s
  | none => s

/-- The next packet of an input to be routed: its oldest, whole or with its first cell and switched cut-through. -/
def State.toRoute (s : State) (inp : Nat) : Option CorePkt :=
  s.core.pkts.find? fun k => k.inp == inp && !k.routed && (k.complete || (k.cutThrough && decide (1 ≤ k.cellsIn)))

/-- PACKET_ROUTE (R103, R110, R116, R117, R132). -/
def execPacketRoute (inp : Fin 272) : State → Res :=
  whenRunning fun s => match s.toRoute inp with
    | none => s
    | some k =>
      let tc := schedTc k.pkt.net
      let clamp := decide (inp.val < 256) && decide (L.NET.MCLASS.get k.pkt.net < 2) &&
        decide (5 < L.NET.TC.get k.pkt.net) && hcrcOk k.pkt.net
      let s := if clamp then s.cnt .TC_CLAMP_COUNT else s
      let r := s.route inp k.pkt.net k.pkt.tp
      let q := r.1.enqueueAll inp tc r.2
      (q.1.modPkt k.id fun x => { x with routed := true, tc := tc, branches := q.2 }).settlePkt k.id

/-! ### Guyline (R94 to R96) -/

/-- GUYLINE_LCB_RECEIVE (R39, R96, R191, R193, R197, R201): a report received in a tick is in force in the next. -/
def execGuylineLcbReceive (p : Fin 256) (lcb : BitVec 512) : State → Res :=
  whenRunning fun s =>
    s.onLcb p lcb fun s =>
      let v := (List.range 64).map fun c => Fld.get ⟨4 * c + 35, 4 * c + 32⟩ lcb
      let x := mget s.core.snapsNext p.val (mget s.core.snaps p.val ⟨[], [], 0⟩)
      let y : Snapshot := if L.GLL.VECTOR.on lcb then { x with next := v, age := 0 } else { x with same := v, age := 0 }
      (s.skewCheck p lcb).modCore fun c => { c with snapsNext := mset c.snapsNext p.val y }

/-- The level of a link group (R95). -/
def State.groupLevel (s : State) (d t : Nat) : Nat :=
  match minOf ((s.group d t).map s.queuedAll) with
  | none => 15
  | some q => min 14 (q / max 1 (s.f F.GUYLINE_CFG.GL_QUANTUM))

/-- The vector of levels of a dimension (R94): all zero where it is not enabled. -/
def State.levels (s : State) (d : Nat) : List Nat :=
  (List.range 64).map fun c =>
    if !(s.dimOn d) then 0
    else if s.isRing d then (if c < 2 then s.groupLevel d c else 0)
    else if c < s.dimSize d ∧ c ≠ s.fldOf s.own d then s.groupLevel d c else 0

/-- The fields of a GUYLINE LCB (R197). -/
def guylineBody (vector d : Nat) (l : List Nat) : Nat :=
  (List.range l.length).foldl (fun a c => a + lget l c 0 * 2 ^ (4 * c + 32)) (vector * 2 ^ 24 + d * 2 ^ 25)

/-- The snapshots at a turnover (R39, R40, R96): they age, and the reports received in the ending tick come into force, or
are discarded when the Guyline unit is late. -/
def State.snapTurnover (s : State) (late : Bool) : State :=
  s.modCore fun c =>
    let aged : AMap Nat Snapshot := c.snaps.map fun p => (p.1, { p.2 with age := p.2.age + 1 })
    { c with snaps := (if late then [] else c.snapsNext).foldl (fun m p => mset m p.1 p.2) aged, snapsNext := [] }

/-- Both vectors of a Guyline report sent on every in-service port with Guyline support (R94). -/
def State.guylineSend (s : State) : State :=
  let l := (List.range 5).map s.levels
  (List.range 256).foldl (fun s p =>
    if s.inService p && s.on F.PORT_STATE.GUYLINE p then
      let d := s.portDim p
      (s.wire p (.lcb (mkLcb 0x11 s.tick (guylineBody 0 d (lget l d []))))).wire p
        (.lcb (mkLcb 0x11 s.tick (guylineBody 1 d (lget l (d + 1) []))))
    else s) s

/-- SHARE and W_HOP_EFF of a dimension at a turnover (R100). -/
def State.hopAdapt (s : State) (d : Nat) : State :=
  let all := mget s.core.firstHops d 0
  let share := if all = 0 then 0 else min 255 (256 * mget s.core.firstLong d 0 / all)
  let w := s.f F.ROUTE_ADAPT_STATUS.W_HOP_EFF d
  let w := if s.on F.ROUTE_CONTROL.ROUTE_FREEZE then w
    else if s.fa F.ROUTE_WEIGHTS.DR_HIGH d < share then w + 1
    else if share < s.fa F.ROUTE_WEIGHTS.DR_LOW d then w - 1 else w
  let w := min (s.fa F.ROUTE_WEIGHTS.W_HOP_MAX d) (max (s.fa F.ROUTE_WEIGHTS.W_HOP_MIN d) w)
  (s.set F.ROUTE_ADAPT_STATUS.SHARE share d).set F.ROUTE_ADAPT_STATUS.W_HOP_EFF w d

/-- The adaptive routing weights of the four dimensions, and the counts of the tick cleared (R100). -/
def State.hopAdapts (s : State) : State :=
  ((List.range 4).foldl (fun s d => s.hopAdapt d) s).modCore fun c => { c with firstHops := [], firstLong := [] }

end Sys2Proof.Machine
end

