-- ==== Sys2Proof/Machine/SwitchCore.lean ====
section
/-!
DEFINITION. The switch core (R114 to R141): charges of the packet buffer, eligibility of head packets, the three
request–grant–accept iterations with the scheduling order of each output, the transfer of cells, cut-through and its
aborts, hot destinations, the flush of a port that goes down, and the loops that run at a turnover.
-/
namespace Sys2Proof.Machine

open Sys2Proof

/-! ### Shared space (R126, R128, R129) -/

/-- Shared segments of a quarter (R126). -/
def sharedSegs : Nat := 516096

/-- ALPHA_EFF of a quarter and class (R129). -/
def State.alphaEff (s : State) (h t : Nat) : Nat := Fld.get ⟨8 * h + 7, 8 * h⟩ (s.rd ⟨.ALPHA_STATUS, t, 0⟩)

/-- Shared segments charged in a quarter. -/
def State.sharedUsed (s : State) (h : Nat) : Nat :=
  s.core.pkts.foldl (fun a k => if quarterOf k.inp = h ∧ k.shared.isSome then a + k.segs else a) 0

/-- Shared segments charged to an output and class in a quarter. -/
def State.sharedFor (s : State) (h out tc : Nat) : Nat :=
  s.core.pkts.foldl (fun a k => if quarterOf k.inp = h ∧ k.shared = some (out, tc) then a + k.segs else a) 0

/-- Whether shared space takes n segments for an output and class of a quarter (R128); HOT_ALPHA for a hot queue. -/
def State.sharedTakes (s : State) (h out tc n : Nat) (hot : Bool) : Bool :=
  let a := if hot then s.f F.HOT_CFG.HOT_ALPHA else s.alphaEff h tc
  decide (s.sharedFor h out tc + n ≤ a * (sharedSegs - s.sharedUsed h) / 16)

/-- The branch whose output has the most shared segments in the quarter (R130). -/
def State.heaviest (s : State) (h tc : Nat) : List Branch → Option Branch
  | [] => none
  | b :: l => match s.heaviest h tc l with
    | none => some b
    | some c => if s.sharedFor h b.out tc < s.sharedFor h c.out tc then some c else some b

/-- SHARED_CHARGE_MOVE (R128, R130, R204): the charge of an accepted packet moves from its input's reserve to shared
space when the admission test holds, and the input's credit is returned. -/
def execSharedChargeMove (id : Nat) : State → Res :=
  whenRunning fun s => match s.core.pkts.find? fun k => k.id == id with
    | none => s
    | some k =>
      let h := quarterOf k.inp
      match s.heaviest h k.tc (k.branches.filter fun b => !b.done) with
      | none => s
      | some b =>
        if k.complete && !k.freed && s.sharedTakes h b.out k.tc k.segs b.hot.isSome then
          (s.freeReserve k).modPkt id fun x => { x with freed := true, shared := some (b.out, k.tc) }
        else s

/-! ### Links and outputs -/

/-- Link-layer rate of a lane in a mode, in Gb/s (R148). -/
def laneRate (rate : Nat) (fecNone : Bool) : Nat :=
  match rate with
  | 0 => if fecNone then 55 else 52
  | 1 => 104
  | _ => 208

/-- The link rate of a fabric port (R122, R148). -/
def State.linkRate (s : State) (p : Nat) : Nat :=
  laneRate (s.f F.PORT_STATE.RATE p) (s.on F.PORT_STATE.FEC_NONE p) * 2 ^ s.f F.PORT_STATE.WIDTH p

/-- The packets in an output stage. -/
def State.stage (s : State) (p : Nat) : List StagePkt := mget s.core.stage p []

/-- The state with an output stage replaced. -/
def State.setStage (s : State) (p : Nat) (l : List StagePkt) : State :=
  s.modCore fun c => { c with stage := mset c.stage p l }

/-- The packet whose first transmission is in progress on a port: its buffer number and enqueue number. -/
def State.inTx (s : State) (p : Nat) (x : StagePkt) : Bool := (s.port p).txNow == some (x.id, x.enq)

/-- The available credit of a VCID (R203); none before a usable partner INIT (R212). -/
def State.credit (s : State) (p v : Nat) : Nat :=
  let x := s.port p
  if x.partnerInit then lget x.adv v 0 - wsub 16 (lget x.debit v 0) (lget x.cred v 0) else 0

/-- Credit of a VCID that no packet has taken or reserved (R121, R203). -/
def State.creditFree (s : State) (p v : Nat) : Nat :=
  let held := (s.stage p).foldl (fun a y => if y.vcid = v ∧ !(s.inTx p y) then a + pktSegs y.pkt.net else a) 0
  s.credit p v - held

/-- Cells of an output stage that are taken (R118). -/
def State.outStageUsed (s : State) (p : Nat) : Nat := (s.stage p).foldl (fun a x => a + x.cells) 0

/-! ### Eligibility (R118, R122, R123, R135, R141) -/

/-- Whether two branches of packets wait in one queue (R117). -/
def sameQueue (a b : CorePkt × Branch) : Bool :=
  a.1.inp == b.1.inp && a.2.out == b.2.out && a.2.vcid == b.2.vcid && a.2.hot == b.2.hot

/-- The branches that wait for their first cell to be accepted. -/
def State.unstarted (s : State) : List (CorePkt × Branch) :=
  s.waitingBranches.filter fun x => !x.2.started

/-- The heads of the queues. -/
def heads (l : List (CorePkt × Branch)) : List (CorePkt × Branch) :=
  l.filter fun x => !(l.any fun y => sameQueue x y && decide (y.2.enq < x.2.enq))

/-- Whether a packet may be switched to an output now (R122, R123, R125): whole, or cut-through with its first cell. -/
def State.switchable (s : State) (k : CorePkt) (out : Nat) : Bool :=
  k.complete ||
    (k.cutThrough && decide (1 ≤ k.cellsIn) && decide (k.inp < 256) && decide (out < 256) &&
      (s.f F.PORT_SCHED.CT_ENABLE k.inp).testBit k.tc && decide (s.linkRate out ≤ s.linkRate k.inp) &&
      (s.port k.inp).width.isNone)

/-- Whether a shaper permits a start (R140, R141): index 8 is the port shaper. -/
def State.shaperOk (s : State) (out i : Nat) : Bool :=
  !(s.core.shaperOn.contains (out, i)) || decide (0 < mget s.core.tokens (out, i) 0)

/-- Whether a hot queue's older packets for its address have left the input (R135). -/
def State.hotOk (s : State) (k : CorePkt) (b : Branch) : Bool :=
  b.hot.isNone || !(s.waitingBranches.any fun y =>
    y.1.inp == k.inp && y.2.hot.isNone && decide (y.2.enq < b.enq) && fabricAddr y.2.net == fabricAddr b.net)

/-- What R118 asks of a head packet besides credit. -/
def State.readyBut (s : State) (x : CorePkt × Branch) : Bool :=
  let out := x.2.out
  s.switchable x.1 out && s.hotOk x.1 x.2 && s.shaperOk out 8 && s.shaperOk out x.1.tc &&
    (if 256 ≤ out then !(s.core.ieDown.contains (out - 256))
     else s.f F.PORT_STATE.STATE out == 6 && decide (s.outStageUsed out + cellsOf x.2.net ≤ 18))

/-- Whether the output's link has credit for a head packet (R118, R203). -/
def State.hasCredit (s : State) (x : CorePkt × Branch) : Bool :=
  decide (256 ≤ x.2.out) || decide (x.1.segs ≤ s.creditFree x.2.out x.2.vcid)

/-- A request of an input for an output (R119, R617). -/
structure Req where
  inp : Nat
  out : Nat
  tc : Nat
  enq : Nat
  id : Nat
  bytes : Nat
  deriving DecidableEq, Repr

/-- The requests of the cell time: for each input, output and class, the eligible head enqueued first (R617). -/
def State.requests (s : State) : List Req :=
  let l := ((heads s.unstarted).filter fun x => s.readyBut x && s.hasCredit x).map fun (x : CorePkt × Branch) =>
    (⟨x.1.inp, x.2.out, x.1.tc, x.2.enq, x.1.id, bytesOf x.2.net⟩ : Req)
  l.filter fun r => !(l.any fun q => q.inp == r.inp && q.out == r.out && q.tc == r.tc && decide (q.enq < r.enq))

/-! ### Grants and accepts (R119, R120, R138, R139) -/

/-- The request at or after a round-robin pointer, wrapping, by a port number of the request. -/
def roundRobin (port : Req → Nat) (ptr : Nat) (l : List Req) : Option Req :=
  match rotated ptr ((l.map port).mergeSort fun a b => decide (a ≤ b)) with
  | some p => l.find? fun r => port r == p
  | none => none

/-- QUANTUM of an output's class in bytes (R139). -/
def State.quantum (s : State) (out t : Nat) : Int := (Fld.get ⟨8 * t + 7, 8 * t⟩ (s.rd ⟨.QUANTUM, out, 0⟩) * 64 : Nat)

/-- The deficit round robin of an output: the class it stands at, whether that class has had its quantum in this visit,
and the deficits. -/
structure Drr where
  at_ : Nat
  fresh : Bool
  deficit : List Int
  deriving DecidableEq, Repr

/-- The deficit round robin of an output as the core holds it. -/
def State.drr (s : State) (out : Nat) : Drr :=
  ⟨mget s.core.drrPtr out 0, mget s.core.drrFresh out false,
    (List.range 6).map fun t => mget s.core.deficit (out, t) 0⟩

/-- One walk of the round robin until a class may send its request (R139). -/
def State.drrWalk (s : State) (out : Nat) (want : Nat → Option Req) : Nat → Drr → Option (Req × Drr)
  | 0, _ => none
  | k + 1, d =>
    let next : Drr := { d with at_ := (d.at_ + 1) % 6, fresh := false }
    match want d.at_ with
    | none => s.drrWalk out want k next
    | some r =>
      let v := lget d.deficit d.at_ 0 + (if d.fresh then 0 else s.quantum out d.at_)
      if (r.bytes : Int) ≤ v then some (r, { d with fresh := true, deficit := lset d.deficit d.at_ (v - r.bytes) })
      else s.drrWalk out want k { next with deficit := lset d.deficit d.at_ v }

/-- The request an output grants (R119, step 2; R138, R139), with its round robin should the grant be accepted. -/
def State.grant (s : State) (reqs : List Req) (out : Nat) : Option (Req × Drr) :=
  let pick (t : Nat) : Option Req :=
    roundRobin (fun r => r.inp) (mget s.core.grantPtr (out, t) 0) (reqs.filter fun r => r.out == out && r.tc == t)
  match pick 7 with
  | some r => some (r, s.drr out)
  | none => match pick 6 with
    | some r => some (r, s.drr out)
    | none => s.drrWalk out pick 600 (s.drr out)

/-- The grant an input accepts (R119, step 3): the highest class, then the round robin over outputs. -/
def State.acceptOf (s : State) (grants : List (Req × Drr)) (inp : Nat) : Option (Req × Drr) :=
  let mine := grants.filter fun g => g.1.inp == inp
  let top := mine.foldl (fun a g => max a g.1.tc) 0
  let best := mine.filter fun g => g.1.tc == top
  match roundRobin (fun r => r.out) (mget s.core.acceptPtr inp 0) (best.map fun g => g.1) with
  | some r => best.find? fun g => g.1 == r
  | none => none

/-- The bytes of a starting packet deducted from the shapers in force (R141). -/
def State.shaperDeduct (s : State) (out tc bytes : Nat) : State :=
  let d (s : State) (i : Nat) : State :=
    if s.core.shaperOn.contains (out, i) then
      s.modCore fun c => { c with tokens := mset c.tokens (out, i) (mget c.tokens (out, i) 0 - (bytes : Int)) }
    else s
  d (d s 8) tc

/-- An accepted request: the pair is matched, the packet's credit and output-stage room are reserved by its place in the
stage, its shapers are charged, and the round robins move (R120, R121, R139, R141). -/
def State.accept (s : State) (first : Bool) (g : Req × Drr) : State :=
  let r := g.1
  match s.core.pkts.find? fun k => k.id == r.id with
  | none => s
  | some k =>
    match k.branches.find? fun b => b.enq == r.enq with
    | none => s
    | some b =>
      let s := s.modPkt r.id fun x => { x with
        branches := x.branches.map fun c => if c.enq = r.enq then { c with started := true } else c }
      let s := s.modCore fun c => { c with matched := c.matched ++ [(⟨r.inp, r.out, r.id, r.enq⟩ : Match)] }
      let s := if first then s.modCore fun c => { c with
          grantPtr := mset c.grantPtr (r.out, r.tc) ((r.inp + 1) % 272)
          acceptPtr := mset c.acceptPtr r.inp ((r.out + 1) % 272) } else s
      let s := if r.tc < 6 then s.modCore fun c => { c with
          drrPtr := mset c.drrPtr r.out g.2.at_
          drrFresh := mset c.drrFresh r.out g.2.fresh
          deficit := (List.range 6).foldl (fun m t => mset m (r.out, t) (lget g.2.deficit t 0)) c.deficit } else s
      let empty := !(s.unstarted.any fun y => y.2.out == r.out && y.1.tc == r.tc)
      let s := if empty then s.modCore fun c => { c with deficit := mset c.deficit (r.out, r.tc) 0 } else s
      let s := s.shaperDeduct r.out r.tc r.bytes
      if 256 ≤ r.out then s
      else s.setStage r.out (s.stage r.out ++
        [⟨r.id, r.enq, ⟨b.net, k.pkt.tp, k.pkt.payload⟩, k.inp, b.vcid, cellsOf b.net, 0, !k.complete⟩])

/-- One iteration of request, grant and accept among the ports left unmatched (R119). -/
def State.iterate (s : State) (reqs : List Req) (first : Bool) : State :=
  let free := reqs.filter fun r => !(s.core.matched.any fun m => m.inp == r.inp || m.out == r.out)
  let outs := (free.map fun r => r.out).dedup
  let grants := outs.filterMap fun o => s.grant free o
  let inps := (grants.map fun g => g.1.inp).dedup
  (inps.filterMap fun i => s.acceptOf grants i).foldl (fun s g => s.accept first g) s

/-! ### Transmissions on a link (R188 to R190, R205) -/

/-- The bytes of a packet from its network header on; PLEN says how long its transport header is. -/
def pktBytes (p : Packet) : List Byte :=
  leBytes 32 p.net.toNat ++ leBytes (min 32 (L.NET.PLEN.get p.net - p.payload.length)) p.tp.toNat ++ p.payload

/-- LCRC of a packet with its envelope (R190). -/
def lcrcOf (env : BitVec 64) (p : Packet) : Nat := crc32 (leBytes 8 env.toNat ++ pktBytes p)

/-- A packet sent on a port with its envelope. -/
def State.sendPkt (s : State) (p : Nat) (env : BitVec 64) (k : Packet) : State :=
  s.wire p (.packet env k (BitVec.ofNat 32 (lcrcOf env k)))

/-- A replay pass (R205): every stored entry in LSEQ order with KIND 0x2. -/
def State.runPass (s : State) (p : Nat) : State :=
  ((s.port p).replay.foldl (fun t r => t.sendPkt p (L.ENV.KIND.set r.env 2) r.pkt) s).set F.LL_STATUS.REPLAYING 0 p

/-- The first transmission of a packet ends: it leaves the output stage, and a pass that waits for its end starts. -/
def State.finishTx (s : State) (p id enq : Nat) (k : Packet) : State :=
  let x := s.port p
  let env := ((x.replay.find? fun r => r.id == id && r.enq == enq).map fun r => r.env).getD 0
  let s := s.setPort p { x with
    txNow := none
    replay := x.replay.map fun r => if r.id = id ∧ r.enq = enq then { r with pkt := k } else r }
  let s := (s.setStage p ((s.stage p).filter fun y => !(y.id == id && y.enq == enq))).sendPkt p env k
  if s.on F.LL_STATUS.REPLAYING p then s.runPass p else s

/-! ### Cells -/

/-- A packet handed to the transport unit of an IE port (R93). -/
def State.eject (s : State) (ie : Nat) (p : Packet) : State :=
  { s with ni := { s.ni with ej := mset s.ni.ej ie (mget s.ni.ej ie [] ++ [p]) } }

/-- The next cell of a matched pair, if it has arrived at the input (R121). -/
def State.transfer (s : State) (m : Match) : State :=
  match s.core.pkts.find? fun k => k.id == m.id with
  | none => s
  | some k =>
    match k.branches.find? fun b => b.enq == m.enq with
    | none => s
    | some b =>
      if k.cellsIn ≤ b.crossed then s
      else
        let n := b.crossed + 1
        let last := decide (cellsOf b.net ≤ n)
        let s := s.modPkt k.id fun x => { x with
          branches := x.branches.map fun c => if c.enq = b.enq then { c with crossed := n, done := last } else c }
        let gone := min 4 (k.segs - 4 * b.crossed)
        let s := s.perf (quarterOf b.out) 0x01 b.out k.tc 1
        let s := s.modCore fun c => { c with
          departed := mset c.departed (b.out, k.tc) (mget c.departed (b.out, k.tc) 0 + gone)
          matched := if last then c.matched.filter fun x => x != m else c.matched }
        let s := if 256 ≤ b.out then (if last then s.eject (b.out - 256) ⟨b.net, k.pkt.tp, k.pkt.payload⟩ else s)
          else
            let p : Packet := ⟨b.net, k.pkt.tp, k.pkt.payload⟩
            let s := s.setStage b.out ((s.stage b.out).map fun x =>
              if x.enq = b.enq then { x with cellsIn := n, pkt := p } else x)
            if last && (s.port b.out).txNow == some (k.id, b.enq) then s.finishTx b.out k.id b.enq p else s
        if last then
          let whole := k.branches.all fun c => c.done || c.enq == b.enq
          let s := if whole && !k.freed then s.cnt .RESERVE_ONLY_COUNT else s
          s.settlePkt k.id
        else s

/-- A cell of a packet still arriving has reached its input; its last cell comes with its end (R123). -/
def State.cellArrives (s : State) (inp : Nat) : State :=
  match s.core.pkts.find? fun k => k.inp == inp && !k.complete with
  | some k =>
    if k.cellsIn + 1 < cellsOf k.pkt.net then
      (s.modPkt k.id fun x => { x with cellsIn := k.cellsIn + 1 }).perf (quarterOf inp) 0x02 inp k.rsvVc 1
    else s
  | none => s

/-- The CK counters that run while a cell time passes: a head packet that waits only for credit (R215), and a sender that
waits for replay space (R208). -/
def State.stallCounts (s : State) : State :=
  let heads' := ((heads s.unstarted).filter fun x =>
    decide (x.2.out < 256) && s.readyBut x && !(s.hasCredit x)).map fun x => (x.2.out, x.2.vcid)
  let s' := (heads'.map fun x => x.1).dedup.foldl (fun t p => t.cnt .CREDIT_STALL_CK p 0 4) s
  let s' := heads'.dedup.foldl (fun t x => t.perf (quarterOf x.1) 0x12 x.1 x.2 4) s'
  (s.ports.filter fun x => s.on F.LL_STATUS.REPLAY_FULL x.1).foldl (fun t x => t.cnt .REPLAY_FULL_CK x.1 0 4) s'

/-- CELL_ARBITRATION (R115, R119 to R121, R138, R139, R141): one cell time. `arrivals` are the fabric inputs on which a
further cell of the packet in progress has arrived. -/
def execCellArbitration (arrivals : List (Fin 256)) : State → Res :=
  whenRunning fun s =>
    let s := arrivals.foldl (fun s p => s.cellArrives p.val) s
    let s := s.stallCounts
    let reqs := s.requests
    let s := ((s.iterate reqs true).iterate reqs false).iterate reqs false
    s.core.matched.foldl (fun s m => s.transfer m) s

/-! ### Aborts (R124, R125, R192) -/

/-- The sender's side of an abort (R192): the packet leaves the replay buffer, its debit is restored and its LSEQ goes to
the next packet. `tell` says that an ABORT block is sent. -/
def State.abortTx (s : State) (p : Nat) (tell : Bool) : State :=
  match (s.port p).txNow with
  | none => s
  | some (id, enq) =>
    let x := s.port p
    match x.replay.find? fun r => r.id == id && r.enq == enq with
    | none => s.setPort p { x with txNow := none }
    | some r =>
      let s := s.setPort p { x with
        txNow := none
        replay := x.replay.filter fun q => !(q.id == id && q.enq == enq)
        debit := lset x.debit r.vcid (wsub 16 (lget x.debit r.vcid 0) r.cost) }
      let s := (s.set F.LL_STATUS.NEXT_LSEQ r.lseq p).cnt .ABORT_SENT_COUNT p
      if tell then s.wire p .abort else s

/-- The branch of a packet towards a port taken out of the output stage and out of its match. -/
def State.unstage (s : State) (out id enq : Nat) : State :=
  let s := s.setStage out ((s.stage out).filter fun x => !(x.id == id && x.enq == enq))
  s.modCore fun c => { c with matched := c.matched.filter fun m => !(m.id == id && m.enq == enq) }

/-- CUT_THROUGH_UNDERRUN (R125, R192): the transmission ends with an abort, and the packet is switched again as
store-and-forward. -/
def execCutThroughUnderrun (out : Fin 256) : State → Res :=
  whenRunning fun s => match (s.port out).txNow with
    | none => s
    | some (id, enq) =>
      match s.core.pkts.find? fun k => k.id == id && !k.complete with
      | none => s
      | some _ =>
        let s := ((s.abortTx out true).cnt .CT_UNDERRUN_COUNT).unstage out id enq
        s.modPkt id fun x => { x with
          cutThrough := false
          branches := x.branches.map fun b => if b.enq = enq then { b with started := false, crossed := 0 } else b }

/-- A packet that fails its check at the input is discarded: its branches end, with an abort where its cells have crossed
(R124, R125), and its charge is freed without returning credit (R204). -/
def State.discardArriving (s : State) (id : Nat) : State :=
  match s.core.pkts.find? fun k => k.id == id with
  | none => s
  | some k =>
    let s := k.branches.foldl (fun s b =>
      if b.started && decide (b.out < 256) then
        let sent := (s.port b.out).txNow == some (id, b.enq)
        let s := if sent then s.abortTx b.out true else s
        ((s.cnt .CT_ABORT_COUNT).raise 1614).unstage b.out id b.enq
      else s) s
    s.modCore fun c => { c with pkts := c.pkts.filter fun x => x.id != id }

/-! ### Port down (R136, R137) -/

/-- A flushed packet's notice (R137). -/
def State.flushNotice (s : State) (p : Nat) (net tp : BitVec 256) : State :=
  if hcrcOk net && !(isRouteFail net tp) then s.routeFailNotice (quarterOf p) net tp (s.portDim p)
  else s.cnt .FLUSH_NO_NOTICE_COUNT

/-- Every packet towards a port whose first transmission has not completed is flushed (R136, R137). -/
def State.portFlush (s : State) (p : Nat) : State :=
  let s := s.abortTx p false
  let queued : List (Nat × Nat × BitVec 256 × BitVec 256) := s.waitingBranches.filterMap fun (x : CorePkt × Branch) =>
    if x.2.out = p then some (x.1.id, x.2.enq, x.2.net, x.1.pkt.tp) else none
  let staged : List (Nat × Nat × BitVec 256 × BitVec 256) :=
    ((s.stage p).filter fun y => !(queued.any fun q => q.2.1 == y.enq)).map fun y =>
      (y.id, y.enq, y.pkt.net, y.pkt.tp)
  let all := queued ++ staged
  let s := all.foldl (fun s q =>
    let s := (s.unstage p q.1 q.2.1).modPkt q.1 fun x => { x with
      branches := x.branches.map fun b => if b.enq = q.2.1 then { b with done := true } else b }
    ((s.cnt .PORT_FLUSH_COUNT).flushNotice p q.2.2.1 q.2.2.2).settlePkt q.1) s
  if all.isEmpty then s else s.raise 1615

/-! ### Hot destinations (R133 to R135) -/

/-- HOT_ENTRY_FREE (R135): after HOT_COOL quiet ticks, once every hot queue of the entry is empty. -/
def execHotEntryFree (e : Fin 64) : State → Res :=
  whenRunning fun s =>
    if s.on F.HOT_ENTRY.VALID e && decide (s.f F.HOT_CFG.HOT_COOL ≤ mget s.core.hotCool e.val 0) &&
        !(s.waitingBranches.any fun x => x.2.hot == some e.val) then
      (s.wr ⟨.HOT_ENTRY, e, 0⟩ 0).modCore fun c => { c with hotCool := mdel c.hotCool e.val, hotFrom := mdel c.hotFrom e.val }
    else s

/-- Marks of an address in the ending tick, over all outputs. -/
def State.marksOf (s : State) (addr : Nat) : Nat :=
  s.core.addrMarks.foldl (fun a x => if x.1.2 = addr then a + x.2 else a) 0

/-- The quiet ticks of the entries in use counted (R135). -/
def State.hotCools (s : State) : State :=
  (List.range 64).foldl (fun s e =>
    if s.on F.HOT_ENTRY.VALID e then
      let quiet := decide (2 * s.marksOf (s.f F.HOT_ENTRY.ADDRESS e) < s.f F.HOT_CFG.HOT_MARKS)
      s.modCore fun c => { c with hotCool := mset c.hotCool e (if quiet then mget c.hotCool e 0 + 1 else 0) }
    else s) s

/-- An address made hot (R133). -/
def State.hotEnter (s : State) (addr : Nat) : State :=
  if (List.range 64).any fun e => s.on F.HOT_ENTRY.VALID e && s.f F.HOT_ENTRY.ADDRESS e == addr then s
  else match firstNat 64 fun e => !(s.on F.HOT_ENTRY.VALID e) with
    | none => (s.cnt .HOT_TABLE_FULL_COUNT).raise 1613
    | some e =>
      (((s.set F.HOT_ENTRY.ADDRESS addr e).set F.HOT_ENTRY.VALID 1 e).cnt .HOT_ENTER_COUNT).modCore fun c => { c with
        hotFrom := mset c.hotFrom e s.turnovers
        hotCool := mset c.hotCool e 0 }

/-- The hot addresses of the ending tick (R133). -/
def State.hotTurn (s : State) : State :=
  let s := s.hotCools
  let hot := ((s.core.addrMarks.filter fun x => decide (s.f F.HOT_CFG.HOT_MARKS ≤ x.2)).map fun x => x.1.2).dedup
  let s := if s.on F.HOT_CFG.HOT_ENABLE then hot.foldl (fun s a => s.hotEnter a) s else s
  s.modCore fun c => { c with addrMarks := [] }

/-! ### Loops at a turnover (R129, R131, R140) -/

/-- ALPHA_EFF of a quarter and class (R129). -/
def State.alphaAdjust (s : State) (h t : Nat) : State :=
  let occ := s.sharedUsed h
  let a := s.alphaEff h t
  let a :=
    if s.on F.BUF_CFG.BUF_FREEZE then a
    else if s.f F.BUF_CFG.OCC_HIGH * sharedSegs < occ * 256 then a - 1
    else if occ * 256 < s.f F.BUF_CFG.OCC_LOW * sharedSegs ∧ mget s.core.marks (h, t) 0 ≤ s.f F.BUF_CFG.MARK_QUIET then
      a + 1
    else a
  let a := min (s.f F.TC_BUF.ALPHA_MAX t) (max (s.f F.TC_BUF.ALPHA_MIN t) a)
  s.wr ⟨.ALPHA_STATUS, t, 0⟩ (Fld.set ⟨8 * h + 7, 8 * h⟩ (s.rd ⟨.ALPHA_STATUS, t, 0⟩) a)

/-- ALPHA_EFF of every quarter and class, and the marks of the tick cleared. -/
def State.alphaAdjusts (s : State) : State :=
  ((List.range 32).foldl (fun s k => s.alphaAdjust (k / 8) (k % 8)) s).modCore fun c => { c with marks := [] }

/-- K_EFF of every output and class (R131). -/
def State.kEffUpdate (s : State) : State :=
  let lo := s.fa F.MARK_CFG.K_MIN
  let hi := s.fa F.MARK_CFG.K_MAX
  let k (n : Nat) : Nat := min hi (max lo (s.fa F.MARK_CFG.MARK_TARGET_NS * n / 1000))
  s.modCore fun c =>
    if s.ona F.MARK_CFG.MARK_FREEZE then { c with departed := [] }
    else { c with kEff := c.departed.map fun x => (x.1, k x.2), kBase := k 0, departed := [] }

/-- The shapers in force: (output, index) with index 8 for the port shaper, with RATE and BURST (R140). -/
def State.shapers (s : State) : List ((Nat × Nat) × Nat × Nat) :=
  s.active.filterMap fun e =>
    let r := e.1
    match r.name with
    | .PORT_SHAPER => if s.ona F.PORT_SHAPER.ENABLE r.i then
        some ((r.i, 8), s.fa F.PORT_SHAPER.RATE r.i, s.fa F.PORT_SHAPER.BURST r.i) else none
    | .TC_SHAPER => if r.j < 8 ∧ s.ona F.TC_SHAPER.ENABLE r.i r.j then
        some ((r.i, r.j), s.fa F.TC_SHAPER.RATE r.i r.j, s.fa F.TC_SHAPER.BURST r.i r.j) else none
    | _ => none

/-- Every shaper refilled at CK 0 (R140). -/
def State.shaperRefill (s : State) : State :=
  let l := s.shapers
  s.modCore fun c => { c with
    tokens := l.map fun x =>
      (x.1, if c.shaperOn.contains x.1 then min (mget c.tokens x.1 0 + (x.2.1 : Int)) x.2.2 else (x.2.2 : Int))
    shaperOn := l.map fun x => x.1 }

end Sys2Proof.Machine
end

