-- ==== Sys2Proof/Machine/Inject.lean ====
section
/-!
DEFINITION. Injection of the node's own packets: the policers (R142 to R145), the room an IE port needs for a packet
(R610), and the packet's entry into the switch core.
-/
namespace Sys2Proof.Machine

open Sys2Proof

/-- CREDIT_INIT of a core port for a VCID, in units of 64 bytes (R127). -/
def State.creditInit (s : State) (n v : Nat) : Nat :=
  if v < 4 then Fld.get ⟨16 * v + 11, 16 * v⟩ (s.rd ⟨.CREDIT_INIT_A, n, 0⟩)
  else Fld.get ⟨16 * (v - 4) + 11, 16 * (v - 4)⟩ (s.rd ⟨.CREDIT_INIT_B, n, 0⟩)

/-- Segments charged to a core port's reserve for a VCID (R127, R128). -/
def State.reserveUsed (s : State) (inp v : Nat) : Nat :=
  s.core.pkts.foldl (fun a k => if k.inp = inp ∧ k.rsvVc = v ∧ !k.freed then a + k.segs else a) 0

/-! ### Policers (R142 to R145) -/

/-- The colours of R144. -/
inductive Colour where
  | green | yellow | red
  deriving DecidableEq, Repr

/-- A packet of b bytes metered by a policer (R144): the table entry as it is left, and the colour. -/
def meterEntry (e : BitVec 512) (turnovers pre b : Nat) : BitVec 512 × Colour :=
  let n := wsub 32 turnovers (L.POL.LAST.get e)
  let tc := min (L.POL.TC_TOK.get e + n * L.POL.CIR.get e) (L.POL.CBS.get e)
  let tp := min (L.POL.TP_TOK.get e + n * L.POL.PIR.get e) (L.POL.PBS.get e)
  let pre := if L.POL.COLOUR_AWARE.on e then pre else 0
  let c : Colour := if pre = 2 ∨ tp < b then .red else if pre = 1 ∨ tc < b then .yellow else .green
  let e := L.POL.LAST.set e turnovers
  match c with
  | .red => (L.POL.TC_TOK.set (L.POL.TP_TOK.set e tp) tc, c)
  | .yellow => (L.POL.YELLOW_PKTS.set (L.POL.TC_TOK.set (L.POL.TP_TOK.set e (tp - b)) tc) (L.POL.YELLOW_PKTS.get e + 1), c)
  | .green => (L.POL.GREEN_PKTS.set (L.POL.TC_TOK.set (L.POL.TP_TOK.set e (tp - b)) (tc - b)) (L.POL.GREEN_PKTS.get e + 1), c)

/-- The state with a policer entry stored. -/
def State.setPolicer (s : State) (i : Nat) (e : BitVec 512) : State := s.gsPut (polBase + 64 * i) 64 e.toNat

/-- A packet metered by policer i: the state after it, its colour and whether yellow packets carry CE. -/
def State.meter (s : State) (i pre b : Nat) : State × Colour × Bool :=
  let e := s.policer i
  let m := meterEntry e s.turnovers pre b
  (s.setPolicer i m.1, m.2, L.POL.YELLOW_CE.on e)

/-- A counter of a policer entry raised by one. -/
def State.policerCount (s : State) (i : Nat) (f : Fld) : State :=
  let e := s.policer i
  s.setPolicer i (f.set e (f.get e + 1))

/-- The header of a yellow packet (R145). -/
def yellowNet (ce : Bool) (net : BitVec 256) : BitVec 256 := if ce then withHcrc (L.NET.CE.set net 1) else net

/-- A held red packet metered again at a turnover (R145). -/
def State.remeter (s : State) (t : TxPkt) : State × TxPkt :=
  match t.policer with
  | some i =>
    if !t.held || s.policerBad t.policer then (s, t)
    else
      match s.meter i t.preColour (bytesOf t.pkt.net) with
      | (s, .red, _) => (s, t)
      | (s, .yellow, ce) => (s, { t with held := false, policer := none, pkt := { t.pkt with net := yellowNet ce t.pkt.net } })
      | (s, .green, _) => (s, { t with held := false, policer := none })
  | none => (s, t)

/-- The packets of a queue metered again, in order. -/
def State.remeterList (s : State) : List TxPkt → State × List TxPkt
  | [] => (s, [])
  | t :: l =>
    let r := s.remeter t
    let q := r.1.remeterList l
    (q.1, r.2 :: q.2)

/-- The held red packets of every transport unit metered again at a turnover (R145). -/
def State.redRemeter (s : State) : State :=
  s.ni.tx.foldl (fun s (p : Nat × List TxPkt) =>
    let r := s.remeterList p.2
    { r.1 with ni := { r.1.ni with tx := mset r.1.ni.tx p.1 r.2 } }) s

/-! ### PACKET_INJECT (R610) -/

/-- Whether two packets belong to one flow: a connection, or a ring (R145). -/
def sameFlow (a b : TxPkt) : Bool :=
  (match a.conn, b.conn with
    | some x, some y => x.1 == y.1
    | _, _ => false) ||
  (match a.entry, b.entry with
    | some x, some y => x.fn == y.fn && x.ring == y.ring
    | _, _ => false)

/-- The first packet of a queue that is not held and waits behind no held packet of its flow, with its place. -/
def firstFree : List TxPkt → List TxPkt → Nat → Option (Nat × TxPkt)
  | [], _, _ => none
  | t :: l, held, k =>
    if t.held then firstFree l (t :: held) (k + 1)
    else if held.any (sameFlow t) then firstFree l held (k + 1)
    else some (k, t)

/-- The shared charge a packet can take at once (R610): on the output it would be routed to. -/
def State.sharedAtOnce (s : State) (inp : Nat) (net tp : BitVec 256) : Option (Nat × Nat) :=
  let h := quarterOf inp
  let tc := schedTc net
  let bs := (s.enqueueAll inp tc (s.route inp net tp).2).2
  match s.heaviest h tc bs with
  | none => none
  | some b => if s.sharedTakes h b.out tc (pktSegs net) b.hot.isSome then some (b.out, tc) else none

/-- The charge a packet can have (R610): none where it must wait, the reserve (no shared charge), or shared space. -/
def State.injectCharge (s : State) (inp : Nat) (net tp : BitVec 256) : Option (Option (Nat × Nat)) :=
  let v := 2 * L.NET.MCLASS.get net
  if s.reserveUsed inp v + pktSegs net ≤ s.creditInit inp v then some none
  else match s.sharedAtOnce inp net tp with
    | some c => some (some c)
    | none => none

/-- A queue without its k-th packet. -/
def State.txDrop (s : State) (ie k : Nat) : State :=
  { s with ni := { s.ni with tx := mset s.ni.tx ie ((mget s.ni.tx ie []).eraseIdx k) } }

/-- The packet of a post that ends: its entry completes with a status and the bytes sent (R145, R216, R234), or, where the policer may not meter,
its message stops with it (R143). -/
def State.injectEnd (s : State) (t : TxPkt) (st : Status) (sent : Nat := 0) : State :=
  let s := match t.entry with
    | some e => s.completeEntry e st sent
    | none => s
  match t.conn with
  | some (c, uid) =>
    if st = .ok then s
    else match s.conn c with
      | some x => match x.sent.find? fun q => q.u.uid == uid with
        | some q => (s.unitFail c q.u st).settle c
        | none => s
      | none => s
  | none => s

/-- The counters of injected packets of the job (R569). -/
def State.injectCount (s : State) (net : BitVec 256) : State :=
  match s.jobSlot (L.NET.JOB.get net) with
  | some k => (s.jobCount k 32 1).jobCount k 40 (bytesOf net)
  | none => s

/-- A packet enters the switch core at an IE port with its charge (R128, R610). -/
def State.intoCore (s : State) (inp : Nat) (p : Packet) (charge : Option (Nat × Nat)) : State :=
  s.modCore fun c => { c with
    nextId := c.nextId + 1
    pkts := c.pkts ++ [(⟨c.nextId, p, inp, 2 * L.NET.MCLASS.get p.net, 0, pktSegs p.net, 0, cellsOf p.net, true, false,
      false, charge, charge.isSome, []⟩ : CorePkt)] }

/-- A packet of a colour other than red sent with its charge. -/
def State.injectGo (s : State) (ie k : Nat) (t : TxPkt) (net : BitVec 256) (charge : Option (Nat × Nat)) : State :=
  let s := (((s.txDrop ie k).intoCore (256 + ie) { t.pkt with net := net } charge).injectCount net).injectEnd t .ok
    t.pkt.payload.length
  (s.perf (ie / 4) 0x40 ie (L.NET.MCLASS.get net) 1).perf (ie / 4) 0x02 (256 + ie) (2 * L.NET.MCLASS.get net) (cellsOf net)

/-- PACKET_INJECT (R116, R143 to R145, R216, R296, R610). -/
def execPacketInject (ie : Fin 16) : State → Res :=
  whenRunning fun s =>
    if s.core.ieDown.contains ie.val then s
    else match firstFree (mget s.ni.tx ie.val []) [] 0 with
      | none => s
      | some (k, t) =>
        if s.policerBad t.policer then (s.txDrop ie k).injectEnd t .badValue
        else match s.injectCharge (256 + ie) t.pkt.net t.pkt.tp with
          | none => s
          | some charge =>
            match t.policer with
            | none => s.injectGo ie k t t.pkt.net charge
            | some i =>
              match s.meter i t.preColour (bytesOf t.pkt.net) with
              | (s, .green, _) => s.injectGo ie k t t.pkt.net charge
              | (s, .yellow, ce) => s.injectGo ie k t (yellowNet ce t.pkt.net) charge
              | (s, .red, _) =>
                if L.TH.OPCODE.get t.pkt.tp = 0x0B then ((s.policerCount i L.POL.RED_DROPPED).txDrop ie k).injectEnd t .ok
                else
                  let s := s.policerCount i L.POL.RED_HELD
                  let q := (mget s.ni.tx ie.val []).set k { t with held := true }
                  { s with ni := { s.ni with tx := mset s.ni.tx ie.val q } }

end Sys2Proof.Machine
end

