-- ==== Sys2Proof/Machine/Ports.lean ====
section
/-!
DEFINITION. What the states of a fabric port have in common (R164, R171 to R173, R209 to R214, R518, R611): a port's
lanes, the change of its state, what leaving ACTIVE does to its link group, its queues and its link layer, and the ways
down to DETECT and DISABLED.
-/
namespace Sys2Proof.Machine

open Sys2Proof

/-- Whether the fuses of a die have failed their checksum (R539). -/
def State.fuseBad (s : State) (d : Nat) : Bool := s.sys.fusesLoaded && !(s.on F.ID_DIE_B.FUSE_OK d)

/-! ### Lanes of a port (R149) -/

/-- Whether a slot is the odd slot of an x8 port. -/
def State.oddOfX8 (s : State) (p : Nat) : Bool := p % 2 == 1 && s.f F.PORT_CTRL.WIDTH_CFG (p - 1) == 3

/-- Lane i of a port. -/
def laneIx (p i : Nat) : Nat := 4 * p + i

/-- The port that a lane belongs to, and its number there. -/
def State.portOfLane (s : State) (l : Nat) : Nat × Nat :=
  let n := l / 4
  if s.oddOfX8 n then (n - 1, l % 4 + 4) else (n, l % 4)

/-- The lanes of a port as it is configured. -/
def State.portLanes (s : State) (p : Nat) : List Nat := (List.range (2 ^ s.f F.PORT_CTRL.WIDTH_CFG p)).map (laneIx p)

/-- The state of a port's training and service (R164). -/
def State.pstate (s : State) (p : Nat) : Nat := s.f F.PORT_STATE.STATE p

/-- The mask of a port's lanes for which a test holds. -/
def laneMask (p : Nat) (t : Nat → Bool) : Nat :=
  (List.range 8).foldl (fun a i => if t (laneIx p i) then a + 2 ^ i else a) 0

/-- The lanes of a port's current lane set that hold block lock. -/
def State.lockedLanes (s : State) (p : Nat) : Nat :=
  s.f F.PORT_STATE.LANE_SET p &&& laneMask p fun l => s.on F.LANE_STATUS.BLOCK_LOCK l

/-- The lanes of a set, as lanes of the part. -/
def lanesIn (p set : Nat) : List Nat := (bitsOf set 8).map (laneIx p)

/-- The state with a status bit of some lanes written. -/
def State.setLanes (s : State) (f : RegFld) (v : Nat) (ls : List Nat) : State := ls.foldl (fun s l => s.set f v l) s

/-- The lane set of a width within some lanes (R167), if there is one: width code 0 x1 to 3 x8; an x8 port may also use
lanes 4 to 7 for x4. -/
def laneSetOf (x8 : Bool) (good w : Nat) : Option Nat :=
  let cand : List Nat := match w with
    | 3 => [0xFF]
    | 2 => if x8 then [0x0F, 0xF0] else [0x0F]
    | 1 => [0x03, 0x0C, 0x30, 0xC0]
    | _ => (List.range 8).map fun i => 2 ^ i
  cand.find? fun c => c &&& good == c

/-- The widest width at or below a code with a lane set within some lanes (R166, R167). -/
def widest (x8 : Bool) (widths good : Nat) : Option (Nat × Nat) :=
  [3, 2, 1, 0].findSome? fun w => if widths.testBit w then (laneSetOf x8 good w).map fun c => (w, c) else none

/-! ### Change of state -/

/-- A port in a new state, its service and the degraded-capability registers following (R172, R532). -/
def State.newState (s : State) (p st : Nat) : State :=
  (((s.set F.PORT_STATE.STATE st p).serviceUpdate p).fabricUpdate).groupsUpdate (s.portDim p)

/-- The degraded-capability registers of a port's dimension brought up to date, and the fault of a link group that a port
has left empty other than by drain (R518): `was` says that the port was a member. -/
def State.groupLost (s : State) (p : Nat) (was : Bool) : State :=
  let d := s.portDim p
  if was && (s.group d (s.portTarget p)).isEmpty then s.occur (12 + d) .ok 5 (s.portTarget p) 0 else s

/-- The state of the link layer dropped (R211, R213, steps 1 and 2): the packets of the replay buffer have their notices,
and the numbering and the credits start afresh. -/
def State.dropLink (s : State) (p : Nat) : State :=
  let s := (s.port p).replay.foldl (fun s r => s.flushNotice p r.pkt.net r.pkt.tp) s
  let s := ((s.set F.LL_STATUS.NEXT_LSEQ 0 p).set F.LL_STATUS.ACKED 0xFFFF p).set F.LL_STATUS.ESEQ 0 p
  let s := ((s.set F.LL_STATUS.NAK_PENDING 0 p).set F.LL_STATUS.FROZEN 0 p).set F.LL_STATUS.REPLAY_FULL 0 p
  s.modPort p fun x => { x with
    debit := [0, 0, 0, 0, 0, 0, 0, 0], cred := [0, 0, 0, 0, 0, 0, 0, 0], crTotal := [0, 0, 0, 0, 0, 0, 0, 0]
    adv := [0, 0, 0, 0, 0, 0, 0, 0], timer := 0, noProgress := 0, lastEpoch := 0, nakEpoch := 0, ackDue := false
    replay := [], gen := x.gen + 1, offered := false }

/-- The link layer of a port that has left ACTIVE: frozen, or dropped for a FATAL or where RESUME_MS is 0 (R211). -/
def State.linkFreeze (s : State) (p : Nat) (fatal : Bool) : State :=
  let s := (s.set F.LL_STATUS.REPLAYING 0 p).modPort p fun x => { x with partnerInit := false, freshWait := false }
  if fatal || s.fa F.LL_CFG.RESUME_MS p == 0 then s.dropLink p else s.set F.LL_STATUS.FROZEN 1 p

/-- A packet in arrival on a port is lost (R191, R204). -/
def State.dropArrival (s : State) (p : Nat) : State :=
  match (s.port p).rxNow with
  | none => s
  | some r =>
    let s := s.modPort p fun x => { x with rxNow := none }
    if r.kept then s.discardArriving r.id else s

/-- What a port's own state keeps of service, width and training once it has left ACTIVE or training. -/
def clearedPort (x : PortSt) (drained : Bool) : PortSt :=
  { x with
    capEight := false, capAckSeen := false, soak := false, localPass := false, partnerPass := false
    partnerSawPass := false, txActive := false, rxActive := false, drainOwn := false, drainPartner := false
    drainAck := false, leaveNext := false, joinNext := false, outOfGroup := drained && x.outOfGroup
    width := none, narrowRun := 0, faultLanes := 0 }

/-- A port leaves ACTIVE for a new state (R136, R211, R518): out of its link group at once, its packets flushed, its link
layer frozen. -/
def State.leaveActive (s : State) (p st : Nat) (fatal : Bool) : State :=
  if s.pstate p ≠ 6 then s
  else
    let was := s.inGroup p
    let s := s.newState p st
    let s := ((s.dropArrival p).portFlush p).linkFreeze p fatal
    let s := s.modPort p fun x => clearedPort x (s.on F.PORT_STATE.DRAINED p)
    let s := s.modCore fun c => { c with snaps := mdel c.snaps p, snapsNext := mdel c.snapsNext p }
    ((s.parentLost p).groupLost p was)

/-- A port enters a state with nothing left of its training: locks, polarity and powered-down marks are gone. -/
def State.restart (s : State) (p st : Nat) : State :=
  let s := if s.pstate p = 6 then s.leaveActive p st false else s.newState p st
  let s := s.modPort p fun x => clearedPort x (s.on F.PORT_STATE.DRAINED p)
  let s := s.set F.PORT_STATE.PARTNER_TEST 0 p
  let fs := [F.LANE_STATUS.COMMA_LOCK, F.LANE_STATUS.CW_LOCK, F.LANE_STATUS.BLOCK_LOCK, F.LANE_STATUS.DESKEWED,
    F.LANE_STATUS.RX_INVERTED, F.LANE_STATUS.POWERED_DOWN]
  (s.portLanes p).foldl (fun s l =>
    (fs.foldl (fun s f => s.set f 0 l) s).modLane l fun x => { x with
      capLast := 0, capRun := 0, eqRun := 0, eqReady := false, eqCount := 15, eqDone := false, calRun := false
      tuneReq := 0, tuneSt := 0 }) s

/-- A port enters DETECT, with the reason of the failure or loss recorded (R164). -/
def State.enterDetect (s : State) (p reason : Nat) : State :=
  (s.restart p 1).set F.PORT_STATE.FAIL_REASON reason p

/-- The rates left after a failure of a mode (R171): it and every faster one are removed. -/
def State.fallback (s : State) (p : Nat) : State :=
  if s.on F.PORT_CTRL.RATE_FALLBACK p then
    s.modPort p fun x => { x with allowed := x.allowed &&& (2 ^ s.f F.PORT_STATE.RATE p - 1) }
  else s

/-- A training failure (R164, R171, R611): counted, with the hold-off. -/
def State.trainFail (s : State) (p reason : Nat) : State :=
  let st := s.pstate p
  let s := if st = 3 ∨ st = 5 then s.fallback p else s
  let s := (s.cnt .TRAIN_FAIL_COUNT p).enterDetect p reason
  s.modPort p fun x => { x with holdOff := decide (0 < s.f F.PORT_TRAIN_CFG.RETRY_MS p) }

/-- The link goes down (R210, R518), with its FAIL_REASON. -/
def State.linkGoesDown (s : State) (p reason : Nat) : State :=
  s.occur (33 + 2 * p) .ok 4 p 0 fun s => (s.cnt .LINK_DOWN_COUNT p).enterDetect p reason

/-- An LCB sent on a port (R195). -/
def State.sendLcb (s : State) (p ty v : Nat) : State := s.wire p (.lcb (mkLcb ty s.tick v))

/-- RETRAIN sent to the partner of an ACTIVE port (R209). -/
def State.sendRetrain (s : State) (p reason : Nat) : State :=
  if s.pstate p = 6 then s.sendLcb p 0x15 (reason * 2 ^ 24) else s

/-- The retrain at the replay limit (R209): a fault of the port. -/
def State.retrainLimit (s : State) (p : Nat) : State :=
  s.occur (33 + 2 * p) .ok 4 p 0 fun s => ((s.sendRetrain p 1).cnt .RETRAIN_COUNT p).enterDetect p 8

/-- A port disabled (R164, R171, R211): frozen link state is dropped and the fallback lifted. -/
def State.disable (s : State) (p : Nat) : State :=
  let s := s.restart p 0
  let s := if s.on F.LL_STATUS.FROZEN p then s.dropLink p else s
  (s.modPort p fun x => { x with allowed := 7, holdOff := false }).wire p (.electricalIdle 255)

/-- A lane-layer column (R155). -/
def State.column (s : State) (p ty : Nat) (body : List Nat) : State := s.wire p (.column ty body)

end Sys2Proof.Machine
end

