-- ==== Sys2Proof/Machine/Link.lean ====
section
/-!
DEFINITION. The Thieb link layer (R187 to R215): transmission of new packets, acknowledgements and replay passes,
reception of packets, credits and INIT, retrain, FATAL, link down and the return to ACTIVE.
-/
namespace Sys2Proof.Machine

open Sys2Proof

/-! ### Sending (R188, R202, R203, R205, R208, R212) -/

/-- Blocks of a packet of some LLEN (R188). -/
def blocksOf (llen : Nat) : Nat := 1 + ceilDiv (llen - 3) 16

/-- Blocks that a port's replay buffer holds (R208). -/
def State.replayBlocks (s : State) (p : Nat) : Nat := if s.f F.PORT_CTRL.WIDTH_CFG p = 3 then 16384 else 8192

/-- Blocks in use of a port's replay buffer. -/
def State.replayUsed (s : State) (p : Nat) : Nat := (s.port p).replay.foldl (fun a r => a + r.blocks) 0

/-- The envelope of a first transmission (R189). -/
def envelope (lseq vcid llen : Nat) : BitVec 64 :=
  BitVec.ofNat 64 (lseq % 2 ^ 16 + vcid % 16 * 2 ^ 16 + 1 * 2 ^ 20 + llen % 2 ^ 13 * 2 ^ 24)

/-- Whether a port's transmitter sends link-layer columns (R176, R178). -/
def State.txOpen (s : State) (p : Nat) : Bool :=
  match (s.port p).width with
  | none => true
  | some w => w.txDone || (!w.ownCommit && (w.kind == 2 || !w.requester))

/-- Whether a port may start a new packet: in ACTIVE with a usable partner INIT, no pass waiting, nothing in
transmission. -/
def State.linkReady (s : State) (p : Nat) : Bool :=
  s.pstate p == 6 && (s.port p).partnerInit && !(s.on F.LL_STATUS.FROZEN p) && !(s.on F.LL_STATUS.REPLAYING p) &&
    (s.port p).txNow.isNone && s.txOpen p

/-- A new packet given its LSEQ, debited and stored in the replay buffer (R205, send_new); it ends its transmission at
once when all of it is in the output stage. -/
def State.sendNew (s : State) (p : Nat) (y : StagePkt) : State :=
  let llen := bytesOf y.pkt.net
  let lseq := s.f F.LL_STATUS.NEXT_LSEQ p
  let cost := ceilDiv llen 64
  let env := envelope lseq y.vcid llen
  let s := s.modPort p fun x => { x with
    debit := lset x.debit y.vcid (wadd 16 (lget x.debit y.vcid 0) cost)
    replay := x.replay ++ [(⟨lseq, env, y.pkt, y.vcid, cost, blocksOf llen, y.id, y.enq⟩ : ReplayEnt)]
    txNow := some (y.id, y.enq) }
  let s := ((s.set F.LL_STATUS.NEXT_LSEQ (lseq + 1) p).set F.LL_STATUS.REPLAY_FULL 0 p).perf (quarterOf p) 0x10 p y.vcid 1
  if y.cells ≤ y.cellsIn then s.finishTx p y.id y.enq y.pkt else s

/-- LINK_SEND_NEW (R188, R189, R202, R203, R205, R208). -/
def execLinkSendNew (p : Fin 256) : State → Res :=
  whenRunning fun s =>
    match s.stage p with
    | [] => s
    | y :: _ =>
      let b := blocksOf (bytesOf y.pkt.net)
      if !(s.linkReady p) || y.cellsIn == 0 then s
      else if s.replayBlocks p < s.replayUsed p + b then s.set F.LL_STATUS.REPLAY_FULL 1 p
      else s.sendNew p y

/-! ### Passes (R205, R209) -/

/-- A pass starts (R205): at the replay limit the port retrains instead. `counts` is false for the pass of a resume. -/
def State.startPass (s : State) (p : Nat) (counts : Bool) : State :=
  let n := (s.port p).noProgress + (if counts then 1 else 0)
  let s := s.modPort p fun x => { x with timer := 0, noProgress := n }
  let s := (s.cnt .REPLAY_COUNT p).perf (quarterOf p) 0x11 p 0 1
  if counts && decide (s.fa F.LL_CFG.RETRAIN_REPLAYS p ≤ n) then s.retrainLimit p
  else
    let s := s.set F.LL_STATUS.REPLAYING 1 p
    if (s.port p).txNow.isNone then s.runPass p else s

/-- Entries up to ACK_SEQ freed (R205). -/
def State.ackUpTo (s : State) (p seq : Nat) : State :=
  let acked := s.f F.LL_STATUS.ACKED p
  let adv := wsub 16 seq acked
  let s := (s.set F.LL_STATUS.ACKED seq p).set F.LL_STATUS.REPLAY_FULL 0 p
  s.modPort p fun x => { x with
    replay := x.replay.filter fun r => decide (adv < wsub 16 r.lseq acked)
    noProgress := 0, timer := 0 }

/-- The credit totals of an ACK LCB taken (R205). -/
def State.ackCredit (s : State) (p : Nat) (lcb : BitVec 512) : State :=
  (List.range 8).foldl (fun s v =>
    let x := s.port p
    let tot := Fld.get ⟨16 * v + 63, 16 * v + 48⟩ lcb
    if wsub 16 tot (lget x.cred v 0) ≤ wsub 16 (lget x.debit v 0) (lget x.cred v 0) then
      s.setPort p { x with cred := lset x.cred v tot }
    else s.cnt .LCB_ERROR_COUNT p) s

/-- An ACK LCB acted on (R205, on_ack). -/
def State.onAck (s : State) (p : Nat) (lcb : BitVec 512) : State :=
  let seq := L.ACKL.ACK_SEQ.get lcb
  let acked := s.f F.LL_STATUS.ACKED p
  let adv := wsub 16 seq acked
  let open_ := wsub 16 (s.f F.LL_STATUS.NEXT_LSEQ p) (acked + 1)
  let s := if adv = 0 then s else if adv ≤ open_ then s.ackUpTo p seq else s.cnt .LCB_ERROR_COUNT p
  let s := s.ackCredit p lcb
  let ep := L.ACKL.NAK_EPOCH.get lcb
  if L.ACKL.NAK.on lcb && ep != (s.port p).lastEpoch then
    ((s.modPort p fun x => { x with lastEpoch := ep }).cnt .NAK_RECV_COUNT p).startPass p true
  else s

/-- ACK_LCB_RECEIVE (R193, R196, R205, R212). -/
def execAckLcbReceive (p : Fin 256) (lcb : BitVec 512) : State → Res :=
  whenRunning fun s => s.onLcb p lcb fun s => if (s.port p).partnerInit then s.onAck p lcb else s

/-- REPLAY_TIMER_EXPIRE (R205): the timer has passed REPLAY_TICKS. -/
def execReplayTimerExpire (p : Fin 256) : State → Res :=
  whenRunning fun s =>
    if s.pstate p == 6 && (s.port p).partnerInit && decide (s.fa F.LL_CFG.REPLAY_TICKS p < (s.port p).timer) then
      (s.cnt .TIMER_REPLAY_COUNT p).startPass p true
    else s

/-! ### Receiving (R189 to R192, R206, R207) -/

/-- The fields of an ACK LCB as the receiver stands (R196, R207). -/
def State.ackBody (s : State) (p : Nat) : Nat :=
  let x := s.port p
  (List.range 8).foldl (fun a v => a + lget x.crTotal v 0 * 2 ^ (16 * v + 48))
    (wsub 16 (s.f F.LL_STATUS.ESEQ p) 1 * 2 ^ 24 + s.f F.LL_STATUS.NAK_PENDING p * 2 ^ 40 + x.nakEpoch * 2 ^ 41)

/-- An ACK LCB sent (R207). -/
def State.sendAck (s : State) (p : Nat) : State :=
  (s.sendLcb p 0x10 (s.ackBody p)).modPort p fun x => { x with ackDue := false }

/-- A NAK (R206): it begins a new epoch unless one is pending within the holdoff. -/
def State.nak (s : State) (p ck : Nat) : State :=
  let x := s.port p
  let since := s.nowCk ck - x.epochCk
  if s.on F.LL_STATUS.NAK_PENDING p && decide (since * 1000 < s.fa F.LL_CFG.NAK_HOLDOFF_NS p * 1750) then s
  else
    let s := s.setPort p { x with nakEpoch := (x.nakEpoch + 1) % 16, epochCk := s.nowCk ck }
    ((s.set F.LL_STATUS.NAK_PENDING 1 p).cnt .NAK_SENT_COUNT p).sendAck p

/-- VCIDs of a port's link. -/
def State.vcids (s : State) (p : Nat) : Nat := if s.on F.PORT_STATE.FOUR_VC p then 4 else 8

/-- Whether an envelope field is illegal (R189). -/
def State.envBad (s : State) (p : Nat) (env : BitVec 64) : Bool :=
  decide (s.vcids p ≤ L.ENV.VCID.get env) || !(L.ENV.KIND.get env == 1 || L.ENV.KIND.get env == 2)

/-- Whether the length that an envelope gives makes its packet bad (R191). -/
def State.lenBad (s : State) (p : Nat) (env : BitVec 64) (net : BitVec 256) : Bool :=
  let l := L.ENV.LLEN.get env
  decide (l < 48) || decide (64 + 256 * 2 ^ s.f F.PORT_STATE.MTU p < l) || l != bytesOf net

/-- A bad packet at its end (R206): what it took is freed without return, and a NAK is due. -/
def State.badPacket (s : State) (p ck : Nat) : State := ((s.dropArrival p).cnt .LCRC_ERROR_COUNT p).nak p ck

/-- A packet accepted at its SOP takes its input's reserve (R128, R206) and stands in the buffer while it arrives. -/
def State.allocate (s : State) (p : Nat) (env : BitVec 64) (net tp : BitVec 256) : State :=
  let id := s.core.nextId
  let k : CorePkt := ⟨id, ⟨net, tp, []⟩, p, L.ENV.VCID.get env, (s.port p).gen, ceilDiv (L.ENV.LLEN.get env) 64, 0, 0,
    false, true, false, none, false, []⟩
  let s := s.modCore fun c => { c with nextId := id + 1, pkts := c.pkts ++ [k] }
  s.modPort p fun x => { x with rxNow := some ⟨env, net, tp, true, s.lenBad p env net, id⟩ }

/-- The SOP block of a packet (R206, on_sop). -/
def State.onSop (s : State) (p : Nat) (env : BitVec 64) (net tp : BitVec 256) (ck : Nat) : State :=
  let seen (s : State) (bad : Bool) : State :=
    s.modPort p fun x => { x with rxNow := some ⟨env, net, tp, false, bad, 0⟩ }
  let long := s.lenBad p env net
  if s.envBad p env then seen s true
  else
    let d := wsub 16 (L.ENV.LSEQ.get env) (s.f F.LL_STATUS.ESEQ p)
    if d = 0 then s.allocate p env net tp
    else if 0x8000 ≤ d then (seen (s.cnt .DUP_DISCARD_COUNT p) long).modPort p fun x => { x with ackDue := true }
    else (seen (s.cnt .OOS_DISCARD_COUNT p) long).nak p ck

/-- Whether a port passes link-layer columns to the link layer (R160). -/
def State.rxOpen (s : State) (p : Nat) : Bool :=
  s.pstate p == 6 && s.lockedLanes p == s.f F.PORT_STATE.LANE_SET p

/-- LINK_PACKET_SOP (R189, R191, R206, R612): a packet still in progress is ended by it, and is bad. -/
def execLinkPacketSop (p : Fin 256) (env : BitVec 64) (net tp : BitVec 256) (ck : Nat) : State → Res :=
  whenRunning fun s =>
    if !(s.rxOpen p) then s
    else
      let s := if (s.port p).rxNow.isSome then s.badPacket p ck else s
      s.onSop p env net tp ck

/-- A packet accepted at its end (R206): whole in the buffer, ESEQ advanced. -/
def State.acceptPacket (s : State) (p id : Nat) (payload : List Byte) : State :=
  let s := ((s.set F.LL_STATUS.ESEQ (s.f F.LL_STATUS.ESEQ p + 1) p).set F.LL_STATUS.NAK_PENDING 0 p).modPort p fun x =>
    { x with rxNow := none, ackDue := true }
  let s := match s.core.pkts.find? fun k => k.id == id with
    | some k => s.perf (quarterOf p) 0x02 p k.rsvVc (cellsOf k.pkt.net - k.cellsIn)
    | none => s
  (s.modPkt id fun k => { k with
    complete := true, cellsIn := cellsOf k.pkt.net, pkt := { k.pkt with payload := payload } }).settlePkt id

/-- LINK_PACKET_END (R123, R124, R190, R191, R206): data blocks outside any packet are framing faults. -/
def execLinkPacketEnd (p : Fin 256) (payload : List Byte) (lcrc : BitVec 32) (interrupted : Bool) (ck : Nat) :
    State → Res :=
  whenRunning fun s => match (s.port p).rxNow with
    | none => if s.rxOpen p then s.cnt .FRAMING_ERROR_COUNT p 0 (ceilDiv payload.length 16) else s
    | some r =>
      let n := L.NET.PLEN.get r.net - payload.length
      let whole := payload.length ≤ L.NET.PLEN.get r.net ∧ (n = 16 ∨ n = 32)
      if r.bad || interrupted || !(decide whole) || lcrc.toNat != lcrcOf r.env ⟨r.net, r.tp, payload⟩ then
        s.badPacket p ck
      else if r.kept then s.acceptPacket p r.id payload
      else s.modPort p fun x => { x with rxNow := none }

/-- ABORT_BLOCK_RECEIVE (R191, R192). -/
def execAbortBlockReceive (p : Fin 256) : State → Res :=
  whenRunning fun s =>
    if !(s.rxOpen p) then s
    else if (s.port p).rxNow.isSome then (s.dropArrival p).cnt .ABORT_RECV_COUNT p
    else s.cnt .FRAMING_ERROR_COUNT p

/-- ACK_COALESCE_EXPIRE (R194, R207). -/
def execAckCoalesceExpire (p : Fin 256) : State → Res :=
  whenRunning fun s => if s.pstate p == 6 && (s.port p).ackDue then s.sendAck p else s

/-- The ACK LCB of every tick, and the replay timers of the ports (R205, R207). -/
def State.linkTurnover (s : State) : State :=
  (s.ports.map fun x => x.1).foldl (fun s p =>
    if s.pstate p = 6 then
      let idle := wsub 16 (s.f F.LL_STATUS.NEXT_LSEQ p) (s.f F.LL_STATUS.ACKED p + 1) == 0
      let s := if idle then s else s.modPort p fun x => { x with timer := x.timer + 1 }
      s.sendAck p
    else s) s

/-! ### INIT (R200, R212, R213) -/

/-- CREDIT_INIT as a port advertises it for a VCID (R127). -/
def State.advertised (s : State) (p v : Nat) : Nat :=
  if s.on F.PORT_STATE.FOUR_VC p then (if v < 4 then s.creditInit p (2 * v) + s.creditInit p (2 * v + 1) else 0)
  else s.creditInit p v

/-- INIT sent, offering to resume or not (R200, R212). -/
def State.sendInit (s : State) (p : Nat) (resume : Bool) : State :=
  let x := s.port p
  let cr (v : Nat) : Nat := if resume then lget x.crTotal v 0 else s.advertised p v
  s.sendLcb p 0x14 ((List.range 8).foldl (fun a v => a + cr v % 2 ^ 16 * 2 ^ (16 * v + 48))
    (b2n resume * 2 ^ 24 + (if resume then s.f F.LL_STATUS.ESEQ p else 0) * 2 ^ 32))

/-- The node and slot of the partner. -/
def State.partnerId (s : State) (p : Nat) : Nat := s.f F.PORT_PARTNER.NODE p + s.f F.PORT_PARTNER.SLOT p * 2 ^ 20

/-- The link layer on entry to ACTIVE (R212): it offers to resume when it holds frozen state of the same partner, and
otherwise starts afresh. -/
def State.linkActivate (s : State) (p : Nat) : State :=
  let id := s.partnerId p
  let same := s.on F.LL_STATUS.FROZEN p && (s.port p).prevPartner == id
  let s := (s.set F.LL_STATUS.RESUMED 0 p).modPort p fun x => { x with partnerInit := false, prevPartner := id }
  if same then (s.modPort p fun x => { x with offered := true }).sendInit p true
  else (s.dropLink p).modPort p fun x => { x with freshWait := true }

/-- The CR_VALUE fields of an INIT. -/
def initValues (lcb : BitVec 512) : List Nat := (List.range 8).map fun v => Fld.get ⟨16 * v + 63, 16 * v + 48⟩ lcb

/-- The link resumes (R212). -/
def State.linkResume (s : State) (p : Nat) (lcb : BitVec 512) : State :=
  let eseq := L.INITL.ESEQ_INIT.get lcb
  let acked := s.f F.LL_STATUS.ACKED p
  let s := ((s.set F.LL_STATUS.ACKED (wsub 16 eseq 1) p).set F.LL_STATUS.NAK_PENDING 0 p).set F.LL_STATUS.FROZEN 0 p
  let s := s.modPort p fun x => { x with
    replay := x.replay.filter fun r => decide (wsub 16 eseq (acked + 1) < wsub 16 r.lseq acked)
    cred := initValues lcb, partnerInit := true, offered := false, timer := 0, noProgress := 0 }
  let s := (s.set F.LL_STATUS.RESUMED 1 p).cnt .RESUME_COUNT p
  s.startPass p false

/-- INIT_LCB_RECEIVE (R200, R212, R213). -/
def execInitLcbReceive (p : Fin 256) (lcb : BitVec 512) : State → Res :=
  whenRunning fun s => s.onLcb p lcb fun s =>
    let x := s.port p
    let resume := L.INITL.RESUME_INIT.on lcb
    let acked := s.f F.LL_STATUS.ACKED p
    let ahead := wsub 16 (L.INITL.ESEQ_INIT.get lcb) (acked + 1)
    let room := wsub 16 (s.f F.LL_STATUS.NEXT_LSEQ p) (acked + 1)
    let take (s : State) : State :=
      s.modPort p fun y => { y with adv := initValues lcb, partnerInit := true }
    if x.partnerInit then s
    else if x.offered then
      if resume && decide (ahead ≤ room) then s.linkResume p lcb
      else
        let s := (s.dropLink p).modPort p fun y => { y with freshWait := true }
        if resume then s else take s
    else if resume then s else take s

/-- Whether a packet received on a port is still charged to its reserve (R213, step 3). -/
def State.stillCharged (s : State) (p : Nat) : Bool := s.core.pkts.any fun k => k.inp == p && !k.freed

/-- FRESH_START_INIT_SEND (R213, steps 3 and 4). -/
def execFreshStartInitSend (p : Fin 256) : State → Res :=
  whenRunning fun s =>
    if s.pstate p == 6 && (s.port p).freshWait && !(s.stillCharged p) then
      let s := (s.sendInit p false).modPort p fun x => { x with freshWait := false }
      (s.set F.LL_STATUS.PARTNER_FATAL 0 p).cnt .FRESH_START_COUNT p
    else s

/-- INIT_REPEAT (R212): INIT once every 1,024 link-layer blocks until a usable partner INIT is held. -/
def execInitRepeat (p : Fin 256) : State → Res :=
  whenRunning fun s =>
    let x := s.port p
    if s.pstate p == 6 && !x.partnerInit && !x.freshWait then s.sendInit p x.offered else s

/-! ### Retrain, FATAL, link down (R209 to R214) -/

/-- RETRAIN_LCB_RECEIVE (R200, R209): the retrain event is raised; a retrain that the partner asks for is no fault of this
port (R510). -/
def execRetrainLcbReceive (p : Fin 256) (lcb : BitVec 512) : State → Res :=
  whenRunning fun s => s.onLcb p lcb fun s =>
    ((s.enterDetect p 8).cnt .RETRAIN_COUNT p).raise (33 + 2 * p)

/-- FATAL_LCB_RECEIVE (R200, R214). -/
def execFatalLcbReceive (p : Fin 256) (lcb : BitVec 512) : State → Res :=
  whenRunning fun s => s.onLcb p lcb fun s =>
    s.occur (33 + 2 * p) .ok 4 p 0 fun s =>
      let s := (s.leaveActive p 1 true).enterDetect p 7
      (s.set F.LL_STATUS.PARTNER_FATAL 1 p).set F.LL_STATUS.PARTNER_CAUSE (L.INITL.CAUSE_FATAL.get lcb) p

/-- LINK_DOWN (R210): a lane of the current set lacks block lock and no degrade runs. -/
def execLinkDown (p : Fin 256) : State → Res :=
  whenRunning fun s =>
    let degrading := match (s.port p).width with
      | some w => w.kind == 0
      | none => false
    if s.pstate p == 6 && s.lockedLanes p != s.f F.PORT_STATE.LANE_SET p && !degrading then s.linkGoesDown p 7 else s

/-- RESUME_TIMEOUT (R211, R213): frozen state is kept no longer. -/
def execResumeTimeout (p : Fin 256) : State → Res :=
  whenRunning fun s => if s.on F.LL_STATUS.FROZEN p && s.pstate p != 6 then s.dropLink p else s

end Sys2Proof.Machine
end

