-- ==== Sys2Proof/Machine/Lanes.lean ====
section
/-!
DEFINITION. Fabric lanes (R148 to R186): the commands of a port, base mode and negotiation, equalisation, alignment and
verification, the entry to ACTIVE, locks and detectors, drain and restore, width changes, live calibration and tuning,
and the disruptive tests.
-/
namespace Sys2Proof.Machine

open Sys2Proof

/-! ### PORT_CTRL and PORT_CMD (R173, R609) -/

/-- Illegal values of PORT_CTRL (R14, R127, R186). -/
def State.portCtrlIllegal (s : State) (p : Nat) (v : Word) : Bool :=
  setsRsv RegName.PORT_CTRL.desc.fields v ||
    (F.PORT_CTRL.WIDTH_CFG.fld.get v == 3 && p % 2 == 1) || F.PORT_CTRL.MAX_RATE.fld.get v == 3 ||
    decide (4 < F.PORT_CTRL.MTU.fld.get v) ||
    (F.PORT_CTRL.VC8.fld.on v && !(s.on F.PORT_CTRL.VC8 p) && (List.range 8).any fun c => decide (s.creditInit p c < 72))

/-- The checks of a write of PORT_CTRL, in the order of R173 and R605; a port of a die whose fuses failed stays DISABLED
(R539). -/
def State.portCtrlCheck (s : State) (p : Nat) (v : Word) : Status :=
  let old := s.rd ⟨.PORT_CTRL, p, 0⟩
  let on := F.PORT_CTRL.ENABLE.fld.on old
  let set := F.PORT_CTRL.ENABLE.fld.on v
  firstStatus [
    (s.oddOfX8 p, .badState),
    (on && !set && s.inService p, .portInService),
    (on && v.toNat / 2 != old.toNat / 2, .badState),
    (!on && set && (s.illegalCoord s.own || s.fuseBad (4 + p / 32)), .badState),
    (s.portCtrlIllegal p v, .badValue)]

/-- A write of PORT_CTRL that is accepted (R164). -/
def State.portCtrlWrite (s : State) (p : Nat) (v : Word) : State :=
  let on := s.on F.PORT_CTRL.ENABLE p
  let set := F.PORT_CTRL.ENABLE.fld.on v
  let s := s.wr ⟨.PORT_CTRL, p, 0⟩ v
  if on && !set then s.disable p
  else if !on && set then s.restart p 1 else s

/-- A write of PORT_CTRL by a requester. -/
def State.portCtrl (s : State) (rq : Requester) (p : Nat) (v : Word) : State :=
  s.writeAs rq (Reg.offset ⟨.PORT_CTRL, p, 0⟩) (if rq.reaches then s.portCtrlCheck p v else .notPermitted) fun s =>
    s.portCtrlWrite p v

/-- PORT_ENABLE (R164, R173, R609): a write of PORT_CTRL that sets ENABLE. -/
def execPortEnable (rq : Requester) (p : Fin 256) (v : Word) : State → Res :=
  whenRunning fun s => s.portCtrl rq p (F.PORT_CTRL.ENABLE.fld.set v 1)

/-- PORT_DISABLE (R164, R173, R211): a write of PORT_CTRL that clears ENABLE. -/
def execPortDisable (rq : Requester) (p : Fin 256) (v : Word) : State → Res :=
  whenRunning fun s => s.portCtrl rq p (F.PORT_CTRL.ENABLE.fld.set v 0)

/-- Whether a port is the last member of its link group in service (R173). -/
def State.lastOfGroup (s : State) (p : Nat) : Bool :=
  s.inGroup p && (s.group (s.portDim p) (s.portTarget p)).all fun q => q == p

/-- The checks of a write of PORT_CMD, in the order of R173, R175 and R183. -/
def State.portCmdCheck (s : State) (p : Nat) (v : Word) : Status :=
  let st := s.pstate p
  let x := s.port p
  let drain := F.PORT_CMD.DRAIN.fld.on v
  let test := F.PORT_CMD.TEST.fld.on v
  let drained := s.on F.PORT_STATE.DRAINED p
  let many := b2n drain + b2n (F.PORT_CMD.RESTORE.fld.on v) + b2n (F.PORT_CMD.RETRAIN.fld.on v) + b2n test
  firstStatus [
    (s.oddOfX8 p, .badState),
    (F.PORT_CMD.RETRAIN.fld.on v && st == 0, .badState),
    (drain && (!(s.inService p) || x.drainOwn || x.drainPartner), .badState),
    (drain && !(F.PORT_CMD.FORCE.fld.on v) && s.lastOfGroup p, .wouldIsolate),
    (test && s.inService p, .portInService),
    (F.PORT_CMD.RESTORE.fld.on v && !(st == 6 && drained), .badState),
    (test && (st == 0 || (s.f F.PORT_TEST_CFG.TEST_MODE p == 3 && !(st == 6 && drained))), .badState),
    (setsRsv RegName.PORT_CMD.desc.fields v || decide (1 < many), .badValue)]

/-- SERVICE DRAIN sent (R174, step 1). -/
def State.drainStart (s : State) (p : Nat) : State :=
  let n := ((s.port p).serviceSeq + 1) % 256
  (s.modPort p fun x => { x with drainOwn := true, leaveNext := true, serviceSeq := n }).column p 0x84 [1, n]

/-- SERVICE RESTORE sent (R175). -/
def State.restoreStart (s : State) (p : Nat) : State :=
  let n := ((s.port p).serviceSeq + 1) % 256
  (s.modPort p fun x => { x with serviceSeq := n }).column p 0x84 [3, n]

/-- The RETRAIN command (R164, R171, R209, R611): the fallback and the hold-off end. -/
def State.retrainCmd (s : State) (p : Nat) : State :=
  let st := s.pstate p
  let s := s.sendRetrain p 2
  let s := if 2 ≤ st ∧ st ≤ 5 then s.cnt .TRAIN_FAIL_COUNT p else s
  let s := (s.enterDetect p 8).modPort p fun x => { x with allowed := 7, holdOff := false }
  (s.cnt .RETRAIN_COUNT p).raise (33 + 2 * p)

/-- The TEST command (R183): on a drained ACTIVE port the partner is told first, in 16 columns. -/
def State.testStart (s : State) (p : Nat) : State :=
  let body := [s.f F.PORT_TEST_CFG.TEST_MODE p, s.f F.PORT_TEST_CFG.PATTERN p, s.f F.PORT_TEST_CFG.TEST_RATE p]
  let s := if s.pstate p = 6 then (List.range 16).foldl (fun s _ => s.column p 0x85 body) s else s
  let s := s.restart p 7
  (s.set F.TEST_RESULT.DONE 0 p).set F.TEST_RESULT.PASS_MASK 0 p

/-- A write of PORT_CMD that is accepted. -/
def State.portCmdWrite (s : State) (p : Nat) (v : Word) : State :=
  if F.PORT_CMD.DRAIN.fld.on v then s.drainStart p
  else if F.PORT_CMD.RESTORE.fld.on v then s.restoreStart p
  else if F.PORT_CMD.RETRAIN.fld.on v then s.retrainCmd p
  else if F.PORT_CMD.TEST.fld.on v then s.testStart p
  else s

/-- A write of PORT_CMD by a requester. -/
def State.portCmd (s : State) (rq : Requester) (p : Nat) (v : Word) : State :=
  s.writeAs rq (Reg.offset ⟨.PORT_CMD, p, 0⟩) (if rq.reaches then s.portCmdCheck p v else .notPermitted) fun s =>
    s.portCmdWrite p v

/-- PORT_DRAIN (R173, R174). -/
def execPortDrain (rq : Requester) (p : Fin 256) (force : Bool) : State → Res :=
  whenRunning fun s => s.portCmd rq p (BitVec.ofNat 64 (1 + 2 * b2n force))

/-- PORT_RESTORE (R173, R175). -/
def execPortRestore (rq : Requester) (p : Fin 256) : State → Res := whenRunning fun s => s.portCmd rq p 4

/-- PORT_RETRAIN (R164, R173, R209). -/
def execPortRetrain (rq : Requester) (p : Fin 256) : State → Res := whenRunning fun s => s.portCmd rq p 8

/-- PORT_TEST (R173, R183). -/
def execPortTest (rq : Requester) (p : Fin 256) : State → Res := whenRunning fun s => s.portCmd rq p 16

/-! ### Base mode and negotiation (R161 to R167) -/

/-- Whether a lane of a port holds comma lock. -/
def State.anyComma (s : State) (p : Nat) : Bool := (s.portLanes p).any fun l => s.on F.LANE_STATUS.COMMA_LOCK l

/-- The rates a port allows and advertises (R163, R166, R171). -/
def State.ownRates (s : State) (p : Nat) : Nat :=
  (2 ^ (s.f F.PORT_CTRL.MAX_RATE p + 1) - 1) &&& (s.port p).allowed

/-- The widths a port supports: its configured width and the narrower ones (R163, R166). -/
def State.ownWidths (s : State) (p : Nat) : Nat := 2 ^ (s.f F.PORT_CTRL.WIDTH_CFG p + 1) - 1

/-- The lanes of a port whose receiver holds comma lock (R163). -/
def State.commaMask (s : State) (p : Nat) : Nat :=
  laneMask p (fun l => s.on F.LANE_STATUS.COMMA_LOCK l) % 2 ^ 2 ^ s.f F.PORT_CTRL.WIDTH_CFG p

/-- The CRC-16 of a CAP set (R162). -/
def capCrc (cap : BitVec 224) : Nat := crc16 (leBytes 28 cap.toNat)

/-- The 28 data bytes of the CAP set that a port sends on a lane (R163). -/
def State.ownCap (s : State) (p l : Nat) (noCommon : Bool) : BitVec 224 :=
  let c := L.CAP.VERSION.set (0 : BitVec 224) 1
  let c := L.CAP.LANE.set c (s.portOfLane l).2
  let c := L.CAP.RATES.set c (s.ownRates p)
  let c := L.CAP.WIDTHS.set c (s.ownWidths p)
  let c := L.CAP.FEC_NONE_OK.set c (s.f F.PORT_CTRL.FEC_NONE_OK p)
  let c := L.CAP.VC8.set c (s.f F.PORT_CTRL.VC8 p)
  let c := L.CAP.RIDGEPOLE.set c (s.f F.PORT_CTRL.RIDGEPOLE p)
  let c := L.CAP.GUYLINE.set c (s.f F.PORT_CTRL.GUYLINE p)
  let c := L.CAP.DEGRADE.set c (s.f F.PORT_CTRL.DEGRADE p)
  let c := L.CAP.MTU.set c (s.f F.PORT_CTRL.MTU p)
  let c := L.CAP.LANE_MASK.set c (s.commaMask p)
  let c := L.CAP.PRESET.set c (s.f F.PORT_TRAIN_CFG.PRESET p)
  let c := L.CAP.ACK.set c (b2n (s.port p).capEight)
  let c := L.CAP.NO_COMMON.set c (b2n noCommon)
  let c := L.CAP.NODE.set c s.own
  L.CAP.IMPL.set (L.CAP.SLOT.set c p) 0x5A01

/-- A CAP set sent on a lane (R162, R163, R165). -/
def State.sendCap (s : State) (p l : Nat) (noCommon : Bool) : State :=
  let cap := s.ownCap p l noCommon
  s.wire p (.capSet (s.portOfLane l).2 cap (BitVec.ofNat 16 (capCrc cap)))

/-- CAP sets sent on every lane of the configured width (R164). -/
def State.sendCaps (s : State) (p : Nat) (noCommon : Bool) : State :=
  (s.portLanes p).foldl (fun s l => s.sendCap p l noCommon) s

/-- A port leaves DETECT at comma lock, unless its hold-off is in force (R164, R611); in NEGOTIATE it sends CAP sets. -/
def State.detectExit (s : State) (p : Nat) : State :=
  if s.pstate p == 1 && s.anyComma p && !(s.port p).holdOff then (s.newState p 2).sendCaps p false else s

/-- COMMA_LOCK_GAIN (R161, R164, R183): in base mode; a port in TEST at its partner's notice returns to DETECT. -/
def execCommaLockGain (l : Fin 1024) (inverted : Bool) : State → Res :=
  whenRunning fun s =>
    let p := (s.portOfLane l).1
    let st := s.pstate p
    let told := st == 7 && s.on F.PORT_STATE.PARTNER_TEST p
    let s := if told then s.restart p 1 else s
    if st == 1 || st == 2 || told then
      ((s.set F.LANE_STATUS.COMMA_LOCK 1 l).set F.LANE_STATUS.RX_INVERTED (b2n inverted) l).detectExit p
    else s

/-- COMMA_LOCK_LOSS (R161, R165). -/
def execCommaLockLoss (l : Fin 1024) : State → Res := whenRunning fun s => s.set F.LANE_STATUS.COMMA_LOCK 0 l

/-- HOLD_OFF_EXPIRE (R611). -/
def execHoldOffExpire (p : Fin 256) : State → Res :=
  whenRunning fun s => (s.modPort p fun x => { x with holdOff := false }).detectExit p

/-- NEG_TIMEOUT (R164, R611). -/
def execNegTimeout (p : Fin 256) : State → Res :=
  whenRunning fun s => if s.pstate p = 2 then s.trainFail p 1 else s

/-- The mode of R166, from the last CAP set received. -/
structure PortMode where
  rate : Nat
  width : Nat
  lanes : Nat
  deriving DecidableEq, Repr

/-- The mode that both ends resolve (R166), if there is one. -/
def State.resolveMode (s : State) (p : Nat) (cap : BitVec 224) : Option PortMode :=
  let rates := s.ownRates p &&& L.CAP.RATES.get cap
  let good := s.commaMask p &&& L.CAP.LANE_MASK.get cap
  let widths := s.ownWidths p &&& L.CAP.WIDTHS.get cap
  if rates = 0 then none
  else match widest (s.f F.PORT_CTRL.WIDTH_CFG p == 3) widths good with
    | none => none
    | some (w, c) => some ⟨rates.log2, w, c⟩

/-- Coefficients c(-2), c(-1), c(1) of a preset (R169). -/
def presetCoef (k : Nat) : Int × Int × Int :=
  match k with
  | 2 => (0, -6, 0)
  | 3 => (1, -10, 0)
  | 4 => (3, -13, -3)
  | 5 => (0, -3, -6)
  | _ => (0, 0, 0)

/-- A lane's transmitter coefficients (R169). -/
def State.setCoef (s : State) (l : Nat) (c : Int × Int × Int) : State :=
  let c0 : Int := 64 - c.1.natAbs - c.2.1.natAbs - c.2.2.natAbs
  (((s.set F.LANE_TX_COEF.CM2 (ofSigned 8 c.1) l).set F.LANE_TX_COEF.CM1 (ofSigned 8 c.2.1) l).set
    F.LANE_TX_COEF.C0 (ofSigned 8 c0) l).set F.LANE_TX_COEF.C1 (ofSigned 8 c.2.2) l

/-- A lane's transmitter coefficients as they stand. -/
def State.coef (s : State) (l : Nat) : Int × Int × Int :=
  (toSigned 8 (s.f F.LANE_TX_COEF.CM2 l), toSigned 8 (s.f F.LANE_TX_COEF.CM1 l), toSigned 8 (s.f F.LANE_TX_COEF.C1 l))

/-- CHECK of a training control field (R168). -/
def tcfCheck (v : Nat) : Nat := (List.range 7).foldl (fun a k => a ^^^ (v / 16 ^ k % 16)) 0

/-- A training control field with its CHECK. -/
def tcfWord (v : Nat) : BitVec 32 := BitVec.ofNat 32 (v % 2 ^ 28 + tcfCheck (v % 2 ^ 28) * 2 ^ 28)

/-- The resolved mode put in force (R166, R167, R168): lanes outside the set are idle, and transmitters start from the
preset the partner asked for; then the port sends training frames, COUNTDOWN at 15. -/
def State.applyMode (s : State) (p : Nat) (cap : BitVec 224) (m : PortMode) : State :=
  let both (f : RegFld) (g : Fld) : Bool := s.on f p && g.on cap
  let four := b2n !(both F.PORT_CTRL.VC8 L.CAP.VC8)
  let s := s.newState p 3
  let s := ((s.set F.PORT_STATE.RATE m.rate p).set F.PORT_STATE.WIDTH m.width p).set F.PORT_STATE.LANE_SET m.lanes p
  let s := s.set F.PORT_STATE.FEC_NONE (b2n (m.rate == 0 && both F.PORT_CTRL.FEC_NONE_OK L.CAP.FEC_NONE_OK)) p
  let s := (s.set F.PORT_STATE.FOUR_VC four p).set F.PORT_ROUTE.FOUR_VC four p
  let s := s.set F.PORT_STATE.MTU (min (s.f F.PORT_CTRL.MTU p) (min 4 (L.CAP.MTU.get cap))) p
  let s := s.set F.PORT_STATE.RIDGEPOLE (b2n (both F.PORT_CTRL.RIDGEPOLE L.CAP.RIDGEPOLE)) p
  let s := s.set F.PORT_STATE.GUYLINE (b2n (both F.PORT_CTRL.GUYLINE L.CAP.GUYLINE)) p
  let s := ((s.set F.PORT_STATE.DEGRADED 0 p).set F.PORT_STATE.NARROWED 0 p).fabricUpdate
  let s := s.modPort p fun x => { x with
    resLanes := m.lanes, faultLanes := 0, degradeOk := both F.PORT_CTRL.DEGRADE L.CAP.DEGRADE }
  let s := (lanesIn p m.lanes).foldl (fun s l => s.setCoef l (presetCoef (L.CAP.PRESET.get cap))) s
  let s := s.wire p (.electricalIdle (255 - m.lanes))
  (lanesIn p m.lanes).foldl (fun s l => s.wire p (.trainingFrame (s.portOfLane l).2 (tcfWord (15 * 2 ^ 16)))) s

/-- A valid CAP set counted towards the conditions of R165 and, once they are met, the mode resolved (R166). `sent` is how
many CAP sets with ACK the port has sent since both conditions hold. Until then the port answers with its own CAP set. -/
def State.capTake (s : State) (p l : Nat) (cap : BitVec 224) (sent : Nat) : State :=
  let s := (((s.set F.PORT_PARTNER.NODE (L.CAP.NODE.get cap) p).set F.PORT_PARTNER.SLOT (L.CAP.SLOT.get cap) p).set
    F.PORT_PARTNER.IMPL (L.CAP.IMPL.get cap) p).set F.PORT_PARTNER.VERSION (L.CAP.VERSION.get cap) p
  let y := s.lane l
  let run := if y.capRun ≠ 0 ∧ y.capLast = cap then y.capRun + 1 else 1
  let s := s.modLane l fun z => { z with capLast := cap, capRun := run }
  let x := s.port p
  let eight := x.capEight || decide (8 ≤ run)
  let ack := x.capAckSeen || (eight && L.CAP.ACK.on cap)
  let s := s.modPort p fun z => { z with capEight := eight, capAckSeen := ack }
  if L.CAP.NO_COMMON.on cap then s.trainFail p 2
  else if eight && ack && decide (16 ≤ sent) then
    match s.resolveMode p cap with
    | some m => s.applyMode p cap m
    | none => (s.sendCaps p true).trainFail p 2
  else s.sendCap p l false

/-- CAP_SET_RECEIVE (R162, R163, R165, R166). -/
def execCapSetReceive (l : Fin 1024) (cap : BitVec 224) (crc : BitVec 16) (sent : Nat) : State → Res :=
  whenRunning fun s =>
    let p := (s.portOfLane l).1
    if s.pstate p == 2 && crc.toNat == capCrc cap then s.capTake p l cap sent else s

/-! ### EQUALIZE (R168, R169) -/

/-- The lower and upper limits of a coefficient (R169): index 0 c(-2), 1 c(-1), 2 c(1). -/
def coefLimits (i : Nat) : Int × Int :=
  match i with
  | 0 => (0, 8)
  | 1 => (-20, 0)
  | _ => (-12, 0)

/-- One step of a coefficient: the coefficients and the answer (R168, R169): 1 updated, 2 at limit. -/
def coefStep (c : Int × Int × Int) (i req : Nat) : (Int × Int × Int) × Nat :=
  let d : Int := if req = 1 then 1 else -1
  let v : Int := match i with
    | 0 => c.1
    | 1 => c.2.1
    | _ => c.2.2
  let n : Int × Int × Int := match i with
    | 0 => (v + d, c.2.1, c.2.2)
    | 1 => (c.1, v + d, c.2.2)
    | _ => (c.1, c.2.1, v + d)
  let c0 : Int := 64 - n.1.natAbs - n.2.1.natAbs - n.2.2.natAbs
  if v + d < (coefLimits i).1 ∨ (coefLimits i).2 < v + d ∨ c0 < 32 then (c, 2) else (n, 1)

/-- The answer to the request for one coefficient: kept until the request is held, made once (R168). -/
def coefAnswer (c : Int × Int × Int) (i req st : Nat) : (Int × Int × Int) × Nat :=
  if req = 0 then (c, 0) else if req = 3 ∨ st ≠ 0 then (c, st) else coefStep c i req

/-- The requests of a control word answered on a lane: the state and the three answers, as bits 14:9 (R168). -/
def State.answerReqs (s : State) (l word : Nat) : State × Nat :=
  let st := (s.lane l).tuneSt
  let a := coefAnswer (s.coef l) 0 (word / 8 % 4) (st % 4)
  let b := coefAnswer a.1 1 (word / 32 % 4) (st / 4 % 4)
  let c := coefAnswer b.1 2 (word / 128 % 4) (st / 16 % 4)
  let ans := a.2 + b.2 * 4 + c.2 * 16
  ((s.setCoef l c.1).modLane l fun y => { y with tuneSt := ans }, ans)

/-- A preset requested in EQUALIZE: loaded once, answered updated for every coefficient (R168). -/
def State.answerPreset (s : State) (l k : Nat) : State × Nat :=
  if (s.lane l).tuneSt = 0 then ((s.setCoef l (presetCoef k)).modLane l fun y => { y with tuneSt := 0x15 }, 0x15)
  else (s, (s.lane l).tuneSt)

/-- The lanes of the set have counted down in both directions (R168). -/
def State.equalized (s : State) (p : Nat) : Bool :=
  (lanesIn p (s.f F.PORT_STATE.LANE_SET p)).all fun l => (s.lane l).eqCount == 0 && (s.lane l).eqDone

/-- ALIGN entered (R164): codeword lock is established by counting from the first active-mode bit (R158). -/
def State.enterAlign (s : State) (p : Nat) : State :=
  (s.newState p 4).setLanes F.LANE_STATUS.CW_LOCK 1 (lanesIn p (s.f F.PORT_STATE.LANE_SET p))

/-- The counts of a received frame, and the frame sent in turn (R168); after the partner's last frame this end sends what
is left of its own countdown. -/
def State.frameTake (s : State) (p l : Nat) (ctl : BitVec 32) (converged : Bool) (req : Nat) : State :=
  let k := L.TCF.PRESET_REQ.get ctl
  let r := if 1 ≤ k ∧ k ≤ 5 then s.answerPreset l k else s.answerReqs l ctl.toNat
  let s := r.1
  let y := s.lane l
  let run := if y.eqReady && L.TCF.RX_READY.on ctl then y.eqRun + 1 else 0
  let count := if y.eqCount = 15 then (if 16 ≤ run then 3 else 15) else y.eqCount - 1
  let ready := y.eqReady || converged
  let final := L.TCF.COUNTDOWN.get ctl == 0
  let rest : List Nat :=
    if y.eqCount = 0 then [] else if final && count != 15 then (List.range (count + 1)).reverse else [count]
  let s := s.modLane l fun z => { z with
    eqRun := run, eqReady := ready, eqCount := lget rest (rest.length - 1) 0
    eqDone := z.eqDone || final }
  let s := rest.foldl (fun s k =>
    s.wire p (.trainingFrame (s.portOfLane l).2 (tcfWord (req * 8 + r.2 * 2 ^ 9 + b2n ready * 2 ^ 15 + k * 2 ^ 16)))) s
  if s.equalized p then s.enterAlign p else s

/-- TRAINING_FRAME_RECEIVE (R168, R169). -/
def execTrainingFrameReceive (l : Fin 1024) (ctl : BitVec 32) (converged : Bool) (req : BitVec 6) : State → Res :=
  whenRunning fun s =>
    let q := s.portOfLane l
    if s.pstate q.1 == 3 && (s.f F.PORT_STATE.LANE_SET q.1).testBit q.2 &&
        L.TCF.CHECK.get ctl == tcfCheck (ctl.toNat % 2 ^ 28) then
      s.frameTake q.1 l ctl converged req.toNat
    else s

/-- EQ_TIMEOUT (R164, R171, R611). -/
def execEqTimeout (p : Fin 256) : State → Res :=
  whenRunning fun s => if s.pstate p = 3 then s.trainFail p 3 else s

/-! ### ALIGN and VERIFY (R158, R159, R164, R170) -/

/-- ALIGN_COMPLETE (R159, R164): every lane of the set holds codeword and block lock, and has deskewed. -/
def execAlignComplete (p : Fin 256) : State → Res :=
  whenRunning fun s =>
    let set := s.f F.PORT_STATE.LANE_SET p
    let cw := (lanesIn p set).all fun l => s.on F.LANE_STATUS.CW_LOCK l && s.on F.LANE_STATUS.CDR_LOCK l
    if s.pstate p == 4 && cw && s.lockedLanes p == set then
      let s := (s.newState p 5).setLanes F.LANE_STATUS.DESKEWED 1 (lanesIn p set)
      (s.modPort p fun x => { x with soak := true }).column p 0x82 [0]
    else s

/-- ALIGN_TIMEOUT (R164, R611). -/
def execAlignTimeout (p : Fin 256) : State → Res :=
  whenRunning fun s => if s.pstate p = 4 then s.trainFail p 4 else s

/-- A VERIFY_STATUS column sent (R155, R170). -/
def State.verifyStatus (s : State) (p : Nat) (fail : Bool) : State :=
  let x := s.port p
  s.column p 0x82 [b2n x.localPass + 2 * b2n fail + 4 * b2n x.partnerPass]

/-- VERIFY_EVALUATE (R170): after VERIFY_US. `ratio` is the highest corrected-bit ratio of a lane in units of 10^-6,
rounded up. -/
def execVerifyEvaluate (p : Fin 256) (ratio : Nat) (uncorrectable prbsError : Bool) : State → Res :=
  whenRunning fun s =>
    if s.pstate p ≠ 5 ∨ (s.port p).localPass then s
    else if decide (ratio ≤ s.f F.PORT_TRAIN_CFG.BER_LIMIT p) && !uncorrectable && !prbsError && (s.port p).soak then
      (s.modPort p fun x => { x with localPass := true }).verifyStatus p false
    else (s.verifyStatus p true).trainFail p 6

/-- VERIFY_STATUS_RECEIVE (R155, R164, R170). -/
def execVerifyStatusReceive (p : Fin 256) (st : BitVec 8) : State → Res :=
  whenRunning fun s =>
    if s.pstate p ≠ 5 then s
    else if st.toNat.testBit 1 then s.trainFail p 6
    else (s.modPort p fun x => { x with
      partnerPass := x.partnerPass || st.toNat.testBit 0
      partnerSawPass := x.partnerSawPass || (st.toNat.testBit 0 && st.toNat.testBit 2) }).verifyStatus p false

/-- VERIFY_TIMEOUT (R164, R611). -/
def execVerifyTimeout (p : Fin 256) : State → Res :=
  whenRunning fun s => if s.pstate p = 5 then s.trainFail p 6 else s

/-- Whether a partner's coordinate agrees with PORT_ROUTE (R85). -/
def State.wiredRight (s : State) (p : Nat) : Bool :=
  let d := s.portDim p
  let o := s.own
  let q := s.f F.PORT_PARTNER.NODE p
  let c := s.fldOf o d
  let want := if s.isRing d then
      (if s.portTarget p = 0 then (c + 1) % s.dimSize d else (c + s.dimSize d - 1) % s.dimSize d)
    else s.portTarget p
  s.fldOf q d == want && !(s.illegalCoord q) && (List.range 4).all fun e => e == d || s.fldOf q e == s.fldOf o e

/-- The miswire check on entry to ACTIVE (R85). -/
def State.miswireCheck (s : State) (p : Nat) : State :=
  if s.on F.PORT_ROUTE.ROUTE_EN p && !(s.wiredRight p) then
    ((s.set F.PORT_ROUTE.MISWIRE 1 p).raise 1616).occur (33 + 2 * p) .ok 4 p 0
  else s.set F.PORT_ROUTE.MISWIRE 0 p

/-- A calibration held pending starts (R182). -/
def State.calStart (s : State) (l : Nat) : State :=
  if s.on F.LANE_STATUS.CAL_PENDING l then
    (s.set F.LANE_STATUS.CAL_PENDING 0 l).modLane l fun y => { y with sweep := 0, calRun := true }
  else s

/-- A port enters ACTIVE in both directions (R85, R96, R172, R182, R212). -/
def State.enterActive (s : State) (p : Nat) : State :=
  let s := (s.set F.PORT_ROUTE.MISWIRE 0 p).modCore fun c =>
    { c with snaps := mdel c.snaps p, snapsNext := mdel c.snapsNext p }
  let s := ((s.newState p 6).miswireCheck p).groupsUpdate (s.portDim p)
  let s := (lanesIn p (s.f F.PORT_STATE.LANE_SET p)).foldl (fun s l => s.calStart l) s
  s.linkActivate p

/-- PORT_ACTIVE_ENTRY (R164, R170): a direction, the receiving one when `rx`, has reached its ALIGN_MARKER column. -/
def execPortActiveEntry (p : Fin 256) (rx : Bool) : State → Res :=
  whenRunning fun s =>
    let x := s.port p
    if s.pstate p ≠ 5 then s
    else
      let tx' := x.txActive || (!rx && x.localPass && x.partnerPass)
      let rx' := x.rxActive || (rx && x.partnerPass && x.partnerSawPass)
      let s := s.modPort p fun y => { y with txActive := tx', rxActive := rx' }
      if tx' && rx' then s.enterActive p else s

/-! ### Width changes (R176 to R179) -/

/-- A WIDTH column (R155). -/
def State.widthColumn (s : State) (p op reason set seq am pos : Nat) : State :=
  s.column p 0x83 [op, reason, set, seq, am % 256, pos % 256, pos / 256 % 64]

/-- REQ sent for a change (R176, step 1): `kind` 0 a fault, 1 power. -/
def State.widthRequest (s : State) (p kind set : Nat) : State :=
  let n := ((s.port p).widthSeq + 1) % 256
  let s := s.modPort p fun x => { x with
    widthSeq := n, width := some ⟨kind, true, n, set, false, false, false, false, false, false⟩ }
  s.widthColumn p 1 kind set n 0 0

/-- A degrade has failed (R177): counted, and the link-down rule holds again. -/
def State.degradeFail (s : State) (p : Nat) : State :=
  ((s.cnt .DEGRADE_FAIL_COUNT p).set F.PORT_STATE.FAIL_REASON 9 p).modPort p fun x => { x with width := none }

/-- A degrade started or restarted with the lanes still usable (R176, R177, R179). -/
def State.degradeStart (s : State) (p : Nat) : State :=
  let good := s.lockedLanes p
  if (s.port p).degradeOk && (widest (s.f F.PORT_CTRL.WIDTH_CFG p == 3) 15 good).isSome then s.widthRequest p 0 good
  else s.degradeFail p

/-- COMMIT sent with a switch point of its own transmit stream, which the spec leaves to the sender (R176). -/
def State.widthCommit (s : State) (p : Nat) (w : WidthCh) : State :=
  let a := s.drawNat
  let b := a.2.drawNat
  let s := b.2.modPort p fun x => { x with width := some { w with ownCommit := true } }
  s.widthColumn p 2 (if w.kind = 0 then 0 else 1) w.set w.seq a.1 b.1

/-- WIDTH_REQ_RECEIVE (R176, R179): the reply of step 2, also for crossing requests (step 5); a fault supersedes a power
change. -/
def execWidthReqReceive (p : Fin 256) (m : WidthMsg) : State → Res :=
  whenRunning fun s =>
    if s.pstate p ≠ 6 then s
    else
      let kind := if m.reason = 0 then 0 else 1
      let old := (s.port p).width
      let usable := match old with
        | some w => if w.kind = kind ∧ w.requester then s.lockedLanes p &&& w.set else s.lockedLanes p
        | none => s.lockedLanes p
      let ours := match old with
        | some w => w.kind == 0 && kind == 1
        | none => false
      let set := usable &&& m.laneSet
      if ours then s
      else if (s.port p).degradeOk && (widest (s.f F.PORT_CTRL.WIDTH_CFG p == 3) 15 set).isSome then
        (s.modPort p fun x => { x with widthSeq := m.seq % 256 }).widthCommit p
          ⟨kind, false, m.seq, set, false, false, false, false, false, false⟩
      else if kind = 0 then s.degradeFail p else s

/-- A COMMIT of the change in progress is taken (R176, step 3): the end that has not committed yet sends its own. -/
def State.commitTake (s : State) (p : Nat) (m : WidthMsg) (w : WidthCh) : State :=
  let w : WidthCh := { w with ptrCommit := true, set := m.laneSet }
  if w.ownCommit then s.modPort p fun x => { x with width := some w } else s.widthCommit p w

/-- WIDTH_COMMIT_RECEIVE (R176): a COMMIT with an older SEQ is ignored. -/
def execWidthCommitReceive (p : Fin 256) (m : WidthMsg) : State → Res :=
  whenRunning fun s => match (s.port p).width with
    | none => s
    | some w => if w.seq = m.seq ∧ s.pstate p = 6 then s.commitTake p m w else s

/-- WIDTH_WIDEN_RECEIVE (R178, step 1): both ends start on the lanes being added; none lost to a fault is added. -/
def execWidthWidenReceive (p : Fin 256) (m : WidthMsg) : State → Res :=
  whenRunning fun s =>
    let set := m.laneSet
    if s.pstate p == 6 && (s.port p).width.isNone && set &&& (s.port p).faultLanes == 0 then
      let s := s.modPort p fun x => { x with
        widthSeq := m.seq % 256
        width := some ⟨2, false, m.seq, set, false, false, false, false, false, false⟩ }
      s.setLanes F.LANE_STATUS.POWERED_DOWN 0 (lanesIn p set)
    else s

/-- The requester of a widening commits once READY has passed both ways (R178, step 3). -/
def State.widenCommit (s : State) (p : Nat) : State :=
  match (s.port p).width with
  | some w => if w.kind = 2 ∧ w.requester ∧ w.readySent ∧ w.readySeen ∧ !w.ownCommit then s.widthCommit p w else s
  | none => s

/-- READY sent once the lanes being added hold block lock (R178, step 2). -/
def State.widenReady (s : State) (p : Nat) : State :=
  match (s.port p).width with
  | some w =>
    let locked := w.set &&& laneMask p fun l => s.on F.LANE_STATUS.BLOCK_LOCK l
    if w.kind = 2 ∧ !w.readySent ∧ locked = w.set then
      let s := s.modPort p fun x => { x with width := some { w with readySent := true } }
      (s.widthColumn p 4 1 w.set w.seq 0 0).widenCommit p
    else s
  | none => s

/-- WIDTH_READY_RECEIVE (R178). -/
def execWidthReadyReceive (p : Fin 256) (m : WidthMsg) : State → Res :=
  whenRunning fun s => match (s.port p).width with
    | some w =>
      if w.kind = 2 ∧ w.seq = m.seq then
        (s.modPort p fun x => { x with width := some { w with readySeen := true } }).widenCommit p
      else s
    | none => s

/-- A width change complete in both directions (R176, R179, R505): the lane set and its width, what has been lost to a
fault or powered down, the count and the event. -/
def State.widthDone (s : State) (p : Nat) (w : WidthCh) : State :=
  let old := s.f F.PORT_STATE.LANE_SET p
  match widest (s.f F.PORT_CTRL.WIDTH_CFG p == 3) 15 w.set with
  | none => s.modPort p fun x => { x with width := none }
  | some (c, set) =>
    let gone := old - (old &&& set)
    let lost := if w.kind = 0 then old - (old &&& w.set) else 0
    let res := (s.port p).resLanes
    let s := (s.set F.PORT_STATE.LANE_SET set p).set F.PORT_STATE.WIDTH c p
    let s := s.modPort p fun x => { x with width := none, faultLanes := x.faultLanes ||| lost }
    let s := match w.kind with
      | 0 => s.set F.PORT_STATE.DEGRADED 1 p
      | 1 => (s.set F.PORT_STATE.NARROWED 1 p).setLanes F.LANE_STATUS.POWERED_DOWN 1 (lanesIn p gone)
      | _ => s.set F.PORT_STATE.NARROWED (b2n (popcount set 8 + popcount (s.port p).faultLanes 8 < popcount res 8)) p
    let s := if w.requester then
      (match w.kind with
        | 0 => s
        | 1 => s.cnt .NARROW_COUNT
        | _ => s.cnt .WIDEN_COUNT) else s
    ((s.cnt .WIDTH_CHANGE_COUNT p).fabricUpdate).portNotice p 1

/-- WIDTH_SWITCH (R176, step 4): a direction of the port, the receiving one when `rx`, has reached its switch point. -/
def execWidthSwitch (p : Fin 256) (rx : Bool) : State → Res :=
  whenRunning fun s => match (s.port p).width with
    | none => s
    | some w =>
      let tx' := w.txDone || (!rx && w.ownCommit)
      let rx' := w.rxDone || (rx && w.ptrCommit)
      let set := ((widest (s.f F.PORT_CTRL.WIDTH_CFG p == 3) 15 w.set).map fun c => c.2).getD 0
      let s := if tx' && !w.txDone then s.wire p (.electricalIdle (255 - set)) else s
      let w : WidthCh := { w with txDone := tx', rxDone := rx' }
      if tx' && rx' then s.widthDone p w else s.modPort p fun x => { x with width := some w }

/-- DEGRADE_TIMEOUT (R177): the 50 µs have passed; `downTimePassed` says that the link-down time has too. -/
def execDegradeTimeout (p : Fin 256) (downTimePassed : Bool) : State → Res :=
  whenRunning fun s => match (s.port p).width with
    | some w =>
      if w.kind ≠ 0 then s
      else if downTimePassed then (s.degradeFail p).linkGoesDown p 9
      else s.degradeFail p
    | none => s

/-- WIDEN_TIMEOUT (R178): a widening not committed is abandoned. -/
def execWidenTimeout (p : Fin 256) : State → Res :=
  whenRunning fun s => match (s.port p).width with
    | some w =>
      if w.kind = 2 ∧ !w.ownCommit ∧ !w.ptrCommit then
        let added := w.set - (w.set &&& s.f F.PORT_STATE.LANE_SET p)
        (s.modPort p fun x => { x with width := none }).setLanes F.LANE_STATUS.POWERED_DOWN 1 (lanesIn p added)
      else s
    | none => s

/-! ### Locks and detectors (R158 to R160, R185) -/

/-- The reaction to a lane of the current set losing block lock in ACTIVE (R176, R518): the degrade starts, or restarts
with what is left. -/
def State.laneFault (s : State) (p : Nat) : State :=
  if s.pstate p = 6 then s.degradeStart p else s

/-- Block lock of a lane lost (R158, R170, R185): counted, and for a lane of the current set a fault of the lane. -/
def State.blockLost (s : State) (l : Nat) : State :=
  if !(s.on F.LANE_STATUS.BLOCK_LOCK l) then s
  else
    let q := s.portOfLane l
    let s := (s.set F.LANE_STATUS.BLOCK_LOCK 0 l).set F.LANE_STATUS.DESKEWED 0 l
    let s := (s.cntF F.LANE_LOCK_LOSS_COUNT.BLOCK l).modPort q.1 fun x => { x with soak := false }
    if (s.f F.PORT_STATE.LANE_SET q.1).testBit q.2 then s.occur (32 + 2 * q.1) .ok 3 l 0 fun s => s.laneFault q.1
    else s.raise (32 + 2 * q.1)

/-- LOS_ASSERT (R158, R185): loss of signal ends block lock at once. -/
def execLosAssert (l : Fin 1024) : State → Res :=
  whenRunning fun s =>
    if s.on F.LANE_STATUS.LOS l then s
    else
      let q := s.portOfLane l
      let s := ((s.set F.LANE_STATUS.LOS 1 l).cntF F.LANE_LOCK_LOSS_COUNT.LOS l).raise (32 + 2 * q.1)
      s.blockLost l

/-- LOS_CLEAR (R185). -/
def execLosClear (l : Fin 1024) : State → Res := whenRunning fun s => s.set F.LANE_STATUS.LOS 0 l

/-- A lane loses CDR lock (R158, R185): its event, and the block lock that goes with it. -/
def State.cdrLost (s : State) (l : Nat) : State :=
  if !(s.on F.LANE_STATUS.CDR_LOCK l) then s
  else
    let q := s.portOfLane l
    let s := ((s.set F.LANE_STATUS.CDR_LOCK 0 l).cntF F.LANE_LOCK_LOSS_COUNT.CDR l).raise (32 + 2 * q.1)
    (s.modPort q.1 fun x => { x with soak := false }).blockLost l

/-- CDR_LOCK_LOSS (R158, R185). -/
def execCdrLockLoss (l : Fin 1024) : State → Res := whenRunning fun s => s.cdrLost l

/-- CDR_LOCK_GAIN (R185); a lane whose reference has stopped has none (R596). -/
def execCdrLockGain (l : Fin 1024) : State → Res :=
  whenRunning fun s => if s.sys.frefStopped.contains (l.val / 128) then s else s.set F.LANE_STATUS.CDR_LOCK 1 l

/-- CODEWORD_LOCK_LOSS (R158): it ends block lock at once, and in ACTIVE it is not regained. -/
def execCodewordLockLoss (l : Fin 1024) : State → Res :=
  whenRunning fun s =>
    if !(s.on F.LANE_STATUS.CW_LOCK l) then s
    else
      let p := (s.portOfLane l).1
      ((s.set F.LANE_STATUS.CW_LOCK 0 l).modPort p fun x => { x with soak := false }).blockLost l

/-- BLOCK_LOCK_GAIN (R158, R178): the hunt succeeds while codeword lock, CDR lock and signal hold. -/
def execBlockLockGain (l : Fin 1024) : State → Res :=
  whenRunning fun s =>
    let q := s.portOfLane l
    let adding := match (s.port q.1).width with
      | some w => w.kind == 2 && w.set.testBit q.2
      | none => false
    let locked := s.on F.LANE_STATUS.CDR_LOCK l && !(s.on F.LANE_STATUS.LOS l) &&
      (s.on F.LANE_STATUS.CW_LOCK l || adding)
    if decide (4 ≤ s.pstate q.1) && locked then
      let s := s.set F.LANE_STATUS.BLOCK_LOCK 1 l
      let s := if s.pstate q.1 = 6 then (s.set F.LANE_STATUS.DESKEWED 1 l).set F.LANE_STATUS.CW_LOCK 1 l else s
      s.widenReady q.1
    else s

/-- BLOCK_LOCK_LOSS (R158, R176, R185). -/
def execBlockLockLoss (l : Fin 1024) : State → Res := whenRunning fun s => s.blockLost l

/-- DESKEW_ERROR (R159): it fails ALIGN; in ACTIVE the lane counts as having lost block lock. -/
def execDeskewError (l : Fin 1024) : State → Res :=
  whenRunning fun s =>
    let p := (s.portOfLane l).1
    if s.pstate p = 4 then s.trainFail p 5 else if s.pstate p = 6 then s.blockLost l else s

/-! ### Drain and restore (R174, R175) -/

/-- Whether nothing is queued towards a port and its replay buffer is empty (R174). -/
def State.portEmpty (s : State) (p : Nat) : Bool :=
  !(s.waitingBranches.any fun x => x.2.out == p) && (s.stage p).isEmpty && (s.port p).replay.isEmpty

/-- DRAINED set (R172, R174). -/
def State.setDrained (s : State) (p : Nat) : State :=
  let s := (((s.set F.PORT_STATE.DRAINED 1 p).serviceUpdate p).fabricUpdate).groupsUpdate (s.portDim p)
  (s.modPort p fun x => { x with
    drainOwn := false, drainPartner := false, drainAck := false, leaveNext := false, outOfGroup := true }).parentLost p

/-- SERVICE_DRAIN_RECEIVE (R174). -/
def execServiceDrainReceive (p : Fin 256) (seq : BitVec 8) : State → Res :=
  whenRunning fun s =>
    if s.pstate p == 6 && !(s.on F.PORT_STATE.DRAINED p) then
      s.modPort p fun x => { x with drainPartner := true, leaveNext := true, partnerSeq := seq.toNat }
    else s

/-- DRAIN_ACK_SEND (R174): once its own queues towards the port and its replay buffer are empty. A drain that this end
started too goes on until it has its own DRAIN_ACK. -/
def execDrainAckSend (p : Fin 256) : State → Res :=
  whenRunning fun s =>
    if s.pstate p == 6 && (s.port p).drainPartner && s.portEmpty p then
      let own := (s.port p).drainOwn
      let ack := (s.port p).drainAck
      ((s.column p 0x84 [2, (s.port p).partnerSeq]).setDrained p).modPort p fun x => { x with
        drainOwn := own, drainAck := ack }
    else s

/-- SERVICE_DRAIN_ACK_RECEIVE (R174). -/
def execServiceDrainAckReceive (p : Fin 256) (seq : BitVec 8) : State → Res :=
  whenRunning fun s =>
    if s.pstate p == 6 && (s.port p).drainOwn && seq.toNat == (s.port p).serviceSeq then
      s.modPort p fun x => { x with drainAck := true }
    else s

/-- DRAIN_COMPLETE (R174, step 4). -/
def execDrainComplete (p : Fin 256) : State → Res :=
  whenRunning fun s =>
    if s.pstate p == 6 && (s.port p).drainOwn && (s.port p).drainAck && s.portEmpty p then
      (s.setDrained p).portNotice p 0
    else s

/-- DRAINED cleared: the port returns to its link group at the next tick boundary (R175). -/
def State.clearDrained (s : State) (p : Nat) : State :=
  let s := ((s.set F.PORT_STATE.DRAINED 0 p).serviceUpdate p).fabricUpdate
  (s.modPort p fun x => { x with joinNext := true, outOfGroup := true }).groupsUpdate (s.portDim p)

/-- SERVICE_RESTORE_RECEIVE (R175). -/
def execServiceRestoreReceive (p : Fin 256) (seq : BitVec 8) : State → Res :=
  whenRunning fun s =>
    if s.pstate p = 6 then
      let s := s.column p 0x84 [4, seq.toNat]
      if s.on F.PORT_STATE.DRAINED p then s.clearDrained p else s
    else s

/-- SERVICE_RESTORE_ACK_RECEIVE (R175). -/
def execServiceRestoreAckReceive (p : Fin 256) (seq : BitVec 8) : State → Res :=
  whenRunning fun s =>
    if s.pstate p == 6 && s.on F.PORT_STATE.DRAINED p && seq.toNat == (s.port p).serviceSeq then s.clearDrained p else s

/-- Ports leave and rejoin their link groups at the tick boundary (R174, R175). -/
def State.groupBoundary (s : State) : State :=
  (s.ports.filter fun x => x.2.leaveNext || x.2.joinNext).foldl (fun s (x : Nat × PortSt) =>
    let s := s.modPort x.1 fun y => { y with leaveNext := false, joinNext := false, outOfGroup := y.leaveNext }
    s.groupsUpdate (s.portDim x.1)) s

/-! ### Tests (R183, R184) -/

/-- TEST_NOTICE_RECEIVE (R183): the partner's notice of a test. -/
def execTestNoticeReceive (p : Fin 256) (mode _pattern _rate : BitVec 8) : State → Res :=
  whenRunning fun s =>
    if s.pstate p ≠ 6 then s
    else
      let refused := mode.toNat == 3 && !(s.on F.PORT_CTRL.REMOTE_LOOP_EN p)
      let s := (s.restart p 7).set F.PORT_STATE.PARTNER_TEST 1 p
      let s := s.set F.TEST_RESULT.LOOP_REFUSED (b2n refused) p
      if mode.toNat == 0 || (mode.toNat == 3 && !refused) then s else s.wire p (.electricalIdle 255)

/-- TEST_COMPLETE (R183): `pass` is the pass mask of the lanes. -/
def execTestComplete (p : Fin 256) (pass : BitVec 8) : State → Res :=
  whenRunning fun s =>
    if s.pstate p == 7 && !(s.on F.PORT_STATE.PARTNER_TEST p) then
      (s.set F.TEST_RESULT.PASS_MASK pass.toNat p).set F.TEST_RESULT.DONE 1 p
    else s

/-- A write of LANE_PRBS_CMD (R184, R186): INJECT inverts the next generated bit, CLEAR zeroes the error count. -/
def State.prbsCmd (s : State) (l : Nat) (inject clear : Bool) : State :=
  let s := if clear then s.wr ⟨.LANE_PRBS_ERRORS, l, 0⟩ 0 else s
  let p := (s.portOfLane l).1
  if inject && s.on F.LANE_PRBS_CFG.GEN_EN l && s.pstate p == 7 then
    s.wire p (.prbs l (s.f F.LANE_PRBS_CFG.PATTERN l) true)
  else s

/-- A write of a lane command register by a requester. -/
def State.laneCmd (s : State) (rq : Requester) (n : RegName) (l : Nat) (eff : State → State) : State :=
  s.writeAs rq (Reg.offset ⟨n, l, 0⟩) (if rq.reaches then .ok else .notPermitted) eff

/-- LANE_PRBS_INJECT (R184). -/
def execLanePrbsInject (rq : Requester) (l : Fin 1024) : State → Res :=
  whenRunning fun s => s.laneCmd rq .LANE_PRBS_CMD l fun s => s.prbsCmd l true false

/-- LANE_PRBS_CLEAR (R186). -/
def execLanePrbsClear (rq : Requester) (l : Fin 1024) : State → Res :=
  whenRunning fun s => s.laneCmd rq .LANE_PRBS_CMD l fun s => s.prbsCmd l false true

/-! ### Live calibration and tuning (R180 to R182, R199) -/

/-- CAL taken (R182): in ACTIVE the sweep restarts; otherwise, or on a powered-down lane, it is held pending. -/
def State.calCmd (s : State) (l : Nat) : State :=
  let s := s.set F.LANE_STATUS.CAL_PENDING 1 l
  if s.pstate (s.portOfLane l).1 == 6 && !(s.on F.LANE_STATUS.POWERED_DOWN l) then s.calStart l else s

/-- LANE_CAL (R182): always accepted. -/
def execLaneCal (rq : Requester) (l : Fin 1024) : State → Res :=
  whenRunning fun s => s.laneCmd rq .LANE_CAL_CMD l fun s => s.calCmd l

/-- A TUNE LCB with one lane's word (R199). -/
def State.sendTune (s : State) (p i word : Nat) : State := s.sendLcb p 0x13 ((word + 2 ^ 15) * 2 ^ (16 * i + 24))

/-- REMOTE_TUNE_REQUEST (R181): one transmitter step asked of the partner, at most every REMOTE_TUNE_TICKS ticks. -/
def execRemoteTuneRequest (l : Fin 1024) (req : BitVec 6) : State → Res :=
  whenRunning fun s =>
    let q := s.portOfLane l
    let y := s.lane l
    if s.pstate q.1 == 6 && s.on F.LANE_CFG.REMOTE_TUNE_EN l && (s.f F.PORT_STATE.LANE_SET q.1).testBit q.2 &&
        decide (y.tuneTick + s.f F.LANE_CFG.REMOTE_TUNE_TICKS l ≤ s.turnovers) then
      (s.modLane l fun z => { z with tuneTick := s.turnovers }).sendTune q.1 q.2 (req.toNat * 8)
    else s

/-- TUNE_LCB_RECEIVE (R181, R193, R199): requests wait for the next turnover; a word with a PRESET_REQ is ignored and
answered not updated. -/
def execTuneLcbReceive (p : Fin 256) (lcb : BitVec 512) : State → Res :=
  whenRunning fun s => s.onLcb p lcb fun s =>
    (List.range 8).foldl (fun s i =>
      let w := Fld.get ⟨16 * i + 39, 16 * i + 24⟩ lcb
      if !(w.testBit 15) then s
      else if w % 8 ≠ 0 then s.sendTune p i 0
      else if w / 8 % 64 = 0 then s
      else s.modLane (laneIx p i) fun z => { z with tuneReq := w / 8 % 64 }) s

/-- The partner's steps applied and answered at a turnover (R181). -/
def State.tuneApply (s : State) (l : Nat) : State :=
  let y := s.lane l
  if y.tuneReq = 0 then s
  else
    let q := s.portOfLane l
    let s := s.modLane l fun z => { z with tuneReq := 0, tuneSt := 0 }
    if s.pstate q.1 ≠ 6 then s
    else
      let r := s.answerReqs l (y.tuneReq * 8)
      r.1.sendTune q.1 q.2 (r.2 * 2 ^ 9)

/-- A value moved by at most one step, by a free choice, within bounds (R180). -/
def State.drawStep (s : State) (v lo hi : Int) : State × Int :=
  let r := s.drawNat
  (r.2, max lo (min hi (v + ((r.1 % 3 : Nat) : Int) - 1)))

/-- A list of values each moved by at most one step. -/
def State.drawSteps (s : State) (lo hi : Int) : List Int → State × List Int
  | [] => (s, [])
  | v :: l =>
    let a := s.drawStep v lo hi
    let r := a.1.drawSteps lo hi l
    (r.1, a.2 :: r.2)

/-- One turnover of a lane's receiver adaptation (R180, R182): each setting moves by at most one step, the sweep advances,
and a calibration ends with its sweep. What the slicer sees, the eye of a sweep and the corrected bits of the tick are
free values. -/
def State.laneAdapt (s : State) (l : Nat) : State :=
  let y := s.lane l
  let s := if s.on F.LANE_CFG.RX_ADAPT_FREEZE l then s
    else
      let a := s.drawStep y.ctle 0 31
      let b := a.1.drawStep y.ffe (-31) 31
      let c := b.1.drawSteps (-63) 63 y.dfe
      c.1.modLane l fun z => { z with ctle := a.2.toNat, ffe := b.2, dfe := c.2 }
  let n := (y.sweep + 1) % 64
  let s := s.modLane l fun z => { z with sweep := n, calRun := z.calRun && n != 0 }
  let fec := s.drawNat
  let s := fec.2.set F.LANE_FEC_CORRECTED.BITS (s.f F.LANE_FEC_CORRECTED.BITS l + fec.1) l
  if n ≠ 0 then s
  else
    let h := s.drawNat
    let w := h.2.drawNat
    let s := (w.2.set F.LANE_EYE.HEIGHT h.1 l).set F.LANE_EYE.WIDTH w.1 l
    if y.calRun then s.set F.LANE_STATUS.CAL_DONE 1 l else s

/-- The lanes' part of a turnover (R174, R180, R181). -/
def State.laneTurnover (s : State) : State :=
  let s := s.groupBoundary
  let s := (s.lanes.map fun x => x.1).foldl (fun s l => s.tuneApply l) s
  (s.ports.map fun x => x.1).foldl (fun s p =>
    if s.pstate p = 6 then (lanesIn p (s.f F.PORT_STATE.LANE_SET p)).foldl (fun s l => s.laneAdapt l) s else s) s

end Sys2Proof.Machine
end

