-- ==== Sys2Proof/Machine/Mover.lean ====
section
/-!
DEFINITION. The bulk movers (R450 to R467): the pattern of a descriptor, bursts, energy tokens, the lock option, errors,
and the commands of a channel.
-/
namespace Sys2Proof.Machine

open Sys2Proof

/-! ### The pattern (R452 to R455) -/

/-- One side of a descriptor: host memory of a function or the Groundsheet, with its base and strides. -/
structure Side where
  gs : Bool
  fn : Nat
  base : Nat
  s0 : Int
  s1 : Int
  s2 : Int

/-- The source of a channel. -/
def State.srcSide (s : State) (m c : Nat) : Side :=
  ⟨s.on F.CH_SRC.GS m c, s.f F.CH_SRC.FUNC m c, s.f F.CH_SRC.ADDR m c, toSigned 32 (s.f F.CH_SRC_STRIDE01.S0 m c),
    toSigned 32 (s.f F.CH_SRC_STRIDE01.S1 m c), toSigned 32 (s.f F.CH_SRC_STRIDE2.S2 m c)⟩

/-- The destination of a channel. -/
def State.dstSide (s : State) (m c : Nat) : Side :=
  ⟨s.on F.CH_DST.GS m c, s.f F.CH_DST.FUNC m c, s.f F.CH_DST.ADDR m c, toSigned 32 (s.f F.CH_DST_STRIDE01.S0 m c),
    toSigned 32 (s.f F.CH_DST_STRIDE01.S1 m c), toSigned 32 (s.f F.CH_DST_STRIDE2.S2 m c)⟩

/-- The shape of a channel's pattern: the bytes of an element and the three counts. -/
structure Shape where
  elem : Nat
  c0 : Nat
  c1 : Nat
  c2 : Nat

/-- CH_SHAPE as numbers from 1 to 65,536. -/
def State.shape (s : State) (m c : Nat) : Shape :=
  ⟨s.f F.CH_SHAPE.ELEM_M1 m c + 1, s.f F.CH_SHAPE.COUNT0_M1 m c + 1, s.f F.CH_SHAPE.COUNT1_M1 m c + 1,
    s.f F.CH_SHAPE.COUNT2_M1 m c + 1⟩

/-- The bytes of the pattern. -/
def Shape.total (h : Shape) : Nat := h.elem * h.c0 * h.c1 * h.c2

/-- The loop indices (i0, i1, i2) of the element that holds a byte of the pattern. -/
def Shape.idx (h : Shape) (pos : Nat) : Nat × Nat × Nat :=
  (pos / h.elem % h.c0, pos / h.elem / h.c0 % h.c1, pos / h.elem / h.c0 / h.c1)

/-- The address of an element on a side (R452). -/
def Side.elemAt (x : Side) (i0 i1 i2 : Nat) : Int := x.base + i0 * x.s0 + i1 * x.s1 + i2 * x.s2

/-- The address of a byte of the pattern on a side. -/
def Side.at (x : Side) (h : Shape) (pos : Nat) : Nat :=
  let i := h.idx pos
  (x.elemAt i.1 i.2.1 i.2.2 + (pos % h.elem : Nat)).toNat

/-- The lowest and the highest byte that a pattern reaches on a side. -/
def Side.reach (x : Side) (h : Shape) : Int × Int :=
  let d (st : Int) (n : Nat) : Int := st * ((n : Int) - 1)
  let e := [d x.s0 h.c0, d x.s1 h.c1, d x.s2 h.c2]
  (e.foldl (fun a v => a + min 0 v) x.base, e.foldl (fun a v => a + max 0 v) (x.base : Int) + (h.elem : Int) - 1)

/-- Whether a pattern stays within its side's space (R456). -/
def Side.fits (x : Side) (h : Shape) : Bool :=
  let r := x.reach h
  decide (0 ≤ r.1) && decide (r.2 < if x.gs then (gsSize : Int) else 2 ^ 48)

/-- Whether an address is a byte of a side's pattern. -/
def Side.covers (x : Side) (h : Shape) (a : Nat) : Bool :=
  let r := x.reach h
  decide (r.1 ≤ a) && decide ((a : Int) ≤ r.2) &&
    (List.range h.c2).any fun i2 => (List.range h.c1).any fun i1 => (List.range h.c0).any fun i0 =>
      let b := x.elemAt i0 i1 i2
      decide (b ≤ (a : Int)) && decide ((a : Int) < b + (h.elem : Int))

/-- The bytes of a burst as they are written: a destination byte that the source pattern also covers has an unspecified
value (R455). -/
def overlapped (src dst : Side) (h : Shape) (a draw : Nat) : List Byte → List Byte
  | [] => []
  | b :: bs =>
    (if src.gs == dst.gs && (src.gs || src.fn == dst.fn) && src.covers h a then Config.freeByte draw else b) ::
      overlapped src dst h (a + 1) (draw + 1) bs

/-- The length of the burst that begins at a byte of the pattern (R454). -/
def burstLen (src dst : Side) (h : Shape) (pos : Nat) : Nat :=
  min (min 256 (h.elem - pos % h.elem)) (min (4096 - src.at h pos % 4096) (4096 - dst.at h pos % 4096))

/-! ### Tokens (R466) -/

/-- A mover's REMAIN in 2^-14 token. -/
def State.mvTokens (s : State) (m : Nat) : Int :=
  mget s.mover.tokens m (2 ^ 14 * toSigned 32 (s.f F.MV_TOKENS.REMAIN m))

/-- The state with a mover's tokens set; REMAIN shows whole tokens. -/
def State.setMvTokens (s : State) (m : Nat) (v : Int) : State :=
  ({ s with mover := { s.mover with tokens := mset s.mover.tokens m v } }).set F.MV_TOKENS.REMAIN
    (ofSigned 32 (v / 2 ^ 14)) m

/-- Whether a channel's class issues no new read for want of tokens. -/
def State.mvPaused (s : State) (m c : Nat) : Bool :=
  let below (floor : Nat) : Bool := decide (s.mvTokens m < (s.f F.MV_TOKENS.ALLOT m * floor : Nat) * 2 ^ 6)
  match s.f F.CH_CTRL.CLASS m c with
  | 3 => below (s.f F.MV_CFG.P3_FLOOR m) || below (s.f F.MV_CFG.P2_FLOOR m)
  | 2 => below (s.f F.MV_CFG.P2_FLOOR m)
  | _ => false

/-! ### Bursts -/

/-- The channel that a mover runs. -/
def State.mvRunning (s : State) (m : Nat) : Option Nat :=
  if s.on F.MV_STATUS.RUNNING m then some (s.f F.MV_STATUS.CHANNEL m) else none

/-- The lock word of a channel is found to hold its identity (R467). -/
def State.mvLockTake (s : State) (m c : Nat) : State :=
  if s.on F.CH_CTRL.LOCK_EN m c && s.lockWord (s.f F.CH_LOCK.OFFSET m c) % 2 ^ 32 == channelIdent m c then
    (s.set F.CH_STATE.LOCK_WAIT 0 m c).modChan m c fun x => { x with locked := true }
  else s

/-- Whether a channel may issue its next read: it runs, holds its lock, is not paused, and a burst is free. -/
def State.mvMayRead (s : State) (m c : Nat) : Bool :=
  let x := s.chan m c
  s.chState m c == 2 && x.ending == 0 && (!(s.on F.CH_CTRL.LOCK_EN m c) || x.locked) &&
    !(s.on F.CH_STATE.TOKEN_PAUSE m c) && decide (x.rd < (s.shape m c).total) &&
    decide (x.bursts.length < s.f F.MV_CFG.MAX_INFLIGHT m)

/-- The read of a burst issued: to host memory, or to the Groundsheet. -/
def State.mvRead (s : State) (m c pos len : Nat) : State :=
  let src := s.srcSide m c
  if src.gs then s else s.hostRead src.fn (src.at (s.shape m c) pos) len

/-- Reads issued while the channel may (R454, R466): a class below its floor is paused from CK `ck` on. -/
def State.mvPump : Nat → Nat → Nat → Nat → State → State
  | 0, _, _, _, s => s
  | k + 1, m, c, ck, s =>
    if s.mvMayRead m c then
      if s.mvPaused m c then
        (s.set F.CH_STATE.TOKEN_PAUSE 1 m c).modChan m c fun x => { x with pauseCk := some ck }
      else
        let pos := (s.chan m c).rd
        let n := burstLen (s.srcSide m c) (s.dstSide m c) (s.shape m c) pos
        let s := (s.mvRead m c pos n).modChan m c fun x => { x with
          rd := pos + n, bursts := x.bursts ++ [(⟨pos, n, none, s.f F.CH_CTRL.RETRY m c⟩ : Burst)] }
        s.mvPump k m c ck
    else s

/-- A burst written (R454, R455): its bytes stored, with the mover's bytes and tokens counted. -/
def State.mvWrite (s : State) (m c : Nat) (b : Burst) (bs : List Byte) : State :=
  let dst := s.dstSide m c
  let h := s.shape m c
  let a := dst.at h b.pos
  let bs := overlapped (s.srcSide m c) dst h a s.draws bs
  let s := { s with draws := s.draws + b.len }
  let s := if dst.gs then s.gsStore none a bs else s.hostWrite dst.fn a bs
  let s := (s.cnt .MV_BYTES m 0 b.len).perf (m / 4) 0x70 m 0 b.len
  let s := s.setMvTokens m (s.mvTokens m - (b.len * s.f F.MV_TOKEN_COST.COST m : Nat))
  s.modChan m c fun x => { x with wr := x.wr + b.len }

/-- The bursts at the head whose data has arrived, written in pattern order (R454). -/
def State.mvDrain : Nat → Nat → Nat → State → State
  | 0, _, _, s => s
  | k + 1, m, c, s =>
    match (s.chan m c).bursts with
    | [] => s
    | b :: bs =>
      match b.data with
      | none => s
      | some d => ((s.mvWrite m c b d).modChan m c fun x => { x with bursts := bs }).mvDrain k m c

/-- Whether every write of a channel that runs or ends has been issued. -/
def State.mvWritten (s : State) (m c : Nat) : Bool :=
  let x := s.chan m c
  x.bursts.isEmpty && (s.chState m c == 4 ||
    (s.chState m c == 2 && (x.ending == 1 || decide ((s.shape m c).total ≤ x.rd))))

/-- The flush read to a host destination, issued once every write has been (R459). -/
def State.mvFlush (s : State) (m c : Nat) : State :=
  let x := s.chan m c
  if s.mvWritten m c && !(s.on F.CH_DST.GS m c) && x.flush == 0 && decide (0 < x.wr) then
    (s.emit (.hostFlush (s.f F.CH_DST.FUNC m c) 0)).modChan m c fun x => { x with
      flush := 1, flushLeft := s.f F.CH_CTRL.RETRY m c }
  else s

/-- A reissue counted (R460). -/
def State.mvRetry (s : State) (m c : Nat) : State :=
  (s.cnt .MV_RETRY_COUNT m).modChan m c fun x => { x with retries := satAdd 16 x.retries 1 }

/-- A burst that has failed (R460, R461, R463): reissued while retries are left; then it and every later one are given
up, or, in an abort or after a function's halt, it alone. -/
def State.mvFail (s : State) (m c : Nat) (b : Burst) : State :=
  let x := s.chan m c
  if 2 ≤ x.ending then
    s.modChan m c fun x => { x with
      bursts := x.bursts.filter fun y => y.pos != b.pos
      hole := some (match x.hole with | some p => min p b.pos | none => b.pos) }
  else if 0 < b.left then
    ((s.mvRetry m c).modChan m c fun x => { x with
      bursts := x.bursts.map fun (y : Burst) => if y.pos = b.pos then { y with left := y.left - 1 } else y }).mvRead
        m c b.pos b.len
  else
    s.modChan m c fun x => { x with
      ending := 1, rd := b.pos, bursts := x.bursts.filter fun y => decide (y.pos < b.pos) }

/-- What a burst's read brings: the host's bytes, or those of the Groundsheet. -/
def State.mvData (s : State) (m c : Nat) (b : Burst) (bs : List Byte) : List Byte :=
  let src := s.srcSide m c
  if src.gs then s.gsGets (src.at (s.shape m c) b.pos) b.len else filled b.len bs []

/-- MOVER_BURST_READ_COMPLETE (R454, R460): the read of the burst at a place of the pattern returns; `wok` says whether a
Groundsheet destination takes its write without error. -/
def execMoverBurstReadComplete (m : Fin 16) (c : Fin 32) (pos : Nat) (res : ReadResult) (wok : Bool) (ck : Nat) :
    State → Res :=
  whenRunning fun s =>
    match (s.chan m c).bursts.find? fun b => b.pos == pos && b.data.isNone with
    | none => s
    | some b =>
      let s := match res with
        | .data bs =>
          if s.on F.CH_DST.GS m c && !wok then s.mvFail m c b
          else
            let d := s.mvData m c b bs
            s.modChan m c fun x => { x with
              bursts := x.bursts.map fun (y : Burst) => if y.pos = pos then { y with data := some d } else y }
        | _ => s.mvFail m c b
      let s := s.mvDrain 32 m c
      (s.mvPump 32 m c ck).mvFlush m c

/-! ### Starting (R458, R467) -/

/-- The QUEUED channel that a mover takes: highest class, then earliest GO (R458). -/
def State.mvNext (s : State) (m : Nat) : Option Nat :=
  ((List.range 32).filter fun c => s.chState m c == 1).foldl (fun b c =>
    match b with
    | none => some c
    | some d =>
      let k (c : Nat) : Nat := s.f F.CH_CTRL.CLASS m c * 2 ^ 64 + (s.chan m c).order
      if k c < k d then some c else some d) none

/-- The channel's WAIT read of its lock word (R467). -/
def State.mvLockWait (s : State) (m c : Nat) : State :=
  if s.on F.CH_CTRL.LOCK_EN m c && !(s.chan m c).locked then
    let r := s.lockWait (s.f F.CH_LOCK.OFFSET m c) (channelIdent m c)
    (r.1.set F.CH_STATE.LOCK_WAIT 1 m c).mvLockTake m c
  else s

/-- MOVER_CHANNEL_START (R458). -/
def execMoverChannelStart (m : Fin 16) (ck : Nat) : State → Res :=
  whenRunning fun s =>
    if s.on F.MV_STATUS.RUNNING m then s
    else match s.mvNext m with
      | none => s
      | some c =>
        let s := (s.set F.MV_STATUS.CHANNEL c m).set F.MV_STATUS.RUNNING 1 m
        ((s.set F.CH_STATE.STATE 2 m c).mvLockWait m c).mvPump 32 m c ck

/-- MOVER_LOCK_RETRY (R467): at a turnover, a WAIT read that returned BUSY is repeated; one that has been granted lets
the reads begin. -/
def execMoverLockRetry (m : Fin 16) : State → Res :=
  whenRunning fun s =>
    match s.mvRunning m with
    | none => s
    | some c =>
      if s.chState m c ≠ 2 then s
      else
        let s := s.mvLockTake m c
        let s := if s.lock.waiters.any fun w => w.ident == channelIdent m c then s else s.mvLockWait m c
        s.mvPump 32 m c 0

/-! ### Finishing (R459, R461, R463 to R465) -/

/-- The status record of a channel, and its copy in the registers. With every byte written there is no first element that
is not: its position is a free value. -/
def State.mvRecord (s : State) (m c : Nat) (st : Status) (whole : Bool) : State :=
  let x := s.chan m c
  let h := s.shape m c
  let pos := if whole then 0 else x.hole.getD x.wr
  let left := if whole then h.total else h.total - x.wr
  let i := h.idx pos
  let draw := s.drawNat
  let s := if left = 0 then draw.2 else s
  let place : Nat := if left = 0 then draw.1 % 2 ^ 64
    else i.1 + i.2.1 * 2 ^ 16 + i.2.2 * 2 ^ 32 + pos % h.elem * 2 ^ 48
  let r : Nat := st.code + c * 2 ^ 8 + m * 2 ^ 16 + left % 2 ^ 48 * 2 ^ 64 + place / 2 ^ 48 * 2 ^ 112 +
    place % 2 ^ 48 * 2 ^ 128 + s.tick % 2 ^ 48 * 2 ^ 176 + x.retries * 2 ^ 224
  let s := (s.wr ⟨.CH_RESULT, m, c⟩ (BitVec.ofNat 64 (r % 2 ^ 64))).set F.CH_RESIDUE.RESIDUE left m c
  let s := s.wr ⟨.CH_POS, m, c⟩ (BitVec.ofNat 64 place)
  if s.on F.CH_CTRL.RECORD_EN m c then
    let a := s.f F.CH_RECORD.ADDR m c
    if s.on F.CH_RECORD.GS m c then s.gsStore none a (leBytes 32 r) else s.hostWrite (s.f F.CH_RECORD.FUNC m c) a (leBytes 32 r)
  else s

/-- A channel leaves its mover in a state. -/
def State.mvLeave (s : State) (m c st : Nat) : State :=
  let s := ((s.set F.CH_STATE.STATE st m c).set F.CH_STATE.TOKEN_PAUSE 0 m c).set F.CH_STATE.LOCK_WAIT 0 m c
  if s.mvRunning m = some c then (s.set F.MV_STATUS.RUNNING 0 m).set F.MV_STATUS.CHANNEL 0 m else s

/-- The bit in MV_HALT_STATUS and the mover halt event. -/
def State.mvHaltNotice (s : State) (m c : Nat) : State :=
  (s.set F.MV_HALT_STATUS.HALT (setBit (s.f F.MV_HALT_STATUS.HALT m) c) m).raise (1576 + m)

/-- A transfer that ends well (R459, R467). -/
def State.mvDone (s : State) (m c : Nat) : State :=
  let id := channelIdent m c
  let s := if s.on F.CH_CTRL.LOCK_EN m c then s.lockRelease (s.f F.CH_LOCK.OFFSET m c) id id else s
  let s := s.mvRecord m c .ok false
  let k := s.f F.CH_CTRL.DONE_CTR m c
  let s := if s.on F.CH_CTRL.DONE_CTR_EN m c && L.TRG.VALID.on (s.trg k) then s.raiseCtr k 1 else s
  let s := if s.on F.CH_CTRL.EVENT m c then
    (s.set F.MV_DONE_STATUS.DONE (setBit (s.f F.MV_DONE_STATUS.DONE m) c) m).raise (1560 + m) else s
  (s.modChan m c fun x => { x with locked := false }).mvLeave m c 0

/-- A channel that halts (R461): it keeps its place and its lock. -/
def State.mvHalt (s : State) (m c : Nat) (st : Status) : State :=
  let lost := st == .barrierLostStores
  let s := (s.mvRecord m c st lost).modChan m c fun x => { x with
    flush := 2, rd := if lost then 0 else x.rd, wr := if lost then 0 else x.wr }
  ((s.mvLeave m c 3).mvHaltNotice m c).cnt .MV_HALT_COUNT m

/-- How a channel whose writes are confirmed ends. -/
def State.mvConfirmed (s : State) (m c : Nat) : State :=
  match (s.chan m c).ending with
  | 0 => s.mvDone m c
  | 1 => s.mvHalt m c .aborted
  | 2 => (((s.mvRecord m c .aborted false).mvHaltNotice m c).cnt .MV_ABORT_COUNT m).mvLeave m c 0
  | 3 => (((s.mvRecord m c .functionHalted false).mvHaltNotice m c).cnt .MV_ABORT_COUNT m).mvLeave m c 0
  | _ => s.mvLeave m c 0

/-- A flush read that has failed (R460, R461): reissued, or the stores are lost; a channel in reset goes IDLE. -/
def State.mvFlushFail (s : State) (m c : Nat) : State :=
  let x := s.chan m c
  if 0 < x.flushLeft then
    ((s.mvRetry m c).emit (.hostFlush (s.f F.CH_DST.FUNC m c) 0)).modChan m c fun x => { x with flushLeft := x.flushLeft - 1 }
  else if x.ending = 4 then s.mvLeave m c 0
  else s.mvHalt m c .barrierLostStores

/-- MOVER_CHANNEL_FINISH (R459): the channel's writes have been answered; `flushOk` says how its flush read, if it has
one, has ended. -/
def execMoverChannelFinish (m : Fin 16) (c : Fin 32) (flushOk : Bool) : State → Res :=
  whenRunning fun s =>
    if s.mvWritten m c then
      let x := s.chan m c
      if s.on F.CH_DST.GS m c || x.flush == 2 || (x.flush == 0 && x.wr == 0) then s.mvConfirmed m c
      else if x.flush = 0 then s.mvFlush m c
      else if flushOk then (s.modChan m c fun x => { x with flush := 2 }).mvConfirmed m c
      else s.mvFlushFail m c
    else s

/-- An internal error of a mover (R510, unit 5): its running channel halts as under R461. -/
def State.mvError (s : State) (m : Nat) : State :=
  match s.mvRunning m with
  | some c =>
    if s.chState m c = 2 then
      (s.modChan m c fun x => { x with ending := 1, rd := x.wr, bursts := [], pauseCk := none }).mvFlush m c
    else s
  | none => s

/-! ### CH_CMD (R451, R456, R462 to R464) -/

/-- Whether a requester may write the mover block (R451). -/
def State.mvAllows (s : State) (rq : Requester) : Bool := s.supervises rq || rq.manages

/-- Whether a function is enabled and neither halted nor in reset (R456). -/
def State.fnServes (s : State) (f : Nat) : Bool :=
  s.fnLegal f && (decide (16 ≤ f) || s.on F.EB_PART_CFG.ENABLE f) && !(s.fnQuiet f)

/-- A write of one bit of CH_CMD, with its own checks and effect. -/
def State.chCmd (s : State) (rq : Requester) (m c : Nat) (l : List (Bool × Status)) (eff : State → State) : State :=
  s.writeAs rq (Reg.offset ⟨.CH_CMD, m, c⟩) (firstStatus ((!(s.mvAllows rq), .notPermitted) :: l)) eff

/-- The checks of GO (R456). -/
def State.goChecks (s : State) (m c : Nat) : List (Bool × Status) :=
  let h := s.shape m c
  let src := s.srcSide m c
  let dst := s.dstSide m c
  [(s.chState m c != 0, .badState),
   ((!src.gs && !(s.fnServes src.fn)) || (!dst.gs && !(s.fnServes dst.fn)), .badState),
   (!(src.fits h) || !(dst.fits h), .badValue),
   (s.f F.CH_CTRL.CLASS m c == 0, .badValue),
   (s.f F.CH_RECORD.ADDR m c % 32 != 0, .badValue),
   (s.on F.CH_CTRL.LOCK_EN m c && s.f F.CH_LOCK.OFFSET m c % 8 != 0, .badValue)]

/-- GO accepted: the channel is QUEUED at the first byte of its pattern. -/
def State.chGo (s : State) (m c : Nat) : State :=
  let s := (s.modChan m c fun _ => { order := s.mover.order }).set F.CH_STATE.STATE 1 m c
  { s with mover := { s.mover with order := s.mover.order + 1 } }

/-- CH_GO (R456). -/
def execChGo (rq : Requester) (m : Fin 16) (c : Fin 32) : State → Res :=
  whenRunning fun s => s.chCmd rq m c (s.goChecks m c) fun s => s.chGo m c

/-- CH_ABORT (R463, R467). -/
def execChAbort (rq : Requester) (m : Fin 16) (c : Fin 32) : State → Res :=
  whenRunning fun s => s.chCmd rq m c [(s.chState m c == 0 || s.chState m c == 4, .badState)] fun s =>
    (s.chanEnd m c 2 false).mvFlush m c

/-- CH_RESUME (R462): back to QUEUED at the recorded place with fresh retries; a function that has halted meanwhile ends
the channel at once (R465). -/
def execChResume (rq : Requester) (m : Fin 16) (c : Fin 32) : State → Res :=
  whenRunning fun s => s.chCmd rq m c [(s.chState m c != 3, .badState)] fun s =>
    let s := (s.modChan m c fun x => { x with ending := 0, flush := 0, hole := none, bursts := [], retries := 0 }).set F.CH_STATE.STATE 1 m c
    let quiet (x : Side) : Bool := !x.gs && s.fnQuiet x.fn
    if quiet (s.srcSide m c) || quiet (s.dstSide m c) then
      let s := s.chanEnd m c 3 true
      if quiet (s.dstSide m c) then s.modChan m c fun x => { x with flush := 2 } else s
    else s

/-- CH_RESET (R464): no record and no event; the channel is IDLE at once where nothing is under way. -/
def execChReset (rq : Requester) (m : Fin 16) (c : Fin 32) : State → Res :=
  whenRunning fun s => s.chCmd rq m c [] fun s =>
    if s.chState m c = 0 then s.lockAbandon (channelIdent m c)
    else (s.chanEnd m c 4 true).mvFlush m c

/-! ### The turnover -/

/-- A mover at CK 0 (R466): REMAIN becomes ALLOT, the CK of a pause are counted, and a pause lifts where REMAIN is no
longer below the floor. -/
def State.mvTurnover (s : State) (m : Nat) : State :=
  let c := s.f F.MV_STATUS.CHANNEL m
  let paused := s.on F.MV_STATUS.RUNNING m && s.on F.CH_STATE.TOKEN_PAUSE m c
  let s := if paused then s.cnt .MV_DEFER_CK m 0 (s.time.tickCk - (s.chan m c).pauseCk.getD 0) else s
  let s := if (mfind s.mover.tokens m).isSome || s.f F.MV_TOKENS.ALLOT m != 0 then
    s.setMvTokens m (2 ^ 14 * (s.f F.MV_TOKENS.ALLOT m : Int)) else s
  if paused then
    ((s.set F.CH_STATE.TOKEN_PAUSE 0 m c).modChan m c fun x => { x with pauseCk := none }).mvPump 32 m c 0
  else s

end Sys2Proof.Machine
end

