-- ==== Sys2Proof/Machine/FnReset.lean ====
section
/-!
DEFINITION. The reset of a network function (R249, R465, R618).
-/
namespace Sys2Proof.Machine

open Sys2Proof

/-- The registers of a function's window that a reset keeps: NF_JOB_BIND, and those written only through the alias
(R249, R586); FUNC_CFG keeps its DG_MTU alone. -/
def keptInReset : RegName → Bool
  | .NF_JOB_BIND | .FUNC_CONN_RANGE | .FUNC_KEY_RANGE | .FUNC_TRIG_RANGE | .FUNC_POLICY | .XL_FUNC | .XL_DEV_BASE
  | .XL_DEV_LIMIT => true
  | _ => false

/-- The registers of a function's window at their reset values, but for those that are kept. -/
def State.fnWindowReset (s : State) (f : Nat) : State :=
  let mtu := s.f F.FUNC_CFG.DG_MTU f
  let s := s.clearRegs fun r => r.name.desc.block.desc.perFunction && r.i == f && !(keptInReset r.name)
  if mtu = F.FUNC_CFG.DG_MTU.fld.get (Reg.reset ⟨.FUNC_CFG, f, 0⟩) then s else s.set F.FUNC_CFG.DG_MTU mtu f

/-- The memory region keys of a function's range revoked. -/
def State.revokeKeys (s : State) (f : Nat) : State :=
  (List.range (s.f F.FUNC_KEY_RANGE.KEY_COUNT f)).foldl (fun s k =>
    let i := s.f F.FUNC_KEY_RANGE.KEY_BASE f + k
    if s.keyState i = 1 ∨ s.keyState i = 2 then s.setKey i (L.KEY.STATE.set (s.key i) 3) else s) s

/-- The trigger counters of a function's range at their reset values (R286). -/
def State.clearTrigs (s : State) (f : Nat) : State :=
  (List.range (s.f F.FUNC_TRIG_RANGE.TRIG_COUNT f)).foldl (fun s k =>
    let i := s.f F.FUNC_TRIG_RANGE.TRIG_BASE f + k
    if s.trg i = 0 then s else s.setTrg i 0) s

/-- Whether a waiting command is an entry of a function. -/
def ConnWait.ofFn (f : Nat) : ConnWait → Bool
  | .modify e _ _ _ | .revoke e _ _ | .trigOff e _ => e.fn.val == f

/-- The connections of a function destroyed without completions, with its match entries, its posts of collectives, what
it has queued for injection and the commands that wait. -/
def State.dropFnTransport (s : State) (f : Nat) : State :=
  let gone := (s.xp.conns.filter fun p => p.2.fn == f).map (·.1)
  { s with
    xp := { s.xp with conns := s.xp.conns.filter fun p => p.2.fn != f
                      ctxCache := s.xp.ctxCache.filter fun c => !(gone.contains c)
                      waits := s.xp.waits.filter fun w => !(w.ofFn f) }
    mat := { s.mat with domains := s.mat.domains.filter fun d => d.fn != f
                        held := s.mat.held.filter fun h => h.fn != f }
    coll := { s.coll with insts := s.coll.insts.map fun (i : CInst) => { i with posts := i.posts.filter fun p => p.fn != f } }
    ni := { s.ni with tx := s.ni.tx.map fun (p : Nat × List TxPkt) => (p.1, p.2.filter fun t => t.owner != f) } }

/-- The MSI-X state, the WRITE_STATUS and the translation commands of a function at their reset values. -/
def State.dropFnMisc (s : State) (f : Nat) : State :=
  { s with
    rings := s.rings.filter fun p => p.1.1 != f
    msix := s.msix.filter fun p => p.1.1 != f
    msixPending := s.msixPending.filter fun p => p.1 != f
    msixOn := s.msixOn.filter fun g => g != f
    wstat := s.wstat.filter fun p => match p.1 with
      | .func g => g.val != f
      | _ => true
    xl := { s.xl with invs := s.xl.invs.filter fun x => x.fn != f } }

/-- The reset of one function: from now on it issues no request, its effects (R249) take place, and RESET_IN_PROGRESS
stays set until they have (R618). -/
def State.resetOne (s : State) (f : Nat) : State :=
  let s := ((s.moversHalt f).revokeKeys f).clearTrigs f
  let s := ((s.dropFnTransport f).dropFnMisc f).fnWindowReset f
  let s := if f = fmf then s.lockAbandon fmfIdent else s
  s.set F.FUNC_STATUS.RESET_IN_PROGRESS 1 f

/-- A function level reset or VF reset: that of a PF resets each of its VFs. -/
def State.fnReset (s : State) (f : Nat) : State :=
  (if f < 16 then s.fnsOf f else [f]).foldl (fun s g => s.resetOne g) s

/-- FUNCTION_RESET (R249). -/
def execFunctionReset (f : Fin 4096) : State → Res :=
  whenRunning fun s => if s.fnAssigned f then s.fnReset f else s

/-- FUNCTION_RESET_COMPLETE (R618): every effect of the reset has taken place. -/
def execFunctionResetComplete (f : Fin 4096) : State → Res :=
  whenRunning fun s => if s.inReset f then s.set F.FUNC_STATUS.RESET_IN_PROGRESS 0 f else s

end Sys2Proof.Machine
end

