-- ==== Sys2Proof/Machine/Pcie.lean ====
section
/-!
DEFINITION. The expansion-bus switch (R469 to R493, R536, R546, R575): ports and partitions, the routing of TLPs on die X,
shared devices, windows between partitions, containment, link IDE and PTM. What R469 takes from the PCI Express Base
Specification is modelled as far as a rule of the switch names it.
-/
namespace Sys2Proof.Machine

open Sys2Proof

/-! ### Ports (R471 to R473) -/

/-- Whether the bifurcation of its stack creates a port (R471). -/
def State.hpPresent (s : State) (n : Nat) : Bool :=
  match s.f F.EB_STACK_CFG.BIFURCATION (n / 4) with
  | 0 => n % 4 == 0
  | 1 => n % 2 == 0
  | _ => true

/-- The role of a port: 0 disabled, 1 upstream, 2 downstream. -/
def State.hpRole (s : State) (n : Nat) : Nat := s.f F.EB_PORT_CFG.ROLE n

/-- Whether a port is a SHARED downstream port. -/
def State.hpShared (s : State) (n : Nat) : Bool := s.hpRole n == 2 && s.on F.EB_PORT_CFG.SHARED n

/-- The partition of a port. -/
def State.hpPart (s : State) (n : Nat) : Nat := s.f F.EB_PORT_CFG.PARTITION n

/-- The downstream ports of a partition that are not shared. -/
def State.partPorts (s : State) (p : Nat) : List Nat :=
  (List.range 40).filter fun n => s.hpRole n == 2 && !(s.on F.EB_PORT_CFG.SHARED n) && s.hpPart n == p

/-- The upstream port of an enabled partition. -/
def State.upPort (s : State) (p : Nat) : Option Nat :=
  if s.on F.EB_PART_CFG.ENABLE p then some (s.f F.EB_PART_CFG.UPSTREAM_PORT p) else none

/-- The port that stands for the hierarchy that the service processor owns. -/
def spPort : Nat := 40

/-- Where the fabric management function's hierarchy is reached: the upstream port of its partition, or the service
processor's own hierarchy (R485, R494). -/
def State.fmfPort (s : State) : Nat :=
  if s.fmfPlaced then (s.upPort (s.fa F.EB_FMF_CFG.FMF_PART)).getD spPort else spPort

/-- The port through which the owner of a port is reached (R485). -/
def State.ownerPort (s : State) (n : Nat) : Nat :=
  if s.hpRole n = 1 then n else if s.hpShared n then s.fmfPort else (s.upPort (s.hpPart n)).getD spPort

/-- The bridge of a port as its owner has programmed it. -/
def State.bridge (s : State) (n : Nat) : Bridge := mget s.pcie.bridges n {}

/-- The state with the switch's own state changed. -/
def State.modPcie (s : State) (g : PcieSt → PcieSt) : State := { s with pcie := g s.pcie }

/-- The state with a port's bridge changed. -/
def State.modBridge (s : State) (n : Nat) (g : Bridge → Bridge) : State :=
  s.modPcie fun x => { x with bridges := mset x.bridges n (g (s.bridge n)) }

/-- The AER status bits of the PCI Express Base Specification that the rules name (R477, R479, R483, R487). -/
def aerPoisoned : Nat := 12
def aerUnexpected : Nat := 16
def aerUnsupported : Nat := 20
def aerAcs : Nat := 21
def aerInternal : Nat := 22

/-- An AER status bit of a port (or of function f at 64 + f) set. -/
def State.aerSet (s : State) (at_ bit : Nat) : State :=
  s.modPcie fun x => { x with aer := mset x.aer at_ (setBit (mget x.aer at_ 0) bit) }

/-! ### TLPs -/

/-- Whether a TLP is a non-posted request. -/
def Tlp.nonPosted (t : Tlp) : Bool :=
  match t.kind with
  | .memRead | .atomic | .cfgRead | .cfgWrite => true
  | _ => false

/-- Whether a TLP is a memory or AtomicOp request. -/
def Tlp.memory (t : Tlp) : Bool :=
  match t.kind with
  | .memRead | .memWrite | .atomic => true
  | _ => false

/-- The bytes that the completions of a request carry. -/
def Tlp.due (t : Tlp) : Nat :=
  match t.kind with
  | .memRead => t.len
  | .atomic => t.len
  | .cfgRead => 4
  | _ => 0

/-- A completion of a request with a status. -/
def Tlp.answer (t : Tlp) (status : Nat) (data : List Byte) : Tlp :=
  { t with kind := .completion, status := status, at_ := 0, ep := false, len := t.due, data := data, target := 0 }

/-- Completion statuses of the PCI Express Base Specification. -/
def cplSuccess : Nat := 0
def cplUnsupported : Nat := 1
def cplRetry : Nat := 2
def cplAbort : Nat := 4

/-- A TLP sent on a port, with its counts (R491, R570). -/
def State.tlpSend (s : State) (n : Nat) (t : Tlp) : State :=
  let s := if t.ep && decide (n < 40) then s.cnt .POISON_FWD_COUNT n else s
  (s.emit (.tlp n t)).perf 4 0xA2 n 0 t.data.length

/-- A request refused with a status: completed where it is non-posted, else dropped; either way logged at a port. -/
def State.tlpRefuse (s : State) (n : Nat) (t : Tlp) (status : Nat) : State :=
  let s := s.aerSet n aerUnsupported
  if t.nonPosted then s.tlpSend n (t.answer status []) else s

/-- A refusal by ACS (R470, R482). -/
def State.acsBlock (s : State) (n : Nat) (t : Tlp) : State :=
  ((s.cnt .ACS_BLOCK_COUNT n).aerSet n aerAcs).tlpRefuse n t cplUnsupported

/-! ### Outstanding requests -/

/-- The completion that the switch makes for an outstanding request, to where it came from. -/
def State.pendAnswer (s : State) (x : Pend) (status : Nat) : State :=
  s.tlpSend x.ingress ⟨.completion, x.origId, x.origTag, 0, false, 0, x.left, [], 0, status, true⟩

/-- Outstanding requests that satisfy a test completed by the switch and forgotten. -/
def State.pendDrop (s : State) (p : Pend → Bool) (status : Pend → Nat) : State :=
  (s.pcie.out.filter p).foldl (fun s x => s.pendAnswer x (status x))
    (s.modPcie fun y => { y with out := y.out.filter fun x => !p x })

/-- Window requests outstanding to a target partition (R483). -/
def State.windowsOut (s : State) (p : Nat) : Nat := (s.pcie.out.filter fun x => x.window == some p).length

/-! ### Forwarding to a downstream port (R486, R488 to R490) -/

/-- What a request meets at a downstream port that passes nothing: its status of completion, if it is closed. -/
def State.hpClosed (s : State) (d : Nat) (svf : Bool) : Option Nat :=
  if s.on F.EB_PORT_STATUS.DPC_ACTIVE d then
    some (if svf || (s.bridge d).dpcUr then cplUnsupported else cplAbort)
  else if s.on F.EB_PORT_STATUS.LINK_UP d then none else some cplUnsupported

/-- A request forwarded to a port: `t` as it leaves there, `orig` as it came in at `ingress`. -/
def State.tlpForward (s : State) (ingress d : Nat) (orig t : Tlp) (window svf : Option Nat) : State :=
  let closed := if d < 40 ∧ s.hpRole d = 2 then s.hpClosed d svf.isSome else none
  match closed with
  | some st =>
    if t.nonPosted then s.tlpSend ingress (orig.answer st []) else s.cnt .DPC_DISCARD_COUNT d
  | none =>
    let s := if t.nonPosted then s.modPcie fun x => { x with
      out := x.out ++ [(⟨d, t.reqId, t.tag, ingress, orig.reqId, orig.tag, orig.due, window, svf⟩ : Pend)] } else s
    s.tlpSend d t

/-! ### Shared devices (R478 to R481) -/

/-- Whether an SVF_MAP entry is in use: enabled and not GONE (R490). -/
def State.svfLive (s : State) (k : Nat) : Bool := s.on F.SVF_CTRL.ENABLE k && !(s.on F.SVF_CTRL.GONE k)

/-- The routing ID that an entry's VF has on its partition's shared bridge. -/
def State.svfRid (s : State) (k : Nat) : Nat :=
  mget s.pcie.shBus (s.f F.SVF_CTRL.PARTITION k) 0 * 256 + s.f F.SVF_CTRL.VFUNC k

/-- The size of an entry's virtual BAR. -/
def State.svfSize (s : State) (k : Nat) : Nat := 2 ^ s.f F.SVF_CTRL.BAR_LOG2 k

/-- The entry of a physical VF at a SHARED port. -/
def State.svfOf (s : State) (n rid : Nat) : Option Nat :=
  firstNat 256 fun k => s.on F.SVF_CTRL.ENABLE k && s.f F.SVF_CTRL.PORT k == n && s.f F.SVF_ID.PHYS_RID k == rid

/-- The entry whose virtual BAR a partition's address falls in. -/
def State.svfAt (s : State) (p addr : Nat) : Option Nat :=
  firstNat 256 fun k => s.on F.SVF_CTRL.ENABLE k && s.f F.SVF_CTRL.PARTITION k == p &&
    match mfind s.pcie.svfBar k with
    | some b => decide (b ≤ addr) && decide (addr < b + s.svfSize k)
    | none => false

/-- A memory request of a partition to the virtual BAR of an entry (R479, R480, R490). -/
def State.svfMem (s : State) (ingress k : Nat) (orig t : Tlp) (window : Option Nat) : State :=
  if !(s.svfLive k) || !((mget s.pcie.svfCmd k 0).testBit 1) then s.tlpRefuse ingress orig cplUnsupported
  else
    let b := mget s.pcie.svfBar k 0
    s.tlpForward ingress (s.f F.SVF_CTRL.PORT k) orig
      { t with addr := s.f F.SVF_BAR.PHYS_BAR k * 4096 + (t.addr - b) } window (some k)

/-! ### Decode and routing in a partition (R482) -/

/-- Whether an address lies in the memory ranges of a bridge. -/
def Bridge.claims (b : Bridge) (addr : Nat) : Bool :=
  let within : Option (Nat × Nat) → Bool
    | some r => decide (r.1 ≤ addr) && decide (addr ≤ r.2)
    | none => false
  within b.memory || within b.prefetchable

/-- The downstream port of a partition that an address decodes to. -/
def State.portAt (s : State) (p addr : Nat) : Option Nat := (s.partPorts p).find? fun d => (s.bridge d).claims addr

/-- The downstream port of a partition whose bus range holds a routing ID. -/
def State.portOfRid (s : State) (p rid : Nat) : Option Nat :=
  (s.partPorts p).find? fun d =>
    decide ((s.bridge d).sec ≤ rid / 256) && decide (rid / 256 ≤ (s.bridge d).sub) && decide (0 < (s.bridge d).sec)

/-- A request that leaves a partition's switch by its upstream port. -/
def State.sendUp (s : State) (ingress p : Nat) (orig t : Tlp) (svf : Option Nat) : State :=
  match s.upPort p with
  | some u =>
    if s.on F.EB_PART_STATUS.UPSTREAM_UP p then s.tlpForward ingress u orig t none svf
    else s.tlpRefuse ingress orig cplUnsupported
  | none => s.tlpRefuse ingress orig cplUnsupported

/-- A memory request routed by a partition's own decode: from its host, or from a device below `ingress`. -/
def State.routeMem (s : State) (ingress p : Nat) (orig t : Tlp) (svf : Option Nat) : State :=
  let fromHost := s.hpRole ingress == 1
  let redirect := !fromHost && (s.bridge ingress).acs.testBit 2
  let own := match s.portOfRid p t.reqId with
    | some d => fromHost && !((s.bridge d).acs.testBit 4)
    | none => false
  match s.portAt p t.addr, s.svfAt p t.addr with
  | some d, _ =>
    if own then s.acsBlock ingress orig
    else if redirect then s.sendUp ingress p orig t svf
    else if d = ingress then s.tlpRefuse ingress orig cplUnsupported
    else s.tlpForward ingress d orig t none svf
  | none, some k =>
    if own then s.acsBlock ingress orig
    else if redirect then s.sendUp ingress p orig t svf
    else s.svfMem ingress k orig t none
  | none, none =>
    if fromHost then s.tlpRefuse ingress orig cplUnsupported else s.sendUp ingress p orig t svf

/-! ### Windows between partitions (R483, R484) -/

/-- The enabled window of a source partition that an address falls in. -/
def State.windowAt (s : State) (p addr : Nat) : Option Nat :=
  firstNat 64 fun w => s.on F.XP_CTRL.ENABLE w && s.f F.XP_CTRL.SRC_PART w == p &&
    decide (s.f F.XP_SRC_BASE.PAGE w ≤ addr / 4096) && decide (addr / 4096 ≤ s.f F.XP_SRC_LIMIT.PAGE w)

/-- Whether a window lets a request of its kind pass: an AtomicOp reads and writes. -/
def State.windowPermits (s : State) (w : Nat) (t : Tlp) : Bool :=
  match t.kind with
  | .memRead => s.on F.XP_CTRL.READ w
  | .memWrite => s.on F.XP_CTRL.WRITE w
  | _ => s.on F.XP_CTRL.READ w && s.on F.XP_CTRL.WRITE w

/-- A window refusal (R483). -/
def State.windowRefuse (s : State) (ingress : Nat) (t : Tlp) : State :=
  (s.cnt .WINDOW_REFUSE_COUNT).tlpRefuse ingress t cplUnsupported

/-- A request in a window, translated and routed in the target partition (R483, R476). -/
def State.windowGo (s : State) (ingress w : Nat) (orig : Tlp) : State :=
  let src := s.f F.XP_CTRL.SRC_PART w
  let q := s.f F.XP_CTRL.TGT_PART w
  if !(s.windowPermits w orig) || s.on F.EB_PART_STATUS.IN_RESET src then s.windowRefuse ingress orig
  else if s.on F.EB_PART_STATUS.IN_RESET q then s
  else if orig.nonPosted && decide (1024 ≤ s.windowsOut q) then
    s.modPcie fun x => { x with waiting := x.waiting ++ [(ingress, src, orig)] }
  else
    let tag := s.pcie.nextTag
    let t : Tlp := { orig with
      addr := s.f F.XP_TGT_BASE.PAGE w * 4096 + (orig.addr - s.f F.XP_SRC_BASE.PAGE w * 4096)
      reqId := mget s.pcie.fnBus q 0 * 256, tag := tag }
    let s := s.modPcie fun x => { x with nextTag := (tag + 1) % 2 ^ 14 }
    match s.portAt q t.addr, s.svfAt q t.addr with
    | some d, _ =>
      if (s.bridge d).maxPayload < t.data.length then s.windowRefuse ingress orig
      else s.tlpForward ingress d orig t (some q) none
    | none, some k =>
      if (s.bridge (s.f F.SVF_CTRL.PORT k)).maxPayload < t.data.length then s.windowRefuse ingress orig
      else s.svfMem ingress k orig t (some q)
    | none, none => s.windowRefuse ingress orig

/-- A memory request that enters a partition: checked against the windows before ACS and the partition's own decode
(R483). `orig` is the request as it arrived, `t` as it counts in the partition. -/
def State.enterPart (s : State) (ingress p : Nat) (orig t : Tlp) (svf : Option Nat) : State :=
  match s.windowAt p t.addr with
  | some w => s.windowGo ingress w { orig with addr := t.addr }
  | none => s.routeMem ingress p orig t svf

/-- The first request that waits for a window's target partition tries again. -/
def State.windowRetry (s : State) (p : Nat) : State :=
  let mine (x : Nat × Nat × Tlp) : Bool :=
    match s.windowAt x.2.1 x.2.2.addr with
    | some w => s.f F.XP_CTRL.TGT_PART w == p
    | none => false
  match s.pcie.waiting.find? mine with
  | some x => (s.modPcie fun y => { y with waiting := y.waiting.erase x }).enterPart x.1 x.2.1 x.2.2 x.2.2 none
  | none => s

/-! ### Containment: DPC, loss of a shared device (R488 to R490) -/

/-- A SHARED port lost (R490): its entries are GONE, and the partitions that hold them and the fabric management function
are told. -/
def State.sharedLost (s : State) (n : Nat) : State :=
  let ks := (List.range 256).filter fun k => s.on F.SVF_CTRL.ENABLE k && s.f F.SVF_CTRL.PORT k == n
  let ps := (ks.map fun k => s.f F.SVF_CTRL.PARTITION k).eraseDups
  let s := ks.foldl (fun s k => s.set F.SVF_CTRL.GONE 1 k) s
  let s := s.pendDrop (fun x => x.egress == n && x.svf.isSome) fun _ => cplUnsupported
  let s := ps.foldl (fun s p =>
    (s.modPcie fun x => { x with shDown := p :: x.shDown.filter (· != p) }).emit
      (.pcie ((s.upPort p).getD spPort) (.sharedDll p))) s
  s.hpNotice n 2

/-- DPC of a downstream port from its trigger on (R488). -/
def State.dpcReact (s : State) (n cause : Nat) : State :=
  let s := (s.set F.EB_PORT_STATUS.DPC_ACTIVE 1 n).set F.EB_PORT_STATUS.DPC_CAUSE cause n
  let s := (s.set F.EB_PORT_STATUS.LINK_UP 0 n).set F.DG_PCIE.DPC (setBit (s.f F.DG_PCIE.DPC) n)
  let s := s.emit (.pcie n .linkDisable)
  let s := if s.hpShared n then s.sharedLost n else s
  let st := if (s.bridge n).dpcUr then cplUnsupported else cplAbort
  (s.pendDrop (fun x => x.egress == n) fun _ => st).emit (.pcie (s.ownerPort n) .dpcInterrupt)

/-- DPC triggered on a downstream port: an occurrence of the port's source, with DPC as its reaction (R510, R519). -/
def State.dpcEnter (s : State) (n cause : Nat) : State :=
  if s.hpRole n ≠ 2 ∨ s.on F.EB_PORT_STATUS.DPC_ACTIVE n then s
  else s.occur (1120 + n) .ok 8 n cause fun s => s.dpcReact n cause

/-- DPC_TRIGGER (R488): 0 an error message as the trigger enable selects, 1 a surprise down when that trigger is enabled,
2 a completion timeout with SYN_DPC, 3 software. -/
def execDpcTrigger (n : Fin 40) (cause : Fin 4) : State → Res :=
  whenRunning fun s =>
    let armed := match cause.val with
      | 0 => decide (0 < (s.bridge n).dpcTrigger)
      | 1 => (s.bridge n).dpcSurprise
      | 2 => s.on F.EB_PORT_CFG.SYN_DPC n
      | _ => true
    if armed then s.dpcEnter n cause else s

/-- DPC_TRIGGER_STATUS_CLEAR (R488): the port leaves DPC and retrains. -/
def execDpcTriggerStatusClear (n : Fin 40) : State → Res :=
  whenRunning fun s =>
    if s.on F.EB_PORT_STATUS.DPC_ACTIVE n then
      ((s.set F.EB_PORT_STATUS.DPC_ACTIVE 0 n).set F.DG_PCIE.DPC (clrBit (s.f F.DG_PCIE.DPC) n)).emit (.pcie n .linkRetrain)
    else s

/-- SWITCH_COMPLETION_TIMEOUT (R486): the timer of a request that left a downstream port expires. -/
def execSwitchCompletionTimeout (n : Fin 40) (reqId : BitVec 16) (tag : BitVec 14) : State → Res :=
  whenRunning fun s =>
    let mine (x : Pend) : Bool := x.egress == n.val && x.reqId == reqId.toNat && x.tag == tag.toNat
    if s.hpRole n = 2 ∧ s.pcie.out.any mine then
      let st := if s.on F.EB_PORT_CFG.SYN_STATUS n then cplAbort else cplUnsupported
      let s := s.pendDrop mine fun _ => st
      let s := ((s.cnt .SYN_CPL_COUNT n).set F.EB_PORT_STATUS.CPL_TIMEOUT_SEEN 1 n).hpNotice n 0
      if s.on F.EB_PORT_CFG.SYN_DPC n then s.dpcEnter n 2 else s
    else s

/-! ### Completions (R479, R486, R487, R491) -/

/-- A completion that arrives on a port: handed to where its request came from, with the names the request had there. A
completion of the last bytes, or with a status, ends the request; one that answers nothing is late (R487). Completion
redirect sends it by the upstream port first (R482). -/
def State.completionIn (s : State) (n : Nat) (t : Tlp) : State :=
  match s.pcie.out.find? fun x => x.egress == n && x.reqId == t.reqId && x.tag == t.tag with
  | none => (s.cnt .LATE_CPL_COUNT n).aerSet n aerUnexpected
  | some x =>
    let last := decide (t.status ≠ 0) || decide (x.left ≤ t.data.length)
    let target := match x.svf with
      | some k => if s.hpShared n then s.svfRid k else t.target
      | none => t.target
    let t' : Tlp := { t with reqId := x.origId, tag := x.origTag, target := target }
    let u := s.upPort (s.hpPart n)
    let redirect := s.hpRole n == 2 && decide (x.ingress < 40) && s.hpRole x.ingress == 2 && (s.bridge n).acs.testBit 3 &&
      x.window.isNone
    match redirect, u with
    | true, some u =>
      let y : Pend := { x with egress := u }
      (s.modPcie fun z => { z with out := z.out.map fun v => if v = x then y else v }).tlpSend u t
    | _, _ =>
      let y : Pend := { x with left := x.left - t.data.length }
      let out := if last then s.pcie.out.erase x else s.pcie.out.map fun v => if v = x then y else v
      let s := s.modPcie fun z => { z with out := out }
      let s := s.tlpSend x.ingress t'
      match last, x.window with
      | true, some p => s.windowRetry p
      | _, _ => s

/-! ### Messages and configuration requests -/

/-- An error message that arrives on a downstream port (R479, R485, R488). -/
def State.errorIn (s : State) (n : Nat) (t : Tlp) : State :=
  let b := s.bridge n
  let triggers := (b.dpcTrigger == 1 && t.kind == .errFatal) ||
    (decide (2 ≤ b.dpcTrigger) && (t.kind == .errFatal || t.kind == .errNonfatal))
  if s.hpShared n then
    match s.svfOf n t.reqId with
    | some k =>
      if t.kind = .errFatal then (if triggers then s.dpcEnter n 0 else s.tlpSend s.fmfPort t)
      else s.tlpSend ((s.upPort (s.f F.SVF_CTRL.PARTITION k)).getD spPort) { t with reqId := s.svfRid k }
    | none => if triggers then s.dpcEnter n 0 else s.tlpSend s.fmfPort t
  else if triggers then s.dpcEnter n 0
  else s.tlpSend (s.ownerPort n) t

/-- A configuration request of a host that is addressed below its upstream port: to a device below a downstream port, or
to the function bus, whose functions answer Configuration Request Retry Status until they are ready (R546); what their
configuration space holds beyond that belongs to the PCI Express Base Specification and reads as a free value. A write
to the function bus records its bus number (R474). -/
def State.configIn (s : State) (n : Nat) (t : Tlp) : State :=
  let p := s.hpPart n
  match s.portOfRid p t.target with
  | some d => s.tlpForward n d t t none none
  | none =>
    if t.target / 256 = mget s.pcie.fnBus p 0 ∧ t.target / 256 ≠ 0 then
      if mget s.pcie.nf p 0 ≠ 2 then s.tlpSend n (t.answer cplRetry [])
      else
        let r := s.drawNat
        if t.kind = .cfgRead then r.2.tlpSend n (t.answer cplSuccess (leBytes 4 r.1)) else s.tlpSend n (t.answer cplSuccess [])
    else s.tlpRefuse n t cplUnsupported

/-- What a configuration write to a virtual bridge sets. -/
def Bridge.write (b : Bridge) : BridgeReg → Bridge
  | .buses sec sub => { b with sec := sec, sub := sub }
  | .memory a z => { b with memory := if a ≤ z then some (a, z) else none }
  | .prefetchable a z => { b with prefetchable := if a ≤ z then some (a, z) else none }
  | .acs v => { b with acs := v }
  | .dpc tr ur su => { b with dpcTrigger := tr, dpcUr := ur, dpcSurprise := su }
  | .slot i => { b with slotInt := i }
  | .maxPayload n => { b with maxPayload := n }
  | .msixEnable _ => b

/-- MSI-X Enable of a function written. -/
def State.msixEnable (s : State) (f : Nat) (enabled : Bool) : State :=
  { s with msixOn := if enabled then f :: s.msixOn.filter (· != f) else s.msixOn.filter (· != f) }

/-- A configuration write of the hierarchy above port n to a function, a virtual bridge (R474): the secondary bus of VDEV 0 is the
function bus and that of VDEV 31 the shared bridge's. -/
def State.bridgeWrite (s : State) (n : Nat) (sel : BridgeSel) (r : BridgeReg) : State :=
  let p := s.hpPart n
  match sel with
  | .port d =>
    if s.hpRole d = 2 ∧ s.ownerPort d = n then s.modBridge d fun b => b.write r else s
  | .functionBus => match r with
    | .buses sec _ => s.modPcie fun x => { x with fnBus := mset x.fnBus p sec }
    | _ => s
  | .function f => match r with
    | .msixEnable v =>
      if (f.val = fmf ∧ s.fmfPlaced ∧ s.fa F.EB_FMF_CFG.FMF_PART = p) ∨ (f.val ≠ fmf ∧ s.partOf f = some p) then
        s.msixEnable f v else s
    | _ => s
  | .sharedBus => match r with
    | .buses sec _ => if s.on F.EB_PART_CFG.SHARED_BRIDGE p then s.modPcie fun x => { x with shBus := mset x.shBus p sec } else s
    | _ => s

/-! ### TLP_RECEIVE -/

/-- A memory request that arrives on a port, after the checks of its AT field (R470, R479, R482). -/
def State.memIn (s : State) (n : Nat) (t : Tlp) : State :=
  if s.hpShared n then
    match s.svfOf n t.reqId with
    | some k =>
      if s.svfLive k then s.enterPart n (s.f F.SVF_CTRL.PARTITION k) t { t with reqId := s.svfRid k } (some k)
      else s.tlpRefuse n t cplUnsupported
    | none =>
      if t.reqId % 256 = 0 then
        if s.fmfPlaced then s.enterPart n (s.fa F.EB_FMF_CFG.FMF_PART) t t none else s.tlpForward n spPort t t none none
      else s.tlpRefuse n t cplUnsupported
  else
    let b := s.bridge n
    let outside := decide (t.reqId / 256 < b.sec) || decide (b.sub < t.reqId / 256)
    if s.hpRole n = 2 ∧ b.acs.testBit 0 ∧ outside then s.acsBlock n t
    else s.enterPart n (s.hpPart n) t t none

/-- The qualifier under which a TLP is counted (R570): 0 posted, 1 non-posted, 2 completion. -/
def Tlp.qual (t : Tlp) : Nat := if t.kind = .completion then 2 else if t.nonPosted then 1 else 0

/-- A TLP that a port takes in (R470, R482). -/
def State.tlpIn (s : State) (n : Nat) (t : Tlp) : State :=
  let s := (s.perf 4 0xA0 n t.qual 1).perf 4 0xA1 n 0 t.data.length
  if t.memory then
    if t.at_ = 0 then s.memIn n t
    else if t.at_ = 1 then s.tlpRefuse n t cplUnsupported
    else s.acsBlock n t
  else match t.kind with
    | .completion => s.completionIn n t
    | .cfgRead | .cfgWrite => if s.hpRole n = 1 then s.configIn n t else s.tlpRefuse n t cplUnsupported
    | .errCor | .errNonfatal | .errFatal => if s.hpRole n = 2 then s.errorIn n t else s
    | .pageRequest => s.aerSet n aerUnsupported
    | _ => if s.hpRole n = 2 then s.tlpSend (s.ownerPort n) t else s

/-- TLP_RECEIVE (R482): discarded while the port's IDE stream is Insecure, which an integrity failure makes it (R492);
`br` says which virtual bridge and register a configuration write addresses, where it addresses one. -/
def execTlpReceive (n : Fin 40) (t : Tlp) (br : Option (BridgeSel × BridgeReg)) : State → Res :=
  whenRunning fun s =>
    if !(s.on F.EB_PORT_STATUS.LINK_UP n) || s.pcie.insecure.contains n.val then s
    else if s.on F.EB_PORT_STATUS.IDE_SECURE n && !t.integrity then
      (((s.set F.EB_PORT_STATUS.IDE_SECURE 0 n).modPcie fun x => { x with insecure := n.val :: x.insecure })).hpNotice n 1
    else match br, t.kind with
      | some b, .cfgWrite => (s.bridgeWrite n b.1 b.2).tlpSend n (t.answer cplSuccess [])
      | _, _ => s.tlpIn n t

/-- IDE_KM_MESSAGE (R492): the owner keys the port's link IDE stream, which becomes Secure, or the keying fails. -/
def execIdeKmMessage (n : Fin 40) (good : Bool) : State → Res :=
  whenRunning fun s =>
    if s.hpRole n = 0 then s
    else if good then
      ((s.set F.EB_PORT_STATUS.IDE_SECURE 1 n).modPcie fun x => { x with insecure := x.insecure.filter (· != n.val) }).emit
        (.pcie n .keyed)
    else
      ((s.set F.EB_PORT_STATUS.IDE_SECURE 0 n).modPcie fun x => { x with
        insecure := n.val :: x.insecure.filter (· != n.val) }).hpNotice n 1

/-! ### Configuration requests to shared VFs (R480) -/

/-- A type 0 header word of a virtual VF as it reads. -/
def State.svfHeader (s : State) (k off : Nat) : Nat :=
  let bar := mget s.pcie.svfBar k 0
  match off with
  | 0x00 => s.f F.SVF_ID.VENDOR_ID k + s.f F.SVF_ID.DEVICE_ID k * 2 ^ 16
  | 0x04 => mget s.pcie.svfCmd k 0
  | 0x10 => bar % 2 ^ 32 / 16 * 16 + 4
  | 0x14 => bar / 2 ^ 32
  | _ => 0

/-- A write of a type 0 header word: Memory Space Enable is emulated, Bus Master Enable (bit 2) and Interrupt Disable (bit
10) go on to the VF, and the BAR takes the bits above its size. -/
def State.svfHeaderWrite (s : State) (k off v : Nat) (t : Tlp) : State :=
  let size := s.svfSize k
  let bar := mget s.pcie.svfBar k 0
  match off with
  | 0x04 =>
    let w := v &&& 0x406
    (s.modPcie fun x => { x with svfCmd := mset x.svfCmd k w }).tlpSend (s.f F.SVF_CTRL.PORT k)
      { t with target := s.f F.SVF_ID.PHYS_RID k, data := leBytes 4 (v &&& 0x404) }
  | 0x10 => s.modPcie fun x => { x with svfBar := mset x.svfBar k ((bar / 2 ^ 32 * 2 ^ 32 + v % 2 ^ 32) / size * size) }
  | 0x14 => s.modPcie fun x => { x with svfBar := mset x.svfBar k ((v % 2 ^ 32 * 2 ^ 32 + bar % 2 ^ 32) / size * size) }
  | _ => s

/-- SHARED_VF_CONFIG_REQUEST (R480): a configuration request of partition p to a function number of its shared bridge's
bus; `t` carries the offset, the data and the names of the request. -/
def execSharedVfConfigRequest (p : Fin 16) (vfunc : Fin 256) (t : Tlp) : State → Res :=
  whenRunning fun s =>
    match s.upPort p with
    | none => s
    | some u =>
      match firstNat 256 fun k => s.svfLive k && s.f F.SVF_CTRL.PARTITION k == p.val && s.f F.SVF_CTRL.VFUNC k == vfunc.val with
      | none => s.tlpSend u (t.answer cplUnsupported [])
      | some k =>
        if t.kind ≠ .cfgRead ∧ t.kind ≠ .cfgWrite then s
        else if t.addr < 0x40 then
          if t.kind = .cfgRead then s.tlpSend u (t.answer cplSuccess (leBytes 4 (s.svfHeader k (t.addr / 4 * 4))))
          else (s.svfHeaderWrite k (t.addr / 4 * 4) (leNat (t.data.take 4)) t).tlpSend u (t.answer cplSuccess [])
        else
          s.tlpForward u (s.f F.SVF_CTRL.PORT k) t
            { t with target := s.f F.SVF_ID.PHYS_RID k, reqId := mget s.pcie.fnBus (s.fa F.EB_FMF_CFG.FMF_PART) 0 * 256 + 1 }
            none (some k)

/-- SVF_DISABLE (R481): ENABLE cleared; the entry translates nothing more, and the VF is reset. -/
def State.svfDisable (s : State) (k : Nat) : State :=
  if s.on F.SVF_CTRL.ENABLE k then
    let s := (s.set F.SVF_CTRL.ENABLE 0 k).modPcie fun x => { x with
      svfBar := mdel x.svfBar k, svfCmd := mdel x.svfCmd k }
    s.emit (.pcie (s.f F.SVF_CTRL.PORT k) (.vfReset (s.f F.SVF_ID.PHYS_RID k)))
  else s

/-- SVF_DISABLE (R481): the write that clears ENABLE. -/
def execSvfDisable (rq : Requester) (k : Fin 256) : State → Res :=
  whenRunning fun s =>
    s.writeAs rq (Reg.offset ⟨.SVF_CTRL, k, 0⟩) (if rq.manages then .ok else .notPermitted) fun s => s.svfDisable k

/-! ### Links, slots and partitions -/

/-- A slot change reported to the owner (R489). -/
def State.slotNotice (s : State) (n : Nat) (pres dll : Bool) : State :=
  if s.on F.EB_PORT_CFG.HOTPLUG_EN n && (pres || dll) then
    let s := s.modBridge n fun b => { b with presChanged := b.presChanged || pres, dllChanged := b.dllChanged || dll }
    if (s.bridge n).slotInt then s.emit (.pcie (s.ownerPort n) .slotInterrupt) else s
  else s

/-- The lanes of a port (R471). -/
def State.hpLanes (s : State) (n : Nat) : Nat :=
  match s.f F.EB_STACK_CFG.BIFURCATION (n / 4) with
  | 0 => 16
  | 1 => 8
  | _ => 4

/-- Whether a port may hold a link: present, with a role, not in DPC; an upstream port only for an enabled partition
whose HOST_PERST_N is released (R473, R546). -/
def State.hpMayLink (s : State) (n : Nat) : Bool :=
  s.hpPresent n && !(s.on F.EB_PORT_STATUS.DPC_ACTIVE n) &&
    match s.hpRole n with
    | 1 => s.upPort (s.hpPart n) == some n && s.pcie.perstUp.contains (s.hpPart n)
    | 2 => true
    | _ => false

/-- PCIE_LINK_UP (R489, R476, R473): presence or DL_Active gained, at a rate, width (as its logarithm) and mode within
what the port supports (R469). -/
def execPcieLinkUp (n : Fin 40) (sense : PortSense) (speed : Fin 7) (width : Fin 5) (flit : Bool) : State → Res :=
  whenRunning fun s =>
    if !(s.hpMayLink n) || decide (s.f F.EB_PORT_CFG.MAX_SPEED n < speed.val) || decide (s.hpLanes n < 2 ^ width.val) then s
    else
      let pres := sense.present && !(s.on F.EB_PORT_STATUS.PRESENT n)
      let dll := sense.active && !(s.on F.EB_PORT_STATUS.LINK_UP n)
      let s := if pres then s.set F.EB_PORT_STATUS.PRESENT 1 n else s
      let s := if dll then
        let f := decide (5 ≤ speed.val) || (flit && s.on F.EB_CFG.FLIT_LOW_EN)
        let s := (s.set F.EB_PORT_STATUS.LINK_UP 1 n).set F.EB_PORT_STATUS.SPEED speed n
        let s := (s.set F.EB_PORT_STATUS.WIDTH (2 ^ width.val) n).set F.EB_PORT_STATUS.FLIT (b2n f) n
        if s.hpRole n = 1 then
          (s.set F.EB_PART_STATUS.UPSTREAM_UP 1 (s.hpPart n)).set F.EB_PART_STATUS.IN_RESET 0 (s.hpPart n)
        else if s.hpShared n then
          let ps := ((List.range 256).filter fun k => s.on F.SVF_CTRL.ENABLE k && s.f F.SVF_CTRL.PORT k == n.val).map
            fun k => s.f F.SVF_CTRL.PARTITION k
          s.modPcie fun x => { x with shDown := x.shDown.filter fun p => !(ps.contains p) }
        else s
      else s
      if s.hpRole n = 2 then s.slotNotice n pres dll else s

/-- HOTPLUG_PRESENCE_CHANGE (R489, R490): a downstream port loses presence or DL_Active; where surprise down triggers DPC,
DPC takes it. -/
def execHotplugPresenceChange (n : Fin 40) (sense : PortSense) : State → Res :=
  whenRunning fun s =>
    if s.hpRole n ≠ 2 then s
    else
      let pres := !sense.present && s.on F.EB_PORT_STATUS.PRESENT n
      let dll := !sense.active && s.on F.EB_PORT_STATUS.LINK_UP n
      let s := if pres then s.set F.EB_PORT_STATUS.PRESENT 0 n else s
      let s := s.slotNotice n pres dll
      if dll then
        let s := s.set F.EB_PORT_STATUS.LINK_UP 0 n
        if (s.bridge n).dpcSurprise then s.dpcEnter n 1
        else
          let s := if s.hpShared n then s.sharedLost n else s
          s.pendDrop (fun x => x.egress == n.val) fun _ => cplUnsupported
      else s

/-- The reset of a partition (R476). -/
def State.partReset (s : State) (p u : Nat) : State :=
  let s := (s.partPorts p).foldl (fun s d => (s.modBridge d fun _ => {}).emit (.pcie d .hotReset)) s
  let s := s.fnReset p
  let s := if s.fmfPlaced && s.fa F.EB_FMF_CFG.FMF_PART == p then s.fnReset fmf else s
  let s := ((List.range 256).filter fun k => s.on F.SVF_CTRL.ENABLE k && s.f F.SVF_CTRL.PARTITION k == p).foldl
    (fun s k => s.emit (.pcie (s.f F.SVF_CTRL.PORT k) (.vfReset (s.f F.SVF_ID.PHYS_RID k)))) s
  let s := s.pendDrop (fun x => x.egress == u) fun _ => cplUnsupported
  let s := s.pendDrop (fun x => x.window == some p) fun _ => cplAbort
  let s := (s.set F.EB_PART_STATUS.IN_RESET 1 p).set F.EB_PART_STATUS.UPSTREAM_UP 0 p
  s.set F.EB_PORT_STATUS.LINK_UP 0 u

/-- PARTITION_RESET (R476): 0 a hot reset, 1 the loss of the upstream link, 2 HOST_PERST_N asserted, which starts the
readiness window again once it is released (R546). -/
def execPartitionReset (p : Fin 16) (why : Fin 3) : State → Res :=
  fun s =>
    let s := if why = 2 then s.modPcie fun x => { x with
      perstUp := x.perstUp.filter (· != p.val), nf := mdel x.nf p.val } else s
    .next (match s.upPort p with
      | some u => if s.running then s.partReset p u else s
      | none => s)

/-- The readiness window of a partition's network function begins when nothing it waits for is still to come (R546). -/
def State.nfWindow (s : State) (p : Nat) : State :=
  if s.on F.EB_PART_CFG.ENABLE p && s.pcie.perstUp.contains p then s.modPcie fun x => { x with nf := mset x.nf p 1 } else s

/-- HOST_PERST_RELEASE (R546, R554). -/
def execHostPerstRelease (p : Fin 16) : State → Res :=
  fun s => .next (
    if s.pcie.perstUp.contains p.val then s
    else (s.modPcie fun x => { x with perstUp := p.val :: x.perstUp }).nfWindow p)

/-- NF_READY (R546): the network function leaves Configuration Request Retry Status. -/
def execNfReady (p : Fin 16) : State → Res :=
  whenRunning fun s => if mget s.pcie.nf p.val 0 = 1 then s.modPcie fun x => { x with nf := mset x.nf p.val 2 } else s

/-- DEV_PERST_RELEASE (R536): DEV_PERST_N of a downstream port is released. -/
def execDevPerstRelease (n : Fin 40) : State → Res :=
  whenRunning fun s =>
    if s.hpRole n = 2 ∧ s.hpPresent n ∧ n.val ∉ s.pcie.devPerst then
      (s.modPcie fun x => { x with devPerst := n.val :: x.devPerst }).emit (.pin (.devPerstN n) true)
    else s

/-! ### PTM (R493) -/

/-- The host's PTM master time, extrapolated from the last upstream exchange of a partition by TMAP_RATIO (R56, R493). -/
def State.hostTime (s : State) (p c : Nat) : Nat :=
  let then_ : Int := (s.f F.TMAP_FABRIC_NS.NS p : Int) * 2 ^ 16 + s.f F.TMAP_FABRIC_FRAC.FRAC p
  let gone : Int := (stamp80 c : Int) - then_
  let ratio : Int := 2 ^ 40 + toSigned 64 (s.f F.TMAP_RATIO.RATIO p)
  ((s.f F.TMAP_HOST_NS.NS p : Int) + gone * 2 ^ 24 / ratio).toNat % 2 ^ 64

/-- PTM_REQUEST_RECEIVE (R493): a downstream port answers with host time or fabric time; with PTM_SRC 0 only once an
upstream exchange has completed. -/
def execPtmRequestReceive (n : Fin 40) (ck : Nat) : State → Res :=
  whenRunning fun s =>
    let p := s.hpPart n
    let c := s.ctrAt ck
    if s.hpRole n ≠ 2 ∨ !(s.on F.EB_PORT_STATUS.LINK_UP n) then s
    else if s.hpShared n || s.on F.EB_PART_CFG.PTM_SRC p then s.emit (.ptm n (nsOf c))
    else if s.f F.TMAP_SEQ.SEQ p = 0 then s
    else s.emit (.ptm n (s.hostTime p c))

/-! ### Register writes of the switch block (R472 to R475, R478, R484, R575) -/

/-- Whether two register values differ in a field. -/
def fldDiff (f : RegFld) (a b : Word) : Bool := f.fld.get a != f.fld.get b

/-- The checks of EB_STACK_CFG (R472). -/
def State.stackCfgCheck (s : State) (k : Nat) (v : Word) : Status := firstStatus [
  ((List.range 4).any fun j => s.hpRole (4 * k + j) != 0, .badState),
  (F.EB_STACK_CFG.BIFURCATION.fld.get v == 3 || F.EB_STACK_CFG.REFCLK_MODE.fld.get v == 3, .badValue)]

/-- Whether a port is the upstream port of an enabled partition. -/
def State.hpServes (s : State) (n : Nat) : Bool := (List.range 16).any fun p => s.upPort p == some n

/-- The checks of EB_PORT_CFG (R471, R473). -/
def State.portCfgCheck (s : State) (n : Nat) (v : Word) : Status :=
  let old := s.rd ⟨.EB_PORT_CFG, n, 0⟩
  let role := F.EB_PORT_CFG.ROLE.fld.get v
  let moves := fldDiff F.EB_PORT_CFG.ROLE old v || fldDiff F.EB_PORT_CFG.SHARED old v ||
    fldDiff F.EB_PORT_CFG.PARTITION old v || fldDiff F.EB_PORT_CFG.VDEV old v
  let ms := F.EB_PORT_CFG.SW_CPL_TIMEOUT_MS.fld.get v
  let vdev := F.EB_PORT_CFG.VDEV.fld.get v
  let private_ := role == 2 && !(F.EB_PORT_CFG.SHARED.fld.on v)
  firstStatus [
    (role != 0 && !(s.hpPresent n), .badState),
    (moves && (s.on F.EB_PORT_STATUS.LINK_UP n || s.on F.EB_PORT_STATUS.DPC_ACTIVE n || s.hpServes n), .badState),
    (role == 3 || F.EB_PORT_CFG.MAX_SPEED.fld.get v == 7 || ms == 0 || decide (64 < ms), .badValue),
    (F.EB_PORT_CFG.SHARED.fld.on v && role == 1, .badValue),
    (private_ && (vdev == 0 || vdev == 31), .badValue),
    (private_ && (s.partPorts (F.EB_PORT_CFG.PARTITION.fld.get v)).any fun d =>
      d != n && s.f F.EB_PORT_CFG.VDEV d == vdev, .badValue)]

/-- DEV_PERST_N driven low at a port that is no longer downstream (R536). -/
def State.perstFollow (s : State) (n : Nat) : State :=
  if s.hpRole n ≠ 2 ∧ n ∈ s.pcie.devPerst then
    (s.modPcie fun x => { x with devPerst := x.devPerst.filter (· != n) }).emit (.pin (.devPerstN n) false)
  else s

/-- The lowest run of n free VF indices (R575). -/
def State.vfRun (s : State) (n : Nat) : Option Nat :=
  (firstNat (0x820 - 0x20 + 1 - n) fun k => (List.range n).all fun j => (s.vfPart (0x20 + k + j)).isNone).map (0x20 + ·)

/-- The TOTAL_VFS of the enabled partitions but one. -/
def State.vfSum (s : State) (p : Nat) : Nat :=
  (List.range 16).foldl (fun a q =>
    if q ≠ p ∧ s.on F.EB_PART_CFG.ENABLE q then a + s.f F.EB_PART_CFG.TOTAL_VFS q else a) 0

/-- The checks of EB_PART_CFG (R475, R575, R19). -/
def State.partCfgCheck (s : State) (p : Nat) (v : Word) : Status :=
  let old := s.rd ⟨.EB_PART_CFG, p, 0⟩
  let was := F.EB_PART_CFG.ENABLE.fld.on old
  let en := F.EB_PART_CFG.ENABLE.fld.on v
  let u := F.EB_PART_CFG.UPSTREAM_PORT.fld.get v
  let n := F.EB_PART_CFG.TOTAL_VFS.fld.get v
  let others := F.EB_PART_CFG.ENABLE.fld.set old 0 != F.EB_PART_CFG.ENABLE.fld.set v 0
  firstStatus [
    (en && !was && !(s.hpRole u == 1 && s.hpPart u == p), .badState),
    (was && others, .badState),
    (was && !en && s.on F.EB_PART_STATUS.UPSTREAM_UP p, .badState),
    (decide (39 < u) || decide (256 < n) || F.EB_PART_CFG.PTM_INTERVAL.fld.get v == 0, .badValue),
    (en && decide (2048 < s.vfSum p + n), .badValue),
    (en && !was && decide (0 < n) && (s.vfRun n).isNone, .noResource)]

/-- An accepted write of EB_PART_CFG: ENABLE takes or gives back the VF indices (R575) and starts the readiness window
(R546). -/
def State.partCfgWrite (s : State) (p : Nat) (v : Word) : State :=
  let was := s.on F.EB_PART_CFG.ENABLE p
  let en := F.EB_PART_CFG.ENABLE.fld.on v
  let n := F.EB_PART_CFG.TOTAL_VFS.fld.get v
  let run := s.vfRun n
  let s := s.wr ⟨.EB_PART_CFG, p, 0⟩ v
  if en && !was then
    let s := match run with
      | some b => if 0 < n then
          ((s.set F.AM_VF_BASE.VF_BASE b p).set F.AM_VF_BASE.VF_COUNT n p).set F.AM_VF_BASE.VALID 1 p else s
      | none => s
    s.nfWindow p
  else if was && !en then
    (s.wr ⟨.AM_VF_BASE, p, 0⟩ 0).modPcie fun x => { x with nf := mdel x.nf p }
  else s

/-- PARTITION_ENABLE (R475, R575): a write of EB_PART_CFG that sets ENABLE. -/
def execPartitionEnable (rq : Requester) (p : Fin 16) (v : Word) : State → Res :=
  whenRunning fun s =>
    let st := firstStatus [(!rq.manages, .notPermitted)]
    let st := if st = .ok then s.partCfgCheck p v else st
    let rsv := st == .ok && setsRsv RegName.EB_PART_CFG.desc.fields v
    s.writeAs rq (Reg.offset ⟨.EB_PART_CFG, p, 0⟩) (if rsv then .badValue else st) fun s => s.partCfgWrite p v

/-- Whether a written SVF_CTRL value keeps everything but ENABLE. -/
def onlyClears (en : RegFld) (old v : Word) : Bool := !(en.fld.on v) && en.fld.set old 0 == en.fld.set v 0

/-- The checks of SVF_CTRL (R478): GONE is read-only, so a write carries no change of it. -/
def State.svfCtrlCheck (s : State) (k : Nat) (w : Word) : Status :=
  let old := s.rd ⟨.SVF_CTRL, k, 0⟩
  let v := F.SVF_CTRL.GONE.fld.set w (F.SVF_CTRL.GONE.fld.get old)
  let en := F.SVF_CTRL.ENABLE.fld.on v
  let p := F.SVF_CTRL.PARTITION.fld.get v
  let n := F.SVF_CTRL.BAR_LOG2.fld.get v
  let clash := (List.range 256).any fun j => j != k && s.on F.SVF_CTRL.ENABLE j &&
    (s.f F.SVF_ID.PHYS_RID j == s.f F.SVF_ID.PHYS_RID k ||
      (s.f F.SVF_CTRL.PARTITION j == p && s.f F.SVF_CTRL.VFUNC j == F.SVF_CTRL.VFUNC.fld.get v))
  firstStatus [
    (F.SVF_CTRL.ENABLE.fld.on old && !(onlyClears F.SVF_CTRL.ENABLE old v), .badState),
    (en && (!(s.hpShared (F.SVF_CTRL.PORT.fld.get v)) || !(s.on F.EB_PART_CFG.SHARED_BRIDGE p)), .badState),
    (decide (n < 12) || decide (47 < n), .badValue),
    (en && (clash || s.f F.SVF_BAR.PHYS_BAR k * 4096 % 2 ^ n != 0), .badValue)]

/-- An accepted write of SVF_CTRL: setting ENABLE clears GONE, clearing it is SVF_DISABLE (R481, R490). -/
def State.svfCtrlWrite (s : State) (k : Nat) (v : Word) : State :=
  if s.on F.SVF_CTRL.ENABLE k then s.svfDisable k
  else if F.SVF_CTRL.ENABLE.fld.on v then s.wr ⟨.SVF_CTRL, k, 0⟩ (F.SVF_CTRL.GONE.fld.set v 0)
  else s.wr ⟨.SVF_CTRL, k, 0⟩ (F.SVF_CTRL.GONE.fld.set v (s.f F.SVF_CTRL.GONE k))

/-- Whether an SVF_MAP entry's other registers may be written (R478). -/
def State.svfOpen (s : State) (k : Nat) : Status := if s.on F.SVF_CTRL.ENABLE k then .badState else .ok

/-- The checks of XP_CTRL (R484). -/
def State.xpCtrlCheck (s : State) (w : Nat) (v : Word) : Status :=
  let old := s.rd ⟨.XP_CTRL, w, 0⟩
  let en := F.XP_CTRL.ENABLE.fld.on v
  let src := F.XP_CTRL.SRC_PART.fld.get v
  let overlap := (List.range 64).any fun j => j != w && s.on F.XP_CTRL.ENABLE j && s.f F.XP_CTRL.SRC_PART j == src &&
    decide (s.f F.XP_SRC_BASE.PAGE j ≤ s.f F.XP_SRC_LIMIT.PAGE w) && decide (s.f F.XP_SRC_BASE.PAGE w ≤ s.f F.XP_SRC_LIMIT.PAGE j)
  firstStatus [
    (F.XP_CTRL.ENABLE.fld.on old && !(onlyClears F.XP_CTRL.ENABLE old v), .badState),
    (en && (src == F.XP_CTRL.TGT_PART.fld.get v || overlap), .badValue)]

/-- Whether the other registers of a window may be written (R484). -/
def State.xpOpen (s : State) (w : Nat) : Status := if s.on F.XP_CTRL.ENABLE w then .badState else .ok

end Sys2Proof.Machine
end

