-- ==== Sys2Proof/Machine/Lantern.lean ====
section
/-!
DEFINITION. Lantern (R495 to R507): its inputs, the energy pool and its division, frequency and voltage, heat, placement,
narrow ports, and the commands of its timers and of the regulators.
-/
namespace Sys2Proof.Machine

open Sys2Proof

/-- The state with Lantern's own state changed. -/
def State.modLantern (s : State) (g : LanternSt → LanternSt) : State := { s with lantern := g s.lantern }

/-- A die's event of the regulators and sensors: an occurrence of its source 16 to 28 (R496, R497, R501, R510). -/
def State.dieOccur (s : State) (d context : Nat) : State := s.occur (16 + d) .ok 0 context 0

/-! ### Inputs (R495, R497) -/

/-- Whether a reading excludes its sensor: outside -40 to 150 °C, or failing its parity check. -/
def badReading (i : TickInput) (k : Nat) (t : Int) : Bool := decide (t < -40) || decide (150 < t) || i.badSensors.contains k

/-- A sensor's reading taken: the sensor is excluded while its reading is bad, and each exclusion is counted. -/
def State.sensorTake (s : State) (i : TickInput) (r : Nat × Int) : State :=
  let k := r.1
  if badReading i k r.2 then
    if s.lantern.excluded.contains k then s
    else
      let s := s.modLantern fun x => { x with excluded := k :: x.excluded }
      (s.cnt .SENSOR_FAIL_COUNT).dieOccur (k / 16) k
  else
    let s := s.modLantern fun x => { x with
      temps := mset x.temps k r.2, excluded := x.excluded.filter (· != k) }
    if k < 64 then s.set F.LN_CL_STATUS.TEMP (ofSigned 8 r.2) k else s

/-- The valid sensors of a die. -/
def State.validSensors (s : State) (d : Nat) : List Nat :=
  (List.range 16).filter fun k => !(s.lantern.excluded.contains (16 * d + k))

/-- The highest valid temperature of a die; with fewer than 8 valid sensors the die counts as being at T_CRIT (R497). -/
def State.dieTemp (s : State) (d : Nat) : Int :=
  let vs := s.validSensors d
  if vs.length < 8 then s.f F.LN_THERMAL.T_CRIT
  else vs.foldl (fun a k => max a (mget s.lantern.temps (16 * d + k) 0)) (-40)

/-- A die's sensors, current and voltage of the ending tick noted in its status (R495). -/
def State.dieTake (s : State) (i : TickInput) (d : Nat) : State :=
  let a := mget i.currents d 0
  let c := mget s.lantern.currents d (0, 0)
  let s := s.modLantern fun x => { x with currents := mset x.currents d (c.1 + a, c.2 + 1) }
  let s := (s.set F.LN_DIE_STATUS.V_MEAS (mget i.volts d 0) d).set F.LN_DIE_STATUS.CURRENT a d
  (s.set F.LN_DIE_STATUS.TEMP (ofSigned 8 (s.dieTemp d)) d).set F.LN_DIE_STATUS.VALID_SENSORS (s.validSensors d).length d

/-! ### Heat (R502) -/

/-- Whether a die is in emergency. -/
def State.emergency (s : State) (d : Nat) : Bool := (s.f F.LN_STATUS.EMERGENCY).testBit d

/-- A die's emergency and warning at a turnover (R502). -/
def State.heatCheck (s : State) (d : Nat) : State :=
  let t := s.dieTemp d
  let a := s.f F.LN_DIE_STATUS.CURRENT d
  let icc := s.f F.LN_DIE_CFG.ICC_MAX d
  let crit := decide ((s.f F.LN_THERMAL.T_CRIT : Int) ≤ t) || decide (icc ≤ a)
  let calm := decide (t < (s.f F.LN_THERMAL.T_TARGET : Int)) && decide (8 * a < 7 * icc)
  let e := s.f F.LN_STATUS.EMERGENCY
  let s :=
    if s.emergency d then (if calm then s.set F.LN_STATUS.EMERGENCY (clrBit e d) else s)
    else if crit then ((s.set F.LN_STATUS.EMERGENCY (setBit e d)).cnt .EMERGENCY_COUNT).raise 1623
    else s
  let hot := decide ((s.f F.LN_THERMAL.T_WARN : Int) ≤ t)
  let was := s.lantern.warned.contains d
  if hot && !was then
    ((s.modLantern fun x => { x with warned := d :: x.warned }).cnt .THERMAL_WARN_COUNT).raise 1623
  else if !hot && was then s.modLantern fun x => { x with warned := x.warned.filter (· != d) }
  else s

/-! ### The pool and its division (R498, R499) -/

/-- The power of the package in W: the sum of v * i * gain over the dies. -/
def State.pMeas (s : State) : Nat :=
  (List.range 13).foldl (fun a d =>
    a + s.f F.LN_DIE_STATUS.V_MEAS d * s.f F.LN_DIE_STATUS.CURRENT d * s.f F.LN_DIE_GAIN.GAIN d) 0 / (1000 * 2 ^ 14)

/-- The sum of every floor, in tokens. -/
def State.poolFloor (s : State) : Nat :=
  (List.range 64).foldl (fun a c => a + s.f F.LN_CL_FREQ.ALLOT_FLOOR c) 0 +
    (List.range 16).foldl (fun a m => a + s.f F.LN_MV_FLOOR.MV_ALLOT_FLOOR m) 0

/-- An average moved towards a measure by its shift (R498). -/
def avgStep (avg p shift : Nat) : Nat := ((avg : Int) + ((p : Int) - (avg : Int)) / (2 ^ shift : Nat)).toNat % 2 ^ 32

/-- The averages, the room and the pool for the next tick (R498). -/
def State.poolUpdate (s : State) : State :=
  let p := s.pMeas
  let a := avgStep s.lantern.avgS p (s.fa F.LN_LIMITS.SUST_SHIFT)
  let b := avgStep s.lantern.avgB p (s.fa F.LN_LIMITS.BURST_SHIFT)
  let room : Int := min ((s.fa F.LN_LIMITS.P_SUST : Int) - a) ((s.fa F.LN_LIMITS.P_BURST : Int) - b)
  let floor := s.poolFloor
  let want : Int := (s.lantern.pool : Int) + room * 1000 / (2 ^ s.f F.LN_CTRL.GAIN_SHIFT : Nat)
  let pool := if s.on F.LN_CTRL.TOKEN_FREEZE then s.lantern.pool else min 250000 (max floor want.toNat)
  let s := s.modLantern fun x => { x with avgS := a, avgB := b, pool := pool, room := room }
  let s := ((s.set F.LN_POWER.P_MEAS p).set F.LN_POWER.AVG_S a).set F.LN_POWER.AVG_B b
  (s.set F.LN_POOL.POOL pool).set F.LN_POOL.FLOOR floor

/-- The tokens a unit spent, at least 1, with a quarter of its ALLOT more where a class of it was deferred (R499). -/
def demandOf (allot : Nat) (remain : Int) (deferred : Bool) : Nat :=
  max 1 ((allot : Int) - remain).toNat + (if deferred then allot / 4 else 0)

/-- A cluster's demand. -/
def State.clDemand (s : State) (c : Nat) : Nat :=
  demandOf (s.f F.CL_TOKENS.ALLOT c) (toSigned 32 (s.f F.CL_TOKENS.REMAIN c)) (s.deferred c 2 || s.deferred c 3)

/-- A mover's demand. -/
def State.mvDemand (s : State) (m : Nat) : Nat :=
  let below : Bool := decide (s.mvTokens m < (s.f F.MV_TOKENS.ALLOT m * max (s.f F.MV_CFG.P2_FLOOR m) (s.f F.MV_CFG.P3_FLOOR m) : Nat) * 2 ^ 6)
  demandOf (s.f F.MV_TOKENS.ALLOT m) (toSigned 32 (s.f F.MV_TOKENS.REMAIN m)) below

/-- The pool divided among clusters and movers: each its floor and a share of the rest by demand (R499). -/
def State.allotDivide (s : State) : State :=
  if s.on F.LN_CTRL.TOKEN_FREEZE then s
  else
    let total := (List.range 64).foldl (fun a c => a + s.clDemand c) 0 + (List.range 16).foldl (fun a m => a + s.mvDemand m) 0
    let rest := s.lantern.pool - s.poolFloor
    let s' := (List.range 64).foldl (fun t c =>
      t.set F.CL_TOKENS.ALLOT (s.f F.LN_CL_FREQ.ALLOT_FLOOR c + rest * s.clDemand c / total) c) s
    (List.range 16).foldl (fun t m =>
      t.set F.MV_TOKENS.ALLOT (s.f F.LN_MV_FLOOR.MV_ALLOT_FLOOR m + rest * s.mvDemand m / total) m) s'

/-- The token costs for the new tick (R499, R468). -/
def State.tokenCosts (s : State) : State :=
  let s := (List.range 64).foldl (fun s c =>
    s.set F.CL_TOKEN_COST.TOKEN_COST
      (Config.energy (c / 16) (s.f F.LN_DIE_STATUS.V_TARGET (c / 16)) (s.f F.LN_CL_STATUS.CODE c)) c) s
  (List.range 16).foldl (fun s m => s.set F.MV_TOKEN_COST.COST (Config.moverEnergy m) m) s

/-! ### Frequency and voltage (R500, R501) -/

/-- The highest CODE of a cluster: 0 on a hub die whose fuses failed (R539). -/
def State.fMax (s : State) (c : Nat) : Nat := if s.fuseBad (c / 16) then 0 else s.f F.LN_CL_FREQ.F_MAX c

/-- The engine cycles that a cluster's eight engines offer in a tick. -/
def offered (code : Nat) : Nat := 8 * (800 + 25 * code)

/-- The target CODE of a cluster (R500). -/
def State.codeTarget (s : State) (c : Nat) : Nat :=
  let code := s.f F.LN_CL_STATUS.CODE c
  let d := c / 16
  let t := s.dieTemp d
  let lo := s.f F.LN_CL_FREQ.F_MIN c
  let hi := s.fMax c
  let step := s.f F.LN_CTRL.FREQ_STEP
  let remain := toSigned 32 (s.f F.CL_TOKENS.REMAIN c)
  let room := s.lantern.room
  let down := decide ((s.f F.LN_THERMAL.T_TARGET : Int) ≤ t) ||
    (decide (room < 0) && s.lantern.pool == s.poolFloor) || (decide (remain ≤ 0) && s.lantern.urgent.contains c)
  let up := decide (t < (s.f F.LN_THERMAL.T_TARGET : Int) - (s.f F.LN_THERMAL.T_HYST : Int)) && decide (0 < room) &&
    decide (0 < remain) && decide (s.f F.LN_CTRL.UTIL_UP * offered code < 256 * mget s.lantern.issue c 0)
  if s.emergency d then lo
  else if s.on F.LN_CTRL.FREQ_FREEZE then code
  else
    let want := if down then code - step else if up then code + step else code
    let want := min hi (max lo want)
    if code < want then min want (code + step) else max want (code - step)

/-- The voltage of a hub die for the codes of its clusters, or of another die for its fixed clocks, within its limits
(R501, R539). -/
def State.dieVolt (s : State) (d : Nat) : Nat :=
  if s.fuseBad d ∧ d < 4 then 900
  else
    let base := if d < 4 then
      (List.range 16).foldl (fun a k =>
        let c := 16 * d + k
        max a (Config.vf d ((mfind s.lantern.rises c).getD (s.f F.LN_CL_STATUS.CODE c)))) 0
      else Config.vf d 0
    min (s.f F.LN_DIE_CFG.V_MAX d) (max (s.f F.LN_DIE_CFG.V_MIN d) (base + s.f F.LN_MISC.V_MARGIN))

/-- The rises of a die whose rail has been reported settled take force (R501). They wait while FREQ_FREEZE holds every CODE
(R500) or VOLT_FREEZE lets none rise (R501). -/
def State.riseDone (s : State) (d : Nat) : State :=
  if s.lantern.settled.contains d ∧ !(s.on F.LN_CTRL.FREQ_FREEZE) ∧ !(s.on F.LN_CTRL.VOLT_FREEZE) then
    let rs := s.lantern.rises.filter fun r => r.1 / 16 == d
    let s := rs.foldl (fun s r => (s.set F.LN_CL_STATUS.CODE r.2 r.1).set F.LN_CL_STATUS.RISE_PENDING 0 r.1) s
    s.modLantern fun x => { x with
      rises := x.rises.filter fun r => r.1 / 16 != d
      riseWait := mdel x.riseWait d, settled := x.settled.filter (· != d) }
  else s

/-- A cluster's step (R500, R501): a fall takes force at once and cancels its pending rise; a rise is noted, unless one is
pending on its die or VOLT_FREEZE is set. `busy` says that a rise was pending on the die before this turnover. -/
def State.codeStep (s : State) (busy : Nat → Bool) (c : Nat) : State :=
  let code := s.f F.LN_CL_STATUS.CODE c
  let want := s.codeTarget c
  let s := s.set F.LN_CL_STATUS.TARGET want c
  if want < code then
    ((s.set F.LN_CL_STATUS.CODE want c).set F.LN_CL_STATUS.RISE_PENDING 0 c).modLantern fun x => { x with rises := mdel x.rises c }
  else if code < want ∧ !(busy (c / 16)) ∧ !(s.on F.LN_CTRL.VOLT_FREEZE) then
    (s.set F.LN_CL_STATUS.RISE_PENDING 1 c).modLantern fun x => { x with rises := mset x.rises c want }
  else s

/-- A die's voltage request (R501), and the wait of a die with a pending rise. -/
def State.voltRequest (s : State) (d : Nat) : State :=
  let rising := s.lantern.rises.any fun r => r.1 / 16 == d
  let s := s.modLantern fun x => { x with
    riseWait := if rising then mset x.riseWait d (mget x.riseWait d 0 + 1) else mdel x.riseWait d }
  let v := s.dieVolt d
  if s.on F.LN_CTRL.VOLT_FREEZE ∨ v = s.f F.LN_DIE_STATUS.V_TARGET d then s
  else (s.set F.LN_DIE_STATUS.V_TARGET v d).emit (.avs d v)

/-- Frequency and voltage at a turnover (R500, R501). -/
def State.freqUpdate (s : State) : State :=
  let s := (List.range 4).foldl (fun s d => s.riseDone d) s
  let pend := s.lantern.rises
  let busy (d : Nat) : Bool := pend.any fun r => r.1 / 16 == d
  let s := (List.range 64).foldl (fun s c => s.codeStep busy c) s
  (List.range 13).foldl (fun s d => s.voltRequest d) s

/-- Every cluster of a hub die in emergency at F_MIN, whatever else holds (R502). -/
def State.emergencyClocks (s : State) : State :=
  (List.range 64).foldl (fun s c =>
    if s.emergency (c / 16) then
      ((s.set F.LN_CL_STATUS.CODE (s.f F.LN_CL_FREQ.F_MIN c) c).set F.LN_CL_STATUS.RISE_PENDING 0 c).modLantern fun x =>
        { x with rises := mdel x.rises c }
    else s) s

/-! ### Placement (R504) -/

/-- The coolest clusters first: the clusters of a list in order of their sensors, the lowest number among equals. -/
def State.byTemp (s : State) (cs : List Nat) : List Nat :=
  cs.foldr (fun c l =>
    let t := mget s.lantern.temps c 0
    (l.filter fun d => decide (mget s.lantern.temps d 0 < t)) ++ c :: l.filter fun d => decide (t ≤ mget s.lantern.temps d 0)) []

/-- The mask of a class at a turnover. -/
def State.placeMask (s : State) (q : Nat) : Nat :=
  if !((s.f F.LN_THERMAL.PLACE_CLASSES).testBit q) then 2 ^ 64 - 1
  else
    let old := s.f F.LN_PLACE_MASK.MASK q
    let lim : Int := (s.f F.LN_THERMAL.T_TARGET : Int) - (s.f F.LN_THERMAL.PLACE_MARGIN : Int)
    let t (c : Nat) : Int := mget s.lantern.temps c 0
    let keep := (List.range 64).filter fun c =>
      if old.testBit c then decide (t c ≤ lim) else decide (t c ≤ lim - (s.f F.LN_THERMAL.T_HYST : Int))
    let more := s.byTemp ((List.range 64).filter fun c => !(keep.contains c))
    (keep ++ more.take (s.f F.LN_THERMAL.PLACE_MIN - keep.length)).foldl (fun a c => a + 2 ^ c) 0

/-- The placement masks recomputed, each change counted (R504). -/
def State.placeUpdate (s : State) : State :=
  if s.on F.LN_CTRL.PLACE_FREEZE then s
  else (List.range 4).foldl (fun s q =>
    let m := s.placeMask q
    if m = s.f F.LN_PLACE_MASK.MASK q then s else (s.set F.LN_PLACE_MASK.MASK m q).cnt .PLACE_CHANGE_COUNT) s

/-! ### Narrow ports (R505) -/

/-- Whether Lantern looks after a port's width. -/
def State.narrowOn (s : State) (p : Nat) : Bool := s.on F.LN_PORT.NARROW_EN p && s.inService p && (s.port p).degradeOk

/-- The lane set of the width half the current one, if it is not below NARROW_MIN. -/
def State.narrower (s : State) (p : Nat) : Option Nat :=
  let w := s.f F.PORT_STATE.WIDTH p
  if w = 0 ∨ w - 1 < s.f F.LN_NARROW.NARROW_MIN then none
  else laneSetOf (s.f F.PORT_CTRL.WIDTH_CFG p == 3) (s.f F.PORT_STATE.LANE_SET p) (w - 1)

/-- The lane set a port widens back to: the resolved one, or what faults have left of it (R179, R505). -/
def State.wider (s : State) (p : Nat) : Option Nat :=
  let res := (s.port p).resLanes
  let good := res - (res &&& (s.port p).faultLanes)
  match widest (s.f F.PORT_CTRL.WIDTH_CFG p == 3) 15 good with
  | some (w, set) => if s.f F.PORT_STATE.WIDTH p < w then some set else none
  | none => none

/-- WIDEN sent for a wider lane set (R178, step 1). -/
def State.widenRequest (s : State) (p set : Nat) : State :=
  let n := ((s.port p).widthSeq + 1) % 256
  let s := s.modPort p fun x => { x with
    widthSeq := n, width := some ⟨2, true, n, set, false, false, false, false, false, false⟩ }
  (s.setLanes F.LANE_STATUS.POWERED_DOWN 0 (lanesIn p set)).widthColumn p 3 1 set n 0 0

/-- A port's utilisation at a turnover: the run of ticks of low use, and a widening where demand has appeared (R505). -/
def State.narrowStep (s : State) (i : TickInput) (p : Nat) : State :=
  if !(s.narrowOn p) then s
  else
    let u := mget i.columnUse p (0, 0)
    let low := decide (512 * u.1 ≤ s.f F.LN_NARROW.NARROW_LOW * u.2)
    let demand := (decide (0 < u.2) && decide (s.f F.LN_NARROW.WIDEN_HIGH * u.2 ≤ 256 * u.1)) ||
      decide (s.f F.LN_NARROW.WIDEN_CELLS < s.queuedAll p)
    let s := s.modPort p fun x => { x with narrowRun := if low then x.narrowRun + 1 else 0 }
    match s.wider p with
    | some set =>
      if demand && (s.port p).width.isNone && !(s.on F.LN_CTRL.NARROW_FREEZE) then s.widenRequest p set else s
    | none => s

/-- LANE_NARROW_REQUEST (R505). -/
def execLaneNarrowRequest (p : Fin 256) : State → Res :=
  whenRunning fun s =>
    match s.narrower p with
    | some set =>
      if s.narrowOn p && decide (s.f F.LN_NARROW.NARROW_TICKS ≤ (s.port p).narrowRun) && (s.port p).width.isNone &&
          !(s.on F.LN_CTRL.NARROW_FREEZE) then
        (s.modPort p fun x => { x with narrowRun := 0 }).widthRequest p 1 set
      else s
    | none => s

/-! ### Floors (R506, R507) -/

/-- Whether the QD1K is at its floors. -/
def State.atFloors (s : State) : Bool :=
  s.lantern.pool == s.poolFloor && (List.range 64).all fun c => s.f F.LN_CL_STATUS.CODE c == s.f F.LN_CL_FREQ.F_MIN c

/-- The runs of turnovers that R506 counts, and UNMET cleared. -/
def State.unmetUpdate (s : State) : State :=
  let short := decide (s.lantern.room < 0) && s.atFloors
  let fine := decide (0 ≤ s.lantern.room)
  let s := s.modLantern fun x => { x with
    unmetRun := if short then x.unmetRun + 1 else 0, metRun := if fine then x.metRun + 1 else 0 }
  if s.on F.LN_STATUS.UNMET && decide (s.f F.LN_MISC.UNMET_TICKS ≤ s.lantern.metRun) then s.set F.LN_STATUS.UNMET 0 else s

/-- POWER_LIMIT_UNMET (R506). -/
def execPowerLimitUnmet : State → Res :=
  whenRunning fun s =>
    if !(s.on F.LN_STATUS.UNMET) && decide (s.f F.LN_MISC.UNMET_TICKS ≤ s.lantern.unmetRun) then
      ((s.set F.LN_STATUS.UNMET 1).cnt .POWER_LIMIT_UNMET_COUNT).occur 11 .powerLimitUnmet 0 0 0
    else s

/-- SAFE_CLOCKS (R507): every cluster at F_MIN and every ALLOT at its floor. -/
def execSafeClocks : State → Res :=
  whenRunning fun s =>
    if !(s.on F.LN_STATUS.SAFE_CLOCKS) && decide (s.f F.LN_MISC.OVERRUN_SAFE ≤ s.lantern.lateRun) then
      let s := (List.range 64).foldl (fun s c =>
        ((s.set F.LN_CL_STATUS.CODE (s.f F.LN_CL_FREQ.F_MIN c) c).set F.LN_CL_STATUS.RISE_PENDING 0 c).set F.CL_TOKENS.ALLOT
          (s.f F.LN_CL_FREQ.ALLOT_FLOOR c) c) s
      let s := (List.range 16).foldl (fun s m => s.set F.MV_TOKENS.ALLOT (s.f F.LN_MV_FLOOR.MV_ALLOT_FLOOR m) m) s
      (s.modLantern fun x => { x with rises := [] }).set F.LN_STATUS.SAFE_CLOCKS 1
    else s

/-! ### The turnover -/

/-- What Lantern prepares in a tick and puts in force at its turnover, when it is on time. -/
def State.lanternCompute (s : State) (i : TickInput) : State :=
  let s := (s.modLantern fun x => { x with lateRun := 0 }).set F.LN_STATUS.SAFE_CLOCKS 0
  let s := s.poolUpdate
  let s := s.freqUpdate.allotDivide.tokenCosts.placeUpdate
  ((List.range 256).foldl (fun s p => s.narrowStep i p) s).unmetUpdate

/-- Lantern's part of a turnover, once the fuses have given it its tables: the inputs of the ending tick, emergencies, and
its computation, or with it late the values of the tick before (R507). -/
def State.lanternTurnover (s : State) (i : TickInput) : State :=
  if !s.sys.fusesLoaded then s
  else
    let s := i.temps.foldl (fun s r => s.sensorTake i r) s
    let s := (List.range 13).foldl (fun s d => (s.dieTake i d).heatCheck d) s
    let s :=
      if i.late.testBit 1 then (s.modLantern fun x => { x with lateRun := x.lateRun + 1 }).emergencyClocks
      else s.lanternCompute i
    s.modLantern fun x => { x with issue := [], urgent := [] }

/-! ### Regulators (R496, R501) -/

/-- A die's gain from a PMBus reading (R496). -/
def State.gainUpdate (s : State) (d : Nat) (iout : Option Nat) : State :=
  let c := mget s.lantern.currents d (0, 0)
  let fault (s : State) : State := (s.cnt .VR_FAULT_COUNT).dieOccur d d
  let s := s.modLantern fun x => { x with currents := mset x.currents d (0, 0) }
  match iout with
  | none =>
    let n := mget s.lantern.pmFails d 0 + 1
    let s := s.modLantern fun x => { x with pmFails := mset x.pmFails d (if n = 3 then 0 else n) }
    if n = 3 then fault s else s
  | some a =>
    let s := s.modLantern fun x => { x with pmFails := mdel x.pmFails d }
    if s.on F.LN_CTRL.GAIN_FREEZE then s
    else
      let g := a * c.2 * 2 ^ 14 / c.1
      if c.1 = 0 ∨ g < 3 * 2 ^ 12 ∨ 5 * 2 ^ 12 < g then fault s else s.set F.LN_DIE_GAIN.GAIN g d

/-- PMBUS_POLL (R496): the output current of each rail in A, or none where its read failed. -/
def execPmbusPoll (reads : List (Fin 13 × Option Nat)) : State → Res :=
  whenRunning fun s => reads.foldl (fun s r => s.gainUpdate r.1 r.2) s

/-- AVS_SETTLED (R501): the rail of a die with a pending rise is within 5 mV of its target. -/
def execAvsSettled (d : Fin 13) : State → Res :=
  whenRunning fun s =>
    if (s.lantern.rises.any fun r => r.1 / 16 == d.val) && !(s.lantern.settled.contains d.val) then
      s.modLantern fun x => { x with settled := d.val :: x.settled }
    else s

/-- V_SETTLE_TIMEOUT (R501): the rises of a die are abandoned. -/
def execVSettleTimeout (d : Fin 13) : State → Res :=
  whenRunning fun s =>
    let rs := s.lantern.rises.filter fun r => r.1 / 16 == d.val
    if !rs.isEmpty && !(s.lantern.settled.contains d.val) &&
        decide (s.f F.LN_MISC.V_SETTLE_TICKS ≤ mget s.lantern.riseWait d.val 0) then
      let s := rs.foldl (fun s r => s.set F.LN_CL_STATUS.RISE_PENDING 0 r.1) s
      let s := s.modLantern fun x => { x with
        rises := x.rises.filter fun r => r.1 / 16 != d.val, riseWait := mdel x.riseWait d.val
        settled := x.settled.filter (· != d.val) }
      (s.cnt .V_SETTLE_FAIL_COUNT).dieOccur d d
    else s

/-- The thermal trip (R503): THERMTRIP_N low, and the safe state unless it holds already. -/
def State.tripNow (s : State) (k : Nat) : State :=
  if s.sys.thermTrip then s
  else
    let s := if s.on F.FAULT_SUMMARY.SAFE_STATE then
      ({ s with sys := { s.sys with thermTrip := true } }).emit (.pin .thermtripN false) else s.safeState true
    s.faultMark 9 false .ok 9 k 0

/-- THERMAL_TRIP (R503): a valid sensor reads 110 °C. -/
def execThermalTrip (k : Fin 208) : State → Res :=
  whenPowered fun s => if s.lantern.excluded.contains k.val then s else s.tripNow k

end Sys2Proof.Machine
end

