-- ==== Sys2Proof/Machine/Fault.lean ====
section
/-!
DEFINITION. Fault sources and their reactions (R510 to R513, R516 to R519), bank retirement and the mirror (R520 to
R526), and FAULT_FORCE and FAULT_STATUS (R513, R531, R533).
-/
namespace Sys2Proof.Machine

open Sys2Proof

/-- Whether a requester's register writes are served: while the part runs, or in the safe state for the service
processor, which keeps running (R528). -/
def State.takesWrites (s : State) (rq : Requester) : Bool :=
  s.running || (!s.sys.coldHold && rq == Requester.serviceProcessor)

/-- A register write that is served. -/
def whenServed (rq : Requester) (g : State → State) (s : State) : Res := .next (if s.takesWrites rq then g s else s)

/-! ### Banks (R522 to R526) -/

/-- The fault state changed. -/
def State.modFlt (s : State) (g : FaultSt → FaultSt) : State := { s with flt := g s.flt }

/-- The lowest free spare bank of a hub die. -/
def State.freeBank (s : State) (d : Nat) : Option Nat :=
  firstNat 2 fun j => !((mget s.flt.spareBanks d []).contains j)

/-- DG_HUB's counts of a die's banks (R532). -/
def State.bankDegraded (s : State) (d : Nat) : State :=
  let lost := ((List.range 32).filter fun k => (s.bank (32 * d + k)).fromMirror).length
  (s.set F.DG_HUB.SPARE_BANKS_LEFT (2 - (mget s.flt.spareBanks d []).length) d).set F.DG_HUB.BANKS_FROM_MIRROR lost d

/-- The table granules of a bank as zeros (R524). -/
def State.zeroBank (s : State) (k : Nat) : State :=
  let mem := s.mem.filter fun c => !(decide (c.1 < tableEnd) && bankOf c.1 == k)
  { s with mem := ([0x01F00002, 0x01F00017].filter fun a => bankOf a == k).foldl (fun m a => memPut m a 0) mem }

/-- The granules of a bank in the exported regions read as poisoned (R523). -/
def State.poisonBank (s : State) (k : Nat) : State :=
  { s with poison := s.poison ++ (((List.range 96).map fun n => 0x3D000 + 128 * n + k).filter fun g =>
      !(s.poison.contains g)) }

/-- A descriptor cache copy lost with its bank (R523): an entry that has begun completes with ABORTED, another is read
again. -/
def State.entryLost (s : State) (e : EntryRef) : State :=
  match (s.ring e.fn e.ring).descs.find? fun d => d.idx == e.idx with
  | none => s
  | some d =>
    if d.begun then s.completeEntry e .aborted
    else
      (s.modRing e.fn e.ring fun x => { x with
        descs := x.descs.map fun y => if y.idx = e.idx then { y with data := none, failed := false } else y }).hostRead
          e.fn (s.entryAddr e.fn e.ring e.idx) 64

/-- Held writes of a bank released to the mirror in order (R521, R522). -/
def State.releaseBank (s : State) (k : Nat) : State :=
  let b := s.bank k
  let s := s.modFlt fun f => { f with banks := mset f.banks k { b with restoring := false, held := [] } }
  if s.on F.MIRROR_CFG.MIRROR_EN && s.on F.MIRROR_CFG.MIRROR_SYNCED then
    b.held.foldl (fun s w =>
      s.emit (.hostWrite (s.f F.MIRROR_CFG.MIRROR_FUNC) (s.f F.MIRROR_BASE.BASE * 4096 + w.1) w.2)) s
  else s

/-- A bank's granules mapped onto the lowest free spare of its die, where the restore starts, or served from the mirror
where there is none (R522, R525); its repair record (R542). -/
def State.bankMap (s : State) (k : Nat) : State :=
  let d := k / 32
  let b := s.bank k
  let phys := match b.onSpare with
    | some j => 32 + j
    | none => k % 32
  let used := mget s.flt.spareBanks d []
  let new : BankSt := match s.freeBank d with
    | some j => ⟨true, some j, false, true, b.held⟩
    | none => ⟨true, none, true, true, b.held⟩
  let used' := match s.freeBank d with
    | some j => j :: used
    | none => used
  let s := s.modFlt fun f => { f with
    spareBanks := mset f.spareBanks d used', banks := mset f.banks k new, repair := f.repair ++ [(1, d, phys)] }
  let s := (s.cnt .BANK_RETIRE_COUNT).bankDegraded d
  if (s.bank k).fromMirror then s.releaseBank k else s

/-- Whether a bank of a die is being restored. -/
def State.retiring (s : State) (d : Nat) : Bool :=
  (List.range 32).any fun k => (s.bank (32 * d + k)).restoring && !(s.flt.bankQueue.contains (32 * d + k))

/-- The reservations on the granules of a bank end when it is retired (R431). -/
def State.bankResv (s : State) (k : Nat) : State :=
  s.mapThreads fun _ x => match x.resv with
    | some g => if 64 * g < gsSize ∧ bankOf (64 * g) = k then { x with resv := none } else x
    | none => x

/-- The retirement of a bank (R522): held at once, the mirror flushed, and mapped onto a spare once no other bank of the
die is being retired (R526); what lay in it outside the table region is lost (R523), and without a synced mirror the
table granules too (R524). -/
def State.bankRetire (s : State) (k : Nat) (i : FaultInfo) : State :=
  if (s.bank k).fromMirror then s
  else
    let s := if s.on F.MIRROR_CFG.MIRROR_EN then
      s.emit (.hostFlush (s.f F.MIRROR_CFG.MIRROR_FUNC) (s.f F.MIRROR_BASE.BASE * 4096)) else s
    let s := if s.on F.MIRROR_CFG.MIRROR_SYNCED then s else s.zeroBank k
    let s := (s.poisonBank k).bankResv k
    let s := i.conns.foldl (fun s c => s.connError c .aborted none 0 0) s
    let s := i.entries.foldl (fun s e => s.entryLost e) s
    if s.retiring (k / 32) && !(s.bank k).restoring then
      let b := s.bank k
      s.modFlt fun f => { f with banks := mset f.banks k { b with failed := true, restoring := true }
                                 bankQueue := f.bankQueue ++ [k] }
    else s.bankMap k

/-- The next bank of a die that waits for its retirement (R526): those served from the mirror need no restore. -/
def State.nextRetire (s : State) (d : Nat) : State :=
  (s.flt.bankQueue.filter fun k => k / 32 == d).foldl (fun s k =>
    if s.retiring d then s
    else (s.modFlt fun f => { f with bankQueue := f.bankQueue.filter fun x => x != k }).bankMap k) s

/-- BANK_RESTORE_COMPLETE (R522, R526). -/
def execBankRestoreComplete (k : Fin 128) : State → Res :=
  whenRunning fun s =>
    if (s.bank k).restoring && !(s.flt.bankQueue.contains k.val) then (s.releaseBank k).nextRetire (k / 32) else s

/-! ### The mirror (R520, R521, R545) -/

/-- The copy of the whole table region to the mirror starts. -/
def State.mirrorStart (s : State) : State :=
  (s.set F.MIRROR_CFG.MIRROR_SYNCED 0).modFlt fun f => { f with mirrorCopying := true }

/-- The reaction to a mirror write that ended in an error: MIRROR_SYNCED clear, and the region copied again. -/
def State.mirrorError (s : State) : State :=
  if s.on F.MIRROR_CFG.MIRROR_EN then s.mirrorStart.cnt .MIRROR_RESYNC_COUNT else s.set F.MIRROR_CFG.MIRROR_SYNCED 0

/-- The failure of a fabric configuration record (R545). -/
def State.recordReject (s : State) (n : Nat) : State :=
  let s := (s.set F.BOOT_STATUS.FAIL 3).set F.BOOT_STATUS.REJECTED_RECORD n
  { s with sys := { s.sys with held := [] } }

/-- The port enables held back from the configuration records, in record order up to the first that is rejected
(R545). -/
def State.heldRelease : List (Nat × Nat × Word) → State → State
  | [], s => { s with sys := { s.sys with held := [] } }
  | (n, p, v) :: l, s =>
    if s.portCtrlCheck p v = .ok then
      ((s.portCtrlWrite p v).wsRecord .serviceProcessor .ok (Reg.offset ⟨.PORT_CTRL, p, 0⟩)).heldRelease l
    else (s.wsRecord .serviceProcessor (s.portCtrlCheck p v) (Reg.offset ⟨.PORT_CTRL, p, 0⟩)).recordReject n

/-- The checks of a write of MIRROR_CFG (R533, R576). -/
def State.mirrorCheck (s : State) (v : Word) : Status :=
  firstStatus [
    (s.on F.MIRROR_CFG.MIRROR_EN && F.MIRROR_CFG.MIRROR_FUNC.fld.get v != s.f F.MIRROR_CFG.MIRROR_FUNC, .badState),
    (setsRsv RegName.MIRROR_CFG.desc.fields v || !(s.fnLegal (F.MIRROR_CFG.MIRROR_FUNC.fld.get v)), .badValue)]

/-- An accepted write of MIRROR_CFG: setting MIRROR_EN starts the copy and releases the held enables; clearing it ends the
mirror's use. -/
def State.mirrorWrite (s : State) (v : Word) : State :=
  let was := s.on F.MIRROR_CFG.MIRROR_EN
  let reg : Reg := ⟨.MIRROR_CFG, 0, 0⟩
  let s := s.wr reg (fieldsAfter RegName.MIRROR_CFG.desc.fields (s.rd reg) v)
  if F.MIRROR_CFG.MIRROR_EN.fld.on v then
    if was then s
    else
      let s := s.mirrorStart
      if s.sys.held.isEmpty then s else (State.heldRelease s.sys.held s).set F.BOOT_STATUS.ENABLES_RELEASED 1
  else (s.set F.MIRROR_CFG.MIRROR_SYNCED 0).modFlt fun f => { f with mirrorCopying := false }

/-- MIRROR_ENABLE (R521): a write of MIRROR_CFG that sets MIRROR_EN. -/
def execMirrorEnable (rq : Requester) (v : Word) : State → Res :=
  whenServed rq fun s =>
    let v := F.MIRROR_CFG.MIRROR_EN.fld.set v 1
    s.writeAs rq (Reg.offset ⟨.MIRROR_CFG, 0, 0⟩) (if rq.manages then s.mirrorCheck v else .notPermitted) fun s =>
      s.mirrorWrite v

/-- MIRROR_SYNC_COMPLETE (R521): the whole region has been copied. -/
def execMirrorSyncComplete : State → Res :=
  whenRunning fun s =>
    if s.flt.mirrorCopying then
      ((s.emit (.mirrorCopy (s.f F.MIRROR_CFG.MIRROR_FUNC) (s.f F.MIRROR_BASE.BASE * 4096))).set
        F.MIRROR_CFG.MIRROR_SYNCED 1).modFlt fun f => { f with mirrorCopying := false }
    else s

/-- MIRROR_WRITE_ERROR (R521). -/
def execMirrorWriteError : State → Res :=
  whenRunning fun s =>
    if s.on F.MIRROR_CFG.MIRROR_EN then s.occur 29 .ok 0 (s.f F.MIRROR_BASE.BASE * 4096) 0 State.mirrorError else s

/-! ### The reactions of the units (R510) -/

/-- A buffered packet with an uncorrectable error is ended: an ABORT where it is being sent (R192), its charge freed. -/
def State.packetEnd (s : State) (id : Nat) : State :=
  match s.core.pkts.find? fun k => k.id == id with
  | none => s
  | some k =>
    let s := k.branches.foldl (fun s b =>
      let s := if decide (b.out < 256) && (s.port b.out).txNow == some (id, b.enq) then s.abortTx b.out true else s
      s.unstage b.out id b.enq) s
    if k.complete then s.releasePkt k
    else
      (s.modCore fun c => { c with pkts := c.pkts.filter fun x => x.id != id }).modPort k.inp fun x => { x with
        rxNow := x.rxNow.map fun r => { r with kept := false } }

/-- The headers a match pipeline holds, and the packets held for them, discarded unmarked (R311). -/
def State.pipeLoss (s : State) (pipe : Nat) : State :=
  let mine := s.mat.held.filter fun h => h.pipe == pipe
  let mat : MatchSt := { s.mat with held := s.mat.held.filter fun h => h.pipe != pipe }
  mine.foldl (fun s h => s.modConn h.conn fun x => { x with
    heldPkts := x.heldPkts.filter fun p => p.msn != h.msn }) { s with mat := mat }

/-- Every entry of a TLB discarded: TLB number t below 64 a cluster's, from 64 on that of an IE port. -/
def State.tlbLoss (s : State) (t : Nat) : State :=
  let key := if t < 64 then (0, t) else (1, t - 64)
  { s with xl := { s.xl with tlb := s.xl.tlb.filter fun p => !(p.1.1 == key.1 && p.1.2.1 == key.2) } }

/-- A lock unit's waiters answered BUSY and its owned words released with ABANDONED (R444). -/
def State.lockUnitLoss (s : State) (u : Nat) : State :=
  let ws := s.lock.waiters.filter fun w => lockUnit w.off == u
  let lock : LockSt := { s.lock with waiters := s.lock.waiters.filter fun w => lockUnit w.off != u }
  let s := ws.foldl (fun s w => s.lockAnswer w.ident lockBusyWord) { s with lock := lock }
  (s.lock.owned.filter fun o => lockUnit o == u).foldl (fun s o => (s.lockPass o true).cnt .LOCK_ABANDON_COUNT) s

/-- A mesh column that has failed is recorded for the next reset (R527, R542). -/
def State.columnLoss (s : State) (d col : Nat) : State :=
  (s.modFlt fun f => { f with failedColumns := f.failedColumns ++ [16 * d + col], repair := f.repair ++ [(2, d, col)] }).set
    F.DG_HUB.COLUMN_PENDING 1 d

/-- The reaction of unit k of hub die h (R510). -/
def State.hubUnit (s : State) (h k : Nat) (c : Nat) : State :=
  match k with
  | 0 => s.packetEnd c
  | 1 => s.connError c .aborted none 0 0
  | 2 => { s with jobs := { s.jobs with rttCache := s.jobs.rttCache.map fun (x : Nat × List (Nat × Nat)) =>
      if x.1 / 4 = h then (x.1, x.2.filter fun e => e.1 != c) else x } }
  | 3 => s.pipeLoss (4 * h + c % 4)
  | 4 => s.collAbort (c % 2 ^ 14) (c / 2 ^ 14 % 2 ^ 16) Status.aborted.code true
  | 5 => s.mvError (4 * h + c % 4)
  | 6 => s.tlbLoss (if c < 64 then 16 * h + c % 16 else 64 + 4 * h + c % 4)
  | _ => s.lockUnitLoss (16 * h + c % 16)

/-- The reaction of unit k of die X (R510): an internal error reported at the port in CONTEXT, or HOLDOVER. -/
def State.xUnit (s : State) (k c : Nat) : State :=
  match k with
  | 0 => s.aerSet (c % 40) aerInternal
  | 1 => s.rpState 3
  | _ => s

/-- The reaction of a PCIe port (R485, R488): DPC of a downstream port, or an internal error to the owner. -/
def State.hpReact (s : State) (n cause : Nat) : State :=
  if s.hpRole n = 2 then (if s.on F.EB_PORT_STATUS.DPC_ACTIVE n then s else s.dpcReact n cause)
  else s.aerSet n aerInternal

/-- The reaction shown for a source (R510). -/
def State.faultReact (s : State) (src : Nat) (i : FaultInfo) : State :=
  let c := i.context.toNat
  if src ≤ 10 then s
  else if src = 11 then (s.set F.LN_STATUS.UNMET 1).cnt .POWER_LIMIT_UNMET_COUNT
  else if src ≤ 28 then s
  else if src = 29 then s.mirrorError
  else if src = 30 then s.packetEnd c
  else if src = 31 then s
  else if src ≤ 543 then
    if src % 2 = 0 then s.laneFault ((src - 32) / 2)
    else if s.pstate ((src - 33) / 2) = 6 then
      (s.cnt .LINK_DOWN_COUNT ((src - 33) / 2)).enterDetect ((src - 33) / 2) 7
    else s
  else if src ≤ 1055 then
    if s.on F.ENG_STATUS.FENCED (src - 544) && !(s.eng.reloading.contains (src - 544)) then s else s.fenceEngine (src - 544)
  else if src ≤ 1119 then s.bankRetire (2 * (src - 1056) + c % 2) i
  else if src ≤ 1159 then s.hpReact (src - 1120) (i.info.toNat % 4)
  else if src ≤ 1191 then s.hubUnit ((src - 1160) / 8) ((src - 1160) % 8) c
  else s.xUnit (src - 1192) c

/-- The ACTION of a source's record (R514). -/
def State.faultAction (s : State) (src : Nat) : Nat :=
  if src ≤ 9 then 9
  else if src = 10 then 10
  else if src = 11 then 0
  else if src ≤ 15 then 5
  else if src ≤ 29 then 0
  else if src = 30 then 10
  else if src ≤ 543 then (if src % 2 = 0 then 3 else 4)
  else if src ≤ 1055 then (if (s.freeSpare ((src - 544) / 128)).isSome then 1 else 2)
  else if src ≤ 1119 then (if (s.freeBank ((src - 1056) / 16)).isSome then 6 else 7)
  else if src ≤ 1159 then (if s.hpRole (src - 1120) = 2 then 8 else 0)
  else if src ≤ 1191 then 10
  else if src = 1194 then 10 else 0

/-- An occurrence of a source (R512): its reaction, or the safe state where its class is fatal; then the status bit, the
record and the event. In the safe state the units that react are stopped. A failed mesh column is recorded first (R527);
the thermal trip drives its pin (R503). -/
def State.faultOccur (s : State) (src : Nat) (forced : Bool) (i : FaultInfo) : State :=
  if src = 31 ∨ 1200 ≤ src then s
  else
    let st := Status.ofCode i.status
    let c := i.context.toNat
    let n := i.info.toNat
    let s := if 4 ≤ src ∧ src ≤ 7 then s.columnLoss (src - 4) (c % 9) else s
    if s.classOf src = 3 then
      if src = 9 then s.tripNow c else (s.safeState false).faultMark src forced st 9 c n
    else if s.running then (s.faultReact src i).faultMark src forced st (s.faultAction src) c n
    else s.faultMark src forced st 0 c n

/-- FAULT_OCCURRENCE (R510, R512). -/
def execFaultOccurrence (src : Fin 1200) (i : FaultInfo) : State → Res :=
  whenPowered fun s => s.faultOccur src false i

/-- The check of a write of FAULT_FORCE (R513). -/
def forceCheck (rq : Requester) (src : Nat) (act : Bool) : Status :=
  firstStatus [
    (!rq.manages, .notPermitted),
    (act && (src == 9 || decide (1200 ≤ src)), .notPermitted),
    (decide (1200 ≤ src) || src == 31, .badValue)]

/-- The effect of FAULT_FORCE with GO set: with ACT the reaction is taken, without it the occurrence is only recorded. -/
def State.forceFault (s : State) (src : Nat) (act : Bool) : State :=
  if act then s.faultOccur src true ⟨0, 0, 0, [], []⟩ else s.faultMark src true .ok 0 0 0

/-- FAULT_FORCE (R513). -/
def execFaultForce (rq : Requester) (src : BitVec 11) (act : Bool) : State → Res :=
  whenServed rq fun s =>
    s.writeAs rq (Reg.offset ⟨.FAULT_FORCE, 0, 0⟩) (forceCheck rq src.toNat act) fun s => s.forceFault src.toNat act

/-- The check of a write of FAULT_STATUS[w] (R531, R533). -/
def State.statusClearCheck (s : State) (w : Nat) (v : Word) : Status :=
  let hit := s.f F.FAULT_STATUS.STATUS w &&& v.toNat
  firstStatus [
    ((bitsOf hit 64).any fun k => s.classOf (64 * w + k) == 3, .badState),
    (w == 18 && decide (2 ^ 48 ≤ v.toNat), .badValue)]

/-- Bits of FAULT_STATUS[w] cleared, with ERR_N as they leave it (R530, R531). -/
def State.statusClear (s : State) (w : Nat) (v : Word) : State :=
  (s.set F.FAULT_STATUS.STATUS (s.f F.FAULT_STATUS.STATUS w &&& (2 ^ 64 - 1 - v.toNat)) w).errUpdate

/-- FAULT_STATUS_CLEAR (R13, R530, R531). -/
def execFaultStatusClear (rq : Requester) (w : Fin 19) (v : Word) : State → Res :=
  whenServed rq fun s =>
    s.writeAs rq (Reg.offset ⟨.FAULT_STATUS, w, 0⟩) (if rq.manages then s.statusClearCheck w v else .notPermitted) fun s =>
      s.statusClear w v

/-- The checks of FAULT_CTRL and FAULT_CLASS (R511, R533). -/
def faultCtrlBad (v : Word) : Bool :=
  setsRsv RegName.FAULT_CTRL.desc.fields v || F.FAULT_CTRL.ERR_MIN_CLASS.fld.get v == 0 ||
    F.FAULT_CTRL.BANK_CE_LIMIT.fld.get v == 0 || decide (F.FAULT_CTRL.WATCHDOG_CK.fld.get v < 4096)

/-- Whether a value of FAULT_CLASS[w] has a field of 0 or below the default class of its source. -/
def faultClassBad (w : Nat) (v : Word) : Bool :=
  (List.range 32).any fun k =>
    let c := v.toNat / 2 ^ (2 * k) % 4
    c == 0 || decide (c < defaultClass (32 * w + k))

end Sys2Proof.Machine
end

