-- ==== Sys2Proof/Machine/Boot.lean ====
section
/-!
DEFINITION. Cold reset and what ends it (R534 to R542, R593, R596, R598), the engine and port resets (R549 to R553), and
the repair records (R542).
-/
namespace Sys2Proof.Machine

open Sys2Proof

/-- The inputs of the board changed. -/
def State.modSys (s : State) (g : SysSt → SysSt) : State := { s with sys := g s.sys }

/-! ### Cold reset (R535, R550) -/

/-- The pins that a cold reset drives back: ERR_N and THERMTRIP_N released, every DEV_PERST_N low (R530, R536, R598). -/
def State.coldPins (s : State) : List Out :=
  (if s.on F.FAULT_SUMMARY.ERR_N then [Out.pin .errN true] else []) ++
  (if s.sys.thermTrip then [Out.pin .thermtripN true] else []) ++
  s.pcie.devPerst.map fun n => Out.pin (.devPerstN n) false

/-- The part in cold reset (R535, R550): everything at its reset value but the fuses of R562, the repair records (R542),
the board's inputs, and what has left the part. -/
def State.coldReset (s : State) (cause : Nat) : State :=
  let sys : SysSt := { sysResetN := s.sys.sysResetN, railOk := s.sys.railOk, sprefOk := s.sys.sprefOk
                       frefStopped := s.sys.frefStopped, activation := s.sys.activation, coldHold := true }
  let flt : FaultSt := { repair := if s.flt.repairErase then [] else s.flt.repair }
  let pcie : PcieSt := { perstUp := s.pcie.perstUp }
  let t : State := { State.reset with
    regs := [(⟨.SEC_FUSES, 0, 0⟩, s.rd ⟨.SEC_FUSES, 0, 0⟩)]
    sys := sys, flt := flt, pcie := pcie, out := s.out ++ s.coldPins, draws := s.draws, pending := s.pending }
  t.set F.RST_CAUSE.CAUSE cause

/-- SYS_RESET_ASSERT (R535): SYS_RESET_N goes low. -/
def execSysResetAssert : State → Res :=
  fun s => .next ((s.modSys fun x => { x with sysResetN := false }).coldReset 1)

/-- RAIL_UNDERVOLTAGE (R593): the part holds itself in cold reset, whatever the level of SYS_RESET_N. The cause is that of
power-up (DEDUCED, assumption log 60). -/
def execRailUndervoltage : State → Res :=
  fun s => .next ((s.modSys fun x => { x with railOk := false }).coldReset 0)

/-- SPREF_LOSS (R596): treated as SYS_RESET_N low. -/
def execSprefLoss : State → Res :=
  fun s => .next ((s.modSys fun x => { x with sprefOk := false }).coldReset 1)

/-! ### Fuses and identity (R537 to R540) -/

/-- A die's identity latched; a die whose three reads have failed raises source 1,199 (R538, R539). -/
def State.fuseDie (s : State) (d : Nat) (f : DieFuses) : State :=
  let s := (s.wr ⟨.ID_DIE_A, d, 0⟩ (BitVec.ofNat 64 f.ident.toNat)).set F.ID_DIE_B.FUSE_CHECK f.check.toNat d
  let s := s.set F.ID_DIE_B.FUSE_OK (b2n f.ok) d
  let l := Config.dieLimit d
  let s := ((s.set F.LN_DIE_CFG.ICC_MAX l.1 d).set F.LN_DIE_CFG.V_MIN l.2.1 d).set F.LN_DIE_CFG.V_MAX l.2.2 d
  if f.ok then s else s.occur 1199 .ok 0 d 0

/-- The package serial (R540). -/
def pkgSerial (dies : List DieFuses) (seq : Nat) : Nat :=
  (lget dies 0 ⟨0, 0, false⟩).ident.toNat % 2 ^ 57 + seq * 2 ^ 57

/-- The fuse load at the release of SYS_RESET_N: identities, the package serial, the address of the Delholt port (R558),
the key hashes taken by majority, and the security fuses, which only ever gain bits and rise (R543). -/
def State.fuseLoad (s : State) (x : ColdStart) : State :=
  let s := (List.range 13).foldl (fun s d => s.fuseDie d (lget x.dies d ⟨0, 0, false⟩)) s
  let serial := pkgSerial x.dies x.pkgSeq
  let s := (s.set F.PKG_SERIAL.SERIAL serial).set F.DH_MAC.MAC (2 * 2 ^ 40 + serial % 2 ^ 40)
  let s := s.set F.SEC_FUSES.KEY_REVOKED (s.f F.SEC_FUSES.KEY_REVOKED ||| x.revoked.val)
  let s := s.set F.SEC_FUSES.MIN_SVN (max (s.f F.SEC_FUSES.MIN_SVN) x.minSvn.val)
  s.modSys fun y => { y with fusesLoaded := true, keyOk := [x.keyOk.1, x.keyOk.2] }

/-- The activation of an updated slot at this cold reset (R562): the minimum SVN raised where the manifest asks for it,
and a key slot revoked where the image uses the other. -/
def State.activate (s : State) : State :=
  match s.sys.activation with
  | none => s
  | some im =>
    let s := if im.svnCommit then s.set F.SEC_FUSES.MIN_SVN (max (s.f F.SEC_FUSES.MIN_SVN) im.svn) else s
    let s := match im.revoke with
      | some k => if k = im.keySlot then s
        else s.set F.SEC_FUSES.KEY_REVOKED (setBit (s.f F.SEC_FUSES.KEY_REVOKED) k)
      | none => s
    s.modSys fun x => { x with activation := none }

/-! ### Self-test and repair (R541, R542) -/

/-- The units of a kind (0 engines, 1 banks, 2 mesh columns) of a die that its repair records name. -/
def State.repaired (s : State) (kind d : Nat) : List Nat :=
  (s.flt.repair.filter fun r => r.1 == kind && r.2.1 == d).map fun r => r.2.2

/-- A failed logical engine given the lowest spare of its die that is free (R516, R541): with none it stays fenced. -/
def State.repairEngine (s : State) (d e : Nat) : State :=
  match s.freeSpare d with
  | some k =>
    let s := s.modFlt fun f => { f with spareBusy := (d, k) :: f.spareBusy, physical := mset f.physical e (128 + k) }
    (s.set F.ENG_STATUS.SPARE_IN_USE 1 e).set F.ENG_STATUS.PHYSICAL (128 + k) e
  | none => s.set F.ENG_STATUS.FENCED 1 e

/-- A failed logical bank given the lowest free spare of its die, without a restore, or served from the mirror (R522,
R525, R541). -/
def State.repairBank (s : State) (d k : Nat) : State :=
  match s.freeBank d with
  | some j => s.modFlt fun f => { f with
      spareBanks := mset f.spareBanks d (j :: mget f.spareBanks d [])
      banks := mset f.banks k ⟨true, some j, false, false, []⟩ }
  | none => s.modFlt fun f => { f with banks := mset f.banks k ⟨true, none, true, false, []⟩ }

/-- The repair of a hub die's mesh: one failed column is mapped onto the spare; two put the part into the safe state with
the die's source 4 to 7 (R527, R541). -/
def State.repairMesh (s : State) (d : Nat) (cols : List Nat) : State :=
  let bad := (List.range 9).filter fun c => cols.contains c
  let s := (s.set F.DG_HUB.COLUMN_PENDING 0 d).set F.DG_HUB.SPARE_COLUMN_IN_USE (b2n (bad.any fun c => decide (c < 8))) d
  if 2 ≤ bad.length then (s.safeState false).faultMark (4 + d) false .ok 9 (lget bad 1 0) 0 else s

/-- The self-test of a hub die and its repair (R541). -/
def State.repairDie (s : State) (d : Nat) (t : SelfTest) : State :=
  let engs := (List.range 136).filter fun e => t.engines.contains e || (s.repaired 0 d).contains e
  let banks := (List.range 34).filter fun k => t.banks.contains k || (s.repaired 1 d).contains k
  let deadSpares := (engs.filter fun e => decide (128 ≤ e)).map fun e => (d, e - 128)
  let deadBanks := (banks.filter fun k => decide (32 ≤ k)).map fun k => k - 32
  let s := s.modFlt fun f => { f with
    spareDead := f.spareDead ++ deadSpares
    spareBanks := if deadBanks.isEmpty then f.spareBanks else mset f.spareBanks d deadBanks }
  let s := (engs.filter fun e => decide (e < 128)).foldl (fun s e => s.repairEngine d (128 * d + e)) s
  let s := (banks.filter fun k => decide (k < 32)).foldl (fun s k => s.repairBank d (32 * d + k)) s
  ((s.engDegraded d).bankDegraded d).repairMesh d (t.columns ++ s.repaired 2 d)

/-- The self-tests of the four hub dies (R541). -/
def State.selfTests (s : State) (ts : List SelfTest) : State :=
  (List.range 4).foldl (fun s d => s.repairDie d (lget ts d ⟨[], [], []⟩)) s

/-! ### The end of a cold reset -/

/-- Whether anything still holds the part in cold reset. -/
def State.coldHeld (s : State) : Bool := !s.sys.sysResetN || !s.sys.railOk || !s.sys.sprefOk

/-- The cold reset ends once nothing holds it (R535, R537): the fuses are loaded, a QD1K with a good die X goes on to
boot, the hub dies repair themselves, and a sensor still at 110 °C trips again (R598). -/
def State.coldEnd (s : State) (x : ColdStart) : State :=
  if s.coldHeld then s
  else
    let s := s.modSys fun y => { y with coldHold := false }
    if s.sys.fusesLoaded then s
    else
      let s := (s.fuseLoad x).activate
      let s := if s.on F.ID_DIE_B.FUSE_OK 12 then s.set F.BOOT_STATUS.STATE 1
        else (s.set F.BOOT_STATUS.STATE 3).set F.BOOT_STATUS.FAIL 2
      let s := s.selfTests x.tests
      match x.hot with
      | some k => s.tripNow k
      | none => s

/-- SYS_RESET_RELEASE (R537, R541, R598): SYS_RESET_N goes high. From the state after reset of this model, in which the
pin is high and the fuses are not yet loaded, it is what loads them. -/
def execSysResetRelease (x : ColdStart) : State → Res :=
  fun s => .next ((s.modSys fun y => { y with sysResetN := true }).coldEnd x)

/-- RAIL_RECOVERY (R593): the part's own hold ends. -/
def execRailRecovery (x : ColdStart) : State → Res :=
  fun s => .next (if s.sys.railOk then s else (s.modSys fun y => { y with railOk := true }).coldEnd x)

/-- SPREF_RETURN (R596): the core clock PLL locks again, and the cold reset that its loss caused ends. -/
def execSprefReturn (x : ColdStart) : State → Res :=
  fun s => .next (if s.sys.sprefOk then s else (s.modSys fun y => { y with sprefOk := true }).coldEnd x)

/-! ### The fabric references (R596) -/

/-- FREF_LOSS (R596): every lane of the die loses CDR lock. -/
def execFrefLoss (k : Fin 8) : State → Res :=
  fun s =>
    if s.sys.frefStopped.contains k.val then .next s
    else
      let s := s.modSys fun x => { x with frefStopped := k.val :: x.frefStopped }
      .next (if s.running then (List.range 128).foldl (fun s i => s.cdrLost (128 * k + i)) s else s)

/-- FREF_RETURN (R596): the lanes of the die may regain CDR lock. -/
def execFrefReturn (k : Fin 8) : State → Res :=
  fun s => .next (s.modSys fun x => { x with frefStopped := x.frefStopped.filter (· != k.val) })

/-! ### Engine and port resets (R551 to R553) -/

/-- The check of a write of RST_CMD with GO set (R553, R605). -/
def State.rstCheck (s : State) (rq : Requester) (ty target : Nat) : Status :=
  firstStatus [
    (!rq.manages, .notPermitted),
    (ty == 2 && s.on F.ENG_STATUS.FENCED target, .badState),
    (ty == 3 && decide (target < 256) && s.inService target, .portInService),
    (ty == 0 || (ty == 3 && decide (256 ≤ target)), .badValue)]

/-- An engine reset (R551): its threads and locks as at a fence, its registers at their reset values, its code loaded
from the master copies, its stacks, event areas and sampling buffer cleared; its supervisor data stays. -/
def State.engineReset (s : State) (e : Nat) : State :=
  let s := s.loseThreads e
  let data := memGets s.mem (lmBase e + 0x1F000) 0x1000
  let s := s.loadCode e
  let s : State := { s with mem := memPuts s.mem (lmBase e + 0x1F000) data }
  let s := s.clearRegs fun r => r.i == e && (r.name == .SAMPLE_CFG || r.name == .SAMPLE_PTR)
  { s with eng := { s.eng with sampleLeft := mdel s.eng.sampleLeft e
                               sampleRaised := s.eng.sampleRaised.filter (· != e)
                               yielded := mdel s.eng.yielded e } }

/-- A port reset (R552): DETECT with a fresh start. A port whose ENABLE is clear stays DISABLED. -/
def State.portReset (s : State) (p : Nat) : State :=
  if s.on F.PORT_CTRL.ENABLE p then (s.restart p 1).dropLink p else s.dropLink p

/-- RST_ENGINE (R551, R553). -/
def execRstEngine (rq : Requester) (e : Fin 512) : State → Res :=
  whenServed rq fun s => s.writeAs rq (Reg.offset ⟨.RST_CMD, 0, 0⟩) (s.rstCheck rq 2 e) fun s =>
    if s.running then s.engineReset e else s

/-- RST_PORT (R552, R553). -/
def execRstPort (rq : Requester) (p : Fin 256) : State → Res :=
  whenServed rq fun s => s.writeAs rq (Reg.offset ⟨.RST_CMD, 0, 0⟩) (s.rstCheck rq 3 p) fun s =>
    if s.running then s.portReset p else s

/-- REPAIR_CLEAR (R542): the records go at the next reset. -/
def execRepairClear (rq : Requester) : State → Res :=
  whenServed rq fun s =>
    s.writeAs rq (Reg.offset ⟨.REPAIR_CMD, 0, 0⟩) (if rq.reaches then .ok else .notPermitted) fun s =>
      s.modFlt fun f => { f with repairErase := true }

/-! ### The image to boot (R543) -/

/-- Whether a slot is valid (R543): its key is one of the fused, not revoked and with two agreeing copies of its hash;
its signature and components hold; its SVN reaches the minimum. -/
def State.imageValid (s : State) (im : SlotImage) : Bool :=
  im.keyMatches && lget s.sys.keyOk im.keySlot false && !((s.f F.SEC_FUSES.KEY_REVOKED).testBit im.keySlot) &&
    im.signature && im.digests && decide (s.f F.SEC_FUSES.MIN_SVN ≤ im.svn)

/-- The slot booted (R543): the valid one of higher SEQUENCE, slot A when they are equal. -/
def State.bootSlot (s : State) (a b : Option SlotImage) : Option (Nat × SlotImage) :=
  let a := a.filter fun im => s.imageValid im
  let b := b.filter fun im => s.imageValid im
  match a, b with
  | some x, some y => if x.sequence < y.sequence then some (1, y) else some (0, x)
  | some x, none => some (0, x)
  | none, some y => some (1, y)
  | none, none => none

end Sys2Proof.Machine
end

