-- ==== Sys2Proof/Machine/Mgmt.lean ====
section
/-!
DEFINITION. The service processor's interfaces (R556 to R563), EV_FORCE (R568), and the performance counters' registers
(R570, R571).
-/
namespace Sys2Proof.Machine

open Sys2Proof

/-! ### Events and counters -/

/-- The check of EV_FORCE with GO set: sources below 1,200 are forced by FAULT_FORCE, and the reserved ones are never
raised (R564, R568, R572). -/
def evForceCheck (rq : Requester) (src : Nat) : Status :=
  firstStatus [(!rq.manages, .notPermitted), (decide (src < 1200), .notPermitted), (decide (1696 ≤ src), .badValue)]

/-- EV_FORCE (R568). -/
def execEvForce (rq : Requester) (src : BitVec 11) : State → Res :=
  whenServed rq fun s =>
    s.writeAs rq (Reg.offset ⟨.EV_FORCE, 0, 0⟩) (evForceCheck rq src.toNat) fun s => s.raise src.toNat

/-- A tick-scoped register written: its preparing bank, published at the next turnover (R35, R570). -/
def State.wrTick (s : State) (r : Reg) (v : Word) : State :=
  let s := s.wr r v
  if s.unpublished.contains r then s else { s with unpublished := s.unpublished ++ [r] }

/-- Whether an instance number lies in a unit's range on hub die h: n of them from n * h on, and the same number is used
across the package. -/
def onHub (n h inst : Nat) : Bool := inst / n == h && decide (inst < 4 * n)

/-- Whether a hub die counts an event (R570). -/
def hubEvent (ev : Nat) : Bool :=
  [0x01, 0x02, 0x03, 0x10, 0x11, 0x12, 0x20, 0x21, 0x22, 0x30, 0x40, 0x41, 0x50, 0x51, 0x60, 0x70, 0x80].contains ev

/-- Whether an instance of an event lies on hub die h (R570). -/
def hubInstance (ev h inst : Nat) : Bool :=
  match ev with
  | 0x01 | 0x02 | 0x03 => decide (inst < 272) && quarterOf inst == h
  | 0x10 | 0x11 | 0x12 => onHub 64 h inst
  | 0x20 | 0x21 | 0x22 | 0x30 => onHub 16 h inst
  | 0x80 => onHub 16 h inst || (decide (64 ≤ inst) && onHub 4 h (inst - 64))
  | _ => onHub 4 h inst

/-- Whether PC_SEL of counter i may not hold a value (R570, R573). -/
def pcSelBad (i : Nat) (v : Word) : Bool :=
  let ev := F.PC_SEL.EVENT.fld.get v
  let inst := F.PC_SEL.INSTANCE.fld.get v
  let all := F.PC_SEL.ALL_INSTANCES.fld.on v
  setsRsv RegName.PC_SEL.desc.fields v ||
    (if pcDie i < 4 then !(hubEvent ev) || (!all && !(hubInstance ev (pcDie i) inst))
     else if ev = 0xB0 then false
     else !([0xA0, 0xA1, 0xA2].contains ev) || (!all && decide (40 ≤ inst)))

/-- PC_SEL_WRITE (R570). -/
def execPcSelWrite (rq : Requester) (i : Fin 144) (v : Word) : State → Res :=
  whenServed rq fun s =>
    let st := firstStatus [(!rq.reaches, .notPermitted), (pcSelBad i v, .badValue)]
    s.writeAs rq (Reg.offset ⟨.PC_SEL, i, 0⟩) st fun s => s.wrTick ⟨.PC_SEL, i, 0⟩ v

/-- RUN of PC_CTRL written, for the next turnover on. -/
def State.pcRun (s : State) (v : Nat) : State :=
  s.wrTick ⟨.PC_CTRL, 0, 0⟩ (F.PC_CTRL.RUN.fld.set (s.rd ⟨.PC_CTRL, 0, 0⟩) v)

/-- A snapshot asked for; one that already waits is merged with it. -/
def State.pcSnap (s : State) : State := { s with mgmt := { s.mgmt with snapWait := true } }

/-- PC_RUN (R570). -/
def execPcRun (rq : Requester) (run : Bool) : State → Res :=
  whenServed rq fun s =>
    s.writeAs rq (Reg.offset ⟨.PC_CTRL, 0, 0⟩) (if rq.reaches then .ok else .notPermitted) fun s => s.pcRun (b2n run)

/-- PC_SNAP (R571). -/
def execPcSnap (rq : Requester) : State → Res :=
  whenServed rq fun s =>
    s.writeAs rq (Reg.offset ⟨.PC_CTRL, 0, 0⟩) (if rq.reaches then .ok else .notPermitted) State.pcSnap

/-- PC_VALUE_WRITE (R570): the value stored; the counts of its CK and of the later ones are added to it. -/
def execPcValueWrite (rq : Requester) (i : Fin 144) (v : Word) : State → Res :=
  whenServed rq fun s =>
    let st := firstStatus [(!rq.reaches, .notPermitted), (setsRsv RegName.PC_VALUE.desc.fields v, .badValue)]
    s.writeAs rq (Reg.offset ⟨.PC_VALUE, i, 0⟩) st fun s => s.wr ⟨.PC_VALUE, i, 0⟩ v

/-! ### Cable modules (R563) -/

/-- The module states of CMIS: ModuleReady (PRESUMED: CMIS 5, assumption log 61). -/
def moduleReady : Nat := 3

/-- A poll of a valid module site: MOD_STATUS follows, a change of state raises the module event, and a module that POWER_EN
wants is brought towards ModuleReady. -/
def State.modulePoll (s : State) (q : Fin 256 × ModulePoll) : State :=
  let k := q.1.val
  let m := q.2
  if !(s.on F.MOD_SITE.VALID k) then s
  else
    let v : Word := BitVec.ofNat 64 (b2n m.present + 2 * m.state.val + 16 * b2n m.flag)
    let changed := s.rd ⟨.MOD_STATUS, k, 0⟩ != v
    let s : State := { s with mgmt := { s.mgmt with modTemp := mset s.mgmt.modTemp k (m.temp, s.tick) } }
    let s := if changed then (s.wr ⟨.MOD_STATUS, k, 0⟩ v).raise 1626 else s
    if s.on F.MOD_SITE.POWER_EN k && m.present && m.state.val != moduleReady then
      s.emit (.mgmt 18 [BitVec.ofNat 8 k])
    else s

/-- MODULE_POLL (R563): the poll of every 100 ms. -/
def execModulePoll (polls : List (Fin 256 × ModulePoll)) : State → Res :=
  whenPowered fun s => polls.foldl (fun s q => s.modulePoll q) s

/-- MOD_INT_FALL (R563): the sites of the master whose MOD_INT_N has fallen are polled at once. -/
def execModIntFall (m : Fin 16) (polls : List (Fin 256 × ModulePoll)) : State → Res :=
  whenPowered fun s =>
    (polls.filter fun q => s.f F.MOD_SITE.MASTER q.1 == m.val).foldl (fun s q => s.modulePoll q) s

/-! ### MCTP and PLDM (R559 to R562) -/

/-- Whether the service processor answers on a path: SMBus, or the VDMs of an enabled partition whose bit is set. -/
def State.pathOpen (s : State) (path : Nat) : Bool :=
  path == 0 || (s.on F.EB_PART_CFG.ENABLE (path - 1) && (s.f F.MCTP_VDM_PARTS.PARTS).testBit (path - 1))

/-- MCTP_MESSAGE (R559): a message answered on the path it came by. -/
def execMctpMessage (path : Fin 17) (reply : List Byte) : State → Res :=
  whenPowered fun s => if s.pathOpen path then s.emit (.mgmt path reply) else s

/-- The reading of a sensor with its tick, if it is a sensor that has been read (R560). -/
def State.sensor (s : State) (k : Nat) : Option (Int × Nat) :=
  if k < 208 then (mfind s.lantern.temps k).map fun t => (t, s.tick)
  else if k < 221 then some ((s.f F.LN_DIE_STATUS.CURRENT (k - 208) : Int), s.tick)
  else if k < 234 then some ((s.f F.LN_DIE_STATUS.V_MEAS (k - 221) : Int), s.tick)
  else if k = 234 then some ((s.f F.LN_POWER.P_MEAS : Int), s.tick)
  else mfind s.mgmt.modTemp (k - 256)

/-- Whether a number is that of a sensor (R560). -/
def isSensor (k : Nat) : Bool := decide (k ≤ 234) || (decide (256 ≤ k) && decide (k ≤ 511))

/-- The die whose identity a sensor's record carries (R561). -/
def sensorDie (k : Nat) : Nat :=
  if k < 208 then k / 16 else if k < 221 then k - 208 else if k < 234 then k - 221 else 12

/-- The identity of a die as records carry it (R514, R538). -/
def State.identity (s : State) (d : Nat) : Nat :=
  (s.rd ⟨.ID_DIE_A, d, 0⟩).toNat % 2 ^ 63 + s.f F.ID_DIE_B.FUSE_CHECK d * 2 ^ 64

/-- A telemetry record (R561). -/
def State.telemetry (s : State) (k : Nat) (value : Int) (tick : Nat) : BitVec 512 :=
  let r := L.TEL.VALUE.set (L.TEL.SENSOR.set (0 : BitVec 512) k) (ofSigned 32 value)
  L.TEL.IDENTITY.set (L.TEL.TICK.set r tick) (s.identity (sensorDie k))

/-- PLDM_GET_TELEMETRY (R561): the record of a sensor on the path of the request. The value of a sensor that has not been
read yet is free. -/
def execPldmGetTelemetry (path : Fin 17) (k : BitVec 16) : State → Res :=
  whenPowered fun s =>
    if s.pathOpen path && isSensor k.toNat then
      match s.sensor k.toNat with
      | some q => s.emit (.mgmt path (leBytes 64 (s.telemetry k.toNat q.1 q.2).toNat))
      | none =>
        let r := s.drawNat
        r.2.emit (.mgmt path (leBytes 64 (r.2.telemetry k.toNat (r.1 : Int) s.tick).toNat))
    else s

/-- PLDM_FIRMWARE_UPDATE (R562): only the slot not booted is written; a slot that fails R543 is erased; a valid one is
activated at the next cold reset. -/
def execPldmFirmwareUpdate (slot : Fin 2) (im : SlotImage) : State → Res :=
  whenPowered fun s =>
    if s.sys.image.isSome ∧ s.f F.BOOT_STATUS.SLOT = slot.val then s
    else
      let s := s.emit (.flash slot (some im))
      if s.imageValid im then s.modSys fun x => { x with activation := some im }
      else (s.emit (.flash slot none)).modSys fun x => { x with activation := none }

/-- PLDM_EVENT_ACK (R560): the record of a SEQ that the ring still holds is acknowledged. -/
def execPldmEventAck (seq : BitVec 32) : State → Res :=
  whenPowered fun s =>
    match mfind s.flt.log (seq.toNat % 1024) with
    | some r =>
      if L.FLR.SEQ.get r = seq.toNat ∧ ¬ s.flt.ackedSeq.contains seq.toNat then
        s.modFlt fun f => { f with ackedSeq := f.ackedSeq ++ [seq.toNat] }
      else s
    | none => s

/-! ### The Delholt port (R557, R558) -/

/-- DELHOLT_FRAME_RECEIVE (R558): a frame for DH_MAC, broadcast, or for a multicast address that firmware has set is
accepted; every other frame is dropped. -/
def execDelholtFrameReceive (dst : BitVec 48) (listed : Bool) (frame : List Byte) : State → Res :=
  whenPowered fun s =>
    let mcast := dst.toNat.testBit 40 && listed
    if s.on F.DH_STATUS.LINK_UP && (dst.toNat == s.f F.DH_MAC.MAC || dst.toNat == 2 ^ 48 - 1 || mcast) then
      { s with mgmt := { s.mgmt with frames := s.mgmt.frames ++ [frame] } }
    else s

/-- DELHOLT_LINK_CHANGE (R557): what the PHY reports (speed 0 10, 1 100, 2 1,000 Mb/s); in SGMII a speed other than
1 Gb/s keeps the link down. A change of state raises the link change event. -/
def execDelholtLinkChange (up an : Bool) (speed : Fin 3) : State → Res :=
  whenPowered fun s =>
    let slow := s.on F.DH_CFG.MODE && up && speed.val != 2
    let v : Word := BitVec.ofNat 64 (b2n (up && !slow) + 2 * b2n an + 4 * b2n slow)
    if s.rd ⟨.DH_STATUS, 0, 0⟩ = v then s else (s.wr ⟨.DH_STATUS, 0, 0⟩ v).raise 1627

end Sys2Proof.Machine
end

