-- ==== Sys2Proof/Machine/RegWrite.lean ====
section
/-!
DEFINITION. Register reads and writes through the windows (R12 to R14, R577 to R589, R605): who may write a register, when,
with which values, and what the write does; and what a read returns of registers whose fields the QD1K works out.
-/
namespace Sys2Proof.Machine

open Sys2Proof

/-- The state that a meaning goes on in. -/
def runOn (g : State → Res) (s : State) : State :=
  match g s with
  | .next t => t
  | _ => s

/-- The value of a field in a written value. -/
def fv (f : RegFld) (v : Word) : Nat := f.fld.get v

/-- Whether a one-bit field is set in a written value. -/
def fo (f : RegFld) (v : Word) : Bool := f.fld.on v

/-! ### Permission -/

/-- Whether a requester may not write a register (R375, R451, R511, R533, R545, R553, R555, R572, R573, R607). -/
def State.regDenied (s : State) (rq : Requester) (r : Reg) : Bool :=
  match r.name with
  | .EB_FMF_CFG => rq != .serviceProcessor
  | .SYS_BIND | .SAMPLE_CFG => !(s.supervises rq)
  | .RST_CMD => !rq.manages
  | n =>
    match n.desc.block with
    | .ebB | .fltB | .evB => !rq.manages
    | .spbB => rq != .serviceProcessor
    | .mvB => !(s.mvAllows rq)
    | _ => !rq.reaches

/-! ### The state of a register's object (BAD_STATE) -/

/-- Whether a function has a connection, or a key that is valid or being revoked. -/
def State.fnConnKey (s : State) (f : Nat) : Bool :=
  (s.xp.conns.any fun p => p.2.fn == f) ||
    (List.range (s.f F.FUNC_KEY_RANGE.KEY_COUNT f)).any fun k =>
      let st := s.keyState (s.f F.FUNC_KEY_RANGE.KEY_BASE f + k)
      st == 1 || st == 2

/-- Whether a function has a valid trigger counter. -/
def State.fnTrg (s : State) (f : Nat) : Bool :=
  (List.range (s.f F.FUNC_TRIG_RANGE.TRIG_COUNT f)).any fun k => L.TRG.VALID.on (s.trg (s.f F.FUNC_TRIG_RANGE.TRIG_BASE f + k))

/-- Whether a function has a posted entry: one of its rings holds an entry that has not completed. -/
def State.fnPosted (s : State) (f : Nat) : Bool :=
  s.rings.any fun e => e.1.1 == f && s.ringOn f e.1.2 && s.pi f e.1.2 != s.cpi f e.1.2

/-- Whether any key of a Groundsheet region is valid or being revoked. -/
def State.gsKeyValid (s : State) : Bool :=
  s.mem.any fun c => decide (keyBase ≤ c.1) && decide (c.1 < mcgBase) &&
    (let k := s.key ((c.1 - keyBase) / 16)
     L.KEY.GS.on k && (L.KEY.STATE.get k == 1 || L.KEY.STATE.get k == 2))

/-- Whether a domain of the function exists, or is in overflow. -/
def State.fnDomain (s : State) (f : Nat) (ovf : Bool) : Bool :=
  s.mat.domains.any fun d => d.fn == f && (!ovf || d.overflow)

/-- Whether the state of a device register's object refuses a write (R62, R113, R127, R215, R425, R447, R452, R478, R484,
R533). -/
def State.regState (s : State) (r : Reg) (v : Word) : Bool :=
  match r.name with
  | .NODE_COORD | .DIM_CFG => s.anyInService
  | .DR_CFG => (List.range 256).any fun p => s.inService p && s.portDim p == r.i
  | .PORT_ROUTE => s.inService r.i
  | .CREDIT_INIT_A | .CREDIT_INIT_B => decide (r.i < 256) && s.inService r.i
  | .LL_CFG => s.oddOfX8 r.i
  | .XL_CTRL => fv F.XL_CTRL.GS_EXPORT_SIZE v != s.f F.XL_CTRL.GS_EXPORT_SIZE && s.gsKeyValid
  | .XL_ASID_ROOT => s.on F.XL_ASID_CFG.VALID r.i
  | .MIRROR_BASE => s.on F.MIRROR_CFG.MIRROR_EN
  | .CH_SRC | .CH_DST | .CH_SHAPE | .CH_SRC_STRIDE01 | .CH_SRC_STRIDE2 | .CH_DST_STRIDE01 | .CH_DST_STRIDE2 | .CH_CTRL
  | .CH_LOCK | .CH_RECORD => s.chState r.i r.j != 0
  | .SVF_ID | .SVF_BAR => s.on F.SVF_CTRL.ENABLE r.i
  | .XP_SRC_BASE | .XP_SRC_LIMIT | .XP_TGT_BASE => s.on F.XP_CTRL.ENABLE r.i
  | _ => false

/-- Whether the state of a function's own register refuses the function's write (R218, R249, R297, R327). -/
def State.ownState (s : State) (r : Reg) (v : Word) : Bool :=
  s.inReset r.i ||
  match r.name with
  | .RING_ADDR | .RING_SHADOW | .RING_DB_WORD => s.ringOn r.i r.j
  | .CTX_ADDR => s.xp.conns.any fun p => p.2.fn == r.i
  | .MATCH_OVF_ADDR | .MATCH_OVF_SIZE => s.fnDomain r.i true
  | .MATCH_CFG =>
    let en := fo F.MATCH_CFG.UX_EN v
    let ring := fv F.MATCH_CFG.UX_RING v
    ((en != s.on F.MATCH_CFG.UX_EN r.i || ring != s.f F.MATCH_CFG.UX_RING r.i) && s.fnDomain r.i false) ||
      (en && !(s.ringIs r.i ring 2))
  | _ => false

/-! ### Illegal values (R14) -/

/-- The sum of the widths of the enabled dimensions with DIM_CFG[d] holding `v`, and whether they are enabled
contiguously from D0 (R58, R60). -/
def State.dimsWith (s : State) (d : Nat) (v : Word) : Nat × Bool :=
  let on (e : Nat) : Bool := if e = d then fo F.DIM_CFG.ENABLE v else s.on F.DIM_CFG.ENABLE e
  let size (e : Nat) : Nat := if e = d then fv F.DIM_CFG.SIZE v else s.dimSize e
  ((List.range 4).foldl (fun a e => if on e then a + clog2 (size e) else a) 0,
   (List.range 3).all fun e => on e || !(on (e + 1)))

/-- The eight credit values of a core port with one of its registers holding `v` (R127). -/
def State.creditsWith (s : State) (r : Reg) (v : Word) : List Nat :=
  (s.wr r v) |> fun t => (List.range 8).map fun c => t.creditInit r.i c

/-- Illegal credit values (R127). -/
def State.creditBad (s : State) (r : Reg) (v : Word) : Bool :=
  let c := s.creditsWith r v
  let eight := decide (256 ≤ r.i) || s.on F.PORT_CTRL.VC8 r.i
  decide (2048 < c.sum) ||
    (if eight then c.any fun x => decide (x < 72)
     else (List.range 4).any fun k => decide (lget c (2 * k) 0 + lget c (2 * k + 1) 0 < 72))

/-- Illegal values of PORT_ROUTE (R83, R84). -/
def State.portRouteBad (s : State) (p : Nat) (v : Word) : Bool :=
  let d := fv F.PORT_ROUTE.DIM v
  let t := fv F.PORT_ROUTE.TARGET v
  let b := fv F.PORT_ROUTE.BUNDLE v
  let mates := (List.range 256).filter fun q => q != p && s.on F.PORT_ROUTE.ROUTE_EN q && s.f F.PORT_ROUTE.BUNDLE q == b
  !(s.dimOn d) ||
    (if s.isRing d then decide (1 < t) else t == s.fldOf s.own d || decide (s.dimSize d ≤ t)) ||
    (fo F.PORT_ROUTE.ROUTE_EN v &&
      (decide (8 ≤ mates.length) || mates.any fun q => s.portDim q != d || s.portTarget q != t))

/-- Illegal values in the registers of coordinates, time, routing and the switch core (R49, R57, R82, R112, R147). -/
def State.badFabric (s : State) (r : Reg) (v : Word) : Bool :=
  match r.name with
  | .DIM_CFG =>
    let n := fv F.DIM_CFG.SIZE v
    let w := s.dimsWith r.i v
    decide (n < (if fo F.DIM_CFG.SHAPE v then 3 else 2)) || decide (64 < n) || !w.2 || decide (20 < w.1)
  | .RP_CONTROL =>
    fv F.RP_CONTROL.MAX_STRATUM v == 0 || fv F.RP_CONTROL.MAX_STRATUM v == 255 || fv F.RP_CONTROL.ROOT_SOURCE v == 3
  | .RP_SERVO => fv F.RP_SERVO.PHASE_TICKS v == 0 || decide (31 < fv F.RP_SERVO.RATE_SHIFT v)
  | .ROUTE_CONTROL => fv F.ROUTE_CONTROL.HOP_LIMIT v == 0
  | .GUYLINE_CFG => fv F.GUYLINE_CFG.GL_QUANTUM v == 0 || fv F.GUYLINE_CFG.GL_STALE_LEVEL v == 15
  | .DR_CFG => fv F.DR_CFG.DATELINE_POS v != 63 && decide (s.dimSize r.i ≤ fv F.DR_CFG.DATELINE_POS v)
  | .ROUTE_WEIGHTS =>
    decide (fv F.ROUTE_WEIGHTS.W_HOP_MAX v < fv F.ROUTE_WEIGHTS.W_HOP_MIN v) ||
      decide (fv F.ROUTE_WEIGHTS.DR_HIGH v < fv F.ROUTE_WEIGHTS.DR_LOW v)
  | .PORT_ROUTE => s.portRouteBad r.i v
  | .BUF_CFG => decide (fv F.BUF_CFG.OCC_HIGH v ≤ fv F.BUF_CFG.OCC_LOW v)
  | .MARK_CFG => fv F.MARK_CFG.MARK_TARGET_NS v == 0 || decide (fv F.MARK_CFG.K_MAX v < fv F.MARK_CFG.K_MIN v)
  | .HOT_CFG => decide (fv F.HOT_CFG.HOT_MARKS v < 2) || fv F.HOT_CFG.HOT_COOL v == 0
  | .TC_BUF =>
    let lo := fv F.TC_BUF.ALPHA_MIN v
    let hi := fv F.TC_BUF.ALPHA_MAX v
    let i := fv F.TC_BUF.ALPHA_INIT v
    lo == 0 || decide (hi < lo) || decide (i < lo) || decide (hi < i)
  | .CREDIT_INIT_A | .CREDIT_INIT_B => s.creditBad r v
  | .QUANTUM => (List.range 6).any fun t => Fld.get ⟨8 * t + 7, 8 * t⟩ v == 0
  | .PORT_SHAPER => decide (fv F.PORT_SHAPER.BURST v < fv F.PORT_SHAPER.RATE v)
  | .TC_SHAPER => decide (fv F.TC_SHAPER.BURST v < fv F.TC_SHAPER.RATE v)
  | _ => false

/-- Illegal values in the registers of ports, lanes and the link layer (R186, R215). -/
def badPort (n : RegName) (v : Word) : Bool :=
  match n with
  | .PORT_TRAIN_CFG =>
    let ber := fv F.PORT_TRAIN_CFG.BER_LIMIT v
    let pre := fv F.PORT_TRAIN_CFG.PRESET v
    fv F.PORT_TRAIN_CFG.NEG_TIMEOUT_MS v == 0 || fv F.PORT_TRAIN_CFG.EQ_TIMEOUT_MS v == 0 ||
      fv F.PORT_TRAIN_CFG.VERIFY_US v == 0 || ber == 0 || decide (1000 < ber) || pre == 0 || decide (5 < pre)
  | .PORT_TEST_CFG =>
    decide (4 < fv F.PORT_TEST_CFG.TEST_MODE v) || decide (5 < fv F.PORT_TEST_CFG.PATTERN v) ||
      fv F.PORT_TEST_CFG.TEST_MS v == 0
  | .LANE_CFG =>
    let w := fv F.LANE_CFG.EYE_WINDOW v
    fv F.LANE_CFG.REMOTE_TUNE_TICKS v == 0 || decide (w < 64) || decide (1536 < w)
  | .LANE_PRBS_CFG => decide (fv F.LANE_PRBS_CFG.INJECT_EXP v < 10) || decide (5 < fv F.LANE_PRBS_CFG.PATTERN v)
  | .LL_CFG =>
    let us := fv F.LL_CFG.LINK_DOWN_US v
    fv F.LL_CFG.REPLAY_TICKS v == 0 || fv F.LL_CFG.RETRAIN_REPLAYS v == 0 || us == 0 || decide (1000 < us) ||
      decide (fv F.LL_CFG.ACK_COALESCE_NS v < 16) || decide (fv F.LL_CFG.NAK_HOLDOFF_NS v < 100)
  | _ => false

/-- Illegal values in the registers of transport, matching, collectives, locks, translation and the engines (R298, R327,
R328, R350, R375, R447, R449). -/
def badService (n : RegName) (v : Word) : Bool :=
  match n with
  | .TP_CC_CFG =>
    let lo := fv F.TP_CC_CFG.W_MIN v
    let hi := fv F.TP_CC_CFG.W_MAX v
    let i := fv F.TP_CC_CFG.W_INIT v
    let sh := fv F.TP_CC_CFG.MD_SHIFT v
    lo == 0 || decide (4096 < lo) || decide (hi < lo) || decide (4096 < hi) || decide (i < lo) || decide (hi < i) ||
      fv F.TP_CC_CFG.AI v == 0 || sh == 0 || decide (8 < sh)
  | .TP_RTO_CFG =>
    let lo := fv F.TP_RTO_CFG.RTO_MIN v
    let hi := fv F.TP_RTO_CFG.RTO_MAX v
    let i := fv F.TP_RTO_CFG.RTO_INIT v
    decide (lo < 2) || decide (hi < lo) || decide (i < lo) || decide (hi < i) || fv F.TP_RTO_CFG.RETRY_LIMIT v == 0
  | .TP_RETRY_CFG => fv F.TP_RETRY_CFG.RNR_TICKS v == 0 || fv F.TP_RETRY_CFG.ROUTE_FAIL_LIMIT v == 0
  | .MATCH_CTRL =>
    let m := fv F.MATCH_CTRL.SPEC_MAX v
    let h := fv F.MATCH_CTRL.HOLD_LIMIT v
    m == 0 || decide (64 < m) || h == 0 || decide (16384 < h)
  | .MATCH_CFG => decide (65536 < fv F.MATCH_CFG.EAGER_LIMIT v)
  | .COLL_CFG =>
    let l := fv F.COLL_CFG.STAGE_LIMIT v
    fv F.COLL_CFG.SLICE_WINDOW v == 0 || fv F.COLL_CFG.STAGE_TIMEOUT v == 0 || l == 0 || decide (516096 < l)
  | .LOCK_CFG => fv F.LOCK_CFG.HOST_WAIT_US v == 0
  | .XL_CTRL =>
    let c := fv F.XL_CTRL.CPL_TIMEOUT_MS v
    let p := fv F.XL_CTRL.PARK_MAX v
    c == 0 || decide (64 < c) || p == 0 || decide (64 < p) || decide (3072 < fv F.XL_CTRL.GS_EXPORT_SIZE v)
  | .XL_INV_VA => fv F.XL_INV_VA.COUNT v == 0
  | .CL_CFG =>
    decide (28 < fv F.CL_CFG.RESERVE_P0 v + fv F.CL_CFG.RESERVE_P1 v) ||
      decide (fv F.CL_CFG.P3_FLOOR v < fv F.CL_CFG.P2_FLOOR v)
  | .SAMPLE_CFG =>
    let e := fv F.SAMPLE_CFG.PERIOD_EXP v
    let w := fv F.SAMPLE_CFG.WATERMARK v
    fv F.SAMPLE_CFG.SAMPLE_MODE v == 3 || decide (e < 8) || decide (24 < e) || w == 0 || decide (128 < w)
  | .FUNC_CFG =>
    let d := fv F.FUNC_CFG.FETCH_DEPTH v
    d == 0 || decide (32 < d) || fv F.FUNC_CFG.STAMP_RETRY v == 0
  | _ => false

/-- Whether the FUNC field of a mover register names no function that may serve it (R453, R576). -/
def State.chFuncBad (s : State) (gs : Bool) (f : Nat) : Bool := if gs then !(s.fnAssigned f) else !(s.fnLegal f)

/-- Illegal values in the registers of the movers, the expansion-bus windows, Lantern, modules and counters (R468, R484,
R509, R533, R563, R570). -/
def State.badUnit (s : State) (r : Reg) (v : Word) : Bool :=
  match r.name with
  | .MV_CFG =>
    let m := fv F.MV_CFG.MAX_INFLIGHT v
    m == 0 || decide (32 < m) || decide (fv F.MV_CFG.P3_FLOOR v < fv F.MV_CFG.P2_FLOOR v)
  | .CH_SRC => s.chFuncBad (fo F.CH_SRC.GS v) (fv F.CH_SRC.FUNC v)
  | .CH_DST => s.chFuncBad (fo F.CH_DST.GS v) (fv F.CH_DST.FUNC v)
  | .CH_RECORD => s.chFuncBad (fo F.CH_RECORD.GS v) (fv F.CH_RECORD.FUNC v)
  | .XP_SRC_LIMIT => decide (fv F.XP_SRC_LIMIT.PAGE v < s.f F.XP_SRC_BASE.PAGE r.i)
  | .LN_CTRL => fv F.LN_CTRL.FREQ_STEP v == 0 || decide (56 < fv F.LN_CTRL.FREQ_STEP v)
  | .LN_LIMITS =>
    decide (fv F.LN_LIMITS.P_SUST v < 600) || decide (fv F.LN_LIMITS.P_BURST v < fv F.LN_LIMITS.P_SUST v) ||
      decide (fv F.LN_LIMITS.SUST_SHIFT v < fv F.LN_LIMITS.BURST_SHIFT v)
  | .LN_THERMAL =>
    let c := fv F.LN_THERMAL.T_CRIT v
    let m := fv F.LN_THERMAL.PLACE_MIN v
    fv F.LN_THERMAL.T_HYST v == 0 || decide (c ≤ fv F.LN_THERMAL.T_WARN v) || decide (110 ≤ c) ||
      decide (c ≤ fv F.LN_THERMAL.T_TARGET v) || m == 0 || decide (64 < m)
  | .LN_NARROW =>
    decide (fv F.LN_NARROW.WIDEN_HIGH v ≤ fv F.LN_NARROW.NARROW_LOW v) || fv F.LN_NARROW.NARROW_TICKS v == 0 ||
      fv F.LN_NARROW.NARROW_MIN v == 3
  | .LN_MISC =>
    fv F.LN_MISC.PMBUS_MS v == 0 || fv F.LN_MISC.UNMET_TICKS v == 0 || fv F.LN_MISC.OVERRUN_SAFE v == 0 ||
      fv F.LN_MISC.V_SETTLE_TICKS v == 0
  | .LN_CL_FREQ =>
    let hi := fv F.LN_CL_FREQ.F_MAX v
    decide (56 < hi) || decide (hi < fv F.LN_CL_FREQ.F_MIN v)
  | .LN_DIE_CFG =>
    let lim := Config.dieLimit r.i
    decide (lim.1 < fv F.LN_DIE_CFG.ICC_MAX v) || decide (fv F.LN_DIE_CFG.V_MIN v < lim.2.1) ||
      decide (lim.2.2 < fv F.LN_DIE_CFG.V_MAX v)
  | .MOD_SITE => fv F.MOD_SITE.SLOTS v == 0 || decide (8 < fv F.MOD_SITE.SLOTS v)
  | .PC_OVF => r.i == 2 && decide (2 ^ 16 ≤ v.toNat)
  | .FAULT_CTRL => faultCtrlBad v
  | .FAULT_CLASS => faultClassBad r.i v
  | _ => false

/-- Whether an accepted write of a plain register would hold an illegal value. -/
def State.regBad (s : State) (r : Reg) (v : Word) : Bool :=
  s.badFabric r v || badPort r.name v || badService r.name v || s.badUnit r v

/-! ### EV_ROUTE (R564, R565) -/

/-- The partition that owns a source: those of functions, and those of a private PCIe port's partition. -/
def State.sourcePart (s : State) (src : Nat) : Option Nat :=
  if 1472 ≤ src ∧ src < 1520 then some (src % 16)
  else if 1520 ≤ src ∧ src < 1560 ∧ s.hpRole (src - 1520) = 2 ∧ !(s.hpShared (src - 1520)) then
    some (s.hpPart (src - 1520))
  else none

/-- Whether a function lies in a partition; the fabric management function does where it is placed there (R607). -/
def State.fnInPart (s : State) (f p : Nat) : Bool :=
  if f = fmf then s.fmfPlaced && s.fa F.EB_FMF_CFG.FMF_PART == p else s.partOf f == some p

/-- The checks of a route, after permission to write at all. -/
def State.routeCheck (s : State) (src : Nat) (v : Word) : Status :=
  let f := fv F.EV_ROUTE.FUNC v
  let d := fv F.EV_ROUTE.DEST v
  let foreign := match s.sourcePart src with
    | some p => !(s.fnInPart f p)
    | none => false
  firstStatus [
    (d == 0 && foreign, .notPermitted),
    (setsRsv RegName.EV_ROUTE.desc.fields v || d == 3 || (d == 2 && decide (1200 ≤ src)), .badValue),
    (d == 0 && (!(s.fnLegal f) || decide (msixSize f ≤ fv F.EV_ROUTE.VECTOR v)), .badValue)]

/-! ### Accepted writes of plain registers -/

/-- ROOT of RP_CONTROL changed (R44, R45, R48): the root is LOCKED at stratum 0. -/
def State.rootWrite (s : State) (was : Bool) : State :=
  let is := s.on F.RP_CONTROL.ROOT
  if is == was then s
  else if is then ((s.set F.RP_STATUS.STRATUM 0).modTime fun t => { t with everLocked := true }).rpState 2
  else s.noParent

/-- A value stored, with what follows from it at once. -/
def State.regStore (s : State) (r : Reg) (v : Word) : State :=
  let old := s.rd r
  let new := fieldsAfter r.name.desc.fields old v
  if tickScoped r.name then s.wrTick r new
  else
    let s := s.wr r new
    match r.name with
    | .RP_CONTROL => s.rootWrite (fo F.RP_CONTROL.ROOT old)
    | .FAULT_CTRL | .FAULT_CLASS => s.errUpdate
    | .PORT_ROUTE => (s.groupsUpdate (fv F.PORT_ROUTE.DIM old)).groupsUpdate (fv F.PORT_ROUTE.DIM new)
    | .CTR_THRESH => s.watchCheck (s.f F.CTR_WATCH.COUNTER r.i)
    | _ => s

/-- The status of a write of a plain device register (R605). -/
def State.plainCheck (s : State) (rq : Requester) (r : Reg) (v : Word) : Status :=
  if s.regDenied rq r then .notPermitted
  else if r.name = .EV_ROUTE then s.routeCheck r.i v
  else firstStatus [
    (s.regState r v, .badState),
    (setsRsv r.name.desc.fields v || s.regBad r v, .badValue)]

/-! ### Command registers -/

/-- A write with the offset of its access recorded, where the row that it goes through has recorded its register's. -/
def State.atOffset (before : State) (rq : Requester) (off : Nat) (s : State) : State :=
  if F.WRITE_STATUS.REJECTED.fld.on (before.ws rq) || !(F.WRITE_STATUS.REJECTED.fld.on (s.ws rq)) then s
  else { s with wstat := mset s.wstat rq (F.WRITE_STATUS.FIRST_OFFSET.fld.set (s.ws rq) (off % 2 ^ 32)) }

/-- A row run for a write of its register. A reserved bit set rejects what the row would accept (R12). -/
def State.viaRow (s : State) (rq : Requester) (r : Reg) (v : Word) (off : Nat) (row : State → State) : State :=
  let t := row s
  let last := F.WRITE_STATUS.LAST_STATUS.fld.get (t.ws rq)
  if setsRsv r.name.desc.fields v && (last == Status.ok.code || last == Status.noResource.code) then
    s.wsRecord rq .badValue off
  else s.atOffset rq off t

/-- A write that commands nothing or an illegal operation: refused where the requester may not write, else as given. -/
def State.noCommand (s : State) (rq : Requester) (r : Reg) (off : Nat) (st : Status) : State :=
  s.wsRecord rq (if s.regDenied rq r then .notPermitted else st) off

/-- RST_CMD (R553). A warm reset runs as the outer register write; within one, or from an engine, it is BUSY. -/
def State.rstWrite (s : State) (rq : Requester) (off : Nat) (v : Word) : State :=
  let r : Reg := ⟨.RST_CMD, 0, 0⟩
  let ty := fv F.RST_CMD.TYPE v
  let t := fv F.RST_CMD.TARGET v
  if !(fo F.RST_CMD.GO v) then
    s.noCommand rq r off (if ty == 0 || (ty == 3 && decide (256 ≤ t)) then .badValue else .ok)
  else if ty = 2 then runOn (execRstEngine rq (Fin.ofNat 512 t)) s
  else if ty = 3 ∧ t < 256 then runOn (execRstPort rq (Fin.ofNat 256 t)) s
  else s.wsRecord rq (if ty = 1 ∧ rq.manages then .busy else s.rstCheck rq ty t) off

/-- HB_CMD (R373, R375). -/
def State.hbWrite (s : State) (rq : Requester) (off : Nat) (v : Word) : State :=
  let slot := Fin.ofNat 4096 (fv F.HB_CMD.SLOT v)
  match fv F.HB_CMD.OP v with
  | 1 => runOn (execHbWrite rq slot) s
  | 2 => runOn (execHbRead rq slot) s
  | 3 => runOn (execHbDisable rq slot) s
  | _ => s.noCommand rq ⟨.HB_CMD, 0, 0⟩ off .badValue

/-- IMG_CMD (R371, R375). -/
def State.imgWrite (s : State) (rq : Requester) (off : Nat) (v : Word) : State :=
  let busy := s.eng.loadAddr.isSome
  match fo F.IMG_CMD.LOAD v, fo F.IMG_CMD.UNLOAD v with
  | true, false => runOn (execImgLoad rq) s
  | false, true => runOn (execImgUnload rq (Fin.ofNat 256 (fv F.IMG_CMD.IMAGE v))) s
  | true, true => s.noCommand rq ⟨.IMG_CMD, 0, 0⟩ off (if busy then .busy else .badValue)
  | false, false => s.noCommand rq ⟨.IMG_CMD, 0, 0⟩ off (if busy then .busy else .ok)

/-- CH_CMD (R451, R456, R462 to R464). -/
def State.chWrite (s : State) (rq : Requester) (r : Reg) (off : Nat) (v : Word) : State :=
  let m := Fin.ofNat 16 r.i
  let c := Fin.ofNat 32 r.j
  match v.toNat % 16 with
  | 0 => s.noCommand rq r off .ok
  | 1 => runOn (execChGo rq m c) s
  | 2 => runOn (execChAbort rq m c) s
  | 4 => runOn (execChResume rq m c) s
  | 8 => runOn (execChReset rq m c) s
  | _ => s.noCommand rq r off .badValue

/-- A write checked by a status and with an effect of its own. -/
def State.checkedWrite (s : State) (rq : Requester) (r : Reg) (off : Nat) (st : Status) (eff : State → State) : State :=
  s.writeAs rq off (if s.regDenied rq r then .notPermitted else st) eff

/-- The command registers of the device window that are served only while the part runs. -/
def devCommand (rq : Requester) (r : Reg) (off : Nat) (v : Word) : Option (State → State) :=
  match r.name with
  | .RP_STEP_CMD => some (if fo F.RP_STEP_CMD.GO v then runOn (execRpStepCmdGo rq) else fun s => s.noCommand rq r off .ok)
  | .RP_TOD_SECONDS => some (runOn (execRpTodSecondsWrite rq v))
  | .XL_MISS_RESOLVE => some fun s => runOn (execXlMissResolve rq (Fin.ofNat 4 r.i) (Fin.ofNat 256 (fv F.XL_MISS_RESOLVE.MISS v))
      (BitVec.ofNat 8 (fv F.XL_MISS_RESOLVE.STATUS v))) s
  | .XL_ASID_CFG => some (runOn (execXlAsidCfgWrite rq (Fin.ofNat 1024 r.i) v))
  | .HB_CMD => some fun s => s.hbWrite rq off v
  | .IMG_CMD => some fun s => s.imgWrite rq off v
  | .CTR_WATCH => some (runOn (execCtrWatchArm rq (Fin.ofNat 256 r.i) v))
  | .SAMPLE_PTR => some (runOn (execSampleRdWrite rq (Fin.ofNat 512 r.i) (BitVec.ofNat 8 (fv F.SAMPLE_PTR.RD v))))
  | .LANE_CAL_CMD =>
    some (if fo F.LANE_CAL_CMD.CAL v then runOn (execLaneCal rq (Fin.ofNat 1024 r.i)) else fun s => s.noCommand rq r off .ok)
  | .LANE_PRBS_CMD => some fun s => s.laneCmd rq .LANE_PRBS_CMD r.i fun s =>
      s.prbsCmd r.i (fo F.LANE_PRBS_CMD.INJECT v) (fo F.LANE_PRBS_CMD.CLEAR v)
  | .PORT_CMD => some fun s => s.portCmd rq r.i v
  | .PORT_CTRL => some fun s => s.portCtrl rq r.i v
  | .CH_CMD => some fun s => s.chWrite rq r off v
  | .EB_STACK_CFG => some fun s => s.checkedWrite rq r off (s.stackCfgCheck r.i v) fun s => s.regStore r v
  | .EB_PORT_CFG => some fun s => s.checkedWrite rq r off (s.portCfgCheck r.i v) fun s => (s.regStore r v).perstFollow r.i
  | .EB_PART_CFG => some (runOn (execPartitionEnable rq (Fin.ofNat 16 r.i) v))
  | .SVF_CTRL => some fun s => s.checkedWrite rq r off (s.svfCtrlCheck r.i v) fun s => s.svfCtrlWrite r.i v
  | .XP_CTRL => some fun s => s.checkedWrite rq r off (s.xpCtrlCheck r.i v) fun s => s.regStore r v
  | _ => none

/-- The command registers that are served in the safe state too (R528). -/
def servedCommand (rq : Requester) (r : Reg) (off : Nat) (v : Word) : Option (State → State) :=
  match r.name with
  | .RST_CMD => some fun s => s.rstWrite rq off v
  | .REPAIR_CMD => some (if fo F.REPAIR_CMD.CLEAR v then runOn (execRepairClear rq) else fun s => s.noCommand rq r off .ok)
  | .EV_FORCE => some (if fo F.EV_FORCE.GO v then runOn (execEvForce rq (BitVec.ofNat 11 (fv F.EV_FORCE.SOURCE v)))
      else fun s => s.noCommand rq r off .ok)
  | .FAULT_FORCE => some (if fo F.FAULT_FORCE.GO v then
        runOn (execFaultForce rq (BitVec.ofNat 11 (fv F.FAULT_FORCE.SOURCE v)) (fo F.FAULT_FORCE.ACT v))
      else fun s => s.noCommand rq r off .ok)
  | .FAULT_STATUS => some (runOn (execFaultStatusClear rq (Fin.ofNat 19 r.i) v))
  | .MIRROR_CFG => some fun s => s.checkedWrite rq r off (s.mirrorCheck v) fun s => s.mirrorWrite v
  | .PC_SEL => some (runOn (execPcSelWrite rq (Fin.ofNat 144 r.i) v))
  | .PC_VALUE => some (runOn (execPcValueWrite rq (Fin.ofNat 144 r.i) v))
  | .PC_CTRL => some fun s => s.checkedWrite rq r off .ok fun s =>
      let s := s.pcRun (fv F.PC_CTRL.RUN v)
      if fo F.PC_CTRL.SNAP v then s.pcSnap else s
  | _ => none

/-! ### The device register window -/

/-- A write to the requester's own WRITE_STATUS: it clears REJECTED and changes nothing else (R588). -/
def State.wsWrite (s : State) (rq : Requester) (v : Word) : State :=
  if fo F.WRITE_STATUS.REJECTED v then { s with wstat := mset s.wstat rq (F.WRITE_STATUS.REJECTED.fld.set (s.ws rq) 0) }
  else s

/-- A write to a device register. -/
def State.devRegWrite (s : State) (rq : Requester) (r : Reg) (off size : Nat) (w : Word) : State :=
  let v := accessValue off size (if r.name = .WRITE_STATUS then s.ws rq else s.rd r) w r.name.desc.fields
  if r.name = .WRITE_STATUS then s.wsWrite rq v
  else match servedCommand rq r off v with
    | some g => s.viaRow rq r v off g
    | none => match devCommand rq r off v with
      | some g => if s.running then s.viaRow rq r v off g else s.noCommand rq r off .ok
      | none => s.writeAs rq off (s.plainCheck rq r v) fun s => s.regStore r v

/-! ### Function aliases (R581) -/

/-- A new range of a function: whether it passes the end of its space or meets that of another function (R297). -/
def State.rangeBad (s : State) (f : Nat) (base count : RegFld) (space : Nat) (v : Word) : Bool :=
  let b := fv base v
  let n := fv count v
  decide (space < b + n) ||
    s.regs.any fun e => e.1.name == base.reg && e.1.i != f &&
      decide (b < base.fld.get e.2 + count.fld.get e.2) && decide (base.fld.get e.2 < b + n)

/-- The bits of a register that are RW through the alias. -/
def aliasMask : RegName → Nat
  | .FUNC_CFG => 7 * 2 ^ 12
  | n =>
    match n with
    | .FUNC_CONN_RANGE | .FUNC_KEY_RANGE | .FUNC_TRIG_RANGE | .FUNC_POLICY | .XL_FUNC | .XL_DEV_BASE | .XL_DEV_LIMIT
    | .NF_JOB_BIND => 2 ^ 64 - 1 - rsvMask n.desc.fields
    | _ => 0

/-- The check of a write through an alias image (R250, R297, R448, R581). -/
def State.aliasCheck (s : State) (rq : Requester) (r : Reg) (v : Word) : Status :=
  let rsv := setsRsv r.name.desc.fields v
  let inUse := s.fnConnKey r.i || s.fnTrg r.i
  let xlUse := s.fnConnKey r.i || s.fnPosted r.i
  if !rq.reaches then .notPermitted
  else match r.name with
    | .FUNC_CFG => if rsv || decide (4 < fv F.FUNC_CFG.DG_MTU v) then .badValue else .ok
    | .FUNC_CONN_RANGE =>
      firstStatus [(inUse, .badState), (rsv || s.rangeBad r.i F.FUNC_CONN_RANGE.CONN_BASE F.FUNC_CONN_RANGE.CONN_COUNT (2 ^ 24) v, .badValue)]
    | .FUNC_KEY_RANGE =>
      firstStatus [(inUse, .badState), (rsv || s.rangeBad r.i F.FUNC_KEY_RANGE.KEY_BASE F.FUNC_KEY_RANGE.KEY_COUNT (2 ^ 18) v, .badValue)]
    | .FUNC_TRIG_RANGE =>
      firstStatus [(inUse, .badState), (rsv || s.rangeBad r.i F.FUNC_TRIG_RANGE.TRIG_BASE F.FUNC_TRIG_RANGE.TRIG_COUNT (2 ^ 16) v, .badValue)]
    | .FUNC_POLICY =>
      firstStatus [(inUse, .badState), (rsv || (fo F.FUNC_POLICY.GS_KEYS v && r.i != fmf), .badValue)]
    | .XL_FUNC =>
      let a := fv F.XL_FUNC.XLATE_ASID v
      firstStatus [(xlUse, .badState),
        (rsv || (fo F.XL_FUNC.XLATE_EN v && s.f F.XL_ASID_CFG.FUNC a != r.i), .badValue)]
    | .XL_DEV_BASE | .XL_DEV_LIMIT => firstStatus [(xlUse, .badState), (rsv, .badValue)]
    | _ => if rsv then .badValue else .ok

/-- A write through the alias image of an assigned function. -/
def State.aliasWrite (s : State) (rq : Requester) (r : Reg) (off size : Nat) (w : Word) : State :=
  let old := (s.rd r).toNat
  let m := aliasMask r.name
  let whole := if size = 8 then w.toNat
    else if off % 8 = 0 then old / 2 ^ 32 * 2 ^ 32 + w.toNat % 2 ^ 32
    else old % 2 ^ 32 + w.toNat % 2 ^ 32 * 2 ^ 32
  let v : Word := BitVec.ofNat 64 whole
  s.writeAs rq off (s.aliasCheck rq r v) fun s =>
    if m = 0 then s else s.wr r (BitVec.ofNat 64 ((old &&& (2 ^ 64 - 1 - m)) ||| (whole &&& m)))

/-- The bits that an access of a size carries. -/
def carried (size : Nat) (w : Word) : Nat := if size = 8 then w.toNat else w.toNat % 2 ^ 32

/-- A write in the device register window (R580 to R583). -/
def State.deviceWrite (s : State) (rq : Requester) (off size : Nat) (w : Word) : State :=
  match devTarget s (off / 8 * 8) with
  | .reg r false => s.devRegWrite rq r off size w
  | .reg r true => s.aliasWrite rq r off size w
  | .firmware => s.wsRecord rq (if s.supervises rq then .ok else .notPermitted) off
  | .noImage => s.wsRecord rq .badValue off
  | .hole | .msix _ _ _ => s.wsRecord rq (if carried size w = 0 then .ok else .badValue) off

/-! ### Function windows (R579) -/

/-- RING_HOLD and RING_ARM as written (R238, R250, R613). -/
def State.ringCmdWrite (s : State) (f r : Fin 4096) (off : Nat) (n : RegName) (v : Word) : State :=
  match n with
  | .RING_HOLD =>
    if fo F.RING_HOLD.RELEASE v then
      if v.toNat % 2 ^ 39 = 0 then runOn (execRingHoldRelease f r) s
      else s.wsRecord (.func f)
        (if s.inReset f || !(s.on F.RING_STATUS.HELD f r) then .badState else .badValue) off
    else runOn (execRingHoldStart f r (BitVec.ofNat 32 (fv F.RING_HOLD.START v)) (BitVec.ofNat 7 (fv F.RING_HOLD.COUNT v))) s
  | _ =>
    if fo F.RING_ARM.ARM v then runOn (execRingArm f r (BitVec.ofNat 32 (fv F.RING_ARM.INDEX v))) s
    else runOn (execRingDisarm f r) s

/-- The command registers of a function's window. -/
def fnCommand (f : Fin 4096) (r : Reg) (off : Nat) (v : Word) : Option (State → State) :=
  let k := Fin.ofNat 4096 r.j
  match r.name with
  | .CQ_DOORBELL => some (runOn (execCqDoorbell f v))
  | .RING_CFG => some (runOn (execRingEnable f k v))
  | .RING_PI => some (runOn (execRingPiWrite f k v))
  | .RING_CI => some (runOn (execRingCiWrite f k v))
  | .RING_HOLD => some fun s => s.ringCmdWrite f k off .RING_HOLD v
  | .RING_ARM => some fun s => s.ringCmdWrite f k off .RING_ARM v
  | .XL_INV_CMD =>
    some fun s =>
      if fo F.XL_INV_CMD.GO v then
        runOn (execXlInvCmd f (Fin.ofNat 1024 (fv F.XL_INV_CMD.ASID v)) (fo F.XL_INV_CMD.SCOPE v)) s
      else s.wsRecord (.func f) (if s.inReset f then .badState else .ok) off
  | _ => none

/-- A write of half of an entry of the MSI-X table: a vector that is unmasked with its pending bit set sends its
message. -/
def State.msixWrite (s : State) (f vec half off size : Nat) (w : Word) : State :=
  let at_ := 64 * half + (if off % 8 = 0 then 0 else 32)
  let fl : Fld := ⟨at_ + 8 * size - 1, at_⟩
  let e := fl.set (s.msixEntry f vec) w.toNat
  let s : State := { s with msix := mset s.msix (f, vec) e }
  if !(e.toNat.testBit 96) && s.msixPending.contains (f, vec) && !(s.fnQuiet f) && s.msixOn.contains f then
    ({ s with msixPending := s.msixPending.filter (· != (f, vec)) } : State).emit (.msix f vec)
  else s

/-- A write in a function's own window. -/
def State.ownWrite (s : State) (f : Fin 4096) (off size : Nat) (w : Word) : State :=
  let rq : Requester := .func f
  match fnTarget f (off / 8 * 8) with
  | .reg r isAlias =>
    let v := accessValue off size (if r.name = .WRITE_STATUS then s.ws rq else s.rd r) w r.name.desc.fields
    let rsv := setsRsv r.name.desc.fields v
    if r.name = .WRITE_STATUS then s.wsWrite rq v
    else if isAlias then s.wsRecord rq (if rsv then .badValue else .ok) off
    else match fnCommand f r off v with
      | some g => s.viaRow rq r v off g
      | none =>
        s.writeAs rq off (firstStatus [(s.ownState r v, .badState), (rsv || badService r.name v, .badValue)]) fun s =>
          s.regStore r v
  | .msix _ vec half =>
    s.writeAs rq off (if s.inReset f then .badState else .ok) fun s => s.msixWrite f vec half off size w
  | _ =>
    if 0x118000 ≤ off ∧ off < 0x119000 then s.wsRecord rq .ok off
    else s.wsRecord rq (if carried size w = 0 then .ok else .badValue) off

/-! ### Register writes -/

/-- A register write in a window by a requester (R582, R587, R588, R605). A function has no window of its own but its
function's; the other requesters reach only the device window. -/
def State.regWrite (s : State) (rq : Requester) (w : Window) (off size : Nat) (v : Word) : State :=
  if !(s.takesWrites rq) then s
  else match w, rq with
    | .own, .func f => if accessOk off size then s.ownWrite f off size v else s.wsRecord rq .badValue off
    | .own, _ => s
    | .device, _ =>
      if !rq.reaches then s.wsRecord rq .notPermitted off
      else if accessOk off size then s.deviceWrite rq off size v
      else s.wsRecord rq .badValue off

/-- A store of an engine thread, or of another requester, in the device window. -/
def State.devWrite (s : State) (rq : Requester) (off n v : Nat) : State :=
  s.regWrite rq .device off n (BitVec.ofNat 64 v)

/-! ### Register reads -/

/-- Fields that the QD1K works out from its state, and the other registers as they stand (R585). -/
def State.derived (s : State) (r : Reg) : Word :=
  let w := s.rd r
  match r.name with
  | .DIM_CFG => F.DIM_CFG.OFFSET.fld.set (F.DIM_CFG.WIDTH.fld.set w (clog2 (s.dimSize r.i))) (s.dimOffset r.i)
  | .COORD_STATUS => F.COORD_STATUS.BITS_USED.fld.set (F.COORD_STATUS.ENABLED_DIMS.fld.set w s.ndims) s.coordBits
  | .MATCH_POOL_FREE => F.MATCH_POOL_FREE.FREE.fld.set w s.poolFree
  | .MP_HELD => F.MP_HELD.SEGMENTS.fld.set (F.MP_HELD.HEADERS.fld.set w (s.heldHeaders r.i)) (s.heldSegs r.i)
  | .MATCH_STATUS =>
    let ds := s.mat.domains.filter fun d => d.fn == r.i
    F.MATCH_STATUS.EXISTING.fld.set (F.MATCH_STATUS.OVERFLOW.fld.set w (ds.filter fun d => d.overflow).length) ds.length
  | .COLL_STATUS => F.COLL_STATUS.IN_USE.fld.set w s.instsUsed
  | .COLL_STAGE_USED => F.COLL_STAGE_USED.USED.fld.set w (s.stageUsed r.i)
  | .LOCK_UNIT_STATUS =>
    F.LOCK_UNIT_STATUS.WORDS.fld.set (F.LOCK_UNIT_STATUS.WAITERS.fld.set w (s.lockWaiters r.i)) (s.lockWords r.i)
  | .LL_CREDIT_A => BitVec.ofNat 64 ((List.range 4).foldl (fun a v => a + s.credit r.i v % 4096 * 2 ^ (16 * v)) 0)
  | .LL_CREDIT_B => BitVec.ofNat 64 ((List.range 4).foldl (fun a v => a + s.credit r.i (v + 4) % 4096 * 2 ^ (16 * v)) 0)
  | .LL_REPLAY_USED => F.LL_REPLAY_USED.BLOCKS.fld.set w (s.replayUsed r.i)
  | .CL_STATUS =>
    let n (q : Nat) : Nat := ((s.clThreads r.i).filter fun p => p.2.cls == q).length
    BitVec.ofNat 64 ((List.range 4).foldl (fun a q => a + n q % 64 * 2 ^ (8 * q)) 0)
  | .CL_QDEPTH => BitVec.ofNat 64 ((List.range 4).foldl (fun a q => a + (s.evq r.i q).length % 512 * 2 ^ (16 * q)) 0)
  | .ENG_STATUS =>
    F.ENG_STATUS.RUNNING.fld.set w ((s.engThreads r.i).foldl (fun a p => setBit a p.1.ctx.val) 0)
  | .CONN_OPEN_COUNT => BitVec.ofNat 64 (s.xp.conns.filter fun p => p.2.fn == r.i).length
  | .FAULT_LOG => BitVec.ofNat 64 ((mget s.flt.log r.i 0).toNat / 2 ^ (64 * r.j))
  | _ => w

/-- What a field type hides from a read (R12). -/
def readable (fs : List FieldDesc) (w : Word) : Word :=
  fs.foldl (fun a f => if f.acc = .wo then Fld.set ⟨f.hi, f.lo⟩ a 0 else a) w

/-- A register as a requester reads it. Fabric time is that of a CK of the tick that the read does not name (R57). -/
def State.regRead (s : State) (rq : Requester) (r : Reg) : State × Word :=
  match r.name with
  | .WRITE_STATUS => (s, s.ws rq)
  | .RP_TIME_NS =>
    let d := s.drawNat
    let c := s.ctrAt (d.1 % s.time.tickCk)
    let t := (d.2.set F.RP_TIME_FRAC_TICK.FRACTION (c / 2 ^ 32)).set F.RP_TIME_FRAC_TICK.TICK (tickOf c)
    (t, BitVec.ofNat 64 (nsOf c))
  | n => (s, readable n.desc.fields (s.derived r))

/-- What an 8-byte-aligned offset reads as. -/
def State.targetRead (s : State) (rq : Requester) : Target → State × Word
  | .reg r _ => s.regRead rq r
  | .msix f vec half => (s, BitVec.ofNat 64 ((s.msixEntry f vec).toNat / 2 ^ (64 * half)))
  | .firmware =>
    if s.supervises rq then
      let d := s.drawNat
      (d.2, BitVec.ofNat 64 d.1)
    else (s, 0)
  | .hole | .noImage => (s, 0)

/-- The pending bits of a function's vectors (R579). -/
def State.pbaRead (s : State) (f off : Nat) : Word :=
  BitVec.ofNat 64 ((List.range 64).foldl (fun a k =>
    if s.msixPending.contains (f, (off - 0x118000) / 8 * 64 + k) then setBit a k else a) 0)

/-- What an access of n bytes takes of a register's 64 bits. -/
def readPart (off n : Nat) (w : Word) : Nat := if n = 8 then w.toNat else w.toNat / 2 ^ (8 * (off % 8)) % 2 ^ 32

/-- A read in the device register window. -/
def State.devRead (s : State) (rq : Requester) (off n : Nat) : State × Nat :=
  if rq.reaches && accessOk off n then
    let x := s.targetRead rq (devTarget s (off / 8 * 8))
    (x.1, readPart off n x.2)
  else (s, 0)

/-- A read in a function's own window. -/
def State.ownRead (s : State) (f : Fin 4096) (off n : Nat) : State × Nat :=
  if !(accessOk off n) then (s, 0)
  else if 0x118000 ≤ off ∧ off < 0x119000 then (s, readPart off n (s.pbaRead f (off / 8 * 8)))
  else
    let x := s.targetRead (.func f) (fnTarget f (off / 8 * 8))
    (x.1, readPart off n x.2)

end Sys2Proof.Machine
end

