-- ==== Sys2Proof/Machine/Cormel.lean ====
section
/-!
DEFINITION. The Cormel instruction set (R376 to R403): one row per mnemonic. A thread's instruction is the word at its PC
in its engine's local memory; a row's command lets the thread issue it when the thread may issue and the word is of that
row.
-/
namespace Sys2Proof.Machine

open Sys2Proof

/-! ### Issue (R351, R379) -/

/-- The threads of an engine among which the issue slot is given: those that are ready, but the one that has yielded while
another is (R351, R395). -/
def State.slotThreads (s : State) (e : Nat) : List (ThreadId × Thread) :=
  let rs := (s.engThreads e).filter s.issuable
  match mfind s.eng.yielded e with
  | some k =>
    let os := rs.filter fun p => p.1.ctx.val != k
    if os.isEmpty then rs else os
  | none => rs

/-- Whether a thread may issue: it is among those of highest effective class (R351). Which of equals holds the slot
depends on stalls the model does not time. -/
def State.mayIssue (s : State) (t : ThreadId) (x : Thread) : Bool :=
  let rs := s.slotThreads t.engine
  (rs.any fun p => p.1 == t) && rs.all fun p => decide (x.eff ≤ p.2.eff)

/-- An instruction that retires after a change of its thread. -/
def State.fin (s : State) (t : ThreadId) (w : Nat) (g : Thread → Thread) : State :=
  match s.thread t with
  | some x => (s.setThread t (g x)).retire t w (x.pc + 4) 1
  | none => s

/-- The command of a row (R379, R382, R400): the fetch check, the word's row, its legality, the predicate of a scalar
instruction, and its effect. -/
def cormel (t : ThreadId) (row : Nat → Bool) (scalar : Bool) (g : Thread → Nat → State → State) : State → Res :=
  whenRunning fun s => match s.thread t with
    | none => s
    | some x =>
      let w := s.wordAt t.engine x.pc
      if !(s.mayIssue t x) then s
      else if !(fetchOk x.user x.pc) then s.except t .access x.pc
      else if !(row w) then s
      else
        let s := { s with eng := { s.eng with yielded := mdel s.eng.yielded t.engine.val } }
        if !(legalWord w) then s.except t .badValue 0
        else if scalar && !((x.rp (wPred w)).testBit 0) then s.fin t w id
        else g x w s

/-- A row of one MAJOR. -/
def major (m : Nat) : Nat → Bool := fun w => wMajor w == m

/-- The MAJOR values of R383. -/
def listedMajor (m : Nat) : Bool :=
  (decide (1 ≤ m) && decide (m ≤ 0x0B)) || (decide (0x10 ≤ m) && decide (m ≤ 0x16)) ||
    (decide (0x18 ≤ m) && decide (m ≤ 0x1C)) || (decide (0x20 ≤ m) && decide (m ≤ 0x22)) ||
    (decide (0x28 ≤ m) && decide (m ≤ 0x2B)) || (decide (0x30 ≤ m) && decide (m ≤ 0x35))

/-- A scalar instruction that writes one g register with a value computed from the thread's registers. -/
def regInsn (t : ThreadId) (row : Nat → Bool) (v : Thread → Nat → Nat) : State → Res :=
  cormel t row true fun x w s => s.fin t w fun y => y.setG (wRd w) (v x w)

/-- ALU (R384, R385); words of an unlisted MAJOR are taken here, as illegal (R382). -/
def execAlu (t : ThreadId) : State → Res :=
  regInsn t (fun w => wMajor w == 1 || !(listedMajor (wMajor w))) fun x w => aluOp (wFn w) (x.rg (wRa w)) (x.rg (wRb w))

/-- ADDI (R381). -/
def execAddi (t : ThreadId) : State → Res := regInsn t (major 0x02) fun x w => x.rg (wRa w) + wImmS w

/-- ANDI (R381). -/
def execAndi (t : ThreadId) : State → Res := regInsn t (major 0x03) fun x w => x.rg (wRa w) &&& wImm w

/-- ORI (R381). -/
def execOri (t : ThreadId) : State → Res := regInsn t (major 0x04) fun x w => x.rg (wRa w) ||| wImm w

/-- XORI (R381). -/
def execXori (t : ThreadId) : State → Res := regInsn t (major 0x05) fun x w => x.rg (wRa w) ^^^ wImm w

/-- SHIFTI (R384): bits 7:6 name the shift of ALU's FN 6 to 8. -/
def execShifti (t : ThreadId) : State → Res :=
  regInsn t (major 0x06) fun x w => aluOp (6 + w / 2 ^ 6 % 4) (x.rg (wRa w)) (w % 64)

/-- LUI (R384). -/
def execLui (t : ThreadId) : State → Res := regInsn t (major 0x07) fun _ w => wImm18S w * 2 ^ 13

/-- MULDIV (R385). -/
def execMuldiv (t : ThreadId) : State → Res :=
  regInsn t (major 0x08) fun x w => mulDivOp (wFn w) (x.rg (wRa w)) (x.rg (wRb w))

/-- CMP (R380, R384). -/
def execCmp (t : ThreadId) : State → Res :=
  cormel t (major 0x09) true fun x w s => s.fin t w fun y =>
    y.setP (wRd w) (allOf (cmpOp (wFn w) (x.rg (wRa w)) (x.rg (wRb w))))

/-- CMPI (R380, R384). -/
def execCmpi (t : ThreadId) : State → Res :=
  cormel t (major 0x0A) true fun x w s => s.fin t w fun y =>
    y.setP (wRd w % 8) (allOf (cmpiOp (wRd w / 8) (x.rg (wRa w)) (wImmS w)))

/-- PRED (R384). -/
def execPred (t : ThreadId) : State → Res :=
  cormel t (major 0x0B) true fun x w s => s.fin t w fun y =>
    match wFn w with
    | 4 => y.setP (wRd w) (x.rg (wRa w))
    | 5 => y.setG (wRd w) (x.rp (wRa w))
    | n => y.setP (wRd w) (predOp n (x.rp (wRa w)) (x.rp (wRb w)))

/-! ### Accesses (R366, R367, R404 to R411, R433) -/

/-- Where an access goes: local memory, a Groundsheet word in one of the four windows, host memory, or a register. -/
inductive Spot where
  | loc (a : Nat)
  | gs (off : Nat) (win : Nat)
  | host (f : Nat) (a : Nat)
  | dev (off : Nat)
  deriving DecidableEq, Repr

/-- What the checks of an access answer: where it goes, a miss to wait for, or an exception. -/
inductive SpotR where
  | ok (a : Spot)
  | wait (m : Option (Nat × Nat))
  | exc (st : Status)
  deriving DecidableEq, Repr

/-- Rights to engine local memory (R367). -/
def localOk (user write : Bool) (ctx o : Nat) : Bool :=
  if o < 0x6000 then !user && !write
  else if o < 0x10000 then !user
  else if o < 0x18000 then !user || (o - 0x10000) / 0x2000 == ctx
  else if o < 0x1E000 then !user || (!write && (o - 0x18000) / 0x1800 == ctx)
  else !user

/-- The checks of an access of n bytes (R378, R385, R387, R390, R400, R411, R433): alignment, address, translation,
rights. -/
def State.access (s : State) (t : ThreadId) (x : Thread) (va n : Nat) (write scalar resv : Bool) : State × SpotR :=
  if va % n ≠ 0 then (s, .exc .badValue)
  else if 2 ^ 48 ≤ va then (s, .exc .translation)
  else if localBase ≤ va then
    (s, if localOk x.user write t.ctx (va - localBase) then .ok (.loc (lmBase t.engine + (va - localBase))) else .exc .access)
  else match s.translate 0 (t.engine / 8) (x.asid.toNat % 1024) va (b2n write) write scalar x.user false with
    | (s, .miss m) => (if x.stall = 4 then s.cnt .REMISS_COUNT else s, .wait m)
    | (s, .fail st) => (s, .exc st)
    | (s, .ok 1 a _) =>
      let win := a / gsSize % 4
      if win ≠ 0 ∧ (n ≠ 8 ∨ (write = true ∧ win = 2)) then (s.cnt .LOCK_MISUSE_COUNT, .exc .access)
      else (s, .ok (.gs (a % gsSize) win))
    | (s, .ok tg a f) =>
      if resv || (tg == 2 && !scalar) then (s, .exc .access) else (s, .ok (if tg = 2 then .dev a else .host f a))

/-- Whether a Groundsheet read returns poison: a lost granule not yet written, or one out of use (R523, R525). -/
def State.gsPoisoned (s : State) (off : Nat) : Bool :=
  s.poison.contains (off / 256) || ((s.bank (bankOf off)).fromMirror && decide (tableEnd ≤ off))

/-- A thread that waits. -/
def State.waitFor (s : State) (t : ThreadId) (w : TWait) (stall : Nat) : State :=
  s.modThread t fun y => { y with wait := w, stall := stall }

/-- The requester that a thread is (R587). -/
def threadRq (t : ThreadId) : Requester := .thread t.engine t.ctx

/-- The effective address of a load or store: ra plus the signed offset. -/
def Thread.ea (x : Thread) (w : Nat) : Nat := (x.rg (wRa w) + wImmS w) % 2 ^ 64

/-- A loaded value of n bytes as its register receives it. -/
def loaded (n : Nat) (signed : Bool) (v : Nat) : Nat := if signed then sext (8 * n) v else v % 2 ^ (8 * n)

/-- The reservation of an LDRSV placed on the granule of a memory address (R390). -/
def Thread.reserve (x : Thread) (resv : Bool) (a : Nat) : Thread := if resv then { x with resv := some (a / 64) } else x

/-- A scalar load of n bytes (R385, R390, R418, R428, R437). -/
def State.load (s : State) (t : ThreadId) (x : Thread) (w va n : Nat) (signed resv : Bool) : State :=
  let put (s : State) (a v : Nat) : State :=
    s.fin t w fun y => (y.reserve resv a).setG (wRd w) (loaded n signed v)
  match x.wait, x.ready with
  | .lock o, some bs => put s o (leNat bs)
  | _, _ => match s.access t x va n false true resv with
    | (s, .exc st) => s.except t st va
    | (s, .wait m) => s.waitFor t (.miss m) 4
    | (s, .ok (.loc a)) => put s a (leNat (memGets s.mem a n))
    | (s, .ok (.gs o 2)) => match s.lockWait o (threadIdent t) with
      | (s, some v) => put s o v
      | (s, none) => s.waitFor t (.lock o) 5
    | (s, .ok (.gs o _)) => if s.gsPoisoned o then s.except t .aborted va else put s o (s.gsNat o n)
    | (s, .ok (.host f a)) => (s.hostRead f a n).waitFor t (.load f a) 3
    | (s, .ok (.dev o)) => match s.devRead (threadRq t) o n with
      | (s, v) => put s 0 v

/-- One posted store more to a function since the thread's last CB (R396, R428). -/
def State.posted (s : State) (t : ThreadId) (f : Nat) : State :=
  s.modThread t fun y => { y with posted := mset y.posted f (mget y.posted f 0 + 1) }

/-- Bytes stored where an access goes (R431, R436, R438). -/
def State.storeTo (s : State) (t : ThreadId) (a : Spot) (bs : List Byte) : State :=
  match a with
  | .loc a => ({ s with mem := memPuts s.mem a bs }).endResv (some t) a bs.length
  | .gs o 1 => s.lockClaim o (threadIdent t) (leNat bs)
  | .gs o 3 => s.lockRelease o (threadIdent t) (leNat bs)
  | .gs o _ => s.gsStore (some t) o bs
  | .host f a => (s.hostWrite f a bs).posted t f
  | .dev o => s.devWrite (threadRq t) o bs.length (leNat bs)

/-- A scalar store of n bytes of the rd field's register. -/
def State.store (s : State) (t : ThreadId) (x : Thread) (w n : Nat) : State :=
  match s.access t x (x.ea w) n true true false with
  | (s, .exc st) => s.except t st (x.ea w)
  | (s, .wait m) => s.waitFor t (.miss m) 4
  | (s, .ok a) => (s.storeTo t a (leBytes n (x.rg (wRd w)))).fin t w id

/-- LB (R385). -/
def execLb (t : ThreadId) : State → Res :=
  cormel t (major 0x10) true fun x w s => s.load t x w (x.ea w) 1 true false

/-- LBU (R385). -/
def execLbu (t : ThreadId) : State → Res :=
  cormel t (major 0x11) true fun x w s => s.load t x w (x.ea w) 1 false false

/-- LH (R385). -/
def execLh (t : ThreadId) : State → Res :=
  cormel t (major 0x12) true fun x w s => s.load t x w (x.ea w) 2 true false

/-- LHU (R385). -/
def execLhu (t : ThreadId) : State → Res :=
  cormel t (major 0x13) true fun x w s => s.load t x w (x.ea w) 2 false false

/-- LW (R385). -/
def execLw (t : ThreadId) : State → Res :=
  cormel t (major 0x14) true fun x w s => s.load t x w (x.ea w) 4 true false

/-- LWU (R385). -/
def execLwu (t : ThreadId) : State → Res :=
  cormel t (major 0x15) true fun x w s => s.load t x w (x.ea w) 4 false false

/-- LD (R385). -/
def execLd (t : ThreadId) : State → Res :=
  cormel t (major 0x16) true fun x w s => s.load t x w (x.ea w) 8 false false

/-- SB (R385). -/
def execSb (t : ThreadId) : State → Res := cormel t (major 0x18) true fun x w s => s.store t x w 1

/-- SH (R385). -/
def execSh (t : ThreadId) : State → Res := cormel t (major 0x19) true fun x w s => s.store t x w 2

/-- SW (R385). -/
def execSw (t : ThreadId) : State → Res := cormel t (major 0x1A) true fun x w s => s.store t x w 4

/-- SD (R385). -/
def execSd (t : ThreadId) : State → Res := cormel t (major 0x1B) true fun x w s => s.store t x w 8

/-- The bytes of an LDRSV or STCND. -/
def resvBytes (w : Nat) : Nat := if wFn w % 2 = 1 then 8 else 4

/-- LDRSV (R390): FN with bit 3 clear. -/
def execLdrsv (t : ThreadId) : State → Res :=
  cormel t (fun w => wMajor w == 0x1C && w / 8 % 2 == 0) true fun x w s =>
    s.load t x w (x.rg (wRa w)) (resvBytes w) false true

/-- The memory address of an access that a reservation can cover. -/
def Spot.mem : Spot → Nat
  | .loc a => a
  | .gs o _ => o
  | _ => 0

/-- STCND (R390): FN with bit 3 set. -/
def execStcnd (t : ThreadId) : State → Res :=
  cormel t (fun w => wMajor w == 0x1C && w / 8 % 2 == 1) true fun x w s =>
    let va := x.rg (wRa w)
    let n := resvBytes w
    match s.access t x va n true true true with
    | (s, .exc st) => s.except t st va
    | (s, .wait m) => s.waitFor t (.miss m) 4
    | (s, .ok a) =>
      let held := x.resv == some (a.mem / 64)
      let s := if held then s.storeTo t a (leBytes n (x.rg (wRb w))) else s
      s.fin t w fun y => { y.setG (wRd w) (if held then Status.ok.code else Status.busy.code) with resv := none }

/-! ### Branches (R379, R386) -/

/-- An instruction that retires with a jump: a taken branch adds a cycle (R403). -/
def State.jump (s : State) (t : ThreadId) (w pc : Nat) (g : Thread → Thread) : State :=
  (s.modThread t g).retire t w pc 2

/-- B (R379). -/
def execB (t : ThreadId) : State → Res :=
  cormel t (major 0x20) true fun x w s => s.jump t w (x.pc + wOff23 w) id

/-- JAL (R386). -/
def execJal (t : ThreadId) : State → Res :=
  cormel t (major 0x21) true fun x w s => s.jump t w (x.pc + wOff18 w) fun y => y.setG (wRd w) (x.pc + 4)

/-- JALR (R386). -/
def execJalr (t : ThreadId) : State → Res :=
  cormel t (major 0x22) true fun x w s =>
    let a := x.ea w
    if a % 4 ≠ 0 then s.except t .badValue a
    else if 2 ^ 48 ≤ a then s.except t .translation a
    else s.jump t w a fun y => y.setG (wRd w) (x.pc + 4)

/-! ### Vectors (R387 to R389) -/

/-- The address of a VLD or VST. -/
def Thread.vea (x : Thread) (w : Nat) : Nat := (x.rg (wRa w) + ofSigned 64 (toSigned 13 w * 64)) % 2 ^ 64

/-- The element bytes of VLD and VST. -/
def vmBytes : Nat := 2 ^ Config.vmElem.val

/-- The active elements of a VLD or VST. -/
def Thread.vmActive (x : Thread) (w : Nat) : List Nat :=
  (List.range (64 / vmBytes)).filter fun e => (x.rp (wPred w)).testBit e

/-- A vector register loaded with 64 bytes, its inactive elements as they were. -/
def Thread.vload (x : Thread) (w : Nat) (bs : List Byte) : Thread :=
  x.setV (wVd w) (vmerge (8 * vmBytes) (x.rp (wPred w)) (x.rv (wVd w)) (leNat (bs.take 64)))

/-- A vector access with no active element: its address is checked, and nothing is accessed. -/
def State.vnone (s : State) (t : ThreadId) (w va : Nat) : State :=
  if va % 64 ≠ 0 then s.except t .badValue va
  else if 2 ^ 48 ≤ va then s.except t .translation va
  else s.fin t w id

/-- VLD (R387). -/
def execVld (t : ThreadId) : State → Res :=
  cormel t (major 0x28) false fun x w s =>
    let va := x.vea w
    if (x.vmActive w).isEmpty then s.vnone t w va
    else match s.access t x va 64 false false false with
      | (s, .exc st) => s.except t st va
      | (s, .wait m) => s.waitFor t (.miss m) 4
      | (s, .ok (.loc a)) => s.fin t w fun y => y.vload w (memGets s.mem a 64)
      | (s, .ok (.gs o _)) =>
        if s.gsPoisoned o then s.except t .aborted va else s.fin t w fun y => y.vload w (s.gsGets o 64)
      | (s, .ok (.host f a)) => (s.hostRead f a 64).waitFor t (.load f a) 3
      | (s, .ok (.dev _)) => s.except t .access va

/-- Where element e of a vector access goes. -/
def Spot.elem (a : Spot) (o : Nat) : Spot :=
  match a with
  | .loc a => .loc (a + o)
  | .gs off win => .gs (off + o) win
  | .host f a => .host f (a + o)
  | .dev a => .dev (a + o)

/-- VST (R387): each active element is stored; together they are one store for the count of CB. -/
def execVst (t : ThreadId) : State → Res :=
  cormel t (major 0x29) false fun x w s =>
    let va := x.vea w
    if (x.vmActive w).isEmpty then s.vnone t w va
    else match s.access t x va 64 true false false with
      | (s, .exc st) => s.except t st va
      | (s, .wait m) => s.waitFor t (.miss m) 4
      | (s, .ok a) =>
        let v := leBytes 64 (x.rv (wVd w))
        let st (s : State) (e : Nat) : State :=
          let bs := (v.drop (vmBytes * e)).take vmBytes
          match a with
          | .host f b => s.hostWrite f (b + vmBytes * e) bs
          | _ => s.storeTo t (a.elem (vmBytes * e)) bs
        let s := (x.vmActive w).foldl st s
        (match a with
          | .host f _ => s.posted t f
          | _ => s).fin t w id

/-- The registers after a VOP (R388). -/
def Thread.vop (x : Thread) (w : Nat) : Thread :=
  let es := wEs w
  let n := 8 * 2 ^ es
  let p := x.rp (wPred w)
  let old := x.rv (wVd w)
  let a := x.rv (wVa w)
  let b := x.rv (wVb w)
  let ea := velems n a
  let eb := velems n b
  let put (v : Nat) : Thread := x.setV (wVd w) (vmerge n p old v)
  match wVf w with
  | 9 => put (vmerge n (x.rp (w / 2 ^ 18 % 8)) b a)
  | 10 | 11 =>
    let q := w / 2 ^ 18 % 8
    x.setP q ((List.range (512 / n)).foldl (fun m e =>
      if p.testBit e then
        (if velemCmp es (wTy w) (wVf w) (lget ea e 0) (lget eb e 0) then setBit m e else clrBit m e)
      else m) (x.rp q))
  | 12 => put (vpack n (List.replicate (512 / n) (x.rg (wRa w))))
  | 13 => if p.testBit (w / 2 ^ 10 % 8) then x.setG (wRd w) (a / 2 ^ (64 * (w / 2 ^ 10 % 8)) % 2 ^ 64) else x
  | 14 =>
    let k := w / 2 ^ 10 % 8
    if p.testBit k then
      x.setV (wVd w) (vpack 64 ((velems 64 old).set k (x.rg (wRa w))))
    else x
  | 15 => put a
  | fn => put (vpack n (zip3 (velemOp es (wTy w) fn) (velems n old) ea eb))

/-- VOP (R388). -/
def execVop (t : ThreadId) : State → Res :=
  cormel t (major 0x2A) false fun _ w s => s.fin t w fun y => y.vop w

/-- VRED (R389). -/
def execVred (t : ThreadId) : State → Res :=
  cormel t (major 0x2B) false fun x w s => s.fin t w fun y =>
    y.setG (wRd w) (vred (wEs w) (wTy w) (wVf w % 8) (wVf w / 16) (x.rp (wPred w)) (x.rv (wVa w)))

/-! ### System registers (R399) -/

/-- Numbers of system registers that user mode may read. -/
def srUser (n : Nat) : Bool := decide (n ≤ 2) || (decide (8 ≤ n) && decide (n ≤ 0x0B))

/-- Numbers of supervisor system registers. -/
def srSup (n : Nat) : Bool := (decide (0x10 ≤ n) && decide (n ≤ 0x13)) || n == 0x18 || n == 0x19

/-- The value of a system register other than FT_NS. -/
def srRead (t : ThreadId) (x : Thread) (n : Nat) : Nat :=
  match n with
  | 0x001 => x.ftFrac.toNat
  | 0x002 => x.ftCk.toNat
  | 0x008 => t.ctx.val + t.engine.val * 2 ^ 2 + t.engine.val / 8 * 2 ^ 11
  | 0x009 => x.slot + x.eff * 2 ^ 12 + b2n x.user * 2 ^ 14
  | 0x00A => x.count
  | 0x00B => x.ectl.toNat
  | 0x010 => x.epc.toNat
  | 0x011 => x.ecause.toNat
  | 0x012 => x.eaddr.toNat
  | 0x013 => x.evec.toNat
  | 0x018 => x.asid.toNat
  | _ => x.tlbsel.toNat

/-- MFSR (R399): `ck` is the CK within the tick, which a read of fabric time latches (R55). -/
def execMfsr (t : ThreadId) (ck : Nat) : State → Res :=
  cormel t (major 0x30) true fun x w s =>
    let n := wImm w
    if !(srUser n) && !(srSup n) then s.except t .badValue 0
    else if x.user && srSup n then s.except t .notPermitted 0
    else if n = 0 then
      let c := s.ctrAt ck
      s.fin t w fun y => { y.setG (wRd w) (nsOf c) with
        ftFrac := BitVec.ofNat 64 (c / 2 ^ 32 % 2 ^ 16 + tickOf c * 2 ^ 16), ftCk := BitVec.ofNat 64 ck }
    else s.fin t w fun y => y.setG (wRd w) (srRead t x n)

/-- A system register written: the bits that are said to be zero or reserved stay zero. -/
def Thread.srWrite (x : Thread) (n : Nat) (v : Nat) : Thread :=
  let b (k : Nat) : Word := BitVec.ofNat 64 k
  match n with
  | 0x00B => { x with ectl := b (v % 2) }
  | 0x010 => { x with epc := b v }
  | 0x011 => { x with ecause := b (v % 256) }
  | 0x012 => { x with eaddr := b v }
  | 0x013 => { x with evec := b (v / 4 * 4) }
  | 0x018 => { x with asid := b (v % 1024) }
  | _ => { x with tlbsel := b (v % 512 + v / 2 ^ 15 % 2 * 2 ^ 15) }

/-- MTSR (R399). -/
def execMtsr (t : ThreadId) : State → Res :=
  cormel t (major 0x31) true fun x w s =>
    let n := wImm w
    if n ≠ 0x00B && !(srSup n) then s.except t .badValue 0
    else if x.user && srSup n then s.except t .notPermitted 0
    else s.fin t w fun y => y.srWrite n (x.rg (wRa w))

/-! ### Yielding, barriers and ending (R394 to R397, R401) -/

/-- A row of SPECIAL's FN. -/
def special (fn : Nat) : Nat → Bool := fun w => wMajor w == 0x32 && wFn w == fn

/-- YIELD (R395); words of SPECIAL with an unlisted FN are taken here, as illegal. -/
def execYield (t : ThreadId) : State → Res :=
  cormel t (fun w => wMajor w == 0x32 && (wFn w == 0 || decide (4 < wFn w))) true fun _ w s =>
    let s := s.fin t w id
    { s with eng := { s.eng with yielded := mset s.eng.yielded t.engine.val t.ctx.val } }

/-- YIELDT (R395). -/
def execYieldt (t : ThreadId) : State → Res :=
  cormel t (special 1) true fun _ w s => (s.fin t w id).modThread t fun y => { y with wait := .turnover }

/-- CB retires with the count of stores not confirmed (R397), or raises the barrier exception. -/
def State.cbEnd (s : State) (t : ThreadId) (w lost : Nat) : State :=
  match s.thread t with
  | none => s
  | some x =>
    if lost = 0 then s.fin t w fun y => y.setG (wRd w) Status.ok.code
    else if x.ectl.toNat % 2 = 1 then s.except t .barrierLostStores lost
    else s.fin t w fun y => y.setG (wRd w) (Status.barrierLostStores.code + min lost (2 ^ 32 - 1) * 2 ^ 8)

/-- CB (R396): one flush read for each function with stores posted since the last CB. -/
def execCb (t : ThreadId) : State → Res :=
  cormel t (special 2) true fun x w s =>
    let left := x.posted
    let s := s.modThread t fun y => { y with posted := [] }
    if left.isEmpty then s.cbEnd t w 0
    else (left.foldl (fun s p => s.emit (.hostFlush p.1 0)) s).waitFor t (.cb left 0) 6

/-- CB_COMPLETE (R397, R428): the flush read of a function has completed, or has failed or timed out. -/
def execCbComplete (t : ThreadId) (f : Fin 4096) (ok : Bool) : State → Res :=
  whenRunning fun s => match s.thread t with
    | none => s
    | some x => match x.wait with
      | .cb left lost =>
        if mhas left f.val then
          let lost := if ok then lost else lost + mget left f.val 0
          let left := mdel left f.val
          if left.isEmpty then
            let s := s.modThread t fun y => { y with wait := .none }
            s.cbEnd t (s.wordAt t.engine x.pc) lost
          else s.modThread t fun y => { y with wait := .cb left lost }
        else s
      | _ => s

/-- EXIT (R395). -/
def execExit (t : ThreadId) : State → Res :=
  cormel t (special 3) true fun _ w s => (s.fin t w id).dropThread t

/-- ERET (R401, R402). -/
def execEret (t : ThreadId) : State → Res :=
  cormel t (special 4) true fun x w s =>
    if x.user then s.except t .notPermitted 0 else s.jump t w (x.epc.toNat / 4 * 4) id

/-- The first queued event of a slot in a cluster whose KIND is accepted, with its class. -/
def State.queuedFor (s : State) (c slot : Nat) : Option (Nat × HEvent) :=
  ([0, 1, 2, 3] : List Nat).findSome? fun q => ((s.evq c q).find? fun e => e.slot == slot && s.eventAccepted e).map fun e => (q, e)

/-- EVWAIT (R394): the current event is consumed; an event of the slot that is queued is taken at once. -/
def execEvwait (t : ThreadId) : State → Res :=
  cormel t (major 0x33) true fun x w s =>
    let due := if wImm w = 0 then none else some (s.turnovers + wImm w)
    let s := s.fin t w id
    let order := s.eng.order
    let s := ({ s with eng := { s.eng with order := order + 1 } }).modThread t fun y =>
      { y with event := none, wait := .event order due (wRd w) }
    let c := t.engine.val / 8
    match s.queuedFor c x.slot, s.thread t with
    | some (q, e), some y => ((s.setEvq c q ((s.evq c q).erase e)).giveEvent t y e).retryHeld
    | _, _ => s

/-- EVWAIT_TIMEOUT (R394): no event by the turnover named. -/
def execEvwaitTimeout (t : ThreadId) : State → Res :=
  whenRunning fun s => match s.thread t with
    | none => s
    | some x => match x.wait with
      | .event _ (some due) rd =>
        if due ≤ s.turnovers then s.setThread t { x.setG rd 0xFF with wait := .none, stall := 8 } else s
      | _ => s

/-! ### Packet emit (R391 to R393) -/

/-- The IE port by which a cluster's emitted packets enter the core: that of unit c mod 4 of its die. -/
def emitIe (c : Nat) : Nat := 4 * (c / 16) + c % 4

/-- Whether n bytes of local memory from an address on are readable by a thread (R367, R392). -/
def emitReadable (user : Bool) (ctx va n : Nat) : Bool :=
  decide (localBase ≤ va) && decide (va + n ≤ 2 ^ 48) &&
    localOk user false ctx (va - localBase) && (n == 0 || localOk user false ctx (va + n - 1 - localBase)) &&
    (!user || decide ((va + n - 1 - localBase) - (va - localBase) < 0x2000))

/-- The checks of an emit descriptor (R392) but the rank. -/
def State.emitCheck (s : State) (x : Thread) (va : Nat) (d : BitVec 256) (mcgOk : Bool) : Status :=
  let raw := L.EMD.RAW.on d
  let mc := L.EMD.MCAST.on d
  let cls := L.EMD.MCLASS.get d
  let n := L.EMD.LENGTH.get d
  firstStatus [
    (x.user && (raw || cls == 3), .notPermitted),
    (mc && !(mcgOk && cls == 2), .notPermitted),
    (Fld.get ⟨255, 83⟩ d != 0 || va % 64 != 0, .badValue),
    (!raw && (L.EMD.DST_EP.get d != 0 || L.EMD.JOB.get d != 0 || L.EMD.SRC_EP.get d != 0), .badValue),
    (if mc then L.EMD.DEST.get d != 0 else L.EMD.MGROUP.get d != 0, .badValue),
    (decide (cls < 2) && decide (5 < L.EMD.TC.get d), .badValue),
    (decide (n < 16) || decide (32 + 256 * 2 ^ s.f F.FUNC_CFG.DG_MTU (L.BND.FUNC.get x.bind) < n), .badValue)]

/-- The outcome of an emit: its status and the packet (R391, R392, R608). -/
def State.emitPacket (s : State) (t : ThreadId) (x : Thread) (va : Nat) : State × Status × Packet :=
  let c := t.engine.val / 8
  let a := lmBase t.engine + (va - localBase)
  let d : BitVec 256 := BitVec.ofNat 256 (leNat (memGets s.mem a 32))
  let raw := L.EMD.RAW.on d
  let mc := L.EMD.MCAST.on d
  let slot := L.BND.JOB_SLOT.get x.bind
  let f := L.BND.FUNC.get x.bind
  let job := if raw then L.EMD.JOB.get d else s.jobId slot
  let g := s.mcgRead (c / 16) (L.EMD.MGROUP.get d)
  let mcgOk := mcgValid g.2 && L.MCG.JOB.get g.2 == job
  let s := if mc then g.1 else s
  let body := memGets s.mem (a + 32) (L.EMD.LENGTH.get d)
  let k := hdrBytes (leNat (body.take 1))
  let cls := L.EMD.MCLASS.get d
  let tc := if cls = 2 then 6 else if cls = 3 then 7 else L.EMD.TC.get d
  let srcEp := if raw then L.EMD.SRC_EP.get d else s.fnEp f
  let mk (node ep : Nat) (pin : Bool) : Packet :=
    ⟨s.netHdr node ep srcEp job cls tc (pin || L.EMD.PINNED.on d) (if mc then some (L.EMD.MGROUP.get d) else none)
      (L.EMD.LENGTH.get d), BitVec.ofNat 256 (leNat (body.take k)), body.drop k⟩
  match s.emitCheck x va d mcgOk with
  | .ok =>
    if mc then (s, .ok, mk s.own 0 false)
    else if raw then (s, .ok, mk (L.EMD.DEST.get d) (L.EMD.DST_EP.get d) false)
    else match s.rankTranslate (emitIe c) slot (L.EMD.DEST.get d) with
      | (s, some r) => (s, .ok, mk r.node r.ep r.pinned)
      | (s, none) => (s, .rankInvalid, mk 0 0 false)
  | st => (s, st, mk 0 0 false)

/-- An EMIT that the attachment takes now, or that is refused with a status: it retires (R393). -/
def State.emitNow (s : State) (t : ThreadId) (x : Thread) (w va : Nat) : State :=
  match s.emitPacket t x va with
  | (s, .ok, p) =>
    let f := L.BND.FUNC.get x.bind
    let s := s.txPush (emitIe (t.engine / 8)) ⟨p, if x.user then s.dgPolicer f else none, 0, f, false, none, none⟩
    s.fin t w fun y => y.setG (wRd w) Status.ok.code
  | (s, st, _) => s.fin t w fun y => y.setG (wRd w) st.code

/-- EMIT (R391 to R393): `room` says that the attachment takes the packet; without room an EMIT that would send stalls. -/
def execEmit (t : ThreadId) (room : Bool) : State → Res :=
  cormel t (major 0x34) true fun x w s =>
    let va := x.rg (wRa w)
    let d : BitVec 256 := BitVec.ofNat 256 (leNat (memGets s.mem (lmBase t.engine + (va - localBase)) 32))
    if 2 ^ 48 ≤ va then s.except t .translation va
    else if !(emitReadable x.user t.ctx va 32) || !(emitReadable x.user t.ctx va (32 + L.EMD.LENGTH.get d)) then
      s.except t .access va
    else if room || (s.emitPacket t x va).2.1 != .ok then s.emitNow t x w va
    else s.waitFor t .emit 7

/-- EMIT_RETIRE (R393): the attachment takes the packet of a stalled EMIT. -/
def execEmitRetire (t : ThreadId) : State → Res :=
  whenRunning fun s => match s.thread t with
    | none => s
    | some x =>
      if x.wait = .emit then
        let w := s.wordAt t.engine x.pc
        s.emitNow t x w (x.rg (wRa w))
      else s

/-! ### TLB instructions (R398, R407 to R410) -/

/-- The TLB that TLBSEL names: kind, number and size; none for a placement number of 16 or more (R407). -/
def Thread.tlb (t : ThreadId) (x : Thread) : Option (Nat × Nat × Nat) :=
  let v := x.tlbsel.toNat
  if v / 2 ^ 15 % 2 = 1 then (if v % 512 < 16 then some (1, v % 512, 512) else none)
  else some (0, t.engine.val / 8, 256)

/-- Whether an entry may be written (R409, R410): no reserved bit, no reserved TARGET, TARGET 2 only in ASID 0. -/
def tlbEntryOk (tag dat : Word) : Bool :=
  Fld.get ⟨11, 0⟩ tag == 0 && Fld.get ⟨62, 61⟩ tag == 0 && Fld.get ⟨11, 7⟩ dat == 0 && Fld.get ⟨51, 48⟩ dat == 0 &&
    L.DAT.TARGET.get dat != 3 && (L.DAT.TARGET.get dat != 2 || L.TAG.ASID.get tag == 0)

/-- An entry written at an index. -/
def State.tlbPut (s : State) (k : Nat × Nat × Nat) (tag dat : Word) : State :=
  { s with xl := { s.xl with tlb := mset s.xl.tlb k (tag, dat) } }

/-- A TLB instruction's checks: the TLB it names, then its privilege (R400). -/
def tlbInsn (t : ThreadId) (row : Nat → Bool) (bad : Thread → Nat → Nat × Nat × Nat → Bool)
    (g : Thread → Nat → Nat × Nat × Nat → State → State) : State → Res :=
  cormel t row true fun x w s => match Thread.tlb t x with
    | none => s.except t .badValue 0
    | some k =>
      if bad x w k then s.except t .badValue 0
      else if x.user then s.except t .notPermitted 0
      else g x w k s

/-- The tag and data of a TLB write. -/
def Thread.entry (x : Thread) (w : Nat) : Word × Word := (lget x.g (wRa w) 0, lget x.g (wRb w) 0)

/-- XPUT (R398); words of TLB with an unlisted FN are taken here, as illegal. -/
def execXput (t : ThreadId) : State → Res :=
  tlbInsn t (fun w => wMajor w == 0x35 && wFn w != 2 && wFn w != 8)
    (fun x w k => decide (k.2.2 ≤ x.rg (wRd w)) || !(tlbEntryOk (x.entry w).1 (x.entry w).2))
    fun x w k s => (s.tlbPut (k.1, k.2.1, x.rg (wRd w)) (x.entry w).1 (x.entry w).2).fin t w id

/-- XPUTR (R398): the index is a free value among all the TLB's entries. -/
def execXputr (t : ThreadId) : State → Res :=
  tlbInsn t (fun w => wMajor w == 0x35 && wFn w == 2) (fun x w _ => !(tlbEntryOk (x.entry w).1 (x.entry w).2))
    fun x w k s =>
      let r := s.drawNat
      let i := r.1 % k.2.2
      (r.2.tlbPut (k.1, k.2.1, i) (x.entry w).1 (x.entry w).2).fin t w fun y => y.setG (wRd w) i

/-- XDROP (R398). -/
def execXdrop (t : ThreadId) : State → Res :=
  tlbInsn t (fun w => wMajor w == 0x35 && wFn w == 8) (fun _ _ _ => false) fun x w k s =>
    let asid := x.rg (wRb w) % 1024
    let drop (tag : Word) : Bool := match wRd w with
      | 0 => tagMatches tag asid (x.rg (wRa w) % 2 ^ 48)
      | 1 => !(L.TAG.G.on tag) && L.TAG.ASID.get tag == asid
      | _ => true
    let tlb := s.xl.tlb.filter fun e => !(e.1.1 == k.1 && e.1.2.1 == k.2.1 && drop e.2.1)
    ({ s with xl := { s.xl with tlb := tlb } }).fin t w id

/-! ### Loads from outside (R428) -/

/-- LOAD_COMPLETION (R385, R387, R400, R428). -/
def execLoadCompletion (t : ThreadId) (res : ReadResult) : State → Res :=
  whenRunning fun s => match s.thread t with
    | none => s
    | some x => match x.wait with
      | .load _ _ =>
        let w := s.wordAt t.engine x.pc
        let s := s.modThread t fun y => { y with wait := .none }
        let m := wMajor w
        match res with
        | .data bs =>
          if m = 0x28 then s.fin t w fun y => y.vload w bs
          else
            let n := if m ≤ 0x11 then 1 else if m ≤ 0x13 then 2 else if m ≤ 0x15 then 4 else 8
            s.fin t w fun y => y.setG (wRd w) (loaded n (m == 0x10 || m == 0x12 || m == 0x14) (leNat bs))
        | _ => s.except t .aborted (if m = 0x28 then x.vea w else x.ea w)
      | _ => s

end Sys2Proof.Machine
end

