-- ==== Sys2Proof/Machine/Warm.lean ====
section
/-!
DEFINITION. Secure boot and the fabric configuration records (R543 to R545), and the warm reset (R549, R550, R554).
-/
namespace Sys2Proof.Machine

open Sys2Proof

/-! ### The chosen slot (R544, R545) -/

/-- The firmware handler image in every engine, with its master copy (R544). -/
def State.loadFirmware (s : State) (bs : List Byte) : State :=
  if imageOk bs then
    match s.freeImage with
    | some n => s.addImage n 0 bs
    | none => s
  else s

/-- The port and value of a record that sets ENABLE of a PORT_CTRL, which is held back (R545). -/
def heldEnable (s : State) (a : Nat) (v : Word) : Option Nat :=
  match devTarget s (a / 8 * 8) with
  | .reg r _ => if r.name = .PORT_CTRL ∧ a % 8 = 0 ∧ fo F.PORT_CTRL.ENABLE v then some r.i else none
  | _ => none

/-- Whether a record names MIRROR_BASE or MIRROR_CFG (R545). -/
def mirrorRecord (s : State) (a : Nat) : Bool :=
  match devTarget s (a / 8 * 8) with
  | .reg r _ => r.name == .MIRROR_BASE || r.name == .MIRROR_CFG
  | _ => false

/-- The fabric configuration records from number n on, applied as register writes by the service processor up to the
first that is rejected (R545). -/
def State.applyRecords : List (Nat × BitVec 64) → Nat → State → State
  | [], _, s => s.set F.BOOT_STATUS.RECORDS_DONE 1
  | (a, v) :: l, n, s =>
    if mirrorRecord s a then s.recordReject n
    else match heldEnable s a v with
      | some p => (s.modSys fun x => { x with held := x.held ++ [(n, p, v)] }).applyRecords l (n + 1)
      | none =>
        let t := s.regWrite .serviceProcessor .device a 8 v
        if a ≠ 0 ∧ F.WRITE_STATUS.LAST_STATUS.fld.get (t.ws .serviceProcessor) ≠ Status.ok.code then t.recordReject n
        else t.applyRecords l (n + 1)

/-- What a boot loads from the chosen image, in the order of R544. -/
def State.loadSlot (s : State) (im : SlotImage) : State :=
  let s := s.loadFirmware im.firmware
  let s := im.tables.foldl (fun s t => s.gsPuts t.1 t.2) s
  (State.applyRecords im.records 0 s).set F.BOOT_STATUS.STATE 2

/-- SECURE_BOOT (R543, R544): taken once the fuses are loaded and the service processor boots; `a` and `b` are the slots
as it reads them. -/
def execSecureBoot (a b : Option SlotImage) : State → Res :=
  whenPowered fun s =>
    if s.f F.BOOT_STATUS.STATE ≠ 1 then s
    else match s.bootSlot a b with
      | none => (s.set F.BOOT_STATUS.STATE 3).set F.BOOT_STATUS.FAIL 1
      | some (k, im) =>
        let s := (s.set F.BOOT_STATUS.SLOT k).set F.BOOT_STATUS.SVN im.svn
        (s.modSys fun x => { x with image := some im }).loadSlot im

/-! ### The warm reset (R550) -/

/-- The registers that a warm reset keeps (R540, R550, R515): identity, serial and fuses, the fault log's, the turnover
count, and those of the service processor's own block. -/
def keptWarm : RegName → Bool
  | .ID_DIE_A | .ID_DIE_B | .PKG_SERIAL | .SEC_FUSES | .LOG_WR | .FATAL_RECORD | .RP_TURNOVERS | .DH_CFG | .DH_STATUS
  | .DH_MAC | .MOD_SITE | .MOD_STATUS => true
  | _ => false

/-- The pins that a warm reset drives back (R530, R536). -/
def State.warmPins (s : State) : List Out :=
  (if s.on F.FAULT_SUMMARY.ERR_N then [Out.pin .errN true] else []) ++
  s.pcie.devPerst.map fun n => Out.pin (.devPerstN n) false

/-- Everything at its reset value but what R550 keeps; fabric time runs on in FREE, and EB_FMF_CFG takes its written
value (R494). -/
def State.warmClear (s : State) : State :=
  let fmfCfg : Reg := ⟨.EB_FMF_CFG, 0, 0⟩
  let kept := s.regs.filter fun e => keptWarm e.1.name
  let tm : TimeSt := { ctr := s.time.ctr, tickCk := s.time.tickCk }
  let flt : FaultSt := { log := s.flt.log, lastRec := s.flt.lastRec, fatalKept := s.flt.fatalKept,
                         repair := if s.flt.repairErase then [] else s.flt.repair, ackedSeq := s.flt.ackedSeq }
  let sys : SysSt := { s.sys with held := [] }
  let pcie : PcieSt := { perstUp := s.pcie.perstUp }
  { State.reset with
    regs := mset kept fmfCfg (s.rd fmfCfg)
    active := [(fmfCfg, s.rd fmfCfg)]
    time := tm, flt := flt, sys := sys, pcie := pcie
    mgmt := { s.mgmt with snapWait := false }
    out := s.out ++ s.warmPins, draws := s.draws, pending := s.pending }

/-- The fused limits of every die, to which LN_DIE_CFG resets (R586). -/
def State.dieLimits (s : State) : State :=
  if s.sys.fusesLoaded then
    (List.range 13).foldl (fun s d =>
      let l := Config.dieLimit d
      ((s.set F.LN_DIE_CFG.ICC_MAX l.1 d).set F.LN_DIE_CFG.V_MIN l.2.1 d).set F.LN_DIE_CFG.V_MAX l.2.2 d) s
  else s

/-- A warm reset with its cause (R549, R550, R554): self-test and repair, the image loaded again from the service
processor's memory, and the safe state again where source 9 was set (R529). -/
def State.warmReset (s : State) (cause : Nat) (tests : List SelfTest) : State :=
  let boot := s.rd ⟨.BOOT_STATUS, 0, 0⟩
  let tripped := s.faultSet 9
  let s := (s.warmClear.dieLimits).set F.RST_CAUSE.CAUSE cause
  let s := (s.set F.BOOT_STATUS.STATE (fv F.BOOT_STATUS.STATE boot)).set F.BOOT_STATUS.SLOT (fv F.BOOT_STATUS.SLOT boot)
  let s := s.set F.BOOT_STATUS.SVN (fv F.BOOT_STATUS.SVN boot)
  let s := s.selfTests tests
  let s := if tripped then ((s.safeState false).set F.FAULT_STATUS.STATUS (2 ^ 9) 0).errUpdate else s
  match s.sys.image with
  | some im => s.loadSlot im
  | none => s.set F.BOOT_STATUS.FAIL (fv F.BOOT_STATUS.FAIL boot)

/-- RST_WARM (R549, R553): a write of RST_CMD of TYPE 1 with GO; `tests` is what the self-tests find. -/
def execRstWarm (rq : Requester) (tests : List SelfTest) : State → Res :=
  whenServed rq fun s =>
    s.writeAs rq (Reg.offset ⟨.RST_CMD, 0, 0⟩) (s.rstCheck rq 1 0) fun s => s.warmReset 2 tests

/-- PLDM_RESET_REQUEST (R549): the service processor performs a warm reset. -/
def execPldmResetRequest (tests : List SelfTest) : State → Res := whenPowered fun s => s.warmReset 3 tests

end Sys2Proof.Machine
end

