-- ==== Sys2Proof/Machine/Bar.lean ====
section
/-!
DEFINITION. Requests to the BARs of the QD1K's functions (R477, R577 to R579) and to the Groundsheet window (R578, R588),
and the register writes and WRITE_STATUS reads that come through them (R587 to R589).
-/
namespace Sys2Proof.Machine

open Sys2Proof

/-! ### Register writes -/

/-- Whether a register write is a write of RST_CMD that commands a warm reset and passes its checks. -/
def State.warmWrite (s : State) (rq : Requester) (w : Window) (off size : Nat) (v : Word) : Bool :=
  w == .device && accessOk off size && s.rstCheck rq 1 0 == .ok &&
    match devTarget s (off / 8 * 8) with
    | .reg r false =>
      let x := accessValue off size 0 v r.name.desc.fields
      r.name == .RST_CMD && fo F.RST_CMD.GO x && fv F.RST_CMD.TYPE x == 1 && !(setsRsv r.name.desc.fields x)
    | _ => false

/-- A register write from outside the part. One that commands a warm reset performs it; its self-tests find nothing new
(RST_WARM names what they find). -/
def State.outerWrite (s : State) (rq : Requester) (w : Window) (off size : Nat) (v : Word) : State :=
  if s.takesWrites rq && s.warmWrite rq w off size v then s.warmReset 2 [] else s.regWrite rq w off size v

/-- REGISTER_WRITE (R12, R14, R588, R605). -/
def execRegisterWrite (rq : Requester) (w : Window) (off : Nat) (size : Nat) (v : Word) : State → Res :=
  fun s => .next (s.outerWrite rq w off size v)

/-- WRITE_STATUS_READ (R587, R589): the reader's own register; every write of this model is accepted or rejected in its
own step. -/
def execWriteStatusRead (rq : Requester) : State → Res :=
  whenPowered fun s => s.emit (.regRead rq (s.ws rq))

/-! ### The Groundsheet window -/

/-- A write through the Groundsheet window of the fabric management function (R433, R578, R588): `off` is the offset in
the window, whose four quarters are the plain window, CLAIM, WAIT and RELEASE. -/
def State.gsWindowWrite (s : State) (off : Nat) (bs : List Byte) : State :=
  let rq : Requester := .func ⟨fmf, by decide⟩
  let o := off % gsSize
  let n := bs.length
  match off / gsSize % 4 with
  | 0 =>
    if hostWritable o && hostWritable (o + n - 1) then (s.gsStore none o bs).wsRecord rq .ok off
    else s.wsRecord rq .notPermitted off
  | 1 =>
    if n = 8 then s.lockWrite rq o 0x04000000 fun i s => s.lockClaim o i (leNat bs)
    else (s.cnt .LOCK_MISUSE_COUNT).wsRecord rq .badValue off
  | 2 => (s.cnt .LOCK_MISUSE_COUNT).wsRecord rq .badValue off
  | _ =>
    if n = 8 then s.lockWrite rq o 0x0C000000 fun i s => s.lockRelease o i (leNat bs)
    else (s.cnt .LOCK_MISUSE_COUNT).wsRecord rq .badValue off

/-- GROUNDSHEET_WINDOW_WRITE (R578). -/
def execGroundsheetWindowWrite (off : Fin 268435456) (bs : List Byte) : State → Res :=
  whenRunning fun s => s.gsWindowWrite off bs

/-! ### TLPs to the BARs (R477) -/

/-- The port over which a function is reached. -/
def State.fnPort (s : State) (f : Nat) : Option Nat :=
  if f = fmf then some s.fmfPort else match s.partOf f with
    | some p => s.upPort p
    | none => none

/-- A read answered with data, or with poisoned data. -/
def State.barData (s : State) (port : Nat) (t : Tlp) (bs : List Byte) (ep : Bool := false) : State :=
  s.tlpSend port { t.answer cplSuccess bs with ep := ep }

/-- A request that a function completes as unsupported (R433, R477). -/
def State.barUnsupported (s : State) (f port : Nat) (t : Tlp) : State :=
  (s.aerSet (64 + f) aerUnsupported).tlpSend port (t.answer cplUnsupported [])

/-- A read through the Groundsheet window (R433, R437, R578). -/
def State.gsWindowRead (s : State) (port off : Nat) (t : Tlp) : State :=
  let o := off % gsSize
  let aligned := t.len == 8 && o % 8 == 0
  let refuse (s : State) : State := (s.cnt .LOCK_MISUSE_COUNT).barUnsupported fmf port t
  match off / gsSize % 4 with
  | 0 => s.barData port t (s.gsGets o t.len) (s.gsPoisoned o)
  | 2 =>
    if aligned && hostWritable o then
      match s.lockWait o fmfIdent with
      | (s, some v) => s.barData port t (leBytes 8 v)
      | (s, none) => s
    else refuse s
  | _ => if aligned then s.barData port t (s.gsGets o 8) else refuse s

/-- An AtomicOp in the plain Groundsheet window (R477): 0 FetchAdd, 1 Swap, 2 CAS, whose data holds the comparand and then
the value to store. -/
def State.gsWindowAtomic (s : State) (port off : Nat) (t : Tlp) (aop : Fin 3) : State :=
  let o := off % gsSize
  let rq : Requester := .func ⟨fmf, by decide⟩
  let n := t.len
  let old := s.gsNat o n
  let a := leNat (t.data.take n)
  let b := leNat ((t.data.drop n).take n)
  let new := if aop = 2 then atomicOp 2 n old b a else atomicOp aop.val n old a 0
  let sized := decide (n = 4 ∨ n = 8 ∨ n = 16) && o % n == 0
  if gsSize ≤ off ∨ !sized then s.barUnsupported fmf port t
  else if !(hostWritable o) then (s.wsRecord rq .notPermitted off).barUnsupported fmf port t
  else ((s.gsStore none o (leBytes n new)).wsRecord rq .ok off).barData port t (leBytes n old)

/-- A request to a BAR of a function, decoded on die X: BAR 0 the function window, BAR 2 the device window and BAR 4 the
Groundsheet window of the fabric management function (R477, R577). -/
def State.barTake (s : State) (f : Fin 4096) (bar : Nat) (off : Nat) (t : Tlp) (aop : Fin 3) (port : Nat) : State :=
  let rq : Requester := .func f
  let v : Word := BitVec.ofNat 64 (leNat (t.data.take 8))
  match t.kind with
  | .memWrite =>
    if t.ep then s.aerSet (64 + f) aerPoisoned
    else if bar = 0 then s.outerWrite rq .own off t.data.length v
    else if bar = 2 then s.outerWrite rq .device off t.data.length v
    else s.gsWindowWrite off t.data
  | .memRead =>
    if bar = 4 then s.gsWindowRead port off t
    else
      let x := if bar = 0 then s.ownRead f off t.len else s.devRead rq off t.len
      x.1.barData port t (leBytes t.len x.2)
  | .atomic => if bar = 4 then s.gsWindowAtomic port off t aop else s.barUnsupported f port t
  | _ => s

/-- Whether a function has a BAR of a number and size that an offset falls in (R577). -/
def barHas (f bar off : Nat) : Bool :=
  (bar == 0 && decide (off < 2 ^ 21)) || (f == fmf && bar == 2 && decide (off < 2 ^ 27)) ||
    (f == fmf && bar == 4 && decide (off < 2 ^ 28))

/-- NF_BAR_REQUEST (R477, R528): in the safe state reads are completed with Completer Abort and writes dropped. -/
def execNfBarRequest (f : Fin 4096) (bar : Fin 6) (off : Nat) (t : Tlp) (aop : Fin 3) : State → Res :=
  whenPowered fun s => match s.fnPort f with
    | none => s
    | some port =>
      if !(barHas f bar off) || !t.memory then s
      else if s.running then s.barTake f bar off t aop port
      else if t.nonPosted then s.tlpSend port (t.answer cplAbort [])
      else s

end Sys2Proof.Machine
end

