-- ==== Sys2Proof/Machine/Turnover.lean ====
section
/-!
DEFINITION. TURNOVER (R31 to R41): the 48 CK in which every tick-scoped part of the QD1K passes from one tick to the next.
-/
namespace Sys2Proof.Machine

open Sys2Proof

/-- The events of the ending tick that the surroundings count (R570). -/
def State.takeCounts (s : State) (l : List (Nat × Nat)) : State :=
  l.foldl (fun s c =>
    if s.ona F.PC_CTRL.RUN && decide (c.1 < 144) && s.ona F.PC_SEL.ENABLE c.1 then s.pcAdd c.1 c.2 else s) s

/-- The snapshot that waits: every counter copied at CK 0, and SNAP_SEQ with it (R571). -/
def State.snapshot (s : State) : State :=
  if s.mgmt.snapWait then
    let s := (List.range 144).foldl (fun s i => s.wr ⟨.PC_SNAP, i, 0⟩ (s.rd ⟨.PC_VALUE, i, 0⟩)) s
    let s := s.set F.PC_CTRL.SNAP_SEQ (s.f F.PC_CTRL.SNAP_SEQ + 1)
    { s with mgmt := { s.mgmt with snapWait := false } }
  else s

/-- The turnover counted by the counters that select event 0xB0, whatever their INSTANCE (R570). -/
def State.countTurnover (s : State) : State :=
  if s.ona F.PC_CTRL.RUN then
    ((List.range 16).map (128 + ·)).foldl (fun s i =>
      if s.ona F.PC_SEL.ENABLE i && s.fa F.PC_SEL.EVENT i == 0xB0 then s.pcAdd i 1 else s) s
  else s

/-- Whether every enabled dimension has a port in service (R548). -/
def State.dimsServed (s : State) : Bool :=
  (List.range 4).all fun d => !(s.dimOn d) || (List.range 256).any fun p => s.inService p && s.portDim p == d

/-- FABRIC_READY set at the first turnover at which its conditions hold (R548). -/
def State.fabricReady (s : State) : State :=
  let ready := !(s.on F.BOOT_STATUS.FABRIC_READY) && s.f F.BOOT_STATUS.STATE == 2 && s.on F.BOOT_STATUS.RECORDS_DONE &&
    s.on F.MIRROR_CFG.MIRROR_SYNCED && (s.on F.RP_CONTROL.ROOT || s.f F.RP_STATUS.STATE == 2)
  if ready && s.dimsServed then (s.set F.BOOT_STATUS.FABRIC_READY 1).raise 1624 else s

/-- The doorbell words read in the ending tick, applied (R227). -/
def State.doorbells (s : State) : State :=
  ((s.rings.filter fun e => e.2.polled || e.2.dbValue.isSome).map fun e => e.1).foldl
    (fun s k => s.doorbellApply k.1 k.2) s

/-- The units late at this turnover: those that the surroundings name, and the collective stages while a fold is
unfinished (R40, R345). -/
def State.lateUnits (s : State) (i : TickInput) : Nat :=
  clrBit i.late 2 ||| (if s.collLate then 4 else 0)

/-- The switch core's part: the loops of R100, R129, R131 and R133, the shapers and the held red packets. -/
def State.coreTurnover (s : State) : State :=
  s.hopAdapts.alphaAdjusts.hotTurn.kEffUpdate.shaperRefill.redRemeter

/-- What follows the banks' swap in every block. -/
def State.blocksTurnover (s : State) (i : TickInput) (late : Nat) : State :=
  let s := (s.jobBoundary.connTurnover late).coreTurnover
  let s := s.laneTurnover.linkTurnover.collTurnover
  let s := s.lanternTurnover { i with late := late }
  let s := (List.range 16).foldl (fun s m => s.mvTurnover m) s
  s.engTurnover.doorbells

/-- A turnover of a part that runs. -/
def State.turnover (s : State) (i : TickInput) : State :=
  let s := (s.takeCounts i.counts).jobAccumulate
  let late := s.lateUnits i
  let s := (s.tickAdvance.overruns late).bankSwap.snapshot.countTurnover.stepApply
  let s := ((s.blocksTurnover i late).snapTurnover (late.testBit 0)).guylineSend.timestampSend
  (s.servoLoad i.ref10m).fabricReady

/-- TURNOVER (R31): in the safe state fabric time runs on and nothing else of the turnover does (R528). -/
def execTurnover (i : TickInput) : State → Res :=
  whenPowered fun s => if s.running then s.turnover i else s.tickAdvance

end Sys2Proof.Machine
end

