-- ==== Sys2Proof/Machine/Dispatch.lean ====
section
/-!
DEFINITION. The meaning of each command: one arm per constructor of Instr, each a direct call of that command's own
meaning, or a refusal by name while it has none.
-/
namespace Sys2Proof.Machine

open Sys2Proof

def exec (i : Instr) (s : State) : Host.Outcome State Fault Refusal :=
  match i with
  | .registerWrite rq w off size v => Sys2Proof.Machine.execRegisterWrite rq w off size v s
  | .writeStatusRead rq => Sys2Proof.Machine.execWriteStatusRead rq s
  | .turnover k0 => Sys2Proof.Machine.execTurnover k0 s
  | .rpStepCmdGo rq => Sys2Proof.Machine.execRpStepCmdGo rq s
  | .rpTodSecondsWrite rq v => Sys2Proof.Machine.execRpTodSecondsWrite rq v s
  | .tbPpsEdge ck => Sys2Proof.Machine.execTbPpsEdge ck s
  | .tbPpsLoss => Sys2Proof.Machine.execTbPpsLoss s
  | .tb10mLoss => Sys2Proof.Machine.execTb10mLoss s
  | .rpTimeRead rq ck => Sys2Proof.Machine.execRpTimeRead rq ck s
  | .timestampLcbReceive p lcb ck => Sys2Proof.Machine.execTimestampLcbReceive p lcb ck s
  | .ptmExchange part hostNs ratio err ck => Sys2Proof.Machine.execPtmExchange part hostNs ratio err ck s
  | .jobCreate e => Sys2Proof.Machine.execJobCreate e s
  | .jobAttach e => Sys2Proof.Machine.execJobAttach e s
  | .jobDetach e => Sys2Proof.Machine.execJobDetach e s
  | .jobDestroy e => Sys2Proof.Machine.execJobDestroy e s
  | .jobDestroyComplete e => Sys2Proof.Machine.execJobDestroyComplete e s
  | .rttInvalidate e => Sys2Proof.Machine.execRttInvalidate e s
  | .rttInvalidateComplete e => Sys2Proof.Machine.execRttInvalidateComplete e s
  | .packetRoute inp => Sys2Proof.Machine.execPacketRoute inp s
  | .guylineLcbReceive p lcb => Sys2Proof.Machine.execGuylineLcbReceive p lcb s
  | .mcgInvalidate e => Sys2Proof.Machine.execMcgInvalidate e s
  | .mcgInvalidateComplete e => Sys2Proof.Machine.execMcgInvalidateComplete e s
  | .cellArbitration arrivals => Sys2Proof.Machine.execCellArbitration arrivals s
  | .sharedChargeMove id => Sys2Proof.Machine.execSharedChargeMove id s
  | .hotEntryFree e => Sys2Proof.Machine.execHotEntryFree e s
  | .cutThroughUnderrun out => Sys2Proof.Machine.execCutThroughUnderrun out s
  | .packetInject ie => Sys2Proof.Machine.execPacketInject ie s
  | .portEnable rq p v => Sys2Proof.Machine.execPortEnable rq p v s
  | .portDisable rq p v => Sys2Proof.Machine.execPortDisable rq p v s
  | .portDrain rq p force => Sys2Proof.Machine.execPortDrain rq p force s
  | .portRestore rq p => Sys2Proof.Machine.execPortRestore rq p s
  | .portRetrain rq p => Sys2Proof.Machine.execPortRetrain rq p s
  | .portTest rq p => Sys2Proof.Machine.execPortTest rq p s
  | .commaLockGain l inverted => Sys2Proof.Machine.execCommaLockGain l inverted s
  | .commaLockLoss l => Sys2Proof.Machine.execCommaLockLoss l s
  | .holdOffExpire p => Sys2Proof.Machine.execHoldOffExpire p s
  | .capSetReceive l cap crc sent => Sys2Proof.Machine.execCapSetReceive l cap crc sent s
  | .negTimeout p => Sys2Proof.Machine.execNegTimeout p s
  | .trainingFrameReceive l ctl converged req => Sys2Proof.Machine.execTrainingFrameReceive l ctl converged req s
  | .eqTimeout p => Sys2Proof.Machine.execEqTimeout p s
  | .alignComplete p => Sys2Proof.Machine.execAlignComplete p s
  | .alignTimeout p => Sys2Proof.Machine.execAlignTimeout p s
  | .deskewError l => Sys2Proof.Machine.execDeskewError l s
  | .verifyEvaluate p ratio uncorrectable prbsError => Sys2Proof.Machine.execVerifyEvaluate p ratio uncorrectable prbsError s
  | .verifyStatusReceive p st => Sys2Proof.Machine.execVerifyStatusReceive p st s
  | .verifyTimeout p => Sys2Proof.Machine.execVerifyTimeout p s
  | .portActiveEntry p rx => Sys2Proof.Machine.execPortActiveEntry p rx s
  | .losAssert l => Sys2Proof.Machine.execLosAssert l s
  | .losClear l => Sys2Proof.Machine.execLosClear l s
  | .cdrLockLoss l => Sys2Proof.Machine.execCdrLockLoss l s
  | .codewordLockLoss l => Sys2Proof.Machine.execCodewordLockLoss l s
  | .blockLockGain l => Sys2Proof.Machine.execBlockLockGain l s
  | .blockLockLoss l => Sys2Proof.Machine.execBlockLockLoss l s
  | .widthReqReceive p m => Sys2Proof.Machine.execWidthReqReceive p m s
  | .widthCommitReceive p m => Sys2Proof.Machine.execWidthCommitReceive p m s
  | .widthWidenReceive p m => Sys2Proof.Machine.execWidthWidenReceive p m s
  | .widthReadyReceive p m => Sys2Proof.Machine.execWidthReadyReceive p m s
  | .widthSwitch p rx => Sys2Proof.Machine.execWidthSwitch p rx s
  | .degradeTimeout p downTimePassed => Sys2Proof.Machine.execDegradeTimeout p downTimePassed s
  | .widenTimeout p => Sys2Proof.Machine.execWidenTimeout p s
  | .serviceDrainReceive p seq => Sys2Proof.Machine.execServiceDrainReceive p seq s
  | .drainAckSend p => Sys2Proof.Machine.execDrainAckSend p s
  | .serviceDrainAckReceive p seq => Sys2Proof.Machine.execServiceDrainAckReceive p seq s
  | .drainComplete p => Sys2Proof.Machine.execDrainComplete p s
  | .serviceRestoreReceive p seq => Sys2Proof.Machine.execServiceRestoreReceive p seq s
  | .serviceRestoreAckReceive p seq => Sys2Proof.Machine.execServiceRestoreAckReceive p seq s
  | .testNoticeReceive p mode pattern rate => Sys2Proof.Machine.execTestNoticeReceive p mode pattern rate s
  | .testComplete p pass => Sys2Proof.Machine.execTestComplete p pass s
  | .laneCal rq l => Sys2Proof.Machine.execLaneCal rq l s
  | .remoteTuneRequest l req => Sys2Proof.Machine.execRemoteTuneRequest l req s
  | .tuneLcbReceive p lcb => Sys2Proof.Machine.execTuneLcbReceive p lcb s
  | .lanePrbsInject rq l => Sys2Proof.Machine.execLanePrbsInject rq l s
  | .lanePrbsClear rq l => Sys2Proof.Machine.execLanePrbsClear rq l s
  | .linkSendNew p => Sys2Proof.Machine.execLinkSendNew p s
  | .ackLcbReceive p lcb => Sys2Proof.Machine.execAckLcbReceive p lcb s
  | .replayTimerExpire p => Sys2Proof.Machine.execReplayTimerExpire p s
  | .linkPacketSop p env net tp ck => Sys2Proof.Machine.execLinkPacketSop p env net tp ck s
  | .linkPacketEnd p payload lcrc interrupted ck => Sys2Proof.Machine.execLinkPacketEnd p payload lcrc interrupted ck s
  | .abortBlockReceive p => Sys2Proof.Machine.execAbortBlockReceive p s
  | .ackCoalesceExpire p => Sys2Proof.Machine.execAckCoalesceExpire p s
  | .initLcbReceive p lcb => Sys2Proof.Machine.execInitLcbReceive p lcb s
  | .initRepeat p => Sys2Proof.Machine.execInitRepeat p s
  | .retrainLcbReceive p lcb => Sys2Proof.Machine.execRetrainLcbReceive p lcb s
  | .fatalLcbReceive p lcb => Sys2Proof.Machine.execFatalLcbReceive p lcb s
  | .linkDown p => Sys2Proof.Machine.execLinkDown p s
  | .resumeTimeout p => Sys2Proof.Machine.execResumeTimeout p s
  | .freshStartInitSend p => Sys2Proof.Machine.execFreshStartInitSend p s
  | .ringEnable f r v => Sys2Proof.Machine.execRingEnable f r v s
  | .ringPiWrite f r v => Sys2Proof.Machine.execRingPiWrite f r v s
  | .ringCiWrite f r v => Sys2Proof.Machine.execRingCiWrite f r v s
  | .ringHoldStart f r start count => Sys2Proof.Machine.execRingHoldStart f r start count s
  | .ringHoldRelease f r => Sys2Proof.Machine.execRingHoldRelease f r s
  | .ringArm f r idx => Sys2Proof.Machine.execRingArm f r idx s
  | .ringDisarm f r => Sys2Proof.Machine.execRingDisarm f r s
  | .doorbellPoll f r res => Sys2Proof.Machine.execDoorbellPoll f r res s
  | .ringEntryFetch f r => Sys2Proof.Machine.execRingEntryFetch f r s
  | .fetchRetry e => Sys2Proof.Machine.execFetchRetry e s
  | .entryBegin f r => Sys2Proof.Machine.execEntryBegin f r s
  | .nop e => Sys2Proof.Machine.execNop e s
  | .connCreate e => Sys2Proof.Machine.execConnCreate e s
  | .connModify e => Sys2Proof.Machine.execConnModify e s
  | .connDestroy e => Sys2Proof.Machine.execConnDestroy e s
  | .connDestroyComplete e => Sys2Proof.Machine.execConnDestroyComplete e s
  | .mrRegister e => Sys2Proof.Machine.execMrRegister e s
  | .mrRevoke e => Sys2Proof.Machine.execMrRevoke e s
  | .mrRevokeComplete e => Sys2Proof.Machine.execMrRevokeComplete e s
  | .trigCounterSet e => Sys2Proof.Machine.execTrigCounterSet e s
  | .dgSend e payload => Sys2Proof.Machine.execDgSend e payload s
  | .mcSend e payload => Sys2Proof.Machine.execMcSend e payload s
  | .collPost e operand => Sys2Proof.Machine.execCollPost e operand s
  | .recvBuf e => Sys2Proof.Machine.execRecvBuf e s
  | .recvMatch e => Sys2Proof.Machine.execRecvMatch e s
  | .dbBatch e => Sys2Proof.Machine.execDbBatch e s
  | .cqDoorbell f v => Sys2Proof.Machine.execCqDoorbell f v s
  | .cwqFetch c recv => Sys2Proof.Machine.execCwqFetch c recv s
  | .stampRetry c recv => Sys2Proof.Machine.execStampRetry c recv s
  | .put e => Sys2Proof.Machine.execPut e s
  | .get e => Sys2Proof.Machine.execGet e s
  | .send e => Sys2Proof.Machine.execSend e s
  | .sendMatched e => Sys2Proof.Machine.execSendMatched e s
  | .atomic e => Sys2Proof.Machine.execAtomic e s
  | .notifyRecordWrite f r => Sys2Proof.Machine.execNotifyRecordWrite f r s
  | .functionReset f => Sys2Proof.Machine.execFunctionReset f s
  | .functionResetComplete f => Sys2Proof.Machine.execFunctionResetComplete f s
  | .transportReceive ie => Sys2Proof.Machine.execTransportReceive ie s
  | .dgReceive ie => Sys2Proof.Machine.execDgReceive ie s
  | .transportAckReceive ie => Sys2Proof.Machine.execTransportAckReceive ie s
  | .noticeReceive ie => Sys2Proof.Machine.execNoticeReceive ie s
  | .routeFailReceive ie => Sys2Proof.Machine.execRouteFailReceive ie s
  | .retxSelective c psn => Sys2Proof.Machine.execRetxSelective c psn s
  | .rtoExpire c => Sys2Proof.Machine.execRtoExpire c s
  | .rnrRetry c psn => Sys2Proof.Machine.execRnrRetry c psn s
  | .contextFetchComplete c ok => Sys2Proof.Machine.execContextFetchComplete c ok s
  | .remoteFlushComplete c psn ok => Sys2Proof.Machine.execRemoteFlushComplete c psn ok s
  | .payloadReadComplete c uid res => Sys2Proof.Machine.execPayloadReadComplete c uid res s
  | .atomicOpComplete c psn res => Sys2Proof.Machine.execAtomicOpComplete c psn res s
  | .collUpReceive ie => Sys2Proof.Machine.execCollUpReceive ie s
  | .collFoldDone mg seq stage slice => Sys2Proof.Machine.execCollFoldDone mg seq stage slice s
  | .collDownReceive ie => Sys2Proof.Machine.execCollDownReceive ie s
  | .collMarkReceive ie => Sys2Proof.Machine.execCollMarkReceive ie s
  | .collAbortReceive ie => Sys2Proof.Machine.execCollAbortReceive ie s
  | .collStageTimeout mg seq => Sys2Proof.Machine.execCollStageTimeout mg seq s
  | .collTombstoneExpire mg seq => Sys2Proof.Machine.execCollTombstoneExpire mg seq s
  | .collOrphanExpire mg seq => Sys2Proof.Machine.execCollOrphanExpire mg seq s
  | .handlerDispatch c => Sys2Proof.Machine.execHandlerDispatch c s
  | .handlerOverrunAbort t => Sys2Proof.Machine.execHandlerOverrunAbort t s
  | .clusterTimerFire c k => Sys2Proof.Machine.execClusterTimerFire c k s
  | .hbWrite rq slot => Sys2Proof.Machine.execHbWrite rq slot s
  | .hbRead rq slot => Sys2Proof.Machine.execHbRead rq slot s
  | .hbDisable rq slot => Sys2Proof.Machine.execHbDisable rq slot s
  | .imgLoad rq => Sys2Proof.Machine.execImgLoad rq s
  | .imageLoadComplete res => Sys2Proof.Machine.execImageLoadComplete res s
  | .imgUnload rq img => Sys2Proof.Machine.execImgUnload rq img s
  | .sampleRdWrite rq e rd => Sys2Proof.Machine.execSampleRdWrite rq e rd s
  | .ctrWatchArm rq w v => Sys2Proof.Machine.execCtrWatchArm rq w v s
  | .engineFenceCmd rq e => Sys2Proof.Machine.execEngineFenceCmd rq e s
  | .watchdogExpire e => Sys2Proof.Machine.execWatchdogExpire e s
  | .spareLoadComplete e => Sys2Proof.Machine.execSpareLoadComplete e s
  | .alu t => Sys2Proof.Machine.execAlu t s
  | .addi t => Sys2Proof.Machine.execAddi t s
  | .andi t => Sys2Proof.Machine.execAndi t s
  | .ori t => Sys2Proof.Machine.execOri t s
  | .xori t => Sys2Proof.Machine.execXori t s
  | .shifti t => Sys2Proof.Machine.execShifti t s
  | .lui t => Sys2Proof.Machine.execLui t s
  | .muldiv t => Sys2Proof.Machine.execMuldiv t s
  | .cmp t => Sys2Proof.Machine.execCmp t s
  | .cmpi t => Sys2Proof.Machine.execCmpi t s
  | .pred t => Sys2Proof.Machine.execPred t s
  | .lb t => Sys2Proof.Machine.execLb t s
  | .lbu t => Sys2Proof.Machine.execLbu t s
  | .lh t => Sys2Proof.Machine.execLh t s
  | .lhu t => Sys2Proof.Machine.execLhu t s
  | .lw t => Sys2Proof.Machine.execLw t s
  | .lwu t => Sys2Proof.Machine.execLwu t s
  | .ld t => Sys2Proof.Machine.execLd t s
  | .sb t => Sys2Proof.Machine.execSb t s
  | .sh t => Sys2Proof.Machine.execSh t s
  | .sw t => Sys2Proof.Machine.execSw t s
  | .sd t => Sys2Proof.Machine.execSd t s
  | .ldrsv t => Sys2Proof.Machine.execLdrsv t s
  | .stcnd t => Sys2Proof.Machine.execStcnd t s
  | .b t => Sys2Proof.Machine.execB t s
  | .jal t => Sys2Proof.Machine.execJal t s
  | .jalr t => Sys2Proof.Machine.execJalr t s
  | .vld t => Sys2Proof.Machine.execVld t s
  | .vst t => Sys2Proof.Machine.execVst t s
  | .vop t => Sys2Proof.Machine.execVop t s
  | .vred t => Sys2Proof.Machine.execVred t s
  | .mfsr t ck => Sys2Proof.Machine.execMfsr t ck s
  | .mtsr t => Sys2Proof.Machine.execMtsr t s
  | .yield t => Sys2Proof.Machine.execYield t s
  | .yieldt t => Sys2Proof.Machine.execYieldt t s
  | .cb t => Sys2Proof.Machine.execCb t s
  | .cbComplete t f ok => Sys2Proof.Machine.execCbComplete t f ok s
  | .exit t => Sys2Proof.Machine.execExit t s
  | .eret t => Sys2Proof.Machine.execEret t s
  | .evwait t => Sys2Proof.Machine.execEvwait t s
  | .evwaitTimeout t => Sys2Proof.Machine.execEvwaitTimeout t s
  | .emit t room => Sys2Proof.Machine.execEmit t room s
  | .emitRetire t => Sys2Proof.Machine.execEmitRetire t s
  | .xput t => Sys2Proof.Machine.execXput t s
  | .xputr t => Sys2Proof.Machine.execXputr t s
  | .xdrop t => Sys2Proof.Machine.execXdrop t s
  | .xlMissResolve rq h m code => Sys2Proof.Machine.execXlMissResolve rq h m code s
  | .xlInvCmd f asid scope => Sys2Proof.Machine.execXlInvCmd f asid scope s
  | .xlInvComplete f => Sys2Proof.Machine.execXlInvComplete f s
  | .lockClaim rq off data => Sys2Proof.Machine.execLockClaim rq off data s
  | .lockWaitRead rq off => Sys2Proof.Machine.execLockWaitRead rq off s
  | .lockRelease rq off data => Sys2Proof.Machine.execLockRelease rq off data s
  | .lockPlainWrite t off v => Sys2Proof.Machine.execLockPlainWrite t off v s
  | .hostWaitTimeout off => Sys2Proof.Machine.execHostWaitTimeout off s
  | .groundsheetWindowWrite off bs => Sys2Proof.Machine.execGroundsheetWindowWrite off bs s
  | .chGo rq m c => Sys2Proof.Machine.execChGo rq m c s
  | .chAbort rq m c => Sys2Proof.Machine.execChAbort rq m c s
  | .chResume rq m c => Sys2Proof.Machine.execChResume rq m c s
  | .chReset rq m c => Sys2Proof.Machine.execChReset rq m c s
  | .moverChannelStart m ck => Sys2Proof.Machine.execMoverChannelStart m ck s
  | .moverLockRetry m => Sys2Proof.Machine.execMoverLockRetry m s
  | .moverBurstReadComplete m c pos res wok ck => Sys2Proof.Machine.execMoverBurstReadComplete m c pos res wok ck s
  | .moverChannelFinish m c flushOk => Sys2Proof.Machine.execMoverChannelFinish m c flushOk s
  | .tlpReceive n t br => Sys2Proof.Machine.execTlpReceive n t br s
  | .nfBarRequest f bar off t aop => Sys2Proof.Machine.execNfBarRequest f bar off t aop s
  | .sharedVfConfigRequest p vfunc t => Sys2Proof.Machine.execSharedVfConfigRequest p vfunc t s
  | .switchCompletionTimeout n reqId tag => Sys2Proof.Machine.execSwitchCompletionTimeout n reqId tag s
  | .dpcTrigger n cause => Sys2Proof.Machine.execDpcTrigger n cause s
  | .dpcTriggerStatusClear n => Sys2Proof.Machine.execDpcTriggerStatusClear n s
  | .hotplugPresenceChange n sense => Sys2Proof.Machine.execHotplugPresenceChange n sense s
  | .partitionReset p why => Sys2Proof.Machine.execPartitionReset p why s
  | .hostPerstRelease p => Sys2Proof.Machine.execHostPerstRelease p s
  | .nfReady p => Sys2Proof.Machine.execNfReady p s
  | .ptmRequestReceive n ck => Sys2Proof.Machine.execPtmRequestReceive n ck s
  | .ideKmMessage n good => Sys2Proof.Machine.execIdeKmMessage n good s
  | .svfDisable rq k => Sys2Proof.Machine.execSvfDisable rq k s
  | .partitionEnable rq p v => Sys2Proof.Machine.execPartitionEnable rq p v s
  | .pmbusPoll reads => Sys2Proof.Machine.execPmbusPoll reads s
  | .avsSettled d => Sys2Proof.Machine.execAvsSettled d s
  | .vSettleTimeout d => Sys2Proof.Machine.execVSettleTimeout d s
  | .thermalTrip k => Sys2Proof.Machine.execThermalTrip k s
  | .laneNarrowRequest p => Sys2Proof.Machine.execLaneNarrowRequest p s
  | .powerLimitUnmet => Sys2Proof.Machine.execPowerLimitUnmet s
  | .safeClocks => Sys2Proof.Machine.execSafeClocks s
  | .faultOccurrence src k0 => Sys2Proof.Machine.execFaultOccurrence src k0 s
  | .bankRestoreComplete k => Sys2Proof.Machine.execBankRestoreComplete k s
  | .faultForce rq src act => Sys2Proof.Machine.execFaultForce rq src act s
  | .faultStatusClear rq w v => Sys2Proof.Machine.execFaultStatusClear rq w v s
  | .mirrorEnable rq v => Sys2Proof.Machine.execMirrorEnable rq v s
  | .mirrorSyncComplete => Sys2Proof.Machine.execMirrorSyncComplete s
  | .mirrorWriteError => Sys2Proof.Machine.execMirrorWriteError s
  | .sysResetAssert => Sys2Proof.Machine.execSysResetAssert s
  | .sysResetRelease x => Sys2Proof.Machine.execSysResetRelease x s
  | .secureBoot a b => Sys2Proof.Machine.execSecureBoot a b s
  | .rstWarm rq tests => Sys2Proof.Machine.execRstWarm rq tests s
  | .rstEngine rq e => Sys2Proof.Machine.execRstEngine rq e s
  | .rstPort rq p => Sys2Proof.Machine.execRstPort rq p s
  | .repairClear rq => Sys2Proof.Machine.execRepairClear rq s
  | .railUndervoltage => Sys2Proof.Machine.execRailUndervoltage s
  | .sprefLoss => Sys2Proof.Machine.execSprefLoss s
  | .frefLoss k => Sys2Proof.Machine.execFrefLoss k s
  | .evForce rq src => Sys2Proof.Machine.execEvForce rq src s
  | .modulePoll polls => Sys2Proof.Machine.execModulePoll polls s
  | .modIntFall m polls => Sys2Proof.Machine.execModIntFall m polls s
  | .pldmGetTelemetry path k => Sys2Proof.Machine.execPldmGetTelemetry path k s
  | .pldmFirmwareUpdate slot im => Sys2Proof.Machine.execPldmFirmwareUpdate slot im s
  | .pldmEventAck seq => Sys2Proof.Machine.execPldmEventAck seq s
  | .pldmResetRequest tests => Sys2Proof.Machine.execPldmResetRequest tests s
  | .mctpMessage path reply => Sys2Proof.Machine.execMctpMessage path reply s
  | .delholtFrameReceive dst listed frame => Sys2Proof.Machine.execDelholtFrameReceive dst listed frame s
  | .delholtLinkChange up an speed => Sys2Proof.Machine.execDelholtLinkChange up an speed s
  | .pcSelWrite rq k0 v => Sys2Proof.Machine.execPcSelWrite rq k0 v s
  | .pcRun rq run => Sys2Proof.Machine.execPcRun rq run s
  | .pcValueWrite rq k0 v => Sys2Proof.Machine.execPcValueWrite rq k0 v s
  | .pcSnap rq => Sys2Proof.Machine.execPcSnap rq s
  | .tb10mReturn => Sys2Proof.Machine.execTb10mReturn s
  | .cdrLockGain l => Sys2Proof.Machine.execCdrLockGain l s
  | .devPerstRelease n => Sys2Proof.Machine.execDevPerstRelease n s
  | .pcieLinkUp n sense speed width flit => Sys2Proof.Machine.execPcieLinkUp n sense speed width flit s
  | .railRecovery x => Sys2Proof.Machine.execRailRecovery x s
  | .sprefReturn x => Sys2Proof.Machine.execSprefReturn x s
  | .frefReturn k => Sys2Proof.Machine.execFrefReturn k s
  | .loadCompletion t res => Sys2Proof.Machine.execLoadCompletion t res s
  | .entryFetchComplete e res => Sys2Proof.Machine.execEntryFetchComplete e res s
  | .xlAsidCfgWrite rq asid v => Sys2Proof.Machine.execXlAsidCfgWrite rq asid v s

end Sys2Proof.Machine
end

