-- ==== Sys2Proof/Machine/Step.lean ====
section
/-!
DEFINITION. One step of the QD1K: the command at the front of the queue.
-/
namespace Sys2Proof.Machine

open Sys2Proof

/-- A step takes the command at the front of the queue and runs it with the queue's rest; on an empty queue the part idles
(assumption log 2). -/
def step (s : State) : Host.Outcome State Fault Refusal :=
  match s.pending with
  | [] => .next s
  | c :: rest => exec c { s with pending := rest }

/-- The state with a command put at the front of its queue. -/
def State.withFront (s : State) (c : Instr) : State := { s with pending := c :: s.pending }

/-- The state with the command that a word of the table spells at the front of its queue; unchanged where it spells
none. -/
def State.withFetchWord (s : State) (nbits w : Nat) : State :=
  match decodeTableWord nbits w with
  | some c => s.withFront c
  | none => s

end Sys2Proof.Machine
end

