-- ==== Sys2Proof/WellFormed.lean ====
section
/-!
DEFINITION. Which commands are well formed: the operands that are numbers or lists lie in the ranges that the part's
surroundings can bring. A meaning is total on the others too.
-/
namespace Sys2Proof

open Sys2Proof.Machine

/-- A ring index has 32 bits. -/
def entryWf (e : EntryRef) : Bool := decide (e.idx < 2 ^ 32)

/-- A work queue index has 32 bits. -/
def workWf (e : WorkRef) : Bool := decide (e.idx < 2 ^ 32)

/-- An entry being fetched. -/
def fetchWf : FetchRef → Bool
  | .ring e => entryWf e
  | .work e => workWf e

/-- A CK lies within a tick, which is 1,750 CK long, less or more one by the servo's bound of 500 ppm (R31, R52). -/
def ckWf (ck : Nat) : Bool := decide (ck < 1752)

/-- A register access: its window's offset, and a size of 1 to 8 bytes (R577, R582). -/
def accessWf (w : Window) (off size : Nat) : Bool :=
  decide (1 ≤ size) && decide (size ≤ 8) &&
    match w with
    | .own => decide (off < 2 ^ 21)
    | .device => decide (off < 2 ^ 27)

/-- A Groundsheet offset lies in its 64 MiB (R26). -/
def gsWf (off : Nat) : Bool := decide (off < 2 ^ 26)

/-- A TLP's fields fit their widths, and its data its length. -/
def tlpWf (t : Tlp) : Bool :=
  decide (t.reqId < 2 ^ 16) && decide (t.tag < 2 ^ 14) && decide (t.at_ < 4) && decide (t.addr < 2 ^ 64) &&
    decide (t.len ≤ 4096) && decide (t.data.length ≤ 4096) && decide (t.target < 2 ^ 16) && decide (t.status < 8)

/-- The fields of a WIDTH column fit their widths (R155). -/
def widthWf (m : WidthMsg) : Bool :=
  decide (m.reason < 16) && decide (m.laneSet < 256) && decide (m.seq < 256) && decide (m.switchAm < 2 ^ 16) &&
    decide (m.switchPos < 2 ^ 16)

/-- A payload is at most 4,096 bytes (R87, R155). -/
def payloadWf (bs : List Byte) : Bool := decide (bs.length ≤ 4096)

/-- What a host read returned has at most 4,096 bytes, or the 16 MiB of an image. -/
def readWf (limit : Nat) : ReadResult → Bool
  | .data bs => decide (bs.length ≤ limit)
  | .error => true
  | .poisoned => true

/-- What a self-test finds names columns, engines and banks of its die (R541). -/
def selfTestWf (t : SelfTest) : Bool :=
  (t.columns.all fun k => decide (k < 9)) && (t.engines.all fun k => decide (k < 136)) &&
    t.banks.all fun k => decide (k < 34)

/-- The end of a cold reset brings 13 dies and the self-tests of the hub dies. -/
def coldWf (x : ColdStart) : Bool := x.dies.length == 13 && decide (x.tests.length ≤ 4) && x.tests.all selfTestWf

/-- A slot's manifest: an SVN of 0 to 63 and a SEQUENCE of 32 bits (R543). -/
def slotWf (im : SlotImage) : Bool := decide (im.svn < 64) && decide (im.sequence < 2 ^ 32)

/-- A slot that may be empty. -/
def slotsWf (a b : Option SlotImage) : Bool := (a.all slotWf) && b.all slotWf

/-- What a fault lost names connections and entries that can exist. -/
def faultWf (i : FaultInfo) : Bool := (i.conns.all fun c => decide (c < 2 ^ 24)) && i.entries.all entryWf

/-- A module's temperature is one that CMIS can report. -/
def pollWf (l : List (Fin 256 × ModulePoll)) : Bool :=
  l.all fun q => decide (-128 ≤ q.2.temp) && decide (q.2.temp < 128)

/-- What the surroundings bring to a turnover names units, sensors, dies, ports and counters that exist. -/
def tickWf (i : TickInput) : Bool :=
  decide (i.late < 64) && (i.temps.all fun x => decide (x.1 < 208)) && (i.badSensors.all fun k => decide (k < 208)) &&
    (i.currents.all fun x => decide (x.1 < 13)) && (i.volts.all fun x => decide (x.1 < 13)) &&
    (i.columnUse.all fun x => decide (x.1 < 256)) && i.counts.all fun x => decide (x.1 < 144)

/-- A link control block is of its row's type, or of a reserved type (R187, R195). -/
def lcbWf (own : Nat) (b : BitVec 512) : Bool :=
  let ty := b.toNat % 256
  ty == own || (decide (3 ≤ ty) && decide (ty < 0x10)) || (decide (0x17 ≤ ty) && decide (ty < 0x80))

/-- The well-formed commands. -/
def Instr.wf : Instr → Bool
  | .registerWrite _ w off size _ => accessWf w off size
  | .writeStatusRead _ => true
  | .turnover i => tickWf i
  | .rpStepCmdGo _ => true
  | .rpTodSecondsWrite _ _ => true
  | .tbPpsEdge ck => ckWf ck
  | .tbPpsLoss => true
  | .tb10mLoss => true
  | .rpTimeRead _ ck => ckWf ck
  | .timestampLcbReceive _ lcb ck => lcbWf 0x12 lcb && ckWf ck
  | .ptmExchange _ _ _ _ ck => ckWf ck
  | .jobCreate e => entryWf e
  | .jobAttach e => entryWf e
  | .jobDetach e => entryWf e
  | .jobDestroy e => entryWf e
  | .jobDestroyComplete e => entryWf e
  | .rttInvalidate e => entryWf e
  | .rttInvalidateComplete e => entryWf e
  | .packetRoute _ => true
  | .guylineLcbReceive _ lcb => lcbWf 0x11 lcb
  | .mcgInvalidate e => entryWf e
  | .mcgInvalidateComplete e => entryWf e
  | .cellArbitration _ => true
  | .sharedChargeMove _ => true
  | .hotEntryFree _ => true
  | .cutThroughUnderrun _ => true
  | .packetInject _ => true
  | .portEnable _ _ _ => true
  | .portDisable _ _ _ => true
  | .portDrain _ _ _ => true
  | .portRestore _ _ => true
  | .portRetrain _ _ => true
  | .portTest _ _ => true
  | .commaLockGain _ _ => true
  | .commaLockLoss _ => true
  | .holdOffExpire _ => true
  | .capSetReceive _ _ _ _ => true
  | .negTimeout _ => true
  | .trainingFrameReceive _ _ _ _ => true
  | .eqTimeout _ => true
  | .alignComplete _ => true
  | .alignTimeout _ => true
  | .deskewError _ => true
  | .verifyEvaluate _ _ _ _ => true
  | .verifyStatusReceive _ _ => true
  | .verifyTimeout _ => true
  | .portActiveEntry _ _ => true
  | .losAssert _ => true
  | .losClear _ => true
  | .cdrLockLoss _ => true
  | .codewordLockLoss _ => true
  | .blockLockGain _ => true
  | .blockLockLoss _ => true
  | .widthReqReceive _ m => widthWf m
  | .widthCommitReceive _ m => widthWf m
  | .widthWidenReceive _ m => widthWf m
  | .widthReadyReceive _ m => widthWf m
  | .widthSwitch _ _ => true
  | .degradeTimeout _ _ => true
  | .widenTimeout _ => true
  | .serviceDrainReceive _ _ => true
  | .drainAckSend _ => true
  | .serviceDrainAckReceive _ _ => true
  | .drainComplete _ => true
  | .serviceRestoreReceive _ _ => true
  | .serviceRestoreAckReceive _ _ => true
  | .testNoticeReceive _ _ _ _ => true
  | .testComplete _ _ => true
  | .laneCal _ _ => true
  | .remoteTuneRequest _ _ => true
  | .tuneLcbReceive _ lcb => lcbWf 0x13 lcb
  | .lanePrbsInject _ _ => true
  | .lanePrbsClear _ _ => true
  | .linkSendNew _ => true
  | .ackLcbReceive _ lcb => lcbWf 0x10 lcb
  | .replayTimerExpire _ => true
  | .linkPacketSop _ _ _ _ ck => ckWf ck
  | .linkPacketEnd _ payload _ _ ck => payloadWf payload && ckWf ck
  | .abortBlockReceive _ => true
  | .ackCoalesceExpire _ => true
  | .initLcbReceive _ lcb => lcbWf 0x14 lcb
  | .initRepeat _ => true
  | .retrainLcbReceive _ lcb => lcbWf 0x15 lcb
  | .fatalLcbReceive _ lcb => lcbWf 0x16 lcb
  | .linkDown _ => true
  | .resumeTimeout _ => true
  | .freshStartInitSend _ => true
  | .ringEnable _ _ _ => true
  | .ringPiWrite _ _ _ => true
  | .ringCiWrite _ _ _ => true
  | .ringHoldStart _ _ _ _ => true
  | .ringHoldRelease _ _ => true
  | .ringArm _ _ _ => true
  | .ringDisarm _ _ => true
  | .doorbellPoll _ _ res => readWf 4096 res
  | .ringEntryFetch _ _ => true
  | .fetchRetry e => fetchWf e
  | .entryBegin _ _ => true
  | .nop e => entryWf e
  | .connCreate e => entryWf e
  | .connModify e => entryWf e
  | .connDestroy e => entryWf e
  | .connDestroyComplete e => entryWf e
  | .mrRegister e => entryWf e
  | .mrRevoke e => entryWf e
  | .mrRevokeComplete e => entryWf e
  | .trigCounterSet e => entryWf e
  | .dgSend e payload => entryWf e && readWf 4096 payload
  | .mcSend e payload => entryWf e && readWf 4096 payload
  | .collPost e operand => entryWf e && readWf (2 ^ 24) operand
  | .recvBuf e => entryWf e
  | .recvMatch e => entryWf e
  | .dbBatch e => entryWf e
  | .cqDoorbell _ _ => true
  | .cwqFetch _ _ => true
  | .stampRetry _ _ => true
  | .put e => workWf e
  | .get e => workWf e
  | .send e => workWf e
  | .sendMatched e => workWf e
  | .atomic e => workWf e
  | .notifyRecordWrite _ _ => true
  | .functionReset _ => true
  | .functionResetComplete _ => true
  | .transportReceive _ => true
  | .dgReceive _ => true
  | .transportAckReceive _ => true
  | .noticeReceive _ => true
  | .routeFailReceive _ => true
  | .retxSelective _ _ => true
  | .rtoExpire _ => true
  | .rnrRetry _ _ => true
  | .contextFetchComplete _ _ => true
  | .remoteFlushComplete _ _ _ => true
  | .payloadReadComplete _ _ res => readWf 4096 res
  | .atomicOpComplete _ _ res => readWf 4096 res
  | .collUpReceive _ => true
  | .collFoldDone _ _ _ slice => decide (slice < 2 ^ 24)
  | .collDownReceive _ => true
  | .collMarkReceive _ => true
  | .collAbortReceive _ => true
  | .collStageTimeout _ _ => true
  | .collTombstoneExpire _ _ => true
  | .collOrphanExpire _ _ => true
  | .handlerDispatch _ => true
  | .handlerOverrunAbort _ => true
  | .clusterTimerFire _ _ => true
  | .hbWrite _ _ => true
  | .hbRead _ _ => true
  | .hbDisable _ _ => true
  | .imgLoad _ => true
  | .imageLoadComplete res => readWf (2 ^ 24) res
  | .imgUnload _ _ => true
  | .sampleRdWrite _ _ _ => true
  | .ctrWatchArm _ _ _ => true
  | .engineFenceCmd _ _ => true
  | .watchdogExpire _ => true
  | .spareLoadComplete _ => true
  | .alu _ => true
  | .addi _ => true
  | .andi _ => true
  | .ori _ => true
  | .xori _ => true
  | .shifti _ => true
  | .lui _ => true
  | .muldiv _ => true
  | .cmp _ => true
  | .cmpi _ => true
  | .pred _ => true
  | .lb _ => true
  | .lbu _ => true
  | .lh _ => true
  | .lhu _ => true
  | .lw _ => true
  | .lwu _ => true
  | .ld _ => true
  | .sb _ => true
  | .sh _ => true
  | .sw _ => true
  | .sd _ => true
  | .ldrsv _ => true
  | .stcnd _ => true
  | .b _ => true
  | .jal _ => true
  | .jalr _ => true
  | .vld _ => true
  | .vst _ => true
  | .vop _ => true
  | .vred _ => true
  | .mfsr _ ck => ckWf ck
  | .mtsr _ => true
  | .yield _ => true
  | .yieldt _ => true
  | .cb _ => true
  | .cbComplete _ _ _ => true
  | .exit _ => true
  | .eret _ => true
  | .evwait _ => true
  | .evwaitTimeout _ => true
  | .emit _ _ => true
  | .emitRetire _ => true
  | .xput _ => true
  | .xputr _ => true
  | .xdrop _ => true
  | .xlMissResolve _ _ _ _ => true
  | .xlInvCmd _ _ _ => true
  | .xlInvComplete _ => true
  | .lockClaim _ off _ => gsWf off
  | .lockWaitRead _ off => gsWf off
  | .lockRelease _ off _ => gsWf off
  | .lockPlainWrite _ off _ => gsWf off
  | .hostWaitTimeout off => gsWf off
  | .groundsheetWindowWrite _ bs => payloadWf bs
  | .chGo _ _ _ => true
  | .chAbort _ _ _ => true
  | .chResume _ _ _ => true
  | .chReset _ _ _ => true
  | .moverChannelStart _ ck => ckWf ck
  | .moverLockRetry _ => true
  | .moverBurstReadComplete _ _ pos res _ ck => decide (pos < 2 ^ 64) && readWf 4096 res && ckWf ck
  | .moverChannelFinish _ _ _ => true
  | .tlpReceive _ t _ => tlpWf t
  | .nfBarRequest _ _ off t _ => decide (off < 2 ^ 28) && tlpWf t
  | .sharedVfConfigRequest _ _ t => tlpWf t
  | .switchCompletionTimeout _ _ _ => true
  | .dpcTrigger _ _ => true
  | .dpcTriggerStatusClear _ => true
  | .hotplugPresenceChange _ _ => true
  | .partitionReset _ _ => true
  | .hostPerstRelease _ => true
  | .nfReady _ => true
  | .ptmRequestReceive _ ck => ckWf ck
  | .ideKmMessage _ _ => true
  | .svfDisable _ _ => true
  | .partitionEnable _ _ _ => true
  | .pmbusPoll _ => true
  | .avsSettled _ => true
  | .vSettleTimeout _ => true
  | .thermalTrip _ => true
  | .laneNarrowRequest _ => true
  | .powerLimitUnmet => true
  | .safeClocks => true
  | .faultOccurrence _ i => faultWf i
  | .bankRestoreComplete _ => true
  | .faultForce _ _ _ => true
  | .faultStatusClear _ _ _ => true
  | .mirrorEnable _ _ => true
  | .mirrorSyncComplete => true
  | .mirrorWriteError => true
  | .sysResetAssert => true
  | .sysResetRelease x => coldWf x
  | .secureBoot u v => slotsWf u v
  | .rstWarm _ tests => tests.all selfTestWf
  | .rstEngine _ _ => true
  | .rstPort _ _ => true
  | .repairClear _ => true
  | .railUndervoltage => true
  | .sprefLoss => true
  | .frefLoss _ => true
  | .evForce _ _ => true
  | .modulePoll polls => pollWf polls
  | .modIntFall _ polls => pollWf polls
  | .pldmGetTelemetry _ _ => true
  | .pldmFirmwareUpdate _ im => slotWf im
  | .pldmEventAck _ => true
  | .pldmResetRequest tests => tests.all selfTestWf
  | .mctpMessage _ _ => true
  | .delholtFrameReceive _ _ _ => true
  | .delholtLinkChange _ _ _ => true
  | .pcSelWrite _ _ _ => true
  | .pcRun _ _ => true
  | .pcValueWrite _ _ _ => true
  | .pcSnap _ => true
  | .tb10mReturn => true
  | .cdrLockGain _ => true
  | .devPerstRelease _ => true
  | .pcieLinkUp _ _ _ _ _ => true
  | .railRecovery x => coldWf x
  | .sprefReturn x => coldWf x
  | .frefReturn _ => true
  | .loadCompletion _ res => readWf 4096 res
  | .entryFetchComplete e res => fetchWf e && readWf 4096 res
  | .xlAsidCfgWrite _ _ _ => true

end Sys2Proof
end

