-- ==== Sys2Proof/Safety.lean ====
section
/-!
DEFINITION. What a safe run is: a step that neither faults nor refuses, from a state whose memory has its canonical form
and whose queue names well-formed commands.
-/
namespace Sys2Proof.Safety

open Sys2Proof Sys2Proof.Machine

/-- The state's memory is in canonical form. -/
def MemCanonical (s : State) : Prop := Memory.wf s.mem = true

/-- Every command that waits is well formed. -/
def QueueWf (s : State) : Prop := ∀ c ∈ s.pending, c.wf = true

/-- A step ends in a next state. -/
def Runs (s : State) : Prop := ∃ t, step s = .next t

/-- Thread `t` of a part that runs stands, as `x`, before the legal word `w` in its code region, and may issue it (R379,
R382, R384). -/
abbrev Issues (s : State) (t : ThreadId) (x : Thread) (w : Nat) : Prop :=
  s.running = true ∧ s.thread t = some x ∧ s.mayIssue t x = true ∧ fetchOk x.user x.pc = true ∧
    s.wordAt t.engine x.pc = w ∧ legalWord w = true

/-- The state in which a thread issues: the yield of its engine, if one stood, has been taken. -/
def unyield (s : State) (t : ThreadId) : State :=
  { s with eng := { s.eng with yielded := mdel s.eng.yielded t.engine.val } }

/-- The commands that store nothing: no byte of memory changes, whatever they answer. -/
def storesNothing : Instr → Bool
  | .writeStatusRead .. | .rpTodSecondsWrite .. | .rpTimeRead .. | .ptmExchange .. | .jobAttach .. | .jobDetach ..
    | .rttInvalidate .. | .rttInvalidateComplete .. | .mcgInvalidate .. | .mcgInvalidateComplete ..
    | .sharedChargeMove .. | .hotEntryFree .. | .cutThroughUnderrun .. | .commaLockLoss .. | .holdOffExpire ..
    | .trainingFrameReceive .. | .alignComplete .. | .losClear .. | .blockLockGain .. | .widthReqReceive ..
    | .widthCommitReceive .. | .widthWidenReceive .. | .widthReadyReceive .. | .widenTimeout ..
    | .serviceDrainReceive .. | .serviceDrainAckReceive .. | .serviceRestoreReceive .. | .serviceRestoreAckReceive ..
    | .testComplete .. | .laneCal .. | .remoteTuneRequest .. | .tuneLcbReceive .. | .lanePrbsInject ..
    | .lanePrbsClear .. | .ackCoalesceExpire .. | .initRepeat .. | .resumeTimeout .. | .freshStartInitSend ..
    | .ringEnable .. | .ringPiWrite .. | .ringCiWrite .. | .ringHoldStart .. | .ringHoldRelease .. | .ringArm ..
    | .ringDisarm .. | .ringEntryFetch .. | .fetchRetry .. | .nop .. | .connCreate .. | .connModify ..
    | .connDestroyComplete .. | .mrRevoke .. | .recvBuf .. | .dbBatch .. | .cqDoorbell .. | .cwqFetch ..
    | .stampRetry .. | .notifyRecordWrite .. | .functionResetComplete .. | .dgReceive .. | .collTombstoneExpire ..
    | .collOrphanExpire .. | .hbWrite .. | .hbRead .. | .hbDisable .. | .imgLoad .. | .imgUnload ..
    | .sampleRdWrite .. | .evwaitTimeout .. | .xlInvCmd .. | .xlInvComplete .. | .hostWaitTimeout .. | .chGo ..
    | .dpcTriggerStatusClear .. | .hostPerstRelease .. | .nfReady .. | .ptmRequestReceive .. | .svfDisable ..
    | .partitionEnable .. | .avsSettled .. | .laneNarrowRequest .. | .safeClocks .. | .bankRestoreComplete ..
    | .faultStatusClear .. | .mirrorSyncComplete .. | .repairClear .. | .pldmGetTelemetry .. | .pldmFirmwareUpdate ..
    | .pldmEventAck .. | .mctpMessage .. | .delholtFrameReceive .. | .pcSelWrite .. | .pcRun .. | .pcValueWrite ..
    | .pcSnap .. | .tb10mReturn .. | .cdrLockGain .. | .devPerstRelease .. | .pcieLinkUp .. | .frefReturn ..
    | .xlAsidCfgWrite .. => true
  | _ => false

/-- The events of pins, rails and references, which move what the part senses of them even in cold reset (R535, R596). -/
def pinEvent : Instr → Bool
  | .partitionReset .. | .hostPerstRelease .. | .sysResetAssert .. | .sysResetRelease .. | .railUndervoltage ..
    | .sprefLoss .. | .frefLoss .. | .railRecovery .. | .sprefReturn .. | .frefReturn .. => true
  | _ => false

/-- The events that may end cold reset: SYS_RESET_N goes high, or a rail or SPREF returns (R535, R593, R596). -/
def endsColdReset : Instr → Bool
  | .sysResetRelease .. | .railRecovery .. | .sprefReturn .. => true
  | _ => false

/-- The commands that act in the safe state: the service processor, its interfaces and the fault log run on, requests to
BARs are answered, time advances, and resets leave it (R528, R529). -/
def actsInSafeState : Instr → Bool
  | .registerWrite .. | .writeStatusRead .. | .turnover .. | .rpTimeRead .. | .nfBarRequest .. | .partitionReset ..
    | .hostPerstRelease .. | .thermalTrip .. | .faultOccurrence .. | .faultForce .. | .faultStatusClear ..
    | .mirrorEnable .. | .sysResetAssert .. | .sysResetRelease .. | .secureBoot .. | .rstWarm .. | .rstEngine ..
    | .rstPort .. | .repairClear .. | .railUndervoltage .. | .sprefLoss .. | .frefLoss .. | .evForce ..
    | .modulePoll .. | .modIntFall .. | .pldmGetTelemetry .. | .pldmFirmwareUpdate .. | .pldmEventAck ..
    | .pldmResetRequest .. | .mctpMessage .. | .delholtFrameReceive .. | .delholtLinkChange .. | .pcSelWrite ..
    | .pcRun .. | .pcValueWrite .. | .pcSnap .. | .railRecovery .. | .sprefReturn .. | .frefReturn .. => true
  | _ => false

end Sys2Proof.Safety
end

