-- ==== Sys2Proof/Certificates/Slice0/Obligations.lean ====
section
/-!
DEFINITION. The statements for the provers. The statements whose names end in Complete say, command by command, in which
next state a command answers: the hypotheses say when it takes effect, the conclusion names the whole next state.
-/

open Sys2Proof Sys2Proof.Machine

/-- TIME. Every command of fabric time completes with its own effect (R30 to R57). -/
def Obligations.TimeCommandsComplete : Prop :=
  ∀ s : State, s.running = true →
    (∀ p lcb ck, s.f F.PORT_STATE.STATE p.val = 6 → reservedBlock (L.LCB.TYPE.get lcb) = false → lcbOk lcb = true →
      exec (.timestampLcbReceive p lcb ck) s = .next ((s.skewCheck p lcb).timestampTake p lcb ck)) ∧
    (∀ rq, rq.reaches = true → exec (.rpStepCmdGo rq) s = .next
      ((s.modTime fun t => { t with step := some (t.step.getD 0 + toSigned 64 (s.f F.RP_STEP_NS.STEP) * 65536) }).wsRecord rq .ok
        (Reg.offset ⟨.RP_STEP_CMD, 0, 0⟩))) ∧
    (∀ rq v, rq.reaches = true → s.on F.RP_CONTROL.ROOT = true → s.f F.RP_CONTROL.ROOT_SOURCE = 2 →
      exec (.rpTodSecondsWrite rq v) s = .next
        (((s.wr ⟨.RP_TOD_SECONDS, 0, 0⟩ v).modTime fun t => { t with todArmed := true }).wsRecord rq .ok
          (Reg.offset ⟨.RP_TOD_SECONDS, 0, 0⟩))) ∧
    (∀ ck, s.on F.RP_CONTROL.ROOT = true → s.time.lastPps = none → s.f F.RP_CONTROL.ROOT_SOURCE ≠ 2 →
      exec (.tbPpsEdge ck) s = .next (s.modTime fun t => { t with lastPps := some (s.nowCk ck) })) ∧
    (s.on F.RP_CONTROL.ROOT = true → s.on F.RP_STATUS.PPS_OK = true →
      exec .tbPpsLoss s = .next (((s.set F.RP_STATUS.PPS_OK 0).modTime fun t => { t with lastPps := none }).raise 1619)) ∧
    (s.on F.RP_CONTROL.ROOT = true → s.on F.RP_STATUS.REF10M_OK = true →
      exec .tb10mLoss s = .next ((s.set F.RP_STATUS.REF10M_OK 0).raise 1619)) ∧
    (s.on F.RP_CONTROL.ROOT = true → exec .tb10mReturn s = .next (s.set F.RP_STATUS.REF10M_OK 1)) ∧
    (∀ rq ck, rq.reaches = true → exec (.rpTimeRead rq ck) s = .next
      (((s.set F.RP_TIME_FRAC_TICK.FRACTION (s.ctrAt ck / 2 ^ 32)).set F.RP_TIME_FRAC_TICK.TICK (tickOf (s.ctrAt ck))).emit
        (.regRead rq (BitVec.ofNat 64 (nsOf (s.ctrAt ck)))))) ∧
    (∀ part hostNs ratio err ck, s.on F.EB_PART_CFG.ENABLE part.val = true → s.on F.EB_PART_STATUS.UPSTREAM_UP part.val = true →
      mfind s.time.ptmLast part.val = none →
      exec (.ptmExchange part hostNs ratio err ck) s = .next
        ((s.fnsOf part).foldl (fun t f => t.publishTmap hostNs.toNat (t.ctrAt ck) ratio.toNat err f)
          (s.modTime fun t => { t with ptmLast := mset t.ptmLast part.val s.turnovers })))

/-- HOST RINGS, register side. Every command on a ring's registers completes with its own effect (R218 to R227, R238,
R613). -/
def Obligations.RingRegisterCommandsComplete : Prop :=
  ∀ (s : State) (f r : Fin 4096), s.running = true → s.inReset f.val = false →
    (∀ v, s.ringCfgCheck f r v = .ok → exec (.ringEnable f r v) s = .next
      ((s.ringCfgWrite f r v).wsRecord (.func f) .ok (Reg.offset ⟨.RING_CFG, f.val, r.val⟩))) ∧
    (∀ idx, exec (.ringArm f r idx) s = .next
      ((((s.modRing f r fun x => { x with armAt := some idx.toNat }).set F.RING_STATUS.ARMED 1 f r).ringAdvanced f r false).wsRecord
        (.func f) .ok (Reg.offset ⟨.RING_ARM, f.val, r.val⟩))) ∧
    exec (.ringDisarm f r) s = .next
      (((s.modRing f r fun x => { x with armAt := none }).set F.RING_STATUS.ARMED 0 f r).wsRecord (.func f) .ok
        (Reg.offset ⟨.RING_ARM, f.val, r.val⟩)) ∧
    (∀ v, s.ringKind f r ≠ 4 → s.on F.RING_CFG.DB_POLL f.val r.val = false → setsRsv RegName.RING_PI.desc.fields v = false →
      s.piOk f r (v.toNat % 2 ^ 32) = true → exec (.ringPiWrite f r v) s = .next
        ((s.set F.RING_PI.PI v.toNat f r).wsRecord (.func f) .ok (Reg.offset ⟨.RING_PI, f.val, r.val⟩))) ∧
    (∀ v, s.ringKind f r = 4 → setsRsv RegName.RING_CI.desc.fields v = false →
      wsub 32 (v.toNat % 2 ^ 32) (s.ci f r) ≤ wsub 32 (s.pi f r) (s.ci f r) → exec (.ringCiWrite f r v) s = .next
        ((s.set F.RING_CI.CI v.toNat f r).wsRecord (.func f) .ok (Reg.offset ⟨.RING_CI, f.val, r.val⟩))) ∧
    (∀ start count, s.on F.RING_STATUS.HELD f.val r.val = false → 1 ≤ count.toNat → count.toNat ≤ 64 →
      wsub 32 start.toNat (s.cpi f r) + count.toNat ≤ wsub 32 (s.pi f r) (s.cpi f r) →
      exec (.ringHoldStart f r start count) s = .next
        ((s.holdStart f r start.toNat count.toNat).wsRecord (.func f) .ok (Reg.offset ⟨.RING_HOLD, f.val, r.val⟩))) ∧
    (s.on F.RING_STATUS.HELD f.val r.val = true → exec (.ringHoldRelease f r) s = .next
      (((s.modRing f r fun x => { x with hold := none }).set F.RING_STATUS.HELD 0 f r).wsRecord (.func f) .ok
        (Reg.offset ⟨.RING_HOLD, f.val, r.val⟩)))

/-- HOST RINGS, entry side. Polls, fetches, the beginning of entries, the entries of R229 and R232, and notification
records complete with their own effect (R224 to R227, R236). -/
def Obligations.RingEntryCommandsComplete : Prop :=
  ∀ s : State, s.running = true →
    (∀ (f r : Fin 4096) bs, s.ringOn f r = true → s.on F.RING_CFG.DB_POLL f.val r.val = true → (s.ring f r).polled = false →
      s.inReset f.val = false → exec (.doorbellPoll f r (.data bs)) s = .next
        (((s.hostRead f (s.f F.RING_DB_WORD.ADDR f r * 4) 4).modRing f r fun x => { x with polled := true }).modRing f r fun x =>
          { x with dbValue := some (leNat (bs.take 4)) })) ∧
    (∀ (f r : Fin 4096) i, s.ringOn f r = true → s.ringKind f r ≠ 4 → s.inReset f.val = false →
      ((s.ring f r).descs.filter fun d => !d.begun).length < s.f F.FUNC_CFG.FETCH_DEPTH f → s.nextFetch f r = some i →
      s.descUsed < s.descSlots → exec (.ringEntryFetch f r) s = .next
        (((s.set F.RING_STATUS.FETCH_WAIT 0 f r).modRing f r fun x =>
          { x with descs := x.descs ++ [⟨i, none, false, false, false⟩] }).hostRead f (s.entryAddr f r i) 64)) ∧
    (∀ (f r : Fin 4096) i d a b, s.ringOn f r = true → s.ringKind f r ≠ 4 → s.fnQuiet f = false → s.ci f r ≠ s.pi f r →
      ((s.ring f r).descs.find? fun y => y.idx == s.ci f r) = some ⟨i, some d, false, a, b⟩ → s.mayBegin f r d = true →
      malformed d (s.ringKind f r) = none → exec (.entryBegin f r) s = .next
        ((s.modRing f r fun x =>
          { x with descs := x.descs.map fun y => if y.idx = i then { y with begun := true } else y }).set F.RING_CI.CI (i + 1) f r)) ∧
    (∀ e d, s.begunEntry e 0x00 = some d → exec (.nop e) s = .next ((s.takeEntry e).completeEntry e .ok)) ∧
    (∀ e d, s.begunEntry e 0x60 = some d → entryFld d 204 192 ≠ 0 → entryFld d 204 192 ≤ 4096 →
      (s.takeEntry e).on F.MATCH_CFG.UX_EN e.fn.val = false → exec (.recvBuf e) s = .next
        ((s.takeEntry e).modRing e.fn e.ring fun x => { x with bufs := x.bufs ++ [e.idx] })) ∧
    (∀ (f r : Fin 4096) n ns, (s.ring f r).waiting = n :: ns → s.noteRoom f r = true → s.fnQuiet f = false →
      exec (.notifyRecordWrite f r) s = .next ((s.modRing f r fun x => { x with waiting := ns }).notePut f r n))

/-- JOBS. Every command of jobs, their rank table and the multicast groups completes with its own effect (R66 to R72,
R80, R108). -/
def Obligations.JobCommandsComplete : Prop :=
  ∀ (s : State) (e : EntryRef), s.running = true →
    (∀ d k, s.begunEntry e 0x10 = some d → e.fn.val = fmf → (s.takeEntry e).jobSlot (entryFld d 79 64) = none →
      entryFld d 148 128 ≠ 0 → entryFld d 148 128 ≤ 2 ^ 20 → entryFld d 115 96 + entryFld d 148 128 ≤ 2 ^ 20 →
      (s.takeEntry e).sliceOverlap (entryFld d 115 96) (entryFld d 148 128) = false → (s.takeEntry e).freeJobSlot = some k →
      exec (.jobCreate e) s = .next
        (((s.takeEntry e).jobWrite k (entryFld d 79 64) (entryFld d 115 96) (entryFld d 148 128)).completeEntry e .ok 0 k)) ∧
    (∀ d, s.begunEntry e 0x11 = some d → exec (.jobAttach e) s = .next ((s.takeEntry e).attachBegin e d true)) ∧
    (∀ d, s.begunEntry e 0x12 = some d → exec (.jobDetach e) s = .next ((s.takeEntry e).attachBegin e d false)) ∧
    (∀ d k, s.begunEntry e 0x13 = some d → e.fn.val = fmf → (s.takeEntry e).jobLive (entryFld d 79 64) = some k →
      L.JOB.EP_MASK.get ((s.takeEntry e).jobEntry k) = 0 → ((s.takeEntry e).jobs.waits.any fun w => w.slot == k) = false →
      ((s.takeEntry e).xp.conns.any fun c => c.2.slot == k) = false →
      exec (.jobDestroy e) s = .next
        (let j := (s.takeEntry e).jobEntry k
         let t := (s.takeEntry e).setJob k (L.JOB.STATE.set j 3)
         { t with jobs := { t.jobs with
             destroys := t.jobs.destroys ++ [⟨e, L.JOB.RTT_BASE.get j, L.JOB.RANK_COUNT.get j, k, []⟩] } })) ∧
    (∀ w, (s.jobs.destroys.find? fun w => w.e == e) = some w → exec (.jobDestroyComplete e) s = .next
      (let t := (s.rttDiscard w.base w.count).setJob w.slot 0
       ({ t with jobs := { t.jobs with destroys := t.jobs.destroys.filter fun x => x.e != e } } : State).completeEntry e .ok)) ∧
    (∀ d, s.begunEntry e 0x14 = some d → e.fn.val = fmf → entryFld d 116 96 ≠ 0 → entryFld d 83 64 + entryFld d 116 96 ≤ 2 ^ 20 →
      exec (.rttInvalidate e) s = .next
        (let t := s.takeEntry e
         { t with jobs := { t.jobs with
             rttInvals := t.jobs.rttInvals ++ [⟨e, entryFld d 83 64, entryFld d 116 96, 0, []⟩] } })) ∧
    (∀ w, (s.jobs.rttInvals.find? fun w => w.e == e) = some w → exec (.rttInvalidateComplete e) s = .next
      (let t := s.rttDiscard w.base w.count
       ({ t with jobs := { t.jobs with rttInvals := t.jobs.rttInvals.filter fun x => x.e != e } } : State).completeEntry e .ok)) ∧
    (∀ d, s.begunEntry e 0x15 = some d → e.fn.val = fmf → entryFld d 110 96 ≠ 0 → entryFld d 77 64 + entryFld d 110 96 ≤ 16384 →
      exec (.mcgInvalidate e) s = .next
        (let t := s.takeEntry e
         { t with jobs := { t.jobs with mcgInvals := t.jobs.mcgInvals ++
             [⟨e, entryFld d 77 64, entryFld d 110 96, 0, t.replicating (entryFld d 77 64) (entryFld d 110 96)⟩] } })) ∧
    (∀ w, (s.jobs.mcgInvals.find? fun w => w.e == e) = some w → (s.core.pkts.any fun k => w.marks.contains k.id) = false →
      exec (.mcgInvalidateComplete e) s = .next
        (({ s with jobs := { s.jobs with
          mcgCache := s.jobs.mcgCache.filter fun c => !(decide (w.base ≤ c.1.2) && decide (c.1.2 < w.base + w.count))
          mcgInvals := s.jobs.mcgInvals.filter fun x => x.e != e } } : State).completeEntry e .ok))

/-- LOCKS AND TRANSLATION INVALIDATIONS. Every command of the lock units' windows and of R424 and R425 completes with
its own effect (R424, R425, R436 to R440). -/
def Obligations.LockAndInvalidateCommandsComplete : Prop :=
  ∀ s : State, s.running = true →
    (∀ off data i, Requester.serviceProcessor.ident = some i → off % 8 = 0 →
      exec (.lockClaim .serviceProcessor off data) s = .next (s.lockClaim (off % gsSize) i data.toNat)) ∧
    (∀ (f : Fin 4096) off data i, (Requester.func f).ident = some i → off % 8 = 0 → hostWritable (off % gsSize) = true →
      exec (.lockClaim (.func f) off data) s = .next
        ((s.lockClaim (off % gsSize) i data.toNat).wsRecord (.func f) .ok (0x04000000 + off % gsSize))) ∧
    (∀ off data i, Requester.serviceProcessor.ident = some i → off % 8 = 0 →
      exec (.lockRelease .serviceProcessor off data) s = .next (s.lockRelease (off % gsSize) i data.toNat)) ∧
    (∀ (f : Fin 4096) off data i, (Requester.func f).ident = some i → off % 8 = 0 → hostWritable (off % gsSize) = true →
      exec (.lockRelease (.func f) off data) s = .next
        ((s.lockRelease (off % gsSize) i data.toNat).wsRecord (.func f) .ok (0x0C000000 + off % gsSize))) ∧
    (∀ off i, Requester.serviceProcessor.ident = some i → off % 8 = 0 →
      exec (.lockWaitRead .serviceProcessor off) s = .next (s.waitRead i (off % gsSize))) ∧
    (∀ off, (s.lock.waiters.any fun w => w.off == off && w.ident == fmfIdent) = true → exec (.hostWaitTimeout off) s = .next
      ((({ s with lock := { s.lock with
          waiters := s.lock.waiters.filter fun w => !(w.off == off && w.ident == fmfIdent) } } : State).cnt
            .HOST_WAIT_TIMEOUT_COUNT).lockAnswer fmfIdent (2 ^ 63 + Status.timeout.code))) ∧
    (∀ t off v, off % 8 = 0 → s.lockRecorded (off % gsSize) = true → exec (.lockPlainWrite t off v) s = .next
      (s.gsStore t (off % gsSize) (leBytes 8 v.toNat))) ∧
    (∀ (f : Fin 4096) (asid : Fin 1024) scope, s.f F.XL_ASID_CFG.FUNC asid.val = f.val → s.on F.XL_INV_STATUS.BUSY f.val = false →
      s.inReset f.val = false → exec (.xlInvCmd f asid scope) s = .next
        ((({ s with xl := { s.xl with invs := s.xl.invs ++
            [⟨f, asid, b2n scope == 1, s.f F.XL_INV_VA.PAGE f, s.f F.XL_INV_VA.COUNT f, s.missesOf asid⟩] } } : State).set
              F.XL_INV_STATUS.BUSY 1 f).wsRecord (.func f) .ok (Reg.offset ⟨.XL_INV_CMD, f.val, 0⟩))) ∧
    (∀ (f : Fin 4096) x, (s.xl.invs.find? fun x => x.fn == f.val) = some x → x.misses.isEmpty = true → s.asidBusy x.asid = false →
      exec (.xlInvComplete f) s = .next
        ((({ s with xl := { s.xl with tlb := s.xl.tlb.filter fun e => !(invCovers x e.2.1)
                                      invs := s.xl.invs.filter fun y => y.fn != f.val } } : State).set F.XL_INV_STATUS.BUSY 0 f).set
          F.XL_INV_STATUS.DONE (s.f F.XL_INV_STATUS.DONE f + 1) f)) ∧
    (∀ rq (asid : Fin 1024) v, rq.reaches = true → s.asidCfgCheck asid v = .ok → exec (.xlAsidCfgWrite rq asid v) s = .next
      ((s.asidCfgWrite asid v).wsRecord rq .ok (Reg.offset ⟨.XL_ASID_CFG, asid.val, 0⟩)))

/-- CONNECTIONS AND WORK QUEUES. Doorbells, fetches of work entries and the entries that make and change connections
complete with their own effect (R233, R242, R243, R254 to R259, R606). -/
def Obligations.ConnectionCommandsComplete : Prop :=
  ∀ s : State, s.running = true →
    (∀ (f : Fin 4096) v, s.doorbellCheck f v = .ok → s.inReset f.val = false → setsRsv RegName.CQ_DOORBELL.desc.fields v = false →
      exec (.cqDoorbell f v) s = .next ((s.doorbellTake v).wsRecord (.func f) .ok (Reg.offset ⟨.CQ_DOORBELL, f.val, 0⟩))) ∧
    (∀ e d, s.begunEntry e 0x80 = some d → exec (.dbBatch e) s = .next
      (let r := (s.takeEntry e).dbBatch e.fn d (entryFld d 12 10) 0 (0, .ok)
       r.1.completeEntry e r.2.2 r.2.1)) ∧
    (∀ (c : Fin 16777216) recv x, s.conn c = some x → (x.q recv).want = true → s.inReset x.fn = false →
      exec (.cwqFetch c recv) s = .next (s.cwqRead c recv false)) ∧
    (∀ (c : Fin 16777216) recv x, s.conn c = some x → (x.q recv).due = true → s.inReset x.fn = false →
      exec (.stampRetry c recv) s = .next
        (let t := ((x.q recv).ents.filter fun e => e.miss).foldl (fun t e => t.hostRead x.fn ((x.q recv).addr e.idx) 64)
          (s.setConn c (x.modQ recv fun q =>
            { q with due := false, turns := q.turns - 1, ents := q.ents.map fun e => { e with miss := false } }))
         if 0 < (x.q recv).turns then t.cwqRead c recv true else t)) ∧
    (∀ (e : EntryRef) bs, ((s.ring e.fn e.ring).descs.any fun d => d.inFlight e.idx) = true →
      exec (.entryFetchComplete (.ring e) (.data bs)) s = .next
        (s.modRing e.fn e.ring fun x =>
          { x with descs := x.descs.map fun d => if d.inFlight e.idx then { d with data := some (bits512 bs) } else d })) ∧
    (∀ (e : WorkRef) bs x, s.conn e.conn = some x → ((x.q e.recv).ents.any fun w => w.inFlight e.idx) = true → x.st = 1 →
      exec (.entryFetchComplete (.work e) (.data bs)) s = .next
        ((s.setConn e.conn (x.modQ e.recv fun q => q.mapEnts fun w =>
          if w.inFlight e.idx then { w with data := some (bits512 bs) } else w)).cwqScan e.conn e.recv)) ∧
    (∀ e : EntryRef, ((s.ring e.fn e.ring).descs.any fun d => d.idx == e.idx && d.failed) = true → s.inReset e.fn.val = false →
      exec (.fetchRetry (.ring e)) s = .next
        ((s.modRing e.fn e.ring fun x =>
          { x with descs := x.descs.map fun d => if d.idx = e.idx then { d with failed := false } else d }).hostRead
            e.fn (s.entryAddr e.fn e.ring e.idx) 64)) ∧
    (∀ (e : EntryRef) d t r, s.begunEntry e 0x01 = some d → (s.takeEntry e).connCheck e.fn (entryFld d 27 16) d = .ok →
      (s.takeEntry e).rankTranslate ((s.takeEntry e).fnIe e.fn (entryFld d 87 64)) (entryFld d 27 16) (entryFld d 107 88) =
        (t, some r) →
      exec (.connCreate e) s = .next
        (((t.setConn (entryFld d 87 64) (t.newConn e.fn (entryFld d 27 16) d r)).ctxUse (entryFld d 87 64)).completeEntry e .ok)) ∧
    (∀ (e : EntryRef) d x, s.begunEntry e 0x02 = some d →
      (s.takeEntry e).connCmdCheck e.fn (entryFld d 27 16) (entryFld d 87 64) = .ok →
      (s.takeEntry e).conn (entryFld d 87 64) = some x → x.st ≠ 2 → d.toNat.testBit 88 = true → entryFld d 91 89 ≤ 5 →
      exec (.connModify e) s = .next
        (let t := s.takeEntry e
         { t with xp := { t.xp with waits := t.xp.waits ++
             [.modify e (entryFld d 87 64) (some (entryFld d 91 89)) (d.toNat.testBit 92)] } })) ∧
    (∀ (e : EntryRef) d, s.begunEntry e 0x03 = some d →
      (s.takeEntry e).connCmdCheck e.fn (entryFld d 27 16) (entryFld d 87 64) = .ok →
      exec (.connDestroy e) s = .next
        (((s.takeEntry e).leaveOpen (entryFld d 87 64) 3 none .aborted).modConn (entryFld d 87 64) fun x =>
          { x with destroy := some e })) ∧
    (∀ (e : EntryRef) c x, (s.xp.conns.find? fun p => p.2.destroy == some e) = some (c, x) → s.connPackets c x = false →
      x.sq.idleQ = true → x.rq.idleQ = true → exec (.connDestroyComplete e) s = .next
        (({ s with xp := { s.xp with conns := mdel s.xp.conns c
                                     ctxCache := s.xp.ctxCache.filter fun k => k != c } } : State).completeEntry e .ok))

/-- MEMORY REGIONS, TRIGGER COUNTERS, DATAGRAMS. The entries of R283 to R287 and R231, and RECV_MATCH, complete with their own
effect. -/
def Obligations.RegionAndDatagramCommandsComplete : Prop :=
  ∀ (s : State) (e : EntryRef) (d : BitVec 512), s.running = true →
    (∀ i, s.begunEntry e 0x08 = some d → (s.takeEntry e).jobBound e.fn (entryFld d 27 16) = true → d.toNat.testBit 175 = false →
      entryFld d 127 64 % 4096 = 0 → entryFld d 171 128 ≠ 0 → (s.takeEntry e).keyIndex e.fn = some i →
      exec (.mrRegister e) s = .next
        (let t := s.takeEntry e
         let tag := wadd 14 (L.KEY.TAG.get (t.key i)) 1
         (t.setKey i (BitVec.ofNat 128 (entryFld d 127 64 / 4096 + entryFld d 171 128 * 2 ^ 52 + entryFld d 27 16 * 2 ^ 96 +
           tag * 2 ^ 108 + entryFld d 175 172 * 2 ^ 122 + 2 ^ 126))).completeEntry e .ok 0 (i + tag * 2 ^ 18))) ∧
    (s.begunEntry e 0x09 = some d → (s.takeEntry e).keyWrong e.fn (entryFld d 95 64) = false →
      (s.takeEntry e).keyState (entryFld d 95 64 % 2 ^ 18) < 2 → (s.takeEntry e).xp.waits = [] →
      L.KEY.JOB_SLOT.get ((s.takeEntry e).key (entryFld d 95 64 % 2 ^ 18)) = entryFld d 27 16 →
      exec (.mrRevoke e) s = .next
        (let t := s.takeEntry e
         { t with xp := { t.xp with waits := t.xp.waits ++ [.revoke e (entryFld d 95 64 % 2 ^ 18) 0] } })) ∧
    (∀ i, s.xp.waits = [.revoke e i 1] → (s.xp.conns.any fun p => p.2.holdsKey i) = false →
      exec (.mrRevokeComplete e) s = .next
        (let t := (s.emit (.hostFlush e.fn 0)).setKey i (L.KEY.STATE.set ((s.emit (.hostFlush e.fn 0)).key i) 3)
         ({ t with xp := { t.xp with waits := t.xp.waits.filter fun w => match w with
             | .revoke f _ 1 => f != e
             | _ => true } } : State).completeEntry e .ok)) ∧
    (s.begunEntry e 0x0A = some d → (s.takeEntry e).trgInRange e.fn (entryFld d 79 64) = true →
      (s.takeEntry e).jobBound e.fn (entryFld d 27 16) = true → L.TRG.VALID.on ((s.takeEntry e).trg (entryFld d 79 64)) = false →
      d.toNat.testBit 80 = true → d.toNat.testBit 83 = true → exec (.trigCounterSet e) s = .next
        (let t := (s.takeEntry e).setTrg (entryFld d 79 64)
          (BitVec.ofNat 128 (entryFld d 191 128 + entryFld d 27 16 * 2 ^ 64 + 2 ^ 76 + entryFld d 82 81 * 2 ^ 77))
         ((t.watchCheck (entryFld d 79 64)).fireTriggers (entryFld d 79 64)).completeEntry e .ok)) ∧
    (∀ payload t dst, s.begunEntry e 0x40 = some d →
      (s.takeEntry e).rankTranslate ((s.takeEntry e).fnIe e.fn 0) (entryFld d 27 16) (entryFld d 83 64) = (t, some dst) →
      (s.takeEntry e).dgCheck e d false false = .ok → exec (.dgSend e payload) s = .next
        (t.dgQueue e d ((s.takeEntry e).fnIe e.fn 0) (t.netHdr dst.node dst.ep (t.fnEp e.fn) (t.jobId (entryFld d 27 16)) 0
          (t.f F.RING_CFG.TC e.fn e.ring) (dst.pinned || d.toNat.testBit 111) none (16 + entryFld d 108 96)) 0x0B payload)) ∧
    (∀ payload t m, s.begunEntry e 0x41 = some d → (s.takeEntry e).mcgRead ((s.takeEntry e).homeHub e.fn) (entryFld d 77 64) = (t, m) →
      mcgValid m = true → L.MCG.JOB.get m = (s.takeEntry e).jobId (entryFld d 27 16) →
      (s.takeEntry e).dgCheck e d false false = .ok → exec (.mcSend e payload) s = .next
        (t.dgQueue e d ((s.takeEntry e).fnIe e.fn 0) (t.netHdr t.own 0 (t.fnEp e.fn) (t.jobId (entryFld d 27 16)) 2 6
          (d.toNat.testBit 111) (some (entryFld d 77 64)) (16 + entryFld d 108 96)) 0x0C payload)) ∧
    (s.begunEntry e 0x61 = some d → (s.takeEntry e).jobBound e.fn (entryFld d 27 16) = true →
      (s.takeEntry e).ringIs e.fn (L.RM.NRING.get d) 4 = true → exec (.recvMatch e) s = .next ((s.takeEntry e).recvMatch e d))

/-- WORK ENTRIES. The head entry of an open connection's send queue, of any opcode of R277 to R281 and R313, is issued
once it passes its check and waits for no trigger counter. -/
def Obligations.WorkEntriesComplete : Prop :=
  ∀ (s : State) (e : WorkRef) (x : ConnSt) (d : BitVec 512) (miss posted begun : Bool), s.running = true →
    s.conn e.conn = some x → e.recv = false → s.fnQuiet x.fn = false → x.st = 1 →
    x.headEntry = some ⟨e.idx, some d, false, miss, posted, begun⟩ → workMalformed d false = none → x.span < 16 →
    s.sendCheck x d = .ok → s.trigWaits d = false →
    let sent := s.sendEntry e.conn x ⟨e.idx, some d, false, miss, posted, begun⟩ d
    (entryFld d 7 0 = 0xA0 → exec (.put e) s = .next sent) ∧
    (entryFld d 7 0 = 0xA1 → exec (.get e) s = .next sent) ∧
    (entryFld d 7 0 = 0xA2 → exec (.send e) s = .next sent) ∧
    (entryFld d 7 0 = 0xA3 → exec (.sendMatched e) s = .next sent) ∧
    (entryFld d 7 0 = 0xA4 → exec (.atomic e) s = .next sent)

/-- TRANSPORT, packets. Every packet that an endpoint's transport takes, once admitted, has the effect of its row (R65, R73,
R231, R262 to R272, R291 to R294). -/
def Obligations.TransportPacketsComplete : Prop :=
  ∀ (s t : State) (ie : Fin 16) (p : Packet), s.running = true → p.wellFormed = true →
    (s.ejPop ie).admission p.job p.dstEp = (t, none) →
    (s.ejFor ie 0 = some p → exec (.transportReceive ie) s = .next (t.recvAdmitted ie p)) ∧
    (∀ b bs (hf : epFn p.dstEp < 4096) (hr : p.th 27 16 < 4096), s.ejFor ie 1 = some p →
      (t.ring (epFn p.dstEp) (p.th 27 16)).bufs = b :: bs → t.fnQuiet (epFn p.dstEp) = false →
      t.ringIs (epFn p.dstEp) (p.th 27 16) 2 = true → exec (.dgReceive ie) s = .next
        (let d := t.entryData (epFn p.dstEp) (p.th 27 16) b
         let n := entryFld d 204 192
         ((t.hostWrite (epFn p.dstEp) (entryFld d 191 128) (p.payload.take n)).modRing (epFn p.dstEp) (p.th 27 16) fun x =>
           { x with bufs := bs }).completeEntry ⟨⟨epFn p.dstEp, hf⟩, ⟨p.th 27 16, hr⟩, b⟩
             (if n < p.payload.length then .truncated else .ok) (p.payload.take n).length
             (L.NET.SRC_NODE.get p.net + L.NET.SRC_EP.get p.net * 2 ^ 20))) ∧
    (∀ x, s.ejFor ie 2 = some p → t.backConn p = some x → p.aux / 256 = 0 →
      exec (.transportAckReceive ie) s = .next
        ((t.setConn p.dstConn (x.report (ackHighest p.psn (leNat p.payload)))).ackWhere p.dstConn fun q =>
          decide (2 ^ 23 ≤ wsub 24 q.psn p.psn) ||
            (decide (1 ≤ wsub 24 q.psn p.psn) && decide (wsub 24 q.psn p.psn ≤ 512) &&
              (leNat p.payload).testBit (wsub 24 q.psn p.psn - 1)))) ∧
    (∀ k x, s.ejFor ie 3 = some p → t.jobSlot p.job = some k → p.dstEp ≠ 62 → p.aux / 256 ≠ 0x0B → p.aux / 256 ≠ 0x0C →
      (t.jobCount k 80 1).backConn p = some x → exec (.noticeReceive ie) s = .next
        ((t.jobCount k 80 1).noticeConn p.dstConn x p.psn (p.aux % 256))) ∧
    (s.ejFor ie 4 = some p → p.dstEp ≠ 62 → leNat (p.payload.drop 32) % 256 = 0x0B → t.fnQuiet (epFn p.dstEp) = false →
      exec (.routeFailReceive ie) s = .next
        ((t.cnt .ROUTE_FAIL_RECV_COUNT (epFn p.dstEp)).cnt .DG_REFUSED_COUNT (epFn p.dstEp)))

/-- TRANSPORT, timers and completions. Retransmissions, retries, reads and flushes that end, and contexts that arrive act on
their connection (R255, R256, R269, R270, R277, R279, R281, R421). -/
def Obligations.TransportTimersComplete : Prop :=
  ∀ (s : State) (c : Fin 16777216) (x : ConnSt), s.running = true → s.conn c = some x →
    (∀ (psn : BitVec 24) bs p, (x.atomics.find? fun p => p.psn == psn.toNat) = some p →
      exec (.atomicOpComplete c psn (.data bs)) s = .next
        ((s.setConn c { x with atomics := x.atomics.filter fun q => q.psn != psn.toNat }).atomicResp c x p
          (leNat (bs.take 8)) 0)) ∧
    (∀ p ps, x.ctxWait = p :: ps → exec (.contextFetchComplete c true) s = .next
      ((p :: ps).foldl (fun s p => match s.conn c with
        | some y => if y.st = 1 then s.recvConn c (s.fnIe y.fn c) y p else s.refuse c y p .badState
        | none => s) ((s.setConn c { x with ctxWait := [] }).ctxUse c))) ∧
    (∀ (psn : BitVec 24) m, (x.rmsgs.find? fun m => m.flush == 2 && m.flushPsn == psn.toNat) = some m →
      exec (.remoteFlushComplete c psn true) s = .next ((s.markRecv c psn.toNat).finishR c m)) ∧
    (∀ (psn : BitVec 24) q, (x.sent.find? fun q => q.psn == psn.toNat) = some q → x.st = 1 → x.missing q = true →
      max 16 x.srtt ≤ ((16 * (s.turnovers - q.sentAt) : Nat) : Int) → s.fnQuiet x.fn = false →
      exec (.retxSelective c psn) s = .next (((s.cnt .RETX_SELECTIVE_COUNT).resend c psn.toNat).sendReread c)) ∧
    (x.st = 1 → (x.sent.filter fun q => !q.acked).isEmpty = false → x.rto ≤ s.turnovers - x.progress → s.fnQuiet x.fn = false →
      s.on F.TP_RTO_CFG.RTO_FREEZE = true → x.timeouts + 1 < s.f F.TP_RTO_CFG.RETRY_LIMIT →
      exec (.rtoExpire c) s = .next
        ((((x.sent.filter fun q => !q.acked).take (s.fa F.TP_CC_CFG.W_MIN)).foldl (fun s q => s.resend c q.psn)
          ((s.cnt .RETX_TIMEOUT_COUNT).setConn c
            { x with rto := x.rto, timedOut := true, timeouts := x.timeouts + 1, progress := s.turnovers })).sendReread c)) ∧
    (∀ (psn : BitVec 24) q t, x.sent = [q] → q.psn = psn.toNat → q.rnrAt = some t →
      s.f F.TP_RETRY_CFG.RNR_TICKS ≤ s.turnovers - t → x.st = 1 → s.fnQuiet x.fn = false →
      exec (.rnrRetry c psn) s = .next (s.resend c psn.toNat)) ∧
    (∀ uid bs u, ((x.txq ++ x.sent.map fun q => q.u).find? fun u => u.uid == uid && u.asked && u.payload.isNone) = some u →
      exec (.payloadReadComplete c uid (.data bs)) s = .next
        (((s.setConn c (x.mapUid uid fun v => { v with payload := some (filled v.len bs v.fill) })).pumpAll c).sendReread c))

/-- COLLECTIVES. Every command of the collective engine completes with its own effect (R332 to R349). -/
def Obligations.CollectiveCommandsComplete : Prop :=
  ∀ s : State, s.running = true →
    (∀ (t : State) (ie : Fin 16) (p : Packet), (s.ejPop ie).admission p.job p.dstEp = (t, none) → p.dstEp = 62 →
      L.NET.PLEN.get p.net = 32 + p.payload.length →
      (s.ejFor ie 5 = some p → exec (.collUpReceive ie) s = .next (t.collAccept ie p)) ∧
      (s.ejFor ie 6 = some p → exec (.collDownReceive ie) s = .next (t.collAccept ie p)) ∧
      (s.ejFor ie 7 = some p → exec (.collMarkReceive ie) s = .next (t.collAccept ie p)) ∧
      (∀ i, s.ejFor ie 8 = some p → t.inst p.mg p.seq = some i → i.tomb = none → i.complete = false →
        exec (.collAbortReceive ie) s = .next
          ((t.cnt .COLL_ABORT_RECV_COUNT).collAbort p.mg p.seq (p.th 119 112) false))) ∧
    (∀ (mg : BitVec 14) (seq : BitVec 16) (stage : Fin 8) slice i p x t y, s.inst mg.toNat seq.toNat = some i →
      i.par = some p → i.folds.contains (stage.val, slice) = true → foldInputs p (i.at stage slice) = some x →
      ((s.setInst { i.folded stage slice with progress := s.turnovers }).perf (s.collIe mg.toNat / 4) 0x60 (s.collIe mg.toNat) 0
        1).collNext i p x = (t, some y) →
      exec (.collFoldDone mg seq stage slice) s = .next (t.collInput i.mg i.seq 1 y)) ∧
    (∀ (mg : BitVec 14) (seq : BitVec 16) i, s.inst mg.toNat seq.toNat = some i → i.posts.isEmpty = false → i.tomb = none →
      i.complete = false → s.collPassed i.progress = true →
      exec (.collStageTimeout mg seq) s = .next (s.collAbort i.mg i.seq Status.timeout.code true)) ∧
    (∀ (mg : BitVec 14) (seq : BitVec 16) i t, s.inst mg.toNat seq.toNat = some i → i.tomb = some t → s.collPassed t = true →
      exec (.collTombstoneExpire mg seq) s = .next (s.dropInst i.mg i.seq)) ∧
    (∀ (mg : BitVec 14) (seq : BitVec 16) i, s.inst mg.toNat seq.toNat = some i → i.par = none → i.tomb = none →
      s.collPassed i.born = true → exec (.collOrphanExpire mg seq) s = .next ((s.dropInst i.mg i.seq).cnt .COLL_ORPHAN_COUNT)) ∧
    (∀ (e : EntryRef) d bs t, s.begunEntry e 0x48 = some d →
      (s.takeEntry e).postCheck e d ((s.takeEntry e).collGroup (L.CP.MGROUP.get d)) = .ok →
      (s.takeEntry e).inst (L.CP.MGROUP.get d) (L.CP.SEQ.get d) = none →
      (postParams d).contributes (L.CP.CRI.get d) = true →
      (s.takeEntry e).payloadRead e.fn ((s.takeEntry e).fnIe e.fn (L.CP.MGROUP.get d)) (L.CP.SRC_ADDR.get d) (postParams d).bytes =
        (t, .ok []) → (postParams d).bytes ≠ 0 →
      exec (.collPost e (.data bs)) s = .next (t.postJoin e d (filled (postParams d).bytes bs [])))

/-- ENGINES. Every command of handlers, timers, watches, sampling, bindings, images and engine faults completes with its own
effect (R352 to R375, R419, R516, R517). -/
def Obligations.EngineCommandsComplete : Prop :=
  ∀ s : State, s.running = true →
    (∀ (c : Fin 64) t, (([0, 1, 2, 3] : List Nat).findSome? (s.dispatchClass c)) = some t →
      exec (.handlerDispatch c) s = .next t) ∧
    (∀ t x, s.thread t = some x → x.user = true → 8 ≤ x.overruns →
      exec (.handlerOverrunAbort t) s = .next ((s.cnt .HANDLER_OVERRUN_COUNT).abortHandler t x .handlerOverrun)) ∧
    (∀ (c : Fin 64) (k : Fin 16), s.eng.timersDue.contains (c.val, k.val) = true → s.on F.TIMER_CFG.ENABLE c k = true →
      exec (.clusterTimerFire c k) s = .next
        (let t : State := { s with eng := { s.eng with timersDue := s.eng.timersDue.filter (· != (c.val, k.val)) } }
         let t := t.queueEvent (t.hevent 3 (t.f F.TIMER_CFG.SLOT c k) (c + k * 2 ^ 6) [] (16 * c + k) (c / 16))
         if t.f F.TIMER_CFG.PERIOD c k = 0 then t.set F.TIMER_CFG.ENABLE 0 c k
         else t.set F.TIMER_DUE.DUE (t.f F.TIMER_DUE.DUE c k + t.f F.TIMER_CFG.PERIOD c k) c k)) ∧
    (∀ rq (w : Fin 256) v, s.watchCheckWrite rq v = .ok → exec (.ctrWatchArm rq w v) s = .next
      (((s.wr ⟨.CTR_WATCH, w.val, 0⟩ v).watchCheck (F.CTR_WATCH.COUNTER.fld.get v)).wsRecord rq .ok
        (Reg.offset ⟨.CTR_WATCH, w.val, 0⟩))) ∧
    (∀ rq (e : Fin 512) rd, rq.reaches = true → exec (.sampleRdWrite rq e rd) s = .next
      ((({ s with eng := { s.eng with sampleRaised := s.eng.sampleRaised.filter (· != e.val) } } : State).set
        F.SAMPLE_PTR.RD rd.toNat e).wsRecord rq .ok (Reg.offset ⟨.SAMPLE_PTR, e.val, 0⟩))) ∧
    (∀ rq (slot : Fin 4096), s.hbCheck rq s.hbData = .ok → exec (.hbWrite rq slot) s = .next
      (({ s with eng := { s.eng with bindNext := mset s.eng.bindNext slot.val s.hbData } } : State).wsRecord rq .ok
        (Reg.offset ⟨.HB_CMD, 0, 0⟩))) ∧
    (∀ rq (slot : Fin 4096), rq.reaches = true → exec (.hbRead rq slot) s = .next
      (((List.range 4).foldl (fun t i => t.wr ⟨.HB_DATA, i, 0⟩ (BitVec.ofNat 64 ((s.binding slot).toNat / 2 ^ (64 * i)))) s).wsRecord
        rq .ok (Reg.offset ⟨.HB_CMD, 0, 0⟩))) ∧
    (∀ rq (slot : Fin 4096), rq.reaches = true → exec (.hbDisable rq slot) s = .next
      (((s.setBinding slot (L.BND.VALID.set (s.binding slot) 0)).dropEvents slot).wsRecord rq .ok (Reg.offset ⟨.HB_CMD, 0, 0⟩))) ∧
    (∀ rq, rq.reaches = true → s.eng.loadAddr = none → exec (.imgLoad rq) s = .next
      ((((({ s with eng := { s.eng with loadAddr := some (s.f F.IMG_ADDR.ADDR * 64) } } : State).set F.IMG_STATUS.BUSY 1).set
        F.IMG_STATUS.DONE 0).hostRead fmf (s.f F.IMG_ADDR.ADDR * 64) 64).wsRecord rq .ok (Reg.offset ⟨.IMG_CMD, 0, 0⟩))) ∧
    (∀ a bs base num, s.eng.loadAddr = some a → 64 < L.IMG.IMAGE_BYTES.get (bits512 (bs.take 64)) → imageOk bs = true →
      L.IMG.KIND.get (bits512 (bs.take 64)) ≠ 0 →
      (let u := s.hostRead fmf (a + 64) (L.IMG.IMAGE_BYTES.get (bits512 (bs.take 64)) - 64)
       u.codeFit (L.IMG.CODE_BYTES.get (bits512 (bs.take 64))) = some base → u.freeImage = some num →
       exec (.imageLoadComplete (.data bs)) s = .next ((u.addImage num base bs).imgDone .ok num))) ∧
    (∀ rq (img : Fin 256), rq.reaches = true → s.eng.loadAddr = none → s.imageUsed img = false → mhas s.eng.images img.val = true →
      exec (.imgUnload rq img) s = .next
        ((({ s with eng := { s.eng with images := mdel s.eng.images img.val } } : State).set F.IMG_STATUS.FREE
          ({ s with eng := { s.eng with images := mdel s.eng.images img.val } } : State).codeFree).wsRecord rq .ok
            (Reg.offset ⟨.IMG_CMD, 0, 0⟩))) ∧
    (∀ rq (e : Fin 512), s.supervises rq = true → exec (.engineFenceCmd rq e) s = .next
      ((s.engineFault e).wsRecord rq .ok (Reg.offset ⟨.ENG_STATUS, e.val, 0⟩))) ∧
    (∀ e : Fin 512, (s.engThreads e).any s.issuable = true → exec (.watchdogExpire e) s = .next (s.engineFault e)) ∧
    (∀ e : Fin 512, s.eng.reloading.contains e.val = true → exec (.spareLoadComplete e) s = .next
      (let t := ({ s with eng := { s.eng with reloading := s.eng.reloading.filter (· != e.val) } } : State).loadCode e
       (((t.set F.ENG_STATUS.FENCED 0 e).set F.ENG_STATUS.SPARE_IN_USE 1 e).set F.ENG_STATUS.PHYSICAL (t.physEngine e) e).engDegraded
         (e / 128)))

/-- CORMEL, integer instructions. A thread that issues a legal word of MAJOR 0x01 to 0x0B with its predicate set writes the
result to Rd or Pd and goes on at PC + 4 (R379 to R385). -/
def Obligations.CormelIntegerComplete : Prop :=
  ∀ (s : State) (t : ThreadId) (x : Thread) (w : Nat), Safety.Issues s t x w → (x.rp (wPred w)).testBit 0 = true →
    let u := Safety.unyield s t
    (wMajor w = 0x01 → exec (.alu t) s = .next
      (u.fin t w fun y => y.setG (wRd w) (aluOp (wFn w) (x.rg (wRa w)) (x.rg (wRb w))))) ∧
    (wMajor w = 0x02 → exec (.addi t) s = .next (u.fin t w fun y => y.setG (wRd w) (x.rg (wRa w) + wImmS w))) ∧
    (wMajor w = 0x03 → exec (.andi t) s = .next (u.fin t w fun y => y.setG (wRd w) (x.rg (wRa w) &&& wImm w))) ∧
    (wMajor w = 0x04 → exec (.ori t) s = .next (u.fin t w fun y => y.setG (wRd w) (x.rg (wRa w) ||| wImm w))) ∧
    (wMajor w = 0x05 → exec (.xori t) s = .next (u.fin t w fun y => y.setG (wRd w) (x.rg (wRa w) ^^^ wImm w))) ∧
    (wMajor w = 0x06 → exec (.shifti t) s = .next
      (u.fin t w fun y => y.setG (wRd w) (aluOp (6 + w / 2 ^ 6 % 4) (x.rg (wRa w)) (w % 64)))) ∧
    (wMajor w = 0x07 → exec (.lui t) s = .next (u.fin t w fun y => y.setG (wRd w) (wImm18S w * 2 ^ 13))) ∧
    (wMajor w = 0x08 → exec (.muldiv t) s = .next
      (u.fin t w fun y => y.setG (wRd w) (mulDivOp (wFn w) (x.rg (wRa w)) (x.rg (wRb w))))) ∧
    (wMajor w = 0x09 → exec (.cmp t) s = .next
      (u.fin t w fun y => y.setP (wRd w) (allOf (cmpOp (wFn w) (x.rg (wRa w)) (x.rg (wRb w)))))) ∧
    (wMajor w = 0x0A → exec (.cmpi t) s = .next
      (u.fin t w fun y => y.setP (wRd w % 8) (allOf (cmpiOp (wRd w / 8) (x.rg (wRa w)) (wImmS w))))) ∧
    (wMajor w = 0x0B → wFn w < 4 → exec (.pred t) s = .next
      (u.fin t w fun y => y.setP (wRd w) (predOp (wFn w) (x.rp (wRa w)) (x.rp (wRb w))))) ∧
    (wMajor w = 0x0B → wFn w = 4 → exec (.pred t) s = .next (u.fin t w fun y => y.setP (wRd w) (x.rg (wRa w)))) ∧
    (wMajor w = 0x0B → wFn w = 5 → exec (.pred t) s = .next (u.fin t w fun y => y.setG (wRd w) (x.rp (wRa w))))

/-- CORMEL, loads. A scalar load that its checks send to the engine's local memory writes what it reads to Rd, extended as its
MAJOR says; LDRSV also takes the reservation (R385, R390). -/
def Obligations.CormelLoadsComplete : Prop :=
  ∀ (s u : State) (t : ThreadId) (x : Thread) (w a : Nat), Safety.Issues s t x w → (x.rp (wPred w)).testBit 0 = true →
    x.ready = none →
    let read (n : Nat) (signed resv : Bool) : State :=
      u.fin t w fun y => (y.reserve resv a).setG (wRd w) (loaded n signed (leNat (memGets u.mem a n)))
    let goes (va n : Nat) (resv : Bool) : Prop := (Safety.unyield s t).access t x va n false true resv = (u, .ok (.loc a))
    (wMajor w = 0x10 → goes (x.ea w) 1 false → exec (.lb t) s = .next (read 1 true false)) ∧
    (wMajor w = 0x11 → goes (x.ea w) 1 false → exec (.lbu t) s = .next (read 1 false false)) ∧
    (wMajor w = 0x12 → goes (x.ea w) 2 false → exec (.lh t) s = .next (read 2 true false)) ∧
    (wMajor w = 0x13 → goes (x.ea w) 2 false → exec (.lhu t) s = .next (read 2 false false)) ∧
    (wMajor w = 0x14 → goes (x.ea w) 4 false → exec (.lw t) s = .next (read 4 true false)) ∧
    (wMajor w = 0x15 → goes (x.ea w) 4 false → exec (.lwu t) s = .next (read 4 false false)) ∧
    (wMajor w = 0x16 → goes (x.ea w) 8 false → exec (.ld t) s = .next (read 8 false false)) ∧
    (wMajor w = 0x1C → w / 8 % 2 = 0 → goes (x.rg (wRa w)) (resvBytes w) true →
      exec (.ldrsv t) s = .next (read (resvBytes w) false true))

/-- CORMEL, stores. A scalar store that its checks let pass stores the low bytes of Rd where its address goes and retires;
STCND stores only while it holds its reservation, and Rd says so (R385, R390). -/
def Obligations.CormelStoresComplete : Prop :=
  ∀ (s u : State) (t : ThreadId) (x : Thread) (w : Nat) (a : Spot), Safety.Issues s t x w → (x.rp (wPred w)).testBit 0 = true →
    let stored (n : Nat) : State := (u.storeTo t a (leBytes n (x.rg (wRd w)))).fin t w id
    let goes (va n : Nat) (resv : Bool) : Prop := (Safety.unyield s t).access t x va n true true resv = (u, .ok a)
    (wMajor w = 0x18 → goes (x.ea w) 1 false → exec (.sb t) s = .next (stored 1)) ∧
    (wMajor w = 0x19 → goes (x.ea w) 2 false → exec (.sh t) s = .next (stored 2)) ∧
    (wMajor w = 0x1A → goes (x.ea w) 4 false → exec (.sw t) s = .next (stored 4)) ∧
    (wMajor w = 0x1B → goes (x.ea w) 8 false → exec (.sd t) s = .next (stored 8)) ∧
    (wMajor w = 0x1C → w / 8 % 2 = 1 → goes (x.rg (wRa w)) (resvBytes w) true → x.resv = some (a.mem / 64) →
      exec (.stcnd t) s = .next
        ((u.storeTo t a (leBytes (resvBytes w) (x.rg (wRb w)))).fin t w fun y =>
          { y.setG (wRd w) Status.ok.code with resv := none })) ∧
    (wMajor w = 0x1C → w / 8 % 2 = 1 → goes (x.rg (wRa w)) (resvBytes w) true → x.resv ≠ some (a.mem / 64) →
      exec (.stcnd t) s = .next (u.fin t w fun y => { y.setG (wRd w) Status.busy.code with resv := none }))

/-- CORMEL, branches and vectors. A branch goes on at its target, a link register holding PC + 4; vector instructions, which no
predicate suppresses, load, store, compute and reduce (R379, R386 to R389). -/
def Obligations.CormelBranchVectorComplete : Prop :=
  ∀ (s : State) (t : ThreadId) (x : Thread) (w : Nat), Safety.Issues s t x w →
    let u := Safety.unyield s t
    (wMajor w = 0x20 → (x.rp (wPred w)).testBit 0 = true → exec (.b t) s = .next (u.jump t w (x.pc + wOff23 w) id)) ∧
    (wMajor w = 0x21 → (x.rp (wPred w)).testBit 0 = true → exec (.jal t) s = .next
      (u.jump t w (x.pc + wOff18 w) fun y => y.setG (wRd w) (x.pc + 4))) ∧
    (wMajor w = 0x22 → (x.rp (wPred w)).testBit 0 = true → x.ea w % 4 = 0 → x.ea w < 2 ^ 48 → exec (.jalr t) s = .next
      (u.jump t w (x.ea w) fun y => y.setG (wRd w) (x.pc + 4))) ∧
    (∀ v a, wMajor w = 0x28 → (x.vmActive w).isEmpty = false → u.access t x (x.vea w) 64 false false false = (v, .ok (.loc a)) →
      exec (.vld t) s = .next (v.fin t w fun y => y.vload w (memGets v.mem a 64))) ∧
    (∀ v a, wMajor w = 0x29 → (x.vmActive w).isEmpty = false → u.access t x (x.vea w) 64 true false false = (v, .ok (.loc a)) →
      exec (.vst t) s = .next
        (((x.vmActive w).foldl (fun s e =>
          s.storeTo t (.loc (a + vmBytes * e)) (((leBytes 64 (x.rv (wVd w))).drop (vmBytes * e)).take vmBytes)) v).fin t w id)) ∧
    (wMajor w = 0x2A → exec (.vop t) s = .next (u.fin t w fun y => y.vop w)) ∧
    (wMajor w = 0x2B → exec (.vred t) s = .next (u.fin t w fun y =>
      y.setG (wRd w) (vred (wEs w) (wTy w) (wVf w % 8) (wVf w / 16) (x.rp (wPred w)) (x.rv (wVa w)))))

/-- CORMEL, system instructions. Special registers, yields, barriers, exits, exception returns, event waits, EMIT and the TLB
instructions of a thread that may run them complete with their own effect (R391 to R402). -/
def Obligations.CormelSystemComplete : Prop :=
  ∀ (s : State) (t : ThreadId) (x : Thread) (w : Nat), Safety.Issues s t x w → (x.rp (wPred w)).testBit 0 = true →
    let u := Safety.unyield s t
    (∀ ck, wMajor w = 0x30 → wImm w ≠ 0 → (srUser (wImm w) = true ∨ srSup (wImm w) = true) →
      (x.user = false ∨ srSup (wImm w) = false) →
      exec (.mfsr t ck) s = .next (u.fin t w fun y => y.setG (wRd w) (srRead t x (wImm w)))) ∧
    (∀ ck, wMajor w = 0x30 → wImm w = 0 → (srUser 0 = true ∨ srSup 0 = true) → (x.user = false ∨ srSup 0 = false) →
      exec (.mfsr t ck) s = .next (u.fin t w fun y => { y.setG (wRd w) (nsOf (u.ctrAt ck)) with
        ftFrac := BitVec.ofNat 64 (u.ctrAt ck / 2 ^ 32 % 2 ^ 16 + tickOf (u.ctrAt ck) * 2 ^ 16), ftCk := BitVec.ofNat 64 ck })) ∧
    (wMajor w = 0x31 → (wImm w = 0x00B ∨ srSup (wImm w) = true) → (x.user = false ∨ srSup (wImm w) = false) →
      exec (.mtsr t) s = .next (u.fin t w fun y => y.srWrite (wImm w) (x.rg (wRa w)))) ∧
    (wMajor w = 0x32 → wFn w = 0 → exec (.yield t) s = .next
      (let v := u.fin t w id
       { v with eng := { v.eng with yielded := mset v.eng.yielded t.engine.val t.ctx.val } })) ∧
    (wMajor w = 0x32 → wFn w = 1 → exec (.yieldt t) s = .next
      ((u.fin t w id).modThread t fun y => { y with wait := .turnover })) ∧
    (wMajor w = 0x32 → wFn w = 2 → x.posted ≠ [] → exec (.cb t) s = .next
      ((x.posted.foldl (fun s p => s.emit (.hostFlush p.1 0)) (u.modThread t fun y => { y with posted := [] })).waitFor t
        (.cb x.posted 0) 6)) ∧
    (wMajor w = 0x32 → wFn w = 3 → exec (.exit t) s = .next ((u.fin t w id).dropThread t)) ∧
    (wMajor w = 0x32 → wFn w = 4 → x.user = false → exec (.eret t) s = .next (u.jump t w (x.epc.toNat / 4 * 4) id)) ∧
    (wMajor w = 0x33 →
      (let v := u.fin t w id
       let v := ({ v with eng := { v.eng with order := v.eng.order + 1 } } : State).modThread t fun y =>
         { y with event := none
                  wait := .event (u.fin t w id).eng.order (if wImm w = 0 then none else some (u.turnovers + wImm w)) (wRd w) }
       v.queuedFor (t.engine.val / 8) x.slot = none → exec (.evwait t) s = .next v)) ∧
    (wMajor w = 0x34 → x.rg (wRa w) < 2 ^ 48 →
      (let d : BitVec 256 := BitVec.ofNat 256 (leNat (memGets u.mem (lmBase t.engine + (x.rg (wRa w) - localBase)) 32))
       emitReadable x.user t.ctx (x.rg (wRa w)) 32 = true →
       emitReadable x.user t.ctx (x.rg (wRa w)) (32 + L.EMD.LENGTH.get d) = true →
       exec (.emit t true) s = .next (u.emitNow t x w (x.rg (wRa w))))) ∧
    (∀ k, wMajor w = 0x35 → wFn w = 1 → Thread.tlb t x = some k → x.rg (wRd w) < k.2.2 →
      tlbEntryOk (x.entry w).1 (x.entry w).2 = true → x.user = false → exec (.xput t) s = .next
        ((u.tlbPut (k.1, k.2.1, x.rg (wRd w)) (x.entry w).1 (x.entry w).2).fin t w id)) ∧
    (∀ k, wMajor w = 0x35 → wFn w = 2 → Thread.tlb t x = some k → tlbEntryOk (x.entry w).1 (x.entry w).2 = true →
      x.user = false → exec (.xputr t) s = .next
        ((u.drawNat.2.tlbPut (k.1, k.2.1, u.drawNat.1 % k.2.2) (x.entry w).1 (x.entry w).2).fin t w fun y =>
          y.setG (wRd w) (u.drawNat.1 % k.2.2))) ∧
    (∀ k, wMajor w = 0x35 → wFn w = 8 → wRd w = 2 → Thread.tlb t x = some k → x.user = false → exec (.xdrop t) s = .next
      (({ u with xl := { u.xl with tlb := u.xl.tlb.filter fun e => !(e.1.1 == k.1 && e.1.2.1 == k.2.1) } } : State).fin t w id))

/-- CORMEL, what a waiting thread waits for. A load's data, a flush, an event's time and a stalled EMIT end the wait of their
thread (R393, R394, R397, R400), and a translation miss is resolved (R419). -/
def Obligations.CormelWaitsComplete : Prop :=
  ∀ (s : State) (t : ThreadId) (x : Thread), s.running = true → s.thread t = some x →
    (∀ f a bs, x.wait = .load f a → wMajor (s.wordAt t.engine x.pc) = 0x16 → exec (.loadCompletion t (.data bs)) s = .next
      ((s.modThread t fun y => { y with wait := .none }).fin t (s.wordAt t.engine x.pc) fun y =>
        y.setG (wRd (s.wordAt t.engine x.pc)) (loaded 8 false (leNat bs)))) ∧
    (∀ (f : Fin 4096) n lost, x.wait = .cb [(f.val, n)] lost → exec (.cbComplete t f true) s = .next
      ((s.modThread t fun y => { y with wait := .none }).cbEnd t (s.wordAt t.engine x.pc) lost)) ∧
    (∀ o due rd, x.wait = .event o (some due) rd → due ≤ s.turnovers → exec (.evwaitTimeout t) s = .next
      (s.setThread t { x.setG rd 0xFF with wait := .none, stall := 8 })) ∧
    (x.wait = .emit → exec (.emitRetire t) s = .next
      (s.emitNow t x (s.wordAt t.engine x.pc) (x.rg (wRa (s.wordAt t.engine x.pc))))) ∧
    (∀ rq (h : Fin 4) (m : Fin 256) code st, rq.reaches = true → s.missValid h m = true → resolveStatus (BitVec.toNat code) = some st →
      exec (.xlMissResolve rq h m code) s = .next ((s.missEnd h m st).wsRecord rq .ok (Reg.offset ⟨.XL_MISS_RESOLVE, h.val, 0⟩)))

/-- ROUTING, SWITCH CORE, INJECTION. Every command that moves packets inside the part completes with its own effect (R96, R103,
R110, R115 to R145). -/
def Obligations.SwitchCommandsComplete : Prop :=
  ∀ s : State, s.running = true →
    (∀ (inp : Fin 272) k, s.toRoute inp = some k → 256 ≤ inp.val → exec (.packetRoute inp) s = .next
      (let r := s.route inp k.pkt.net k.pkt.tp
       let q := r.1.enqueueAll inp (schedTc k.pkt.net) r.2
       (q.1.modPkt k.id fun x => { x with routed := true, tc := schedTc k.pkt.net, branches := q.2 }).settlePkt k.id)) ∧
    (∀ (p : Fin 256) lcb, s.f F.PORT_STATE.STATE p.val = 6 → reservedBlock (L.LCB.TYPE.get lcb) = false → lcbOk lcb = true →
      L.GLL.VECTOR.on lcb = true → exec (.guylineLcbReceive p lcb) s = .next
        (let y : Snapshot := { mget s.core.snapsNext p.val (mget s.core.snaps p.val ⟨[], [], 0⟩) with
           next := (List.range 64).map fun c => Fld.get ⟨4 * c + 35, 4 * c + 32⟩ lcb, age := 0 }
         (s.skewCheck p lcb).modCore fun c => { c with snapsNext := mset c.snapsNext p.val y })) ∧
    (∀ id k b, (s.core.pkts.find? fun k => k.id == id) = some k →
      s.heaviest (quarterOf k.inp) k.tc (k.branches.filter fun b => !b.done) = some b → k.complete = true → k.freed = false →
      s.sharedTakes (quarterOf k.inp) b.out k.tc k.segs b.hot.isSome = true → exec (.sharedChargeMove id) s = .next
        ((s.freeReserve k).modPkt id fun x => { x with freed := true, shared := some (b.out, k.tc) })) ∧
    (∀ arrivals, exec (.cellArbitration arrivals) s = .next
      (let u := (arrivals.foldl (fun s p => s.cellArrives p.val) s).stallCounts
       let v := ((u.iterate u.requests true).iterate u.requests false).iterate u.requests false
       v.core.matched.foldl (fun s m => s.transfer m) v)) ∧
    (∀ (out : Fin 256) id enq k, (s.port out).txNow = some (id, enq) →
      (s.core.pkts.find? fun k => k.id == id && !k.complete) = some k → exec (.cutThroughUnderrun out) s = .next
        ((((s.abortTx out true).cnt .CT_UNDERRUN_COUNT).unstage out id enq).modPkt id fun x => { x with
          cutThrough := false
          branches := x.branches.map fun b => if b.enq = enq then { b with started := false, crossed := 0 } else b })) ∧
    (∀ e : Fin 64, s.on F.HOT_ENTRY.VALID e.val = true → s.f F.HOT_CFG.HOT_COOL ≤ mget s.core.hotCool e.val 0 →
      (s.waitingBranches.any fun x => x.2.hot == some e.val) = false → exec (.hotEntryFree e) s = .next
        ((s.wr ⟨.HOT_ENTRY, e.val, 0⟩ 0).modCore fun c =>
          { c with hotCool := mdel c.hotCool e.val, hotFrom := mdel c.hotFrom e.val })) ∧
    (∀ (ie : Fin 16) k t charge, s.core.ieDown.contains ie.val = false →
      firstFree (mget s.ni.tx ie.val []) [] 0 = some (k, t) → s.policerBad t.policer = false → t.policer = none →
      s.injectCharge (256 + ie) t.pkt.net t.pkt.tp = some charge →
      exec (.packetInject ie) s = .next (s.injectGo ie k t t.pkt.net charge))

/-- LINK LAYER. Every command of the link layer of a port in ACTIVE completes with its own effect (R188 to R214). -/
def Obligations.LinkCommandsComplete : Prop :=
  ∀ (s : State) (p : Fin 256), s.running = true → s.f F.PORT_STATE.STATE p.val = 6 →
    (∀ y ys, s.stage p = y :: ys → s.linkReady p = true → y.cellsIn ≠ 0 →
      s.replayUsed p + blocksOf (bytesOf y.pkt.net) ≤ s.replayBlocks p → exec (.linkSendNew p) s = .next (s.sendNew p y)) ∧
    ((s.port p).partnerInit = true → s.fa F.LL_CFG.REPLAY_TICKS p.val < (s.port p).timer →
      exec (.replayTimerExpire p) s = .next ((s.cnt .TIMER_REPLAY_COUNT p).startPass p true)) ∧
    (∀ env net tp ck, s.rxOpen p = true → (s.port p).rxNow = none →
      exec (.linkPacketSop p env net tp ck) s = .next (s.onSop p env net tp ck)) ∧
    (∀ r payload lcrc ck, (s.port p).rxNow = some r → r.bad = false → payload.length ≤ L.NET.PLEN.get r.net →
      (L.NET.PLEN.get r.net - payload.length = 16 ∨ L.NET.PLEN.get r.net - payload.length = 32) →
      BitVec.toNat lcrc = lcrcOf r.env ⟨r.net, r.tp, payload⟩ → r.kept = true →
      exec (.linkPacketEnd p payload lcrc false ck) s = .next (s.acceptPacket p r.id payload)) ∧
    (s.rxOpen p = true → (s.port p).rxNow.isSome = true →
      exec (.abortBlockReceive p) s = .next ((s.dropArrival p).cnt .ABORT_RECV_COUNT p)) ∧
    ((s.port p).ackDue = true → exec (.ackCoalesceExpire p) s = .next (s.sendAck p)) ∧
    ((s.port p).freshWait = true → s.stillCharged p = false → exec (.freshStartInitSend p) s = .next
      ((((s.sendInit p false).modPort p fun x => { x with freshWait := false }).set F.LL_STATUS.PARTNER_FATAL 0 p).cnt
        .FRESH_START_COUNT p)) ∧
    ((s.port p).partnerInit = false → (s.port p).freshWait = false →
      exec (.initRepeat p) s = .next (s.sendInit p (s.port p).offered)) ∧
    (∀ q : Fin 256, s.on F.LL_STATUS.FROZEN q.val = true → s.pstate q ≠ 6 → exec (.resumeTimeout q) s = .next (s.dropLink q)) ∧
    (s.lockedLanes p ≠ s.f F.PORT_STATE.LANE_SET p → (s.port p).width = none →
      exec (.linkDown p) s = .next (s.linkGoesDown p 7)) ∧
    (∀ lcb, reservedBlock (L.LCB.TYPE.get lcb) = false → lcbOk lcb = true →
      ((s.port p).partnerInit = true → exec (.ackLcbReceive p lcb) s = .next (s.onAck p lcb)) ∧
      ((s.port p).partnerInit = false → (s.port p).offered = false → L.INITL.RESUME_INIT.on lcb = false →
        exec (.initLcbReceive p lcb) s = .next
          (s.modPort p fun y => { y with adv := initValues lcb, partnerInit := true })) ∧
      exec (.retrainLcbReceive p lcb) s = .next (((s.enterDetect p 8).cnt .RETRAIN_COUNT p).raise (33 + 2 * p)) ∧
      exec (.fatalLcbReceive p lcb) s = .next (s.occur (33 + 2 * p) .ok 4 p 0 fun s =>
        (((s.leaveActive p 1 true).enterDetect p 7).set F.LL_STATUS.PARTNER_FATAL 1 p).set F.LL_STATUS.PARTNER_CAUSE
          (L.INITL.CAUSE_FATAL.get lcb) p))

/-- PORT COMMANDS AND TRAINING. Every command and event that brings a port up completes with its own effect (R161 to R173,
R183, R611). -/
def Obligations.PortTrainingComplete : Prop :=
  ∀ (s : State) (p : Fin 256), s.running = true →
    (∀ rq : Requester, rq.reaches = true →
      (∀ v, s.portCtrlCheck p (F.PORT_CTRL.ENABLE.fld.set v 1) = .ok → exec (.portEnable rq p v) s = .next
        ((s.portCtrlWrite p (F.PORT_CTRL.ENABLE.fld.set v 1)).wsRecord rq .ok (Reg.offset ⟨.PORT_CTRL, p.val, 0⟩))) ∧
      (∀ v, s.portCtrlCheck p (F.PORT_CTRL.ENABLE.fld.set v 0) = .ok → exec (.portDisable rq p v) s = .next
        ((s.portCtrlWrite p (F.PORT_CTRL.ENABLE.fld.set v 0)).wsRecord rq .ok (Reg.offset ⟨.PORT_CTRL, p.val, 0⟩))) ∧
      (∀ force, s.portCmdCheck p (BitVec.ofNat 64 (1 + 2 * b2n force)) = .ok → exec (.portDrain rq p force) s = .next
        ((s.portCmdWrite p (BitVec.ofNat 64 (1 + 2 * b2n force))).wsRecord rq .ok (Reg.offset ⟨.PORT_CMD, p.val, 0⟩))) ∧
      (s.portCmdCheck p 4 = .ok → exec (.portRestore rq p) s = .next
        ((s.portCmdWrite p 4).wsRecord rq .ok (Reg.offset ⟨.PORT_CMD, p.val, 0⟩))) ∧
      (s.portCmdCheck p 8 = .ok → exec (.portRetrain rq p) s = .next
        ((s.portCmdWrite p 8).wsRecord rq .ok (Reg.offset ⟨.PORT_CMD, p.val, 0⟩))) ∧
      (s.portCmdCheck p 16 = .ok → exec (.portTest rq p) s = .next
        ((s.portCmdWrite p 16).wsRecord rq .ok (Reg.offset ⟨.PORT_CMD, p.val, 0⟩)))) ∧
    exec (.holdOffExpire p) s = .next ((s.modPort p fun x => { x with holdOff := false }).detectExit p) ∧
    (s.pstate p = 2 → exec (.negTimeout p) s = .next (s.trainFail p 1)) ∧
    (s.pstate p = 3 → exec (.eqTimeout p) s = .next (s.trainFail p 3)) ∧
    (s.pstate p = 4 → exec (.alignTimeout p) s = .next (s.trainFail p 4)) ∧
    (s.pstate p = 5 → exec (.verifyTimeout p) s = .next (s.trainFail p 6)) ∧
    (s.pstate p = 4 → ((lanesIn p (s.f F.PORT_STATE.LANE_SET p)).all fun l =>
        s.on F.LANE_STATUS.CW_LOCK l && s.on F.LANE_STATUS.CDR_LOCK l) = true →
      s.lockedLanes p = s.f F.PORT_STATE.LANE_SET p.val → exec (.alignComplete p) s = .next
        ((((s.newState p 5).setLanes F.LANE_STATUS.DESKEWED 1 (lanesIn p (s.f F.PORT_STATE.LANE_SET p))).modPort p fun x =>
          { x with soak := true }).column p 0x82 [0])) ∧
    (∀ ratio, s.pstate p = 5 → (s.port p).localPass = false → ratio ≤ s.f F.PORT_TRAIN_CFG.BER_LIMIT p.val → (s.port p).soak = true →
      exec (.verifyEvaluate p ratio false false) s = .next
        ((s.modPort p fun x => { x with localPass := true }).verifyStatus p false)) ∧
    (∀ st : BitVec 8, s.pstate p = 5 → st.toNat.testBit 1 = false → exec (.verifyStatusReceive p st) s = .next
      ((s.modPort p fun x => { x with
        partnerPass := x.partnerPass || st.toNat.testBit 0
        partnerSawPass := x.partnerSawPass || (st.toNat.testBit 0 && st.toNat.testBit 2) }).verifyStatus p false)) ∧
    (s.pstate p = 5 → (s.port p).localPass = true → (s.port p).partnerPass = true → (s.port p).rxActive = true →
      exec (.portActiveEntry p false) s = .next
        ((s.modPort p fun y => { y with txActive := true, rxActive := true }).enterActive p)) ∧
    (∀ mode pattern rate : BitVec 8, s.pstate p = 6 → mode.toNat = 0 → exec (.testNoticeReceive p mode pattern rate) s = .next
      (((s.restart p 7).set F.PORT_STATE.PARTNER_TEST 1 p).set F.TEST_RESULT.LOOP_REFUSED 0 p)) ∧
    (∀ pass : BitVec 8, s.pstate p = 7 → s.on F.PORT_STATE.PARTNER_TEST p.val = false → exec (.testComplete p pass) s = .next
      ((s.set F.TEST_RESULT.PASS_MASK pass.toNat p).set F.TEST_RESULT.DONE 1 p))

/-- LANES. Every command and event of a lane completes with its own effect (R158 to R169, R181 to R186, R596). -/
def Obligations.LaneCommandsComplete : Prop :=
  ∀ (s : State) (l : Fin 1024), s.running = true →
    (∀ inverted, s.pstate (s.portOfLane l).1 = 1 → exec (.commaLockGain l inverted) s = .next
      (((s.set F.LANE_STATUS.COMMA_LOCK 1 l).set F.LANE_STATUS.RX_INVERTED (b2n inverted) l).detectExit (s.portOfLane l).1)) ∧
    exec (.commaLockLoss l) s = .next (s.set F.LANE_STATUS.COMMA_LOCK 0 l) ∧
    (∀ cap crc sent, s.pstate (s.portOfLane l).1 = 2 → BitVec.toNat crc = capCrc cap →
      exec (.capSetReceive l cap crc sent) s = .next (s.capTake (s.portOfLane l).1 l cap sent)) ∧
    (∀ ctl converged (req : BitVec 6), s.pstate (s.portOfLane l).1 = 3 →
      (s.f F.PORT_STATE.LANE_SET (s.portOfLane l).1).testBit (s.portOfLane l).2 = true →
      L.TCF.CHECK.get ctl = tcfCheck (ctl.toNat % 2 ^ 28) → exec (.trainingFrameReceive l ctl converged req) s = .next
        (s.frameTake (s.portOfLane l).1 l ctl converged req.toNat)) ∧
    (s.on F.LANE_STATUS.LOS l.val = false → exec (.losAssert l) s = .next
      ((((s.set F.LANE_STATUS.LOS 1 l).cntF F.LANE_LOCK_LOSS_COUNT.LOS l).raise (32 + 2 * (s.portOfLane l).1)).blockLost l)) ∧
    exec (.losClear l) s = .next (s.set F.LANE_STATUS.LOS 0 l) ∧
    exec (.cdrLockLoss l) s = .next (s.cdrLost l) ∧
    (s.sys.frefStopped = [] → exec (.cdrLockGain l) s = .next (s.set F.LANE_STATUS.CDR_LOCK 1 l)) ∧
    (s.on F.LANE_STATUS.CW_LOCK l.val = true → exec (.codewordLockLoss l) s = .next
      (((s.set F.LANE_STATUS.CW_LOCK 0 l).modPort (s.portOfLane l).1 fun x => { x with soak := false }).blockLost l)) ∧
    (s.pstate (s.portOfLane l).1 = 4 → s.on F.LANE_STATUS.CDR_LOCK l.val = true → s.on F.LANE_STATUS.LOS l.val = false →
      s.on F.LANE_STATUS.CW_LOCK l.val = true → (s.set F.LANE_STATUS.BLOCK_LOCK 1 l).pstate (s.portOfLane l).1 = 4 →
      exec (.blockLockGain l) s = .next ((s.set F.LANE_STATUS.BLOCK_LOCK 1 l).widenReady (s.portOfLane l).1)) ∧
    exec (.blockLockLoss l) s = .next (s.blockLost l) ∧
    (s.pstate (s.portOfLane l).1 = 4 → exec (.deskewError l) s = .next (s.trainFail (s.portOfLane l).1 5)) ∧
    (s.pstate (s.portOfLane l).1 = 6 → exec (.deskewError l) s = .next (s.blockLost l)) ∧
    (∀ rq : Requester, rq.reaches = true →
      (s.on F.LANE_PRBS_CFG.GEN_EN l.val = true → s.pstate (s.portOfLane l).1 = 7 → exec (.lanePrbsInject rq l) s = .next
        ((s.wire (s.portOfLane l).1 (.prbs l (s.f F.LANE_PRBS_CFG.PATTERN l) true)).wsRecord rq .ok
          (Reg.offset ⟨.LANE_PRBS_CMD, l.val, 0⟩))) ∧
      exec (.lanePrbsClear rq l) s = .next ((s.wr ⟨.LANE_PRBS_ERRORS, l.val, 0⟩ 0).wsRecord rq .ok (Reg.offset ⟨.LANE_PRBS_CMD, l.val, 0⟩)) ∧
      exec (.laneCal rq l) s = .next ((s.calCmd l).wsRecord rq .ok (Reg.offset ⟨.LANE_CAL_CMD, l.val, 0⟩))) ∧
    (∀ req : BitVec 6, s.pstate (s.portOfLane l).1 = 6 → s.on F.LANE_CFG.REMOTE_TUNE_EN l.val = true →
      (s.f F.PORT_STATE.LANE_SET (s.portOfLane l).1).testBit (s.portOfLane l).2 = true →
      (s.lane l).tuneTick + s.f F.LANE_CFG.REMOTE_TUNE_TICKS l.val ≤ s.turnovers → exec (.remoteTuneRequest l req) s = .next
        ((s.modLane l fun z => { z with tuneTick := s.turnovers }).sendTune (s.portOfLane l).1 (s.portOfLane l).2 (req.toNat * 8))) ∧
    (∀ (p : Fin 256) lcb, s.f F.PORT_STATE.STATE p.val = 6 → reservedBlock (L.LCB.TYPE.get lcb) = false → lcbOk lcb = true →
      exec (.tuneLcbReceive p lcb) s = .next ((List.range 8).foldl (fun s i =>
        let w := Fld.get ⟨16 * i + 39, 16 * i + 24⟩ lcb
        if !(w.testBit 15) then s
        else if w % 8 ≠ 0 then s.sendTune p i 0
        else if w / 8 % 64 = 0 then s
        else s.modLane (laneIx p i) fun z => { z with tuneReq := w / 8 % 64 }) s))

/-- WIDTH AND SERVICE. Every message and time limit of width changes, drains and restores completes with its own effect
(R174 to R179). -/
def Obligations.WidthServiceComplete : Prop :=
  ∀ (s : State) (p : Fin 256), s.running = true → s.pstate p = 6 →
    (∀ m : WidthMsg, (s.port p).width = none → (s.port p).degradeOk = true →
      (widest (s.f F.PORT_CTRL.WIDTH_CFG p == 3) 15 (s.lockedLanes p &&& m.laneSet)).isSome = true →
      exec (.widthReqReceive p m) s = .next
        ((s.modPort p fun x => { x with widthSeq := m.seq % 256 }).widthCommit p
          ⟨if m.reason = 0 then 0 else 1, false, m.seq, s.lockedLanes p &&& m.laneSet, false, false, false, false, false, false⟩)) ∧
    (∀ (m : WidthMsg) w, (s.port p).width = some w → w.seq = m.seq → exec (.widthCommitReceive p m) s = .next (s.commitTake p m w)) ∧
    (∀ m : WidthMsg, (s.port p).width = none → m.laneSet &&& (s.port p).faultLanes = 0 → exec (.widthWidenReceive p m) s = .next
      ((s.modPort p fun x => { x with
        widthSeq := m.seq % 256
        width := some ⟨2, false, m.seq, m.laneSet, false, false, false, false, false, false⟩ }).setLanes
          F.LANE_STATUS.POWERED_DOWN 0 (lanesIn p m.laneSet))) ∧
    (∀ (m : WidthMsg) w, (s.port p).width = some w → w.kind = 2 → w.seq = m.seq → exec (.widthReadyReceive p m) s = .next
      ((s.modPort p fun x => { x with width := some { w with readySeen := true } }).widenCommit p)) ∧
    (∀ w, (s.port p).width = some w → w.ptrCommit = true → w.txDone = true → exec (.widthSwitch p true) s = .next
      (s.widthDone p { w with txDone := true, rxDone := true })) ∧
    (∀ w, (s.port p).width = some w → w.kind = 0 → exec (.degradeTimeout p false) s = .next (s.degradeFail p)) ∧
    (∀ w, (s.port p).width = some w → w.kind = 2 → w.ownCommit = false → w.ptrCommit = false → exec (.widenTimeout p) s = .next
      ((s.modPort p fun x => { x with width := none }).setLanes F.LANE_STATUS.POWERED_DOWN 1
        (lanesIn p (w.set - (w.set &&& s.f F.PORT_STATE.LANE_SET p))))) ∧
    (∀ seq : BitVec 8, s.on F.PORT_STATE.DRAINED p.val = false → exec (.serviceDrainReceive p seq) s = .next
      (s.modPort p fun x => { x with drainPartner := true, leaveNext := true, partnerSeq := seq.toNat })) ∧
    ((s.port p).drainPartner = true → s.portEmpty p = true → exec (.drainAckSend p) s = .next
      (((s.column p 0x84 [2, (s.port p).partnerSeq]).setDrained p).modPort p fun x => { x with
        drainOwn := (s.port p).drainOwn, drainAck := (s.port p).drainAck })) ∧
    (∀ seq : BitVec 8, (s.port p).drainOwn = true → seq.toNat = (s.port p).serviceSeq →
      exec (.serviceDrainAckReceive p seq) s = .next (s.modPort p fun x => { x with drainAck := true })) ∧
    ((s.port p).drainOwn = true → (s.port p).drainAck = true → s.portEmpty p = true → exec (.drainComplete p) s = .next
      ((s.setDrained p).portNotice p 0)) ∧
    (∀ seq : BitVec 8, (s.column p 0x84 [4, seq.toNat]).on F.PORT_STATE.DRAINED p.val = true →
      exec (.serviceRestoreReceive p seq) s = .next ((s.column p 0x84 [4, seq.toNat]).clearDrained p)) ∧
    (∀ seq : BitVec 8, s.on F.PORT_STATE.DRAINED p.val = true → seq.toNat = (s.port p).serviceSeq →
      exec (.serviceRestoreAckReceive p seq) s = .next (s.clearDrained p))

/-- MOVERS AND FUNCTION RESET. Every command of the data movers' channels, and a function's reset, completes with its own effect
(R249, R454 to R467, R618). -/
def Obligations.MoverCommandsComplete : Prop :=
  ∀ (s : State) (m : Fin 16) (c : Fin 32), s.running = true →
    (∀ rq : Requester, s.mvAllows rq = true →
      (firstStatus (s.goChecks m c) = .ok → exec (.chGo rq m c) s = .next
        ((s.chGo m c).wsRecord rq .ok (Reg.offset ⟨.CH_CMD, m.val, c.val⟩))) ∧
      (s.chState m c ≠ 0 → s.chState m c ≠ 4 → exec (.chAbort rq m c) s = .next
        (((s.chanEnd m c 2 false).mvFlush m c).wsRecord rq .ok (Reg.offset ⟨.CH_CMD, m.val, c.val⟩))) ∧
      (s.chState m c = 3 →
        (let t := (s.modChan m c fun x => { x with ending := 0, flush := 0, hole := none, bursts := [], retries := 0 }).set
          F.CH_STATE.STATE 1 m c
         (t.srcSide m c).gs = true → (t.dstSide m c).gs = true → exec (.chResume rq m c) s = .next
           (t.wsRecord rq .ok (Reg.offset ⟨.CH_CMD, m.val, c.val⟩)))) ∧
      (s.chState m c ≠ 0 → exec (.chReset rq m c) s = .next
        (((s.chanEnd m c 4 true).mvFlush m c).wsRecord rq .ok (Reg.offset ⟨.CH_CMD, m.val, c.val⟩)))) ∧
    (∀ b pos bs ck, ((s.chan m c).bursts.find? fun b => b.pos == pos && b.data.isNone) = some b →
      s.on F.CH_DST.GS m.val c.val = false → exec (.moverBurstReadComplete m c pos (.data bs) true ck) s = .next
        ((((s.modChan m c fun x => { x with bursts := x.bursts.map fun (y : Burst) =>
            if y.pos = pos then { y with data := some (s.mvData m c b bs) } else y }).mvDrain 32 m c).mvPump 32 m c ck).mvFlush m c)) ∧
    (∀ ck, s.on F.MV_STATUS.RUNNING m.val = false → s.mvNext m = some c.val → exec (.moverChannelStart m ck) s = .next
      ((((((s.set F.MV_STATUS.CHANNEL c m).set F.MV_STATUS.RUNNING 1 m).set F.CH_STATE.STATE 2 m c).mvLockWait m c).mvPump 32 m
        c ck))) ∧
    (s.mvRunning m = some c.val → s.chState m c = 2 → ((s.mvLockTake m c).lock.waiters.any fun w => w.ident == channelIdent m c) = true →
      exec (.moverLockRetry m) s = .next ((s.mvLockTake m c).mvPump 32 m c 0)) ∧
    (∀ ok, s.mvWritten m c = true → s.on F.CH_DST.GS m.val c.val = true →
      exec (.moverChannelFinish m c ok) s = .next (s.mvConfirmed m c)) ∧
    (∀ f : Fin 4096, s.fnAssigned f = true → exec (.functionReset f) s = .next (s.fnReset f)) ∧
    (∀ f : Fin 4096, s.inReset f.val = true →
      exec (.functionResetComplete f) s = .next (s.set F.FUNC_STATUS.RESET_IN_PROGRESS 0 f))

/-- LANTERN. Every command of power, clocks, rails and thermal protection completes with its own effect (R496 to R507). -/
def Obligations.LanternCommandsComplete : Prop :=
  ∀ s : State, s.running = true →
    (∀ (p : Fin 256) set, s.narrower p = some set → s.narrowOn p = true →
      s.f F.LN_NARROW.NARROW_TICKS ≤ (s.port p).narrowRun → (s.port p).width = none → s.on F.LN_CTRL.NARROW_FREEZE = false →
      exec (.laneNarrowRequest p) s = .next ((s.modPort p fun x => { x with narrowRun := 0 }).widthRequest p 1 set)) ∧
    (s.on F.LN_STATUS.UNMET = false → s.f F.LN_MISC.UNMET_TICKS ≤ s.lantern.unmetRun → exec .powerLimitUnmet s = .next
      (((s.set F.LN_STATUS.UNMET 1).cnt .POWER_LIMIT_UNMET_COUNT).occur 11 .powerLimitUnmet 0 0 0)) ∧
    (s.on F.LN_STATUS.SAFE_CLOCKS = false → s.f F.LN_MISC.OVERRUN_SAFE ≤ s.lantern.lateRun → exec .safeClocks s = .next
      ((((List.range 16).foldl (fun s m => s.set F.MV_TOKENS.ALLOT (s.f F.LN_MV_FLOOR.MV_ALLOT_FLOOR m) m)
        ((List.range 64).foldl (fun s c =>
          ((s.set F.LN_CL_STATUS.CODE (s.f F.LN_CL_FREQ.F_MIN c) c).set F.LN_CL_STATUS.RISE_PENDING 0 c).set F.CL_TOKENS.ALLOT
            (s.f F.LN_CL_FREQ.ALLOT_FLOOR c) c) s)).modLantern fun x => { x with rises := [] }).set F.LN_STATUS.SAFE_CLOCKS 1)) ∧
    (∀ reads, exec (.pmbusPoll reads) s = .next (reads.foldl (fun s r => s.gainUpdate r.1 r.2) s)) ∧
    (∀ d : Fin 13, (s.lantern.rises.any fun r => r.1 / 16 == d.val) = true → s.lantern.settled.contains d.val = false →
      exec (.avsSettled d) s = .next (s.modLantern fun x => { x with settled := d.val :: x.settled })) ∧
    (∀ d : Fin 13, (s.lantern.rises.filter fun r => r.1 / 16 == d.val).isEmpty = false → s.lantern.settled.contains d.val = false →
      s.f F.LN_MISC.V_SETTLE_TICKS ≤ mget s.lantern.riseWait d.val 0 → exec (.vSettleTimeout d) s = .next
        (((((s.lantern.rises.filter fun r => r.1 / 16 == d.val).foldl (fun s r => s.set F.LN_CL_STATUS.RISE_PENDING 0 r.1) s).modLantern
          fun x => { x with
            rises := x.rises.filter fun r => r.1 / 16 != d.val, riseWait := mdel x.riseWait d.val
            settled := x.settled.filter (· != d.val) }).cnt .V_SETTLE_FAIL_COUNT).dieOccur d d)) ∧
    (∀ k : Fin 208, s.lantern.excluded.contains k.val = false → exec (.thermalTrip k) s = .next (s.tripNow k))

/-- EXPANSION BUS, ports. Links, requests, DPC, IDE and PTM of the PCIe ports complete with their own effect (R469 to R493). -/
def Obligations.PciePortCommandsComplete : Prop :=
  ∀ (s : State) (n : Fin 40), s.running = true →
    exec (.dpcTrigger n 3) s = .next (s.dpcEnter n 3) ∧
    ((s.bridge n).dpcSurprise = true → exec (.dpcTrigger n 1) s = .next (s.dpcEnter n 1)) ∧
    (0 < (s.bridge n).dpcTrigger → exec (.dpcTrigger n 0) s = .next (s.dpcEnter n 0)) ∧
    (s.on F.EB_PORT_CFG.SYN_DPC n.val = true → exec (.dpcTrigger n 2) s = .next (s.dpcEnter n 2)) ∧
    (s.on F.EB_PORT_STATUS.DPC_ACTIVE n.val = true → exec (.dpcTriggerStatusClear n) s = .next
      (((s.set F.EB_PORT_STATUS.DPC_ACTIVE 0 n).set F.DG_PCIE.DPC (clrBit (s.f F.DG_PCIE.DPC) n)).emit (.pcie n .linkRetrain))) ∧
    (∀ (reqId : BitVec 16) (tag : BitVec 14), s.hpRole n = 2 → s.on F.EB_PORT_CFG.SYN_STATUS n.val = true →
      (s.pcie.out.any fun x => x.egress == n.val && x.reqId == reqId.toNat && x.tag == tag.toNat) = true →
      (let u := (((s.pendDrop (fun x => x.egress == n.val && x.reqId == reqId.toNat && x.tag == tag.toNat) fun _ => cplAbort).cnt
          .SYN_CPL_COUNT n).set F.EB_PORT_STATUS.CPL_TIMEOUT_SEEN 1 n).hpNotice n 0
       exec (.switchCompletionTimeout n reqId tag) s = .next (if u.on F.EB_PORT_CFG.SYN_DPC n then u.dpcEnter n 2 else u))) ∧
    (∀ t, s.on F.EB_PORT_STATUS.LINK_UP n.val = true → s.pcie.insecure.contains n.val = false →
      (s.on F.EB_PORT_STATUS.IDE_SECURE n.val = false ∨ t.integrity = true) →
      exec (.tlpReceive n t none) s = .next (s.tlpIn n t)) ∧
    (s.hpRole n ≠ 0 → exec (.ideKmMessage n true) s = .next
      (((s.set F.EB_PORT_STATUS.IDE_SECURE 1 n).modPcie fun x => { x with insecure := x.insecure.filter (· != n.val) }).emit
        (.pcie n .keyed))) ∧
    (∀ (p : Fin 16) (vfunc : Fin 256) t u, s.upPort p = some u →
      (firstNat 256 fun k => s.svfLive k && s.f F.SVF_CTRL.PARTITION k == p.val && s.f F.SVF_CTRL.VFUNC k == vfunc.val) = some 0 →
      t.kind = .cfgRead → t.addr < 0x40 → exec (.sharedVfConfigRequest p vfunc t) s = .next
        (s.tlpSend u (t.answer cplSuccess (leBytes 4 (s.svfHeader 0 (t.addr / 4 * 4)))))) ∧
    (∀ sense speed width flit, s.hpMayLink n = true → Fin.val speed ≤ s.f F.EB_PORT_CFG.MAX_SPEED n.val → 2 ^ Fin.val width ≤ s.hpLanes n →
      PortSense.present sense = true → sense.active = false → s.on F.EB_PORT_STATUS.PRESENT n.val = false →
      (s.set F.EB_PORT_STATUS.PRESENT 1 n).hpRole n = 2 → exec (.pcieLinkUp n sense speed width flit) s = .next
        ((s.set F.EB_PORT_STATUS.PRESENT 1 n).slotNotice n true false)) ∧
    (∀ sense, s.hpRole n = 2 → PortSense.present sense = false → sense.active = true → s.on F.EB_PORT_STATUS.PRESENT n.val = true →
      exec (.hotplugPresenceChange n sense) s = .next ((s.set F.EB_PORT_STATUS.PRESENT 0 n).slotNotice n true false)) ∧
    (s.hpRole n = 2 → s.hpPresent n = true → n.val ∉ s.pcie.devPerst → exec (.devPerstRelease n) s = .next
      ((s.modPcie fun x => { x with devPerst := n.val :: x.devPerst }).emit (.pin (.devPerstN n) true))) ∧
    (∀ ck, s.hpRole n = 2 → s.on F.EB_PORT_STATUS.LINK_UP n.val = true → s.hpShared n = true →
      exec (.ptmRequestReceive n ck) s = .next (s.emit (.ptm n (nsOf (s.ctrAt ck)))))

/-- EXPANSION BUS, partitions. Partitions, their resets and readiness, and shared virtual functions complete with their own
effect (R475, R476, R481, R546, R554, R575). -/
def Obligations.PartitionCommandsComplete : Prop :=
  ∀ (s : State) (p : Fin 16), s.running = true →
    (∀ (rq : Requester) v, rq.manages = true → s.partCfgCheck p v = .ok → setsRsv RegName.EB_PART_CFG.desc.fields v = false →
      exec (.partitionEnable rq p v) s = .next ((s.partCfgWrite p v).wsRecord rq .ok (Reg.offset ⟨.EB_PART_CFG, p.val, 0⟩))) ∧
    (∀ u, s.upPort p = some u → exec (.partitionReset p 0) s = .next (s.partReset p u)) ∧
    (∀ u, s.upPort p = some u → exec (.partitionReset p 1) s = .next (s.partReset p u)) ∧
    (p.val ∉ s.pcie.perstUp → exec (.hostPerstRelease p) s = .next
      ((s.modPcie fun x => { x with perstUp := p.val :: x.perstUp }).nfWindow p)) ∧
    (mget s.pcie.nf p.val 0 = 1 → exec (.nfReady p) s = .next (s.modPcie fun x => { x with nf := mset x.nf p.val 2 })) ∧
    (∀ (rq : Requester) (k : Fin 256), rq.manages = true → exec (.svfDisable rq k) s = .next
      ((s.svfDisable k).wsRecord rq .ok (Reg.offset ⟨.SVF_CTRL, k.val, 0⟩)))

/-- FAULTS AND THE MIRROR. Faults, forced faults, the clearing of status bits, banks and the mirror complete with their own
effect (R510 to R526, R530, R531). -/
def Obligations.FaultCommandsComplete : Prop :=
  ∀ s : State, s.running = true →
    (∀ k : Fin 128, (s.bank k).restoring = true → s.flt.bankQueue.contains k.val = false →
      exec (.bankRestoreComplete k) s = .next ((s.releaseBank k).nextRetire (k / 32))) ∧
    (∀ (rq : Requester) v, s.takesWrites rq = true → rq.manages = true → s.mirrorCheck (F.MIRROR_CFG.MIRROR_EN.fld.set v 1) = .ok →
      exec (.mirrorEnable rq v) s = .next
        ((s.mirrorWrite (F.MIRROR_CFG.MIRROR_EN.fld.set v 1)).wsRecord rq .ok (Reg.offset ⟨.MIRROR_CFG, 0, 0⟩))) ∧
    (s.flt.mirrorCopying = true → exec .mirrorSyncComplete s = .next
      (((s.emit (.mirrorCopy (s.f F.MIRROR_CFG.MIRROR_FUNC) (s.f F.MIRROR_BASE.BASE * 4096))).set
        F.MIRROR_CFG.MIRROR_SYNCED 1).modFlt fun f => { f with mirrorCopying := false })) ∧
    (s.on F.MIRROR_CFG.MIRROR_EN = true → exec .mirrorWriteError s = .next
      (s.occur 29 .ok 0 (s.f F.MIRROR_BASE.BASE * 4096) 0 State.mirrorError)) ∧
    (∀ src i, exec (.faultOccurrence src i) s = .next (s.faultOccur src false i)) ∧
    (∀ (rq : Requester) (src : BitVec 11) act, s.takesWrites rq = true → forceCheck rq src.toNat act = .ok →
      exec (.faultForce rq src act) s = .next ((s.forceFault src.toNat act).wsRecord rq .ok (Reg.offset ⟨.FAULT_FORCE, 0, 0⟩))) ∧
    (∀ (rq : Requester) (w : Fin 19) v, s.takesWrites rq = true → rq.manages = true → s.statusClearCheck w v = .ok →
      exec (.faultStatusClear rq w v) s = .next ((s.statusClear w v).wsRecord rq .ok (Reg.offset ⟨.FAULT_STATUS, w.val, 0⟩)))

/-- RESETS AND BOOT. Cold reset on each of its causes, its end on each return, clock losses, secure boot, the warm reset and the
engine and port resets complete with their own effect (R535 to R554, R593, R596). -/
def Obligations.ResetCommandsComplete : Prop :=
  ∀ s : State,
    exec .sysResetAssert s = .next ((s.modSys fun x => { x with sysResetN := false }).coldReset 1) ∧
    exec .railUndervoltage s = .next ((s.modSys fun x => { x with railOk := false }).coldReset 0) ∧
    exec .sprefLoss s = .next ((s.modSys fun x => { x with sprefOk := false }).coldReset 1) ∧
    (∀ x, exec (.sysResetRelease x) s = .next ((s.modSys fun y => { y with sysResetN := true }).coldEnd x)) ∧
    (∀ x, s.sys.railOk = false → exec (.railRecovery x) s = .next ((s.modSys fun y => { y with railOk := true }).coldEnd x)) ∧
    (∀ x, s.sys.sprefOk = false → exec (.sprefReturn x) s = .next ((s.modSys fun y => { y with sprefOk := true }).coldEnd x)) ∧
    (∀ k : Fin 8, s.running = true → s.sys.frefStopped.contains k.val = false → exec (.frefLoss k) s = .next
      ((List.range 128).foldl (fun s i => s.cdrLost (128 * k + i)) (s.modSys fun x => { x with frefStopped := k.val :: x.frefStopped }))) ∧
    (∀ k : Fin 8, exec (.frefReturn k) s = .next (s.modSys fun x => { x with frefStopped := x.frefStopped.filter (· != k.val) })) ∧
    (∀ a b k im, s.sys.coldHold = false → s.f F.BOOT_STATUS.STATE = 1 → s.bootSlot a b = some (k, im) →
      exec (.secureBoot a b) s = .next
        ((((s.set F.BOOT_STATUS.SLOT k).set F.BOOT_STATUS.SVN im.svn).modSys fun x => { x with image := some im }).loadSlot im)) ∧
    (∀ a b, s.sys.coldHold = false → s.f F.BOOT_STATUS.STATE = 1 → s.bootSlot a b = none →
      exec (.secureBoot a b) s = .next ((s.set F.BOOT_STATUS.STATE 3).set F.BOOT_STATUS.FAIL 1)) ∧
    (∀ tests, s.sys.coldHold = false → exec (.pldmResetRequest tests) s = .next (s.warmReset 3 tests)) ∧
    (∀ rq : Requester, s.takesWrites rq = true →
      (∀ tests, rq.manages = true → exec (.rstWarm rq tests) s = .next
        ((s.warmReset 2 tests).wsRecord rq .ok (Reg.offset ⟨.RST_CMD, 0, 0⟩))) ∧
      (∀ e : Fin 512, rq.manages = true → s.on F.ENG_STATUS.FENCED e.val = false → s.running = true →
        exec (.rstEngine rq e) s = .next ((s.engineReset e).wsRecord rq .ok (Reg.offset ⟨.RST_CMD, 0, 0⟩))) ∧
      (∀ p : Fin 256, rq.manages = true → s.inService p = false → s.running = true →
        exec (.rstPort rq p) s = .next ((s.portReset p).wsRecord rq .ok (Reg.offset ⟨.RST_CMD, 0, 0⟩))) ∧
      (rq.reaches = true → exec (.repairClear rq) s = .next
        ((s.modFlt fun f => { f with repairErase := true }).wsRecord rq .ok (Reg.offset ⟨.REPAIR_CMD, 0, 0⟩))))

/-- MANAGEMENT. Events, counters, modules, MCTP, PLDM and Delholt complete with their own effect (R557 to R571). -/
def Obligations.ManagementCommandsComplete : Prop :=
  ∀ s : State, s.sys.coldHold = false →
    (∀ (rq : Requester) (src : BitVec 11), s.takesWrites rq = true → evForceCheck rq src.toNat = .ok →
      exec (.evForce rq src) s = .next ((s.raise src.toNat).wsRecord rq .ok (Reg.offset ⟨.EV_FORCE, 0, 0⟩))) ∧
    (∀ (rq : Requester), s.takesWrites rq = true → rq.reaches = true →
      (∀ (i : Fin 144) v, pcSelBad i v = false → exec (.pcSelWrite rq i v) s = .next
        ((s.wrTick ⟨.PC_SEL, i.val, 0⟩ v).wsRecord rq .ok (Reg.offset ⟨.PC_SEL, i.val, 0⟩))) ∧
      (∀ run, exec (.pcRun rq run) s = .next ((s.pcRun (b2n run)).wsRecord rq .ok (Reg.offset ⟨.PC_CTRL, 0, 0⟩))) ∧
      exec (.pcSnap rq) s = .next (s.pcSnap.wsRecord rq .ok (Reg.offset ⟨.PC_CTRL, 0, 0⟩)) ∧
      (∀ (i : Fin 144) v, setsRsv RegName.PC_VALUE.desc.fields v = false → exec (.pcValueWrite rq i v) s = .next
        ((s.wr ⟨.PC_VALUE, i.val, 0⟩ v).wsRecord rq .ok (Reg.offset ⟨.PC_VALUE, i.val, 0⟩)))) ∧
    (∀ polls, exec (.modulePoll polls) s = .next (polls.foldl (fun s q => s.modulePoll q) s)) ∧
    (∀ (m : Fin 16) polls, exec (.modIntFall m polls) s = .next
      ((polls.filter fun q => s.f F.MOD_SITE.MASTER q.1 == m.val).foldl (fun s q => s.modulePoll q) s)) ∧
    (∀ path reply, s.pathOpen (Fin.val path) = true → exec (.mctpMessage path reply) s = .next (s.emit (.mgmt path reply))) ∧
    (∀ path (k : BitVec 16) q, s.pathOpen (Fin.val path) = true → isSensor k.toNat = true → s.sensor k.toNat = some q →
      exec (.pldmGetTelemetry path k) s = .next (s.emit (.mgmt path (leBytes 64 (s.telemetry k.toNat q.1 q.2).toNat)))) ∧
    (∀ (slot : Fin 2) im, s.sys.image = none → (s.emit (.flash slot (some im))).imageValid im = true →
      exec (.pldmFirmwareUpdate slot im) s = .next ((s.emit (.flash slot (some im))).modSys fun x => { x with activation := some im })) ∧
    (∀ (seq : BitVec 32) r, mfind s.flt.log (seq.toNat % 1024) = some r → L.FLR.SEQ.get r = seq.toNat →
      s.flt.ackedSeq.contains seq.toNat = false → exec (.pldmEventAck seq) s = .next
        (s.modFlt fun f => { f with ackedSeq := f.ackedSeq ++ [seq.toNat] })) ∧
    (∀ (dst : BitVec 48) listed frame, s.on F.DH_STATUS.LINK_UP = true → dst.toNat = s.f F.DH_MAC.MAC →
      exec (.delholtFrameReceive dst listed frame) s = .next
        { s with mgmt := { s.mgmt with frames := s.mgmt.frames ++ [frame] } }) ∧
    (∀ an, s.on F.DH_CFG.MODE = true → s.rd ⟨.DH_STATUS, 0, 0⟩ ≠ BitVec.ofNat 64 (2 * b2n an + 4) →
      exec (.delholtLinkChange true an 0) s = .next ((s.wr ⟨.DH_STATUS, 0, 0⟩ (BitVec.ofNat 64 (2 * b2n an + 4))).raise 1627))

/-- REGISTER ACCESS AND THE TURNOVER. Register writes, WRITE_STATUS reads, the Groundsheet window, requests to a function's BARs
and the turnover complete with their own effect (R12, R14, R31, R477, R577 to R589, R605). -/
def Obligations.AccessCommandsComplete : Prop :=
  ∀ s : State, s.running = true →
    (∀ (rq : Requester) off size v, rq.reaches = true → s.warmWrite rq .device off size v = false → accessOk off size = true →
      exec (.registerWrite rq .device off size v) s = .next (s.deviceWrite rq off size v)) ∧
    (∀ (f : Fin 4096) off size v, s.warmWrite (.func f) .own off size v = false → accessOk off size = true →
      exec (.registerWrite (.func f) .own off size v) s = .next (s.ownWrite f off size v)) ∧
    (∀ rq, exec (.writeStatusRead rq) s = .next (s.emit (.regRead rq (s.ws rq)))) ∧
    (∀ (off : Fin 268435456) bs, off.val / gsSize % 4 = 0 → hostWritable (off.val % gsSize) = true →
      hostWritable (off.val % gsSize + bs.length - 1) = true → exec (.groundsheetWindowWrite off bs) s = .next
        ((s.gsStore none (off.val % gsSize) bs).wsRecord (.func ⟨fmf, by decide⟩) .ok off)) ∧
    (∀ (f : Fin 4096) off t aop port, s.fnPort f = some port → barHas f 0 off = true → t.kind = .memWrite → t.ep = false →
      exec (.nfBarRequest f 0 off t aop) s = .next (s.outerWrite (.func f) .own off t.data.length
        (BitVec.ofNat 64 (leNat (t.data.take 8))))) ∧
    (∀ (f : Fin 4096) off t aop port, s.fnPort f = some port → barHas f 0 off = true → t.kind = .memRead →
      exec (.nfBarRequest f 0 off t aop) s = .next
        ((s.ownRead f off t.len).1.barData port t (leBytes t.len (s.ownRead f off t.len).2))) ∧
    (∀ i, exec (.turnover i) s = .next (s.turnover i))

/-- THE QUEUE. A step takes the command at the front of the queue and answers what exec answers for it on the state with the
queue's rest (assumption 2: the model's queue of commands). -/
def Obligations.StepRunsFront : Prop :=
  ∀ (s : State) (c : Instr) (rest : List Instr), step { s with pending := c :: rest } = exec c { s with pending := rest }

/-- THE QUEUE. With no command waiting a step leaves the state as it is (assumption 2: the model's choice, no rule of the
spec). -/
def Obligations.IdleStepChangesNothing : Prop :=
  ∀ s : State, s.pending = [] → step s = .next s

/-- EVERY STEP. From any state whose memory is canonical, a step gives a state whose memory is canonical; it takes exactly the
front of the queue, draws free values in turn, and takes back nothing that has left the part. -/
def Obligations.EveryStepKeepsForm : Prop :=
  ∀ s t : State, Safety.MemCanonical s → step s = .next t →
    Safety.MemCanonical t ∧ t.pending = s.pending.tail ∧ s.draws ≤ t.draws ∧ s.out <+: t.out

/-- EVERY STEP, its start: the state after reset has a canonical memory, in which nothing is listed, and an empty queue. -/
def Obligations.ResetHasForm : Prop :=
  Safety.MemCanonical State.reset ∧ State.reset.mem = [] ∧ State.reset.pending = [] ∧ Safety.QueueWf State.reset

/-- RESET VALUES. Fields of registers of every block hold at reset the values their field tables give (R586), each instance of
an indexed register alike. -/
def Obligations.ResetRegisterValues : Prop :=
  let v (g : RegFld) (n : Nat) : Prop := ∀ i j, State.reset.f g i j = n
  v F.RP_CONTROL.MAX_STRATUM 15 ∧ v F.RP_STATUS.STRATUM 255 ∧ v F.RP_SERVO.PHASE_TICKS 32 ∧ v F.DIM_CFG.SIZE 2 ∧
    v F.ROUTE_CONTROL.HOP_LIMIT 24 ∧ v F.DR_CFG.DATELINE_POS 63 ∧ v F.MARK_CFG.K_MIN 130 ∧ v F.MARK_CFG.K_MAX 8192 ∧
    v F.HOT_CFG.HOT_COOL 16 ∧ v F.TC_BUF.ALPHA_INIT 16 ∧ v F.PORT_SCHED.CT_ENABLE 0xFF ∧ v F.PORT_CTRL.MAX_RATE 2 ∧
    v F.PORT_TRAIN_CFG.NEG_TIMEOUT_MS 10 ∧ v F.LANE_CFG.EYE_WINDOW 512 ∧ v F.LANE_STATUS.LOS 1 ∧ v F.LL_CFG.REPLAY_TICKS 2 ∧
    v F.LL_STATUS.ACKED 0xFFFF ∧ v F.FUNC_CFG.FETCH_DEPTH 8 ∧ v F.RING_CFG.LOG2SIZE 6 ∧ v F.TP_CC_CFG.W_INIT 64 ∧
    v F.TP_RTO_CFG.RTO_INIT 64 ∧ v F.MATCH_CFG.EAGER_LIMIT 8192 ∧ v F.COLL_CFG.STAGE_LIMIT 65536 ∧ v F.CL_CFG.RESERVE_P0 4 ∧
    v F.SAMPLE_CFG.PERIOD_EXP 12 ∧ v F.XL_CTRL.CPL_TIMEOUT_MS 16 ∧ v F.CH_CTRL.RETRY 3 ∧ v F.EB_PORT_CFG.MAX_SPEED 6 ∧
    v F.SVF_CTRL.BAR_LOG2 12 ∧ v F.LN_LIMITS.P_SUST 1600 ∧ v F.LN_THERMAL.T_CRIT 105 ∧ v F.FAULT_CTRL.WATCHDOG_CK 262144 ∧
    v F.DG_HUB.SPARE_BANKS_LEFT 2 ∧ v F.EV_ROUTE.DEST 1 ∧ (∀ p, State.reset.f F.EB_PART_CFG.HOME_HUB p = p / 4 % 4) ∧
    ∀ r, State.reset.rd r = r.reset

/-- MEMORY FRAME. A command that stores nothing (Safety.storesNothing names them: 101 commands of every family) leaves every
byte of the Groundsheet and of the engines' local memory as it was. -/
def Obligations.StorelessCommandsKeepMemory : Prop :=
  ∀ (c : Instr) (s t : State), Safety.storesNothing c = true → exec c s = .next t → ∀ a, memGet t.mem a = memGet s.mem a

/-- COLD RESET. While the part is held in cold reset no command has any effect but those that move a reset pin, a rail or a
reference (Safety.pinEvent names them), and only the release of SYS_RESET_N or the return of a rail or of SPREF ends the
hold. -/
def Obligations.ColdResetOverrides : Prop :=
  ∀ (c : Instr) (s : State), s.sys.coldHold = true →
    (Safety.pinEvent c = false → exec c s = .next s) ∧
    (∀ t, exec c s = .next t → Safety.endsColdReset c = false → t.sys.coldHold = true)

/-- THE SAFE STATE. In the safe state fabric ports, the switch core, engines, movers and combiners are stopped: no command acts
but those of the service processor, the fault log, resets and pins (Safety.actsInSafeState names them). -/
def Obligations.SafeStateStops : Prop :=
  ∀ (c : Instr) (s : State), s.on F.FAULT_SUMMARY.SAFE_STATE = true → Safety.actsInSafeState c = false → exec c s = .next s

/-- NO STOP. Every command, on every state and all operands, ends in a next state: none faults and none is refused. -/
def Obligations.NoCommandStops : Prop :=
  ∀ (c : Instr) (s : State), ∃ t, exec c s = .next t

/-- THE GROUNDSHEET. Bytes put at an offset of a bank that serves, and that do not run past the end, read back as they were
put, and every other byte of memory reads as before (R26, R28). -/
def Obligations.GroundsheetReadsWhatWasPut : Prop :=
  ∀ (s : State) (off : Nat) (bs : List Byte), Safety.MemCanonical s → off % gsSize + bs.length ≤ gsSize →
    (s.bank (bankOf (off % gsSize))).fromMirror = false →
    (s.gsPuts off bs).gsGets off bs.length = bs ∧
    ∀ a, a < off % gsSize ∨ off % gsSize + bs.length ≤ a → memGet (s.gsPuts off bs).mem a = memGet s.mem a

/-- HCRC. A network header with its HCRC recomputed passes the check, and no other bit of the header has changed (R87, R88). -/
def Obligations.RecomputedHeaderPasses : Prop :=
  ∀ net : BitVec 256, hcrcOk (withHcrc net) = true ∧ (withHcrc net).toNat % 2 ^ 240 = net.toNat % 2 ^ 240 ∧ hcrcOf net < 2 ^ 16

/-- LCBs. A link control block the part makes has its TYPE and TICK, and the fields of its kind, where R195 lays them, and
passes the receiver's check of its CRC (R195). -/
def Obligations.MadeBlockPasses : Prop :=
  ∀ ty tick v : Nat, lcbOk (mkLcb ty tick v) = true ∧ L.LCB.TYPE.get (mkLcb ty tick v) = ty % 2 ^ 8 ∧
    L.LCB.TICK.get (mkLcb ty tick v) = tick % 2 ^ 16 ∧ (mkLcb ty tick v).toNat / 2 ^ 24 % 2 ^ 456 = v / 2 ^ 24 % 2 ^ 456

/-- WRITE_STATUS. Recording a write's status sets LAST_STATUS; a rejection sets REJECTED and, where none stood, records the
first status and offset; nothing else in the state changes (R588). -/
def Obligations.WriteStatusRecords : Prop :=
  ∀ (s : State) (rq : Requester) (st : Status) (off : Nat), let t := s.wsRecord rq st off
    F.WRITE_STATUS.LAST_STATUS.fld.get (t.ws rq) = st.code ∧
    (st = .ok → F.WRITE_STATUS.REJECTED.fld.get (t.ws rq) = F.WRITE_STATUS.REJECTED.fld.get (s.ws rq)) ∧
    (st ≠ .ok → F.WRITE_STATUS.REJECTED.fld.get (t.ws rq) = 1) ∧
    ((st = .ok ∨ F.WRITE_STATUS.REJECTED.fld.on (s.ws rq) = true) →
      F.WRITE_STATUS.FIRST_STATUS.fld.get (t.ws rq) = F.WRITE_STATUS.FIRST_STATUS.fld.get (s.ws rq) ∧
      F.WRITE_STATUS.FIRST_OFFSET.fld.get (t.ws rq) = F.WRITE_STATUS.FIRST_OFFSET.fld.get (s.ws rq)) ∧
    (st ≠ .ok → F.WRITE_STATUS.REJECTED.fld.on (s.ws rq) = false →
      F.WRITE_STATUS.FIRST_STATUS.fld.get (t.ws rq) = st.code ∧ F.WRITE_STATUS.FIRST_OFFSET.fld.get (t.ws rq) = off % 2 ^ 32) ∧
    (∀ q, q ≠ rq → t.ws q = s.ws q) ∧ { t with wstat := s.wstat } = s

/-- REGISTER WRITES. A write of a plain register that breaks any of its rules is rejected whole: its status is recorded and
every register and all else stays as it was; one that breaks none is stored and records OK (R12, R14, R605). -/
def Obligations.PlainWriteStoresOrRejects : Prop :=
  ∀ (s : State) (rq : Requester) off size w r, s.running = true → rq.reaches = true → s.warmWrite rq .device off size w = false →
    accessOk off size = true → devTarget s (off / 8 * 8) = .reg r false → r.name ≠ .WRITE_STATUS →
    (let v := accessValue off size (s.rd r) w r.name.desc.fields
     servedCommand rq r off v = none → devCommand rq r off v = none →
     (s.plainCheck rq r v = .ok → exec (.registerWrite rq .device off size w) s = .next ((s.regStore r v).wsRecord rq .ok off)) ∧
     (s.plainCheck rq r v ≠ .ok → exec (.registerWrite rq .device off size w) s = .next (s.wsRecord rq (s.plainCheck rq r v) off)) ∧
     (s.regDenied rq r = false → r.name ≠ .EV_ROUTE → s.regState r v = false →
       (setsRsv r.name.desc.fields v = true ∨ s.regBad r v = true) → s.plainCheck rq r v = .badValue))

/-- LOCKS. A RELEASE by the owner clears ABANDONED and passes the word to the waiter of highest priority, the earliest among
equals, or makes it free; any other RELEASE is dropped and counted (R438). -/
def Obligations.ReleasePassesLock : Prop :=
  ∀ (s : State) (off ident data : Nat), Safety.MemCanonical s → off + 8 ≤ gsSize →
    (s.bank (bankOf off)).fromMirror = false →
    let ws := s.lock.waiters.filter fun w => w.off == off
    let prio (w : LockWaiter) : Nat := (s.unboost off).identPrio w.ident
    (data = ident → s.lockWord off % 2 ^ 32 = ident →
      (ws = [] → (s.lockRelease off ident data).lockWord off = 0 ∧ off ∉ (s.lockRelease off ident data).lock.owned) ∧
      (ws ≠ [] → ∃ (i : Nat) (w : LockWaiter), ws[i]? = some w ∧
        (∀ j v, ws[j]? = some v → prio w < prio v ∨ (prio w = prio v ∧ i ≤ j)) ∧
        (s.lockRelease off ident data).lockWord off = w.ident % 2 ^ 64 ∧
        ∀ v ∈ (s.lockRelease off ident data).lock.waiters, v.off = off → v.ident ≠ w.ident)) ∧
    (data ≠ ident ∨ s.lockWord off % 2 ^ 32 ≠ ident → s.lockRelease off ident data = s.cnt .LOCK_MISUSE_COUNT)

/-- CORMEL, results. Where no sampling and no performance counting runs, an integer instruction leaves its thread with the
result in Rd (none where Rd is G0), the PC four on, one instruction and one cycle more, and nothing else in it changed; the
other threads, the memory, what has left the part, and every register but the cluster's token count stay as they were
(R376, R379, R385; the cycle of each instruction is assumption 15). -/
def Obligations.CormelIntegerResults : Prop :=
  ∀ (s : State) (t : ThreadId) (x : Thread) (w : Nat), Safety.Issues s t x w → (x.rp (wPred w)).testBit 0 = true →
    s.on F.SAMPLE_CFG.SAMPLE_EN t.engine = false → s.ona F.PC_CTRL.RUN = false →
    ∀ (m : Nat) (c : Instr) (v : Nat),
      (m, c, v) ∈ [(0x01, .alu t, aluOp (wFn w) (x.rg (wRa w)) (x.rg (wRb w))), (0x02, .addi t, x.rg (wRa w) + wImmS w),
        (0x03, .andi t, x.rg (wRa w) &&& wImm w), (0x04, .ori t, x.rg (wRa w) ||| wImm w), (0x05, .xori t, x.rg (wRa w) ^^^ wImm w),
        (0x06, .shifti t, aluOp (6 + w / 2 ^ 6 % 4) (x.rg (wRa w)) (w % 64)), (0x07, .lui t, wImm18S w * 2 ^ 13),
        (0x08, .muldiv t, mulDivOp (wFn w) (x.rg (wRa w)) (x.rg (wRb w)))] →
      wMajor w = m → ∃ u, exec c s = .next u ∧
        u.thread t = some { x.setG (wRd w) v with
          pc := (x.pc + 4) % 2 ^ 48, count := x.count + 1, cycles := x.cycles + 1, stall := 0, ready := none, wait := .none
          preempted := x.preempted || x.marked, marked := false } ∧
        (∀ k, k ≠ t → u.thread k = s.thread k) ∧ u.mem = s.mem ∧ u.out = s.out ∧
        (∀ r, r ≠ ⟨.CL_TOKENS, t.engine.val / 8, 0⟩ → u.rd r = s.rd r)

/-- CORMEL, JAL and JALR write the address of the next instruction to Rd and go to their target; a JALR target whose bits 1:0
are not zero raises the misaligned exception at the JALR (R386), whose status is BAD_VALUE and whose EADDR is the target
(R400). -/
def Obligations.JumpsLinkOrMisalign : Prop :=
  ∀ (s : State) (t : ThreadId) (x : Thread) (w : Nat), Safety.Issues s t x w → (x.rp (wPred w)).testBit 0 = true →
    let u := Safety.unyield s t
    (wMajor w = 0x21 → exec (.jal t) s = .next (u.jump t w (x.pc + wOff18 w) fun y => y.setG (wRd w) (x.pc + 4))) ∧
    (wMajor w = 0x22 → x.ea w = (x.rg (wRa w) + wImmS w) % 2 ^ 64) ∧
    (wMajor w = 0x22 → x.ea w % 4 ≠ 0 → exec (.jalr t) s = .next (u.except t .badValue (x.ea w))) ∧
    (wMajor w = 0x22 → x.ea w % 4 = 0 → x.ea w < 2 ^ 48 → exec (.jalr t) s = .next
      (u.jump t w (x.ea w) fun y => y.setG (wRd w) (x.pc + 4))) ∧
    (s.on F.SAMPLE_CFG.SAMPLE_EN t.engine = false → s.ona F.PC_CTRL.RUN = false → ∀ a,
      ∃ y, (u.jump t w a fun y => y.setG (wRd w) (x.pc + 4)).thread t = some y ∧ y.pc = a % 2 ^ 48 ∧
        y.g = (x.setG (wRd w) (x.pc + 4)).g)

/-- TIME. The tick number is the low 48 bits of the fabric time in ns divided by 1,000, whole (R30). -/
def Obligations.TickNumberOfTime : Prop :=
  ∀ s : State, s.time.ctr < 2 ^ 112 → s.tick = nsOf s.time.ctr / 1000 % 2 ^ 48

/-- ADMISSION. A packet to endpoint 63 is admitted only when its JOB is 0x0000 (R74); one that is not is counted and refused,
with JOB_MISMATCH where the endpoint is present (R73). -/
def Obligations.FabricEndpointAdmission : Prop :=
  ∀ (s : State) (job : Nat), ((s.admission job 63).2 = none → job = 0) ∧
    (s.fmfPlaced = true → job = 0 → (s.admission job 63).2 = none) ∧
    (s.fmfPlaced = true → job ≠ 0 → s.admission job 63 = (s.cnt .JOB_MISMATCH_COUNT 63, some .jobMismatch))

/-- MOVERS. RESUME is accepted only on a HALTED channel, which returns to QUEUED and continues from its recorded position with
fresh retries; on any other state it is rejected with BAD_STATE (R462). A function of the channel that has halted meanwhile
ends it at once (R465). -/
def Obligations.ResumeRestartsHaltedChannel : Prop :=
  ∀ (s : State) (rq : Requester) (m : Fin 16) (c : Fin 32), s.running = true → s.mvAllows rq = true →
    (s.chState m c = 3 → ((s.srcSide m c).gs || !(s.fnQuiet (s.srcSide m c).fn)) = true →
      ((s.dstSide m c).gs || !(s.fnQuiet (s.dstSide m c).fn)) = true →
      ∃ t, exec (.chResume rq m c) s = .next t ∧ t.chState m c = 1 ∧ (t.chan m c).rd = (s.chan m c).rd ∧
        (t.chan m c).wr = (s.chan m c).wr ∧ (t.chan m c).order = (s.chan m c).order ∧ (t.chan m c).retries = 0 ∧
        F.WRITE_STATUS.LAST_STATUS.fld.get (t.ws rq) = Status.ok.code) ∧
    (s.chState m c ≠ 3 → exec (.chResume rq m c) s = .next (s.wsRecord rq .badState (Reg.offset ⟨.CH_CMD, m, c⟩)))

/-- MOVERS. A write to a descriptor register of a channel that is not IDLE is rejected with BAD_STATE, and nothing but the
requester's WRITE_STATUS changes (R457, R14). -/
def Obligations.DescriptorWritesNeedIdle : Prop :=
  ∀ (s : State) (rq : Requester) off size w (m c : Nat) (n : RegName), s.running = true → rq.reaches = true → s.mvAllows rq = true →
    accessOk off size = true → devTarget s (off / 8 * 8) = .reg ⟨n, m, c⟩ false → s.chState m c ≠ 0 →
    n ∈ ([.CH_SRC, .CH_DST, .CH_SHAPE, .CH_SRC_STRIDE01, .CH_SRC_STRIDE2, .CH_DST_STRIDE01, .CH_DST_STRIDE2, .CH_CTRL, .CH_LOCK,
      .CH_RECORD] : List RegName) →
    exec (.registerWrite rq .device off size w) s = .next (s.wsRecord rq .badState off)

/-- EVENTS. EV_FORCE raises a source numbered 1,200 or above, with no other effect; one naming a lower source is rejected with
NOT_PERMITTED, and those are forced through FAULT_FORCE (R568). Numbers from 1,696 name no source and are rejected (R11). -/
def Obligations.EventForceRaises : Prop :=
  ∀ (s : State) (rq : Requester) (src : BitVec 11), s.takesWrites rq = true → rq.manages = true →
    (1200 ≤ src.toNat → src.toNat < 1696 → exec (.evForce rq src) s = .next
      ((s.raise src.toNat).wsRecord rq .ok (Reg.offset ⟨.EV_FORCE, 0, 0⟩))) ∧
    (src.toNat < 1200 → exec (.evForce rq src) s = .next (s.wsRecord rq .notPermitted (Reg.offset ⟨.EV_FORCE, 0, 0⟩))) ∧
    (∀ act, src.toNat < 1200 → src.toNat ≠ 31 → (act = true → src.toNat ≠ 9) → exec (.faultForce rq src act) s = .next
      ((s.forceFault src.toNat act).wsRecord rq .ok (Reg.offset ⟨.FAULT_FORCE, 0, 0⟩)))

/-- EVENTS. An event routed to a function's vector goes out as a message, or pends where the vector is masked; for a function
that is halted, in reset or has MSI-X disabled no message is sent, ROUTE_SUPPRESSED is set and EV_PENDING stays set (R567). -/
def Obligations.RoutedEventsReachVectors : Prop :=
  ∀ (s : State) (rq : Requester) (src : BitVec 11), s.takesWrites rq = true → rq.manages = true → 1200 ≤ src.toNat →
    src.toNat < 1696 → engineSource src.toNat = false →
    (s.f F.EV_PENDING.PENDING (src.toNat / 64)).testBit (src.toNat % 64) = false → s.on F.EV_ROUTE.ENABLE src.toNat = true →
    s.f F.EV_ROUTE.DEST src.toNat = 0 →
    let fn := s.f F.EV_ROUTE.FUNC src.toNat
    let v := s.f F.EV_ROUTE.VECTOR src.toNat
    ∃ t, exec (.evForce rq src) s = .next t ∧ (t.f F.EV_PENDING.PENDING (src.toNat / 64)).testBit (src.toNat % 64) = true ∧
      ((s.fnQuiet fn = true ∨ s.msixOn.contains fn = false) → t.out = s.out ∧ t.msixPending = s.msixPending ∧
        t.on F.EV_ROUTE.ROUTE_SUPPRESSED src.toNat = true) ∧
      (s.fnQuiet fn = false → s.msixOn.contains fn = true → (s.msixEntry fn v).toNat.testBit 96 = true →
        t.out = s.out ∧ (fn, v) ∈ t.msixPending) ∧
      (s.fnQuiet fn = false → s.msixOn.contains fn = true → (s.msixEntry fn v).toNat.testBit 96 = false →
        t.out = s.out ++ [.msix fn v] ∧ t.msixPending = s.msixPending)

/-- FAULT CLASSES. Every source has a class of 1, 2 or 3; a write of FAULT_CLASS that would put a source below its default
class is rejected with BAD_VALUE and changes nothing, one that puts none below is stored (R511, R14). -/
def Obligations.FaultClassesOnlyRise : Prop :=
  (∀ src, 1 ≤ defaultClass src ∧ defaultClass src ≤ 3) ∧
  ∀ (s : State) (rq : Requester) off (v : Word) (w : Nat), s.running = true → rq.manages = true → accessOk off 8 = true →
    devTarget s (off / 8 * 8) = .reg ⟨.FAULT_CLASS, w, 0⟩ false →
    ((∃ k < 32, v.toNat / 2 ^ (2 * k) % 4 < defaultClass (32 * w + k)) →
      exec (.registerWrite rq .device off 8 v) s = .next (s.wsRecord rq .badValue off)) ∧
    ((∀ k < 32, defaultClass (32 * w + k) ≤ v.toNat / 2 ^ (2 * k) % 4) →
      ∃ t, exec (.registerWrite rq .device off 8 v) s = .next t ∧ t.rd ⟨.FAULT_CLASS, w, 0⟩ = v ∧
        ∀ k < 32, t.classOf (32 * w + k) = v.toNat / 2 ^ (2 * k) % 4)

/-- SHAPERS. At CK 0 of a turnover the signed token count of each enabled shaper becomes min(tokens + RATE, BURST), or BURST
where the shaper was not in force before; a disabled shaper always permits (R140). Index 8 is the port shaper of an output. -/
def Obligations.ShapersRefill : Prop :=
  ∀ (s : State) (out : Nat), let t := s.shaperRefill
    let refilled (i : Nat) (rate burst : Nat) : Prop :=
      (s.core.shaperOn.contains (out, i) = true →
        mget t.core.tokens (out, i) 0 = min (mget s.core.tokens (out, i) 0 + (rate : Int)) burst) ∧
      (s.core.shaperOn.contains (out, i) = false → mget t.core.tokens (out, i) 0 = burst)
    (s.ona F.PORT_SHAPER.ENABLE out = true → refilled 8 (s.fa F.PORT_SHAPER.RATE out) (s.fa F.PORT_SHAPER.BURST out)) ∧
    (s.ona F.PORT_SHAPER.ENABLE out = false → t.shaperOk out 8 = true) ∧
    (∀ tc, tc < 8 → s.ona F.TC_SHAPER.ENABLE out tc = true →
      refilled tc (s.fa F.TC_SHAPER.RATE out tc) (s.fa F.TC_SHAPER.BURST out tc)) ∧
    (∀ tc, tc < 8 → s.ona F.TC_SHAPER.ENABLE out tc = false → t.shaperOk out tc = true)

/-- DOORBELLS. A connection work queue doorbell is laid out as R252 says: CONN in bits 23:0, QUEUE in bit 24, bits 31:25
reserved, TAIL in bits 63:32. -/
def Obligations.DoorbellLayout : Prop :=
  ∀ v : Word, F.CQ_DOORBELL.CONN.fld.get v = v.toNat % 2 ^ 24 ∧ F.CQ_DOORBELL.QUEUE.fld.on v = v.toNat.testBit 24 ∧
    F.CQ_DOORBELL.TAIL.fld.get v = v.toNat / 2 ^ 32 ∧
    (setsRsv RegName.CQ_DOORBELL.desc.fields v = true ↔ v.toNat / 2 ^ 25 % 2 ^ 7 ≠ 0)

/-- COORDINATES. The packed coordinates that are not illegal are exactly those that pack, at the dimensions' offsets, one value
below its size for each enabled dimension (R60, R61). -/
def Obligations.LegalCoordinatesPack : Prop :=
  ∀ (s : State) (node : Nat), s.illegalCoord node = false ↔
    ∃ v : Nat → Nat, (∀ d < 4, s.dimOn d = true → v d < s.dimSize d) ∧ (∀ d < 4, s.dimOn d = false → v d = 0) ∧
      node = v 0 * 2 ^ s.dimOffset 0 + v 1 * 2 ^ s.dimOffset 1 + v 2 * 2 ^ s.dimOffset 2 + v 3 * 2 ^ s.dimOffset 3

/-- HOST RINGS, frame. A register command of ring r of function f changes, at most, that ring's own registers and place, and
f's WRITE_STATUS; everything else in the state is as it was, memory and what has left the part among it (R218 to R226, R238,
R588). -/
def Obligations.RingRegisterCommandsFrame : Prop :=
  ∀ (s t : State) (f r : Fin 4096) (v : Word) (start : BitVec 32) (count : BitVec 7) (c : Instr),
    c ∈ [Instr.ringEnable f r v, .ringPiWrite f r v, .ringCiWrite f r v, .ringHoldStart f r start count, .ringHoldRelease f r,
      .ringDisarm f r] → exec c s = .next t →
    (∀ q : Reg, (q.i = f.val ∧ q.j = r.val ∧
      q.name ∈ ([.RING_CFG, .RING_PI, .RING_CI, .RING_CPI, .RING_STATUS, .RING_HOLD_MASK, .RING_REJECT_COUNT] : List RegName)) ∨
      t.rd q = s.rd q) ∧
    (∀ g k, (g, k) ≠ (f.val, r.val) → t.ring g k = s.ring g k) ∧ (∀ q, q ≠ .func f → t.ws q = s.ws q) ∧
    { t with regs := s.regs, rings := s.rings, wstat := s.wstat } = s
end

