-- ==== Sys2Proof/Laws/Bits.lean ====
section
/-! SUPPORT. Laws of bit fields and of maps: what a field or a key reads as after a write of it or of another. -/
namespace Sys2Proof.Machine

open Sys2Proof

/-! ### Bit fields -/

/-- A number in three parts around a field of `k` bits from bit `lo` on. -/
theorem split_field (w lo k : Nat) :
    w = w / 2 ^ (lo + k) * 2 ^ (lo + k) + w / 2 ^ lo % 2 ^ k * 2 ^ lo + w % 2 ^ lo := by
  have h1 := Nat.div_add_mod w (2 ^ lo)
  have h2 := Nat.div_add_mod (w / 2 ^ lo) (2 ^ k)
  rw [Nat.div_div_eq_div_mul, ← Nat.pow_add] at h2
  rw [Nat.pow_add]
  calc w = 2 ^ lo * (w / 2 ^ lo) + w % 2 ^ lo := h1.symm
    _ = 2 ^ lo * (2 ^ k * (w / 2 ^ (lo + k)) + w / 2 ^ lo % 2 ^ k) + w % 2 ^ lo := by rw [h2]
    _ = _ := by rw [Nat.pow_add]; ring

/-- The value of a field set. -/
theorem Fld.set_toNat {n : Nat} (f : Fld) (w : BitVec n) (v : Nat) (hl : f.lo ≤ f.hi) (hn : f.hi < n) :
    (f.set w v).toNat = w.toNat / 2 ^ (f.lo + f.width) * 2 ^ (f.lo + f.width) + v % 2 ^ f.width * 2 ^ f.lo +
      w.toNat % 2 ^ f.lo := by
  have e := split_field w.toNat f.lo f.width
  have hw : f.lo + f.width ≤ n := by unfold Fld.width; omega
  have hlt : w.toNat / 2 ^ (f.lo + f.width) * 2 ^ (f.lo + f.width) + v % 2 ^ f.width * 2 ^ f.lo + w.toNat % 2 ^ f.lo < 2 ^ n := by
    have a : w.toNat / 2 ^ (f.lo + f.width) < 2 ^ (n - (f.lo + f.width)) := by
      rw [Nat.div_lt_iff_lt_mul (Nat.two_pow_pos _), ← Nat.pow_add, Nat.sub_add_cancel hw]
      exact w.isLt
    have b : v % 2 ^ f.width < 2 ^ f.width := Nat.mod_lt _ (Nat.two_pow_pos _)
    have c : w.toNat % 2 ^ f.lo < 2 ^ f.lo := Nat.mod_lt _ (Nat.two_pow_pos _)
    have d : v % 2 ^ f.width * 2 ^ f.lo + w.toNat % 2 ^ f.lo < 2 ^ (f.lo + f.width) := by
      rw [Nat.pow_add]
      calc v % 2 ^ f.width * 2 ^ f.lo + w.toNat % 2 ^ f.lo < v % 2 ^ f.width * 2 ^ f.lo + 2 ^ f.lo := by omega
        _ = (v % 2 ^ f.width + 1) * 2 ^ f.lo := by ring
        _ ≤ 2 ^ f.width * 2 ^ f.lo := Nat.mul_le_mul_right _ b
        _ = _ := by ring
    calc _ < w.toNat / 2 ^ (f.lo + f.width) * 2 ^ (f.lo + f.width) + 2 ^ (f.lo + f.width) := by omega
      _ = (w.toNat / 2 ^ (f.lo + f.width) + 1) * 2 ^ (f.lo + f.width) := by ring
      _ ≤ 2 ^ (n - (f.lo + f.width)) * 2 ^ (f.lo + f.width) := Nat.mul_le_mul_right _ a
      _ = 2 ^ n := by rw [← Nat.pow_add, Nat.sub_add_cancel hw]
  unfold Fld.set Fld.get
  rw [BitVec.toNat_ofNat, Nat.shiftRight_eq_div_pow, Nat.shiftLeft_eq, Nat.shiftLeft_eq]
  rw [Nat.mod_eq_of_lt] <;> omega

/-- A field reads as what was set, modulo its size. -/
theorem Fld.get_set {n : Nat} (f : Fld) (w : BitVec n) (v : Nat) (hl : f.lo ≤ f.hi) (hn : f.hi < n) :
    f.get (f.set w v) = v % 2 ^ f.width := by
  unfold Fld.get
  rw [Fld.set_toNat f w v hl hn, Nat.shiftRight_eq_div_pow, Nat.pow_add]
  have c : w.toNat % 2 ^ f.lo < 2 ^ f.lo := Nat.mod_lt _ (Nat.two_pow_pos _)
  have e : w.toNat / (2 ^ f.lo * 2 ^ f.width) * (2 ^ f.lo * 2 ^ f.width) + v % 2 ^ f.width * 2 ^ f.lo + w.toNat % 2 ^ f.lo =
      w.toNat % 2 ^ f.lo + (w.toNat / (2 ^ f.lo * 2 ^ f.width) * 2 ^ f.width + v % 2 ^ f.width) * 2 ^ f.lo := by ring
  rw [e, Nat.add_mul_div_right _ _ (Nat.two_pow_pos _), Nat.div_eq_of_lt c, Nat.zero_add, Nat.add_comm, Nat.add_mul_mod_self_right,
    Nat.mod_mod]

/-- A field that lies wholly above or below a field that is set reads as before. -/
theorem Fld.get_set_ne {n : Nat} (f g : Fld) (w : BitVec n) (v : Nat) (hl : f.lo ≤ f.hi) (hn : f.hi < n) (gl : g.lo ≤ g.hi)
    (d : g.hi < f.lo ∨ f.hi < g.lo) : g.get (f.set w v) = g.get w := by
  unfold Fld.get
  rw [Fld.set_toNat f w v hl hn, Nat.shiftRight_eq_div_pow, Nat.shiftRight_eq_div_pow]
  have c : w.toNat % 2 ^ f.lo < 2 ^ f.lo := Nat.mod_lt _ (Nat.two_pow_pos _)
  have b : v % 2 ^ f.width < 2 ^ f.width := Nat.mod_lt _ (Nat.two_pow_pos _)
  rcases d with d | d
  · obtain ⟨k, hk⟩ : ∃ k, f.lo = g.lo + g.width + k := ⟨f.lo - (g.lo + g.width), by unfold Fld.width at *; omega⟩
    have key : ∀ x r : Nat, (x * 2 ^ f.lo + r) / 2 ^ g.lo % 2 ^ g.width = r / 2 ^ g.lo % 2 ^ g.width := by
      intro x r
      have e : x * 2 ^ f.lo + r = r + x * 2 ^ k * 2 ^ g.width * 2 ^ g.lo := by rw [hk, Nat.pow_add, Nat.pow_add]; ring
      rw [e, Nat.add_mul_div_right _ _ (Nat.two_pow_pos _), Nat.add_mul_mod_self_right]
    have e1 : w.toNat / 2 ^ (f.lo + f.width) * 2 ^ (f.lo + f.width) + v % 2 ^ f.width * 2 ^ f.lo + w.toNat % 2 ^ f.lo =
        (w.toNat / 2 ^ (f.lo + f.width) * 2 ^ f.width + v % 2 ^ f.width) * 2 ^ f.lo + w.toNat % 2 ^ f.lo := by
      rw [Nat.pow_add]; ring
    rw [e1, key]
    have e2 : w.toNat = w.toNat / 2 ^ f.lo * 2 ^ f.lo + w.toNat % 2 ^ f.lo := by
      rw [Nat.mul_comm]; exact (Nat.div_add_mod _ _).symm
    conv_rhs => rw [e2, key]
  · obtain ⟨k, hk⟩ : ∃ k, g.lo = f.lo + f.width + k := ⟨g.lo - (f.lo + f.width), by unfold Fld.width at *; omega⟩
    have d : v % 2 ^ f.width * 2 ^ f.lo + w.toNat % 2 ^ f.lo < 2 ^ (f.lo + f.width) := by
      rw [Nat.pow_add]
      calc v % 2 ^ f.width * 2 ^ f.lo + w.toNat % 2 ^ f.lo < v % 2 ^ f.width * 2 ^ f.lo + 2 ^ f.lo := by omega
        _ = (v % 2 ^ f.width + 1) * 2 ^ f.lo := by ring
        _ ≤ 2 ^ f.width * 2 ^ f.lo := Nat.mul_le_mul_right _ b
        _ = _ := by ring
    have e : (w.toNat / 2 ^ (f.lo + f.width) * 2 ^ (f.lo + f.width) + v % 2 ^ f.width * 2 ^ f.lo + w.toNat % 2 ^ f.lo) / 2 ^ g.lo =
        w.toNat / 2 ^ g.lo := by
      rw [hk, Nat.pow_add _ _ k, ← Nat.div_div_eq_div_mul, ← Nat.div_div_eq_div_mul, Nat.add_assoc, Nat.add_comm,
        Nat.add_mul_div_right _ _ (Nat.two_pow_pos _), Nat.div_eq_of_lt d, Nat.zero_add]
    rw [e]

/-! ### Maps -/

@[simp] theorem mget_mset {κ ν : Type} [DecidableEq κ] (k : κ) (v d : ν) : ∀ m : AMap κ ν, mget (mset m k v) k d = v
  | [] => by simp [mget, mset, mfind]
  | (k', v') :: m => by
    have ih := mget_mset k v d m
    unfold mget at ih ⊢
    by_cases h : k' = k
    · simp [mset, mfind, h]
    · simp [mset, mfind, h, ih]

theorem mget_mset_ne {κ ν : Type} [DecidableEq κ] {k k' : κ} (h : k' ≠ k) (v d : ν) :
    ∀ m : AMap κ ν, mget (mset m k v) k' d = mget m k' d
  | [] => by simp [mget, mset, mfind, Ne.symm h]
  | (q, v') :: m => by
    have ih := mget_mset_ne h v d m
    unfold mget at ih ⊢
    by_cases hq : q = k
    · subst hq
      simp [mset, mfind, Ne.symm h]
    · by_cases hq' : q = k'
      · subst hq'
        simp [mset, mfind, h]
      · simp [mset, mfind, hq, hq', ih]

/-- A key finds what was set for it; the others find what they found before. -/
theorem mfind_mset {κ ν : Type} [DecidableEq κ] (k : κ) (v : ν) : ∀ m : AMap κ ν, mfind (mset m k v) k = some v
  | [] => by simp [mset, mfind]
  | (k', v') :: m => by
    by_cases e : k' = k
    · simp [mset, mfind, e]
    · simp [mset, mfind, e, mfind_mset k v m]

theorem mfind_mset_ne {κ ν : Type} [DecidableEq κ] {k k' : κ} (h : k' ≠ k) (v : ν) :
    ∀ m : AMap κ ν, mfind (mset m k v) k' = mfind m k'
  | [] => by simp [mset, mfind, h.symm]
  | (a, b) :: m => by
    by_cases e : a = k
    · subst e
      simp [mset, mfind, h.symm]
    · by_cases f : a = k'
      · subst f
        simp [mset, mfind, e]
      · simp [mset, mfind, e, f, mfind_mset_ne h v m]

end Sys2Proof.Machine
end

