-- ==== Sys2Proof/Laws/State.lean ====
section
/-! SUPPORT. Laws of State: what each update of a state leaves, one lemma per field, what a register reads as after a write,
and what the guards of the meanings answer. -/
namespace Sys2Proof.Machine

open Sys2Proof

/-! ### Fields that an update leaves -/

@[simp] theorem State.wr_active (s : State) (r : Reg) (v : Word) : (s.wr r v).active = s.active := rfl
@[simp] theorem State.wr_unpublished (s : State) (r : Reg) (v : Word) : (s.wr r v).unpublished = s.unpublished := rfl
@[simp] theorem State.wr_wstat (s : State) (r : Reg) (v : Word) : (s.wr r v).wstat = s.wstat := rfl
@[simp] theorem State.wr_msix (s : State) (r : Reg) (v : Word) : (s.wr r v).msix = s.msix := rfl
@[simp] theorem State.wr_msixPending (s : State) (r : Reg) (v : Word) : (s.wr r v).msixPending = s.msixPending := rfl
@[simp] theorem State.wr_msixOn (s : State) (r : Reg) (v : Word) : (s.wr r v).msixOn = s.msixOn := rfl
@[simp] theorem State.wr_mem (s : State) (r : Reg) (v : Word) : (s.wr r v).mem = s.mem := rfl
@[simp] theorem State.wr_poison (s : State) (r : Reg) (v : Word) : (s.wr r v).poison = s.poison := rfl
@[simp] theorem State.wr_time (s : State) (r : Reg) (v : Word) : (s.wr r v).time = s.time := rfl
@[simp] theorem State.wr_jobs (s : State) (r : Reg) (v : Word) : (s.wr r v).jobs = s.jobs := rfl
@[simp] theorem State.wr_core (s : State) (r : Reg) (v : Word) : (s.wr r v).core = s.core := rfl
@[simp] theorem State.wr_ports (s : State) (r : Reg) (v : Word) : (s.wr r v).ports = s.ports := rfl
@[simp] theorem State.wr_lanes (s : State) (r : Reg) (v : Word) : (s.wr r v).lanes = s.lanes := rfl
@[simp] theorem State.wr_rings (s : State) (r : Reg) (v : Word) : (s.wr r v).rings = s.rings := rfl
@[simp] theorem State.wr_ni (s : State) (r : Reg) (v : Word) : (s.wr r v).ni = s.ni := rfl
@[simp] theorem State.wr_flt (s : State) (r : Reg) (v : Word) : (s.wr r v).flt = s.flt := rfl
@[simp] theorem State.wr_sys (s : State) (r : Reg) (v : Word) : (s.wr r v).sys = s.sys := rfl
@[simp] theorem State.wr_eng (s : State) (r : Reg) (v : Word) : (s.wr r v).eng = s.eng := rfl
@[simp] theorem State.wr_xp (s : State) (r : Reg) (v : Word) : (s.wr r v).xp = s.xp := rfl
@[simp] theorem State.wr_mat (s : State) (r : Reg) (v : Word) : (s.wr r v).mat = s.mat := rfl
@[simp] theorem State.wr_coll (s : State) (r : Reg) (v : Word) : (s.wr r v).coll = s.coll := rfl
@[simp] theorem State.wr_lock (s : State) (r : Reg) (v : Word) : (s.wr r v).lock = s.lock := rfl
@[simp] theorem State.wr_xl (s : State) (r : Reg) (v : Word) : (s.wr r v).xl = s.xl := rfl
@[simp] theorem State.wr_mover (s : State) (r : Reg) (v : Word) : (s.wr r v).mover = s.mover := rfl
@[simp] theorem State.wr_pcie (s : State) (r : Reg) (v : Word) : (s.wr r v).pcie = s.pcie := rfl
@[simp] theorem State.wr_lantern (s : State) (r : Reg) (v : Word) : (s.wr r v).lantern = s.lantern := rfl
@[simp] theorem State.wr_mgmt (s : State) (r : Reg) (v : Word) : (s.wr r v).mgmt = s.mgmt := rfl
@[simp] theorem State.wr_out (s : State) (r : Reg) (v : Word) : (s.wr r v).out = s.out := rfl
@[simp] theorem State.wr_draws (s : State) (r : Reg) (v : Word) : (s.wr r v).draws = s.draws := rfl
@[simp] theorem State.wr_pending (s : State) (r : Reg) (v : Word) : (s.wr r v).pending = s.pending := rfl

@[simp] theorem State.set_active (s : State) (f : RegFld) (v i j : Nat) : (s.set f v i j).active = s.active := rfl
@[simp] theorem State.set_unpublished (s : State) (f : RegFld) (v i j : Nat) : (s.set f v i j).unpublished = s.unpublished := rfl
@[simp] theorem State.set_wstat (s : State) (f : RegFld) (v i j : Nat) : (s.set f v i j).wstat = s.wstat := rfl
@[simp] theorem State.set_msix (s : State) (f : RegFld) (v i j : Nat) : (s.set f v i j).msix = s.msix := rfl
@[simp] theorem State.set_msixPending (s : State) (f : RegFld) (v i j : Nat) : (s.set f v i j).msixPending = s.msixPending := rfl
@[simp] theorem State.set_msixOn (s : State) (f : RegFld) (v i j : Nat) : (s.set f v i j).msixOn = s.msixOn := rfl
@[simp] theorem State.set_mem (s : State) (f : RegFld) (v i j : Nat) : (s.set f v i j).mem = s.mem := rfl
@[simp] theorem State.set_poison (s : State) (f : RegFld) (v i j : Nat) : (s.set f v i j).poison = s.poison := rfl
@[simp] theorem State.set_time (s : State) (f : RegFld) (v i j : Nat) : (s.set f v i j).time = s.time := rfl
@[simp] theorem State.set_jobs (s : State) (f : RegFld) (v i j : Nat) : (s.set f v i j).jobs = s.jobs := rfl
@[simp] theorem State.set_core (s : State) (f : RegFld) (v i j : Nat) : (s.set f v i j).core = s.core := rfl
@[simp] theorem State.set_ports (s : State) (f : RegFld) (v i j : Nat) : (s.set f v i j).ports = s.ports := rfl
@[simp] theorem State.set_lanes (s : State) (f : RegFld) (v i j : Nat) : (s.set f v i j).lanes = s.lanes := rfl
@[simp] theorem State.set_rings (s : State) (f : RegFld) (v i j : Nat) : (s.set f v i j).rings = s.rings := rfl
@[simp] theorem State.set_ni (s : State) (f : RegFld) (v i j : Nat) : (s.set f v i j).ni = s.ni := rfl
@[simp] theorem State.set_flt (s : State) (f : RegFld) (v i j : Nat) : (s.set f v i j).flt = s.flt := rfl
@[simp] theorem State.set_sys (s : State) (f : RegFld) (v i j : Nat) : (s.set f v i j).sys = s.sys := rfl
@[simp] theorem State.set_eng (s : State) (f : RegFld) (v i j : Nat) : (s.set f v i j).eng = s.eng := rfl
@[simp] theorem State.set_xp (s : State) (f : RegFld) (v i j : Nat) : (s.set f v i j).xp = s.xp := rfl
@[simp] theorem State.set_mat (s : State) (f : RegFld) (v i j : Nat) : (s.set f v i j).mat = s.mat := rfl
@[simp] theorem State.set_coll (s : State) (f : RegFld) (v i j : Nat) : (s.set f v i j).coll = s.coll := rfl
@[simp] theorem State.set_lock (s : State) (f : RegFld) (v i j : Nat) : (s.set f v i j).lock = s.lock := rfl
@[simp] theorem State.set_xl (s : State) (f : RegFld) (v i j : Nat) : (s.set f v i j).xl = s.xl := rfl
@[simp] theorem State.set_mover (s : State) (f : RegFld) (v i j : Nat) : (s.set f v i j).mover = s.mover := rfl
@[simp] theorem State.set_pcie (s : State) (f : RegFld) (v i j : Nat) : (s.set f v i j).pcie = s.pcie := rfl
@[simp] theorem State.set_lantern (s : State) (f : RegFld) (v i j : Nat) : (s.set f v i j).lantern = s.lantern := rfl
@[simp] theorem State.set_mgmt (s : State) (f : RegFld) (v i j : Nat) : (s.set f v i j).mgmt = s.mgmt := rfl
@[simp] theorem State.set_out (s : State) (f : RegFld) (v i j : Nat) : (s.set f v i j).out = s.out := rfl
@[simp] theorem State.set_draws (s : State) (f : RegFld) (v i j : Nat) : (s.set f v i j).draws = s.draws := rfl
@[simp] theorem State.set_pending (s : State) (f : RegFld) (v i j : Nat) : (s.set f v i j).pending = s.pending := rfl

@[simp] theorem State.cnt_active (s : State) (r : RegName) (i j n : Nat) : (s.cnt r i j n).active = s.active := rfl
@[simp] theorem State.cnt_unpublished (s : State) (r : RegName) (i j n : Nat) : (s.cnt r i j n).unpublished = s.unpublished := rfl
@[simp] theorem State.cnt_wstat (s : State) (r : RegName) (i j n : Nat) : (s.cnt r i j n).wstat = s.wstat := rfl
@[simp] theorem State.cnt_msix (s : State) (r : RegName) (i j n : Nat) : (s.cnt r i j n).msix = s.msix := rfl
@[simp] theorem State.cnt_msixPending (s : State) (r : RegName) (i j n : Nat) : (s.cnt r i j n).msixPending = s.msixPending := rfl
@[simp] theorem State.cnt_msixOn (s : State) (r : RegName) (i j n : Nat) : (s.cnt r i j n).msixOn = s.msixOn := rfl
@[simp] theorem State.cnt_mem (s : State) (r : RegName) (i j n : Nat) : (s.cnt r i j n).mem = s.mem := rfl
@[simp] theorem State.cnt_poison (s : State) (r : RegName) (i j n : Nat) : (s.cnt r i j n).poison = s.poison := rfl
@[simp] theorem State.cnt_time (s : State) (r : RegName) (i j n : Nat) : (s.cnt r i j n).time = s.time := rfl
@[simp] theorem State.cnt_jobs (s : State) (r : RegName) (i j n : Nat) : (s.cnt r i j n).jobs = s.jobs := rfl
@[simp] theorem State.cnt_core (s : State) (r : RegName) (i j n : Nat) : (s.cnt r i j n).core = s.core := rfl
@[simp] theorem State.cnt_ports (s : State) (r : RegName) (i j n : Nat) : (s.cnt r i j n).ports = s.ports := rfl
@[simp] theorem State.cnt_lanes (s : State) (r : RegName) (i j n : Nat) : (s.cnt r i j n).lanes = s.lanes := rfl
@[simp] theorem State.cnt_rings (s : State) (r : RegName) (i j n : Nat) : (s.cnt r i j n).rings = s.rings := rfl
@[simp] theorem State.cnt_ni (s : State) (r : RegName) (i j n : Nat) : (s.cnt r i j n).ni = s.ni := rfl
@[simp] theorem State.cnt_flt (s : State) (r : RegName) (i j n : Nat) : (s.cnt r i j n).flt = s.flt := rfl
@[simp] theorem State.cnt_sys (s : State) (r : RegName) (i j n : Nat) : (s.cnt r i j n).sys = s.sys := rfl
@[simp] theorem State.cnt_eng (s : State) (r : RegName) (i j n : Nat) : (s.cnt r i j n).eng = s.eng := rfl
@[simp] theorem State.cnt_xp (s : State) (r : RegName) (i j n : Nat) : (s.cnt r i j n).xp = s.xp := rfl
@[simp] theorem State.cnt_mat (s : State) (r : RegName) (i j n : Nat) : (s.cnt r i j n).mat = s.mat := rfl
@[simp] theorem State.cnt_coll (s : State) (r : RegName) (i j n : Nat) : (s.cnt r i j n).coll = s.coll := rfl
@[simp] theorem State.cnt_lock (s : State) (r : RegName) (i j n : Nat) : (s.cnt r i j n).lock = s.lock := rfl
@[simp] theorem State.cnt_xl (s : State) (r : RegName) (i j n : Nat) : (s.cnt r i j n).xl = s.xl := rfl
@[simp] theorem State.cnt_mover (s : State) (r : RegName) (i j n : Nat) : (s.cnt r i j n).mover = s.mover := rfl
@[simp] theorem State.cnt_pcie (s : State) (r : RegName) (i j n : Nat) : (s.cnt r i j n).pcie = s.pcie := rfl
@[simp] theorem State.cnt_lantern (s : State) (r : RegName) (i j n : Nat) : (s.cnt r i j n).lantern = s.lantern := rfl
@[simp] theorem State.cnt_mgmt (s : State) (r : RegName) (i j n : Nat) : (s.cnt r i j n).mgmt = s.mgmt := rfl
@[simp] theorem State.cnt_out (s : State) (r : RegName) (i j n : Nat) : (s.cnt r i j n).out = s.out := rfl
@[simp] theorem State.cnt_draws (s : State) (r : RegName) (i j n : Nat) : (s.cnt r i j n).draws = s.draws := rfl
@[simp] theorem State.cnt_pending (s : State) (r : RegName) (i j n : Nat) : (s.cnt r i j n).pending = s.pending := rfl

@[simp] theorem State.cntF_active (s : State) (f : RegFld) (i j n : Nat) : (s.cntF f i j n).active = s.active := rfl
@[simp] theorem State.cntF_unpublished (s : State) (f : RegFld) (i j n : Nat) : (s.cntF f i j n).unpublished = s.unpublished := rfl
@[simp] theorem State.cntF_wstat (s : State) (f : RegFld) (i j n : Nat) : (s.cntF f i j n).wstat = s.wstat := rfl
@[simp] theorem State.cntF_msix (s : State) (f : RegFld) (i j n : Nat) : (s.cntF f i j n).msix = s.msix := rfl
@[simp] theorem State.cntF_msixPending (s : State) (f : RegFld) (i j n : Nat) : (s.cntF f i j n).msixPending = s.msixPending := rfl
@[simp] theorem State.cntF_msixOn (s : State) (f : RegFld) (i j n : Nat) : (s.cntF f i j n).msixOn = s.msixOn := rfl
@[simp] theorem State.cntF_mem (s : State) (f : RegFld) (i j n : Nat) : (s.cntF f i j n).mem = s.mem := rfl
@[simp] theorem State.cntF_poison (s : State) (f : RegFld) (i j n : Nat) : (s.cntF f i j n).poison = s.poison := rfl
@[simp] theorem State.cntF_time (s : State) (f : RegFld) (i j n : Nat) : (s.cntF f i j n).time = s.time := rfl
@[simp] theorem State.cntF_jobs (s : State) (f : RegFld) (i j n : Nat) : (s.cntF f i j n).jobs = s.jobs := rfl
@[simp] theorem State.cntF_core (s : State) (f : RegFld) (i j n : Nat) : (s.cntF f i j n).core = s.core := rfl
@[simp] theorem State.cntF_ports (s : State) (f : RegFld) (i j n : Nat) : (s.cntF f i j n).ports = s.ports := rfl
@[simp] theorem State.cntF_lanes (s : State) (f : RegFld) (i j n : Nat) : (s.cntF f i j n).lanes = s.lanes := rfl
@[simp] theorem State.cntF_rings (s : State) (f : RegFld) (i j n : Nat) : (s.cntF f i j n).rings = s.rings := rfl
@[simp] theorem State.cntF_ni (s : State) (f : RegFld) (i j n : Nat) : (s.cntF f i j n).ni = s.ni := rfl
@[simp] theorem State.cntF_flt (s : State) (f : RegFld) (i j n : Nat) : (s.cntF f i j n).flt = s.flt := rfl
@[simp] theorem State.cntF_sys (s : State) (f : RegFld) (i j n : Nat) : (s.cntF f i j n).sys = s.sys := rfl
@[simp] theorem State.cntF_eng (s : State) (f : RegFld) (i j n : Nat) : (s.cntF f i j n).eng = s.eng := rfl
@[simp] theorem State.cntF_xp (s : State) (f : RegFld) (i j n : Nat) : (s.cntF f i j n).xp = s.xp := rfl
@[simp] theorem State.cntF_mat (s : State) (f : RegFld) (i j n : Nat) : (s.cntF f i j n).mat = s.mat := rfl
@[simp] theorem State.cntF_coll (s : State) (f : RegFld) (i j n : Nat) : (s.cntF f i j n).coll = s.coll := rfl
@[simp] theorem State.cntF_lock (s : State) (f : RegFld) (i j n : Nat) : (s.cntF f i j n).lock = s.lock := rfl
@[simp] theorem State.cntF_xl (s : State) (f : RegFld) (i j n : Nat) : (s.cntF f i j n).xl = s.xl := rfl
@[simp] theorem State.cntF_mover (s : State) (f : RegFld) (i j n : Nat) : (s.cntF f i j n).mover = s.mover := rfl
@[simp] theorem State.cntF_pcie (s : State) (f : RegFld) (i j n : Nat) : (s.cntF f i j n).pcie = s.pcie := rfl
@[simp] theorem State.cntF_lantern (s : State) (f : RegFld) (i j n : Nat) : (s.cntF f i j n).lantern = s.lantern := rfl
@[simp] theorem State.cntF_mgmt (s : State) (f : RegFld) (i j n : Nat) : (s.cntF f i j n).mgmt = s.mgmt := rfl
@[simp] theorem State.cntF_out (s : State) (f : RegFld) (i j n : Nat) : (s.cntF f i j n).out = s.out := rfl
@[simp] theorem State.cntF_draws (s : State) (f : RegFld) (i j n : Nat) : (s.cntF f i j n).draws = s.draws := rfl
@[simp] theorem State.cntF_pending (s : State) (f : RegFld) (i j n : Nat) : (s.cntF f i j n).pending = s.pending := rfl

@[simp] theorem State.clearRegs_active (s : State) (p : Reg → Bool) : (s.clearRegs p).active = s.active := rfl
@[simp] theorem State.clearRegs_unpublished (s : State) (p : Reg → Bool) : (s.clearRegs p).unpublished = s.unpublished := rfl
@[simp] theorem State.clearRegs_wstat (s : State) (p : Reg → Bool) : (s.clearRegs p).wstat = s.wstat := rfl
@[simp] theorem State.clearRegs_msix (s : State) (p : Reg → Bool) : (s.clearRegs p).msix = s.msix := rfl
@[simp] theorem State.clearRegs_msixPending (s : State) (p : Reg → Bool) : (s.clearRegs p).msixPending = s.msixPending := rfl
@[simp] theorem State.clearRegs_msixOn (s : State) (p : Reg → Bool) : (s.clearRegs p).msixOn = s.msixOn := rfl
@[simp] theorem State.clearRegs_mem (s : State) (p : Reg → Bool) : (s.clearRegs p).mem = s.mem := rfl
@[simp] theorem State.clearRegs_poison (s : State) (p : Reg → Bool) : (s.clearRegs p).poison = s.poison := rfl
@[simp] theorem State.clearRegs_time (s : State) (p : Reg → Bool) : (s.clearRegs p).time = s.time := rfl
@[simp] theorem State.clearRegs_jobs (s : State) (p : Reg → Bool) : (s.clearRegs p).jobs = s.jobs := rfl
@[simp] theorem State.clearRegs_core (s : State) (p : Reg → Bool) : (s.clearRegs p).core = s.core := rfl
@[simp] theorem State.clearRegs_ports (s : State) (p : Reg → Bool) : (s.clearRegs p).ports = s.ports := rfl
@[simp] theorem State.clearRegs_lanes (s : State) (p : Reg → Bool) : (s.clearRegs p).lanes = s.lanes := rfl
@[simp] theorem State.clearRegs_rings (s : State) (p : Reg → Bool) : (s.clearRegs p).rings = s.rings := rfl
@[simp] theorem State.clearRegs_ni (s : State) (p : Reg → Bool) : (s.clearRegs p).ni = s.ni := rfl
@[simp] theorem State.clearRegs_flt (s : State) (p : Reg → Bool) : (s.clearRegs p).flt = s.flt := rfl
@[simp] theorem State.clearRegs_sys (s : State) (p : Reg → Bool) : (s.clearRegs p).sys = s.sys := rfl
@[simp] theorem State.clearRegs_eng (s : State) (p : Reg → Bool) : (s.clearRegs p).eng = s.eng := rfl
@[simp] theorem State.clearRegs_xp (s : State) (p : Reg → Bool) : (s.clearRegs p).xp = s.xp := rfl
@[simp] theorem State.clearRegs_mat (s : State) (p : Reg → Bool) : (s.clearRegs p).mat = s.mat := rfl
@[simp] theorem State.clearRegs_coll (s : State) (p : Reg → Bool) : (s.clearRegs p).coll = s.coll := rfl
@[simp] theorem State.clearRegs_lock (s : State) (p : Reg → Bool) : (s.clearRegs p).lock = s.lock := rfl
@[simp] theorem State.clearRegs_xl (s : State) (p : Reg → Bool) : (s.clearRegs p).xl = s.xl := rfl
@[simp] theorem State.clearRegs_mover (s : State) (p : Reg → Bool) : (s.clearRegs p).mover = s.mover := rfl
@[simp] theorem State.clearRegs_pcie (s : State) (p : Reg → Bool) : (s.clearRegs p).pcie = s.pcie := rfl
@[simp] theorem State.clearRegs_lantern (s : State) (p : Reg → Bool) : (s.clearRegs p).lantern = s.lantern := rfl
@[simp] theorem State.clearRegs_mgmt (s : State) (p : Reg → Bool) : (s.clearRegs p).mgmt = s.mgmt := rfl
@[simp] theorem State.clearRegs_out (s : State) (p : Reg → Bool) : (s.clearRegs p).out = s.out := rfl
@[simp] theorem State.clearRegs_draws (s : State) (p : Reg → Bool) : (s.clearRegs p).draws = s.draws := rfl
@[simp] theorem State.clearRegs_pending (s : State) (p : Reg → Bool) : (s.clearRegs p).pending = s.pending := rfl

@[simp] theorem State.emit_regs (s : State) (o : Out) : (s.emit o).regs = s.regs := rfl
@[simp] theorem State.emit_active (s : State) (o : Out) : (s.emit o).active = s.active := rfl
@[simp] theorem State.emit_unpublished (s : State) (o : Out) : (s.emit o).unpublished = s.unpublished := rfl
@[simp] theorem State.emit_wstat (s : State) (o : Out) : (s.emit o).wstat = s.wstat := rfl
@[simp] theorem State.emit_msix (s : State) (o : Out) : (s.emit o).msix = s.msix := rfl
@[simp] theorem State.emit_msixPending (s : State) (o : Out) : (s.emit o).msixPending = s.msixPending := rfl
@[simp] theorem State.emit_msixOn (s : State) (o : Out) : (s.emit o).msixOn = s.msixOn := rfl
@[simp] theorem State.emit_mem (s : State) (o : Out) : (s.emit o).mem = s.mem := rfl
@[simp] theorem State.emit_poison (s : State) (o : Out) : (s.emit o).poison = s.poison := rfl
@[simp] theorem State.emit_time (s : State) (o : Out) : (s.emit o).time = s.time := rfl
@[simp] theorem State.emit_jobs (s : State) (o : Out) : (s.emit o).jobs = s.jobs := rfl
@[simp] theorem State.emit_core (s : State) (o : Out) : (s.emit o).core = s.core := rfl
@[simp] theorem State.emit_ports (s : State) (o : Out) : (s.emit o).ports = s.ports := rfl
@[simp] theorem State.emit_lanes (s : State) (o : Out) : (s.emit o).lanes = s.lanes := rfl
@[simp] theorem State.emit_rings (s : State) (o : Out) : (s.emit o).rings = s.rings := rfl
@[simp] theorem State.emit_ni (s : State) (o : Out) : (s.emit o).ni = s.ni := rfl
@[simp] theorem State.emit_flt (s : State) (o : Out) : (s.emit o).flt = s.flt := rfl
@[simp] theorem State.emit_sys (s : State) (o : Out) : (s.emit o).sys = s.sys := rfl
@[simp] theorem State.emit_eng (s : State) (o : Out) : (s.emit o).eng = s.eng := rfl
@[simp] theorem State.emit_xp (s : State) (o : Out) : (s.emit o).xp = s.xp := rfl
@[simp] theorem State.emit_mat (s : State) (o : Out) : (s.emit o).mat = s.mat := rfl
@[simp] theorem State.emit_coll (s : State) (o : Out) : (s.emit o).coll = s.coll := rfl
@[simp] theorem State.emit_lock (s : State) (o : Out) : (s.emit o).lock = s.lock := rfl
@[simp] theorem State.emit_xl (s : State) (o : Out) : (s.emit o).xl = s.xl := rfl
@[simp] theorem State.emit_mover (s : State) (o : Out) : (s.emit o).mover = s.mover := rfl
@[simp] theorem State.emit_pcie (s : State) (o : Out) : (s.emit o).pcie = s.pcie := rfl
@[simp] theorem State.emit_lantern (s : State) (o : Out) : (s.emit o).lantern = s.lantern := rfl
@[simp] theorem State.emit_mgmt (s : State) (o : Out) : (s.emit o).mgmt = s.mgmt := rfl
@[simp] theorem State.emit_draws (s : State) (o : Out) : (s.emit o).draws = s.draws := rfl
@[simp] theorem State.emit_pending (s : State) (o : Out) : (s.emit o).pending = s.pending := rfl

@[simp] theorem State.wire_regs (s : State) (p : Nat) (u : WireUnit) : (s.wire p u).regs = s.regs := rfl
@[simp] theorem State.wire_active (s : State) (p : Nat) (u : WireUnit) : (s.wire p u).active = s.active := rfl
@[simp] theorem State.wire_unpublished (s : State) (p : Nat) (u : WireUnit) : (s.wire p u).unpublished = s.unpublished := rfl
@[simp] theorem State.wire_wstat (s : State) (p : Nat) (u : WireUnit) : (s.wire p u).wstat = s.wstat := rfl
@[simp] theorem State.wire_msix (s : State) (p : Nat) (u : WireUnit) : (s.wire p u).msix = s.msix := rfl
@[simp] theorem State.wire_msixPending (s : State) (p : Nat) (u : WireUnit) : (s.wire p u).msixPending = s.msixPending := rfl
@[simp] theorem State.wire_msixOn (s : State) (p : Nat) (u : WireUnit) : (s.wire p u).msixOn = s.msixOn := rfl
@[simp] theorem State.wire_mem (s : State) (p : Nat) (u : WireUnit) : (s.wire p u).mem = s.mem := rfl
@[simp] theorem State.wire_poison (s : State) (p : Nat) (u : WireUnit) : (s.wire p u).poison = s.poison := rfl
@[simp] theorem State.wire_time (s : State) (p : Nat) (u : WireUnit) : (s.wire p u).time = s.time := rfl
@[simp] theorem State.wire_jobs (s : State) (p : Nat) (u : WireUnit) : (s.wire p u).jobs = s.jobs := rfl
@[simp] theorem State.wire_core (s : State) (p : Nat) (u : WireUnit) : (s.wire p u).core = s.core := rfl
@[simp] theorem State.wire_ports (s : State) (p : Nat) (u : WireUnit) : (s.wire p u).ports = s.ports := rfl
@[simp] theorem State.wire_lanes (s : State) (p : Nat) (u : WireUnit) : (s.wire p u).lanes = s.lanes := rfl
@[simp] theorem State.wire_rings (s : State) (p : Nat) (u : WireUnit) : (s.wire p u).rings = s.rings := rfl
@[simp] theorem State.wire_ni (s : State) (p : Nat) (u : WireUnit) : (s.wire p u).ni = s.ni := rfl
@[simp] theorem State.wire_flt (s : State) (p : Nat) (u : WireUnit) : (s.wire p u).flt = s.flt := rfl
@[simp] theorem State.wire_sys (s : State) (p : Nat) (u : WireUnit) : (s.wire p u).sys = s.sys := rfl
@[simp] theorem State.wire_eng (s : State) (p : Nat) (u : WireUnit) : (s.wire p u).eng = s.eng := rfl
@[simp] theorem State.wire_xp (s : State) (p : Nat) (u : WireUnit) : (s.wire p u).xp = s.xp := rfl
@[simp] theorem State.wire_mat (s : State) (p : Nat) (u : WireUnit) : (s.wire p u).mat = s.mat := rfl
@[simp] theorem State.wire_coll (s : State) (p : Nat) (u : WireUnit) : (s.wire p u).coll = s.coll := rfl
@[simp] theorem State.wire_lock (s : State) (p : Nat) (u : WireUnit) : (s.wire p u).lock = s.lock := rfl
@[simp] theorem State.wire_xl (s : State) (p : Nat) (u : WireUnit) : (s.wire p u).xl = s.xl := rfl
@[simp] theorem State.wire_mover (s : State) (p : Nat) (u : WireUnit) : (s.wire p u).mover = s.mover := rfl
@[simp] theorem State.wire_pcie (s : State) (p : Nat) (u : WireUnit) : (s.wire p u).pcie = s.pcie := rfl
@[simp] theorem State.wire_lantern (s : State) (p : Nat) (u : WireUnit) : (s.wire p u).lantern = s.lantern := rfl
@[simp] theorem State.wire_mgmt (s : State) (p : Nat) (u : WireUnit) : (s.wire p u).mgmt = s.mgmt := rfl
@[simp] theorem State.wire_draws (s : State) (p : Nat) (u : WireUnit) : (s.wire p u).draws = s.draws := rfl
@[simp] theorem State.wire_pending (s : State) (p : Nat) (u : WireUnit) : (s.wire p u).pending = s.pending := rfl

@[simp] theorem State.drawNat_regs (s : State) : s.drawNat.2.regs = s.regs := rfl
@[simp] theorem State.drawNat_active (s : State) : s.drawNat.2.active = s.active := rfl
@[simp] theorem State.drawNat_unpublished (s : State) : s.drawNat.2.unpublished = s.unpublished := rfl
@[simp] theorem State.drawNat_wstat (s : State) : s.drawNat.2.wstat = s.wstat := rfl
@[simp] theorem State.drawNat_msix (s : State) : s.drawNat.2.msix = s.msix := rfl
@[simp] theorem State.drawNat_msixPending (s : State) : s.drawNat.2.msixPending = s.msixPending := rfl
@[simp] theorem State.drawNat_msixOn (s : State) : s.drawNat.2.msixOn = s.msixOn := rfl
@[simp] theorem State.drawNat_mem (s : State) : s.drawNat.2.mem = s.mem := rfl
@[simp] theorem State.drawNat_poison (s : State) : s.drawNat.2.poison = s.poison := rfl
@[simp] theorem State.drawNat_time (s : State) : s.drawNat.2.time = s.time := rfl
@[simp] theorem State.drawNat_jobs (s : State) : s.drawNat.2.jobs = s.jobs := rfl
@[simp] theorem State.drawNat_core (s : State) : s.drawNat.2.core = s.core := rfl
@[simp] theorem State.drawNat_ports (s : State) : s.drawNat.2.ports = s.ports := rfl
@[simp] theorem State.drawNat_lanes (s : State) : s.drawNat.2.lanes = s.lanes := rfl
@[simp] theorem State.drawNat_rings (s : State) : s.drawNat.2.rings = s.rings := rfl
@[simp] theorem State.drawNat_ni (s : State) : s.drawNat.2.ni = s.ni := rfl
@[simp] theorem State.drawNat_flt (s : State) : s.drawNat.2.flt = s.flt := rfl
@[simp] theorem State.drawNat_sys (s : State) : s.drawNat.2.sys = s.sys := rfl
@[simp] theorem State.drawNat_eng (s : State) : s.drawNat.2.eng = s.eng := rfl
@[simp] theorem State.drawNat_xp (s : State) : s.drawNat.2.xp = s.xp := rfl
@[simp] theorem State.drawNat_mat (s : State) : s.drawNat.2.mat = s.mat := rfl
@[simp] theorem State.drawNat_coll (s : State) : s.drawNat.2.coll = s.coll := rfl
@[simp] theorem State.drawNat_lock (s : State) : s.drawNat.2.lock = s.lock := rfl
@[simp] theorem State.drawNat_xl (s : State) : s.drawNat.2.xl = s.xl := rfl
@[simp] theorem State.drawNat_mover (s : State) : s.drawNat.2.mover = s.mover := rfl
@[simp] theorem State.drawNat_pcie (s : State) : s.drawNat.2.pcie = s.pcie := rfl
@[simp] theorem State.drawNat_lantern (s : State) : s.drawNat.2.lantern = s.lantern := rfl
@[simp] theorem State.drawNat_mgmt (s : State) : s.drawNat.2.mgmt = s.mgmt := rfl
@[simp] theorem State.drawNat_out (s : State) : s.drawNat.2.out = s.out := rfl
@[simp] theorem State.drawNat_pending (s : State) : s.drawNat.2.pending = s.pending := rfl

@[simp] theorem State.setPort_regs (s : State) (p : Nat) (x : PortSt) : (s.setPort p x).regs = s.regs := rfl
@[simp] theorem State.setPort_active (s : State) (p : Nat) (x : PortSt) : (s.setPort p x).active = s.active := rfl
@[simp] theorem State.setPort_unpublished (s : State) (p : Nat) (x : PortSt) : (s.setPort p x).unpublished = s.unpublished := rfl
@[simp] theorem State.setPort_wstat (s : State) (p : Nat) (x : PortSt) : (s.setPort p x).wstat = s.wstat := rfl
@[simp] theorem State.setPort_msix (s : State) (p : Nat) (x : PortSt) : (s.setPort p x).msix = s.msix := rfl
@[simp] theorem State.setPort_msixPending (s : State) (p : Nat) (x : PortSt) : (s.setPort p x).msixPending = s.msixPending := rfl
@[simp] theorem State.setPort_msixOn (s : State) (p : Nat) (x : PortSt) : (s.setPort p x).msixOn = s.msixOn := rfl
@[simp] theorem State.setPort_mem (s : State) (p : Nat) (x : PortSt) : (s.setPort p x).mem = s.mem := rfl
@[simp] theorem State.setPort_poison (s : State) (p : Nat) (x : PortSt) : (s.setPort p x).poison = s.poison := rfl
@[simp] theorem State.setPort_time (s : State) (p : Nat) (x : PortSt) : (s.setPort p x).time = s.time := rfl
@[simp] theorem State.setPort_jobs (s : State) (p : Nat) (x : PortSt) : (s.setPort p x).jobs = s.jobs := rfl
@[simp] theorem State.setPort_core (s : State) (p : Nat) (x : PortSt) : (s.setPort p x).core = s.core := rfl
@[simp] theorem State.setPort_lanes (s : State) (p : Nat) (x : PortSt) : (s.setPort p x).lanes = s.lanes := rfl
@[simp] theorem State.setPort_rings (s : State) (p : Nat) (x : PortSt) : (s.setPort p x).rings = s.rings := rfl
@[simp] theorem State.setPort_ni (s : State) (p : Nat) (x : PortSt) : (s.setPort p x).ni = s.ni := rfl
@[simp] theorem State.setPort_flt (s : State) (p : Nat) (x : PortSt) : (s.setPort p x).flt = s.flt := rfl
@[simp] theorem State.setPort_sys (s : State) (p : Nat) (x : PortSt) : (s.setPort p x).sys = s.sys := rfl
@[simp] theorem State.setPort_eng (s : State) (p : Nat) (x : PortSt) : (s.setPort p x).eng = s.eng := rfl
@[simp] theorem State.setPort_xp (s : State) (p : Nat) (x : PortSt) : (s.setPort p x).xp = s.xp := rfl
@[simp] theorem State.setPort_mat (s : State) (p : Nat) (x : PortSt) : (s.setPort p x).mat = s.mat := rfl
@[simp] theorem State.setPort_coll (s : State) (p : Nat) (x : PortSt) : (s.setPort p x).coll = s.coll := rfl
@[simp] theorem State.setPort_lock (s : State) (p : Nat) (x : PortSt) : (s.setPort p x).lock = s.lock := rfl
@[simp] theorem State.setPort_xl (s : State) (p : Nat) (x : PortSt) : (s.setPort p x).xl = s.xl := rfl
@[simp] theorem State.setPort_mover (s : State) (p : Nat) (x : PortSt) : (s.setPort p x).mover = s.mover := rfl
@[simp] theorem State.setPort_pcie (s : State) (p : Nat) (x : PortSt) : (s.setPort p x).pcie = s.pcie := rfl
@[simp] theorem State.setPort_lantern (s : State) (p : Nat) (x : PortSt) : (s.setPort p x).lantern = s.lantern := rfl
@[simp] theorem State.setPort_mgmt (s : State) (p : Nat) (x : PortSt) : (s.setPort p x).mgmt = s.mgmt := rfl
@[simp] theorem State.setPort_out (s : State) (p : Nat) (x : PortSt) : (s.setPort p x).out = s.out := rfl
@[simp] theorem State.setPort_draws (s : State) (p : Nat) (x : PortSt) : (s.setPort p x).draws = s.draws := rfl
@[simp] theorem State.setPort_pending (s : State) (p : Nat) (x : PortSt) : (s.setPort p x).pending = s.pending := rfl

@[simp] theorem State.modPort_regs (s : State) (p : Nat) (g : PortSt → PortSt) : (s.modPort p g).regs = s.regs := rfl
@[simp] theorem State.modPort_active (s : State) (p : Nat) (g : PortSt → PortSt) : (s.modPort p g).active = s.active := rfl
@[simp] theorem State.modPort_unpublished (s : State) (p : Nat) (g : PortSt → PortSt) : (s.modPort p g).unpublished = s.unpublished := rfl
@[simp] theorem State.modPort_wstat (s : State) (p : Nat) (g : PortSt → PortSt) : (s.modPort p g).wstat = s.wstat := rfl
@[simp] theorem State.modPort_msix (s : State) (p : Nat) (g : PortSt → PortSt) : (s.modPort p g).msix = s.msix := rfl
@[simp] theorem State.modPort_msixPending (s : State) (p : Nat) (g : PortSt → PortSt) : (s.modPort p g).msixPending = s.msixPending := rfl
@[simp] theorem State.modPort_msixOn (s : State) (p : Nat) (g : PortSt → PortSt) : (s.modPort p g).msixOn = s.msixOn := rfl
@[simp] theorem State.modPort_mem (s : State) (p : Nat) (g : PortSt → PortSt) : (s.modPort p g).mem = s.mem := rfl
@[simp] theorem State.modPort_poison (s : State) (p : Nat) (g : PortSt → PortSt) : (s.modPort p g).poison = s.poison := rfl
@[simp] theorem State.modPort_time (s : State) (p : Nat) (g : PortSt → PortSt) : (s.modPort p g).time = s.time := rfl
@[simp] theorem State.modPort_jobs (s : State) (p : Nat) (g : PortSt → PortSt) : (s.modPort p g).jobs = s.jobs := rfl
@[simp] theorem State.modPort_core (s : State) (p : Nat) (g : PortSt → PortSt) : (s.modPort p g).core = s.core := rfl
@[simp] theorem State.modPort_lanes (s : State) (p : Nat) (g : PortSt → PortSt) : (s.modPort p g).lanes = s.lanes := rfl
@[simp] theorem State.modPort_rings (s : State) (p : Nat) (g : PortSt → PortSt) : (s.modPort p g).rings = s.rings := rfl
@[simp] theorem State.modPort_ni (s : State) (p : Nat) (g : PortSt → PortSt) : (s.modPort p g).ni = s.ni := rfl
@[simp] theorem State.modPort_flt (s : State) (p : Nat) (g : PortSt → PortSt) : (s.modPort p g).flt = s.flt := rfl
@[simp] theorem State.modPort_sys (s : State) (p : Nat) (g : PortSt → PortSt) : (s.modPort p g).sys = s.sys := rfl
@[simp] theorem State.modPort_eng (s : State) (p : Nat) (g : PortSt → PortSt) : (s.modPort p g).eng = s.eng := rfl
@[simp] theorem State.modPort_xp (s : State) (p : Nat) (g : PortSt → PortSt) : (s.modPort p g).xp = s.xp := rfl
@[simp] theorem State.modPort_mat (s : State) (p : Nat) (g : PortSt → PortSt) : (s.modPort p g).mat = s.mat := rfl
@[simp] theorem State.modPort_coll (s : State) (p : Nat) (g : PortSt → PortSt) : (s.modPort p g).coll = s.coll := rfl
@[simp] theorem State.modPort_lock (s : State) (p : Nat) (g : PortSt → PortSt) : (s.modPort p g).lock = s.lock := rfl
@[simp] theorem State.modPort_xl (s : State) (p : Nat) (g : PortSt → PortSt) : (s.modPort p g).xl = s.xl := rfl
@[simp] theorem State.modPort_mover (s : State) (p : Nat) (g : PortSt → PortSt) : (s.modPort p g).mover = s.mover := rfl
@[simp] theorem State.modPort_pcie (s : State) (p : Nat) (g : PortSt → PortSt) : (s.modPort p g).pcie = s.pcie := rfl
@[simp] theorem State.modPort_lantern (s : State) (p : Nat) (g : PortSt → PortSt) : (s.modPort p g).lantern = s.lantern := rfl
@[simp] theorem State.modPort_mgmt (s : State) (p : Nat) (g : PortSt → PortSt) : (s.modPort p g).mgmt = s.mgmt := rfl
@[simp] theorem State.modPort_out (s : State) (p : Nat) (g : PortSt → PortSt) : (s.modPort p g).out = s.out := rfl
@[simp] theorem State.modPort_draws (s : State) (p : Nat) (g : PortSt → PortSt) : (s.modPort p g).draws = s.draws := rfl
@[simp] theorem State.modPort_pending (s : State) (p : Nat) (g : PortSt → PortSt) : (s.modPort p g).pending = s.pending := rfl

@[simp] theorem State.modLane_regs (s : State) (l : Nat) (g : LaneSt → LaneSt) : (s.modLane l g).regs = s.regs := rfl
@[simp] theorem State.modLane_active (s : State) (l : Nat) (g : LaneSt → LaneSt) : (s.modLane l g).active = s.active := rfl
@[simp] theorem State.modLane_unpublished (s : State) (l : Nat) (g : LaneSt → LaneSt) : (s.modLane l g).unpublished = s.unpublished := rfl
@[simp] theorem State.modLane_wstat (s : State) (l : Nat) (g : LaneSt → LaneSt) : (s.modLane l g).wstat = s.wstat := rfl
@[simp] theorem State.modLane_msix (s : State) (l : Nat) (g : LaneSt → LaneSt) : (s.modLane l g).msix = s.msix := rfl
@[simp] theorem State.modLane_msixPending (s : State) (l : Nat) (g : LaneSt → LaneSt) : (s.modLane l g).msixPending = s.msixPending := rfl
@[simp] theorem State.modLane_msixOn (s : State) (l : Nat) (g : LaneSt → LaneSt) : (s.modLane l g).msixOn = s.msixOn := rfl
@[simp] theorem State.modLane_mem (s : State) (l : Nat) (g : LaneSt → LaneSt) : (s.modLane l g).mem = s.mem := rfl
@[simp] theorem State.modLane_poison (s : State) (l : Nat) (g : LaneSt → LaneSt) : (s.modLane l g).poison = s.poison := rfl
@[simp] theorem State.modLane_time (s : State) (l : Nat) (g : LaneSt → LaneSt) : (s.modLane l g).time = s.time := rfl
@[simp] theorem State.modLane_jobs (s : State) (l : Nat) (g : LaneSt → LaneSt) : (s.modLane l g).jobs = s.jobs := rfl
@[simp] theorem State.modLane_core (s : State) (l : Nat) (g : LaneSt → LaneSt) : (s.modLane l g).core = s.core := rfl
@[simp] theorem State.modLane_ports (s : State) (l : Nat) (g : LaneSt → LaneSt) : (s.modLane l g).ports = s.ports := rfl
@[simp] theorem State.modLane_rings (s : State) (l : Nat) (g : LaneSt → LaneSt) : (s.modLane l g).rings = s.rings := rfl
@[simp] theorem State.modLane_ni (s : State) (l : Nat) (g : LaneSt → LaneSt) : (s.modLane l g).ni = s.ni := rfl
@[simp] theorem State.modLane_flt (s : State) (l : Nat) (g : LaneSt → LaneSt) : (s.modLane l g).flt = s.flt := rfl
@[simp] theorem State.modLane_sys (s : State) (l : Nat) (g : LaneSt → LaneSt) : (s.modLane l g).sys = s.sys := rfl
@[simp] theorem State.modLane_eng (s : State) (l : Nat) (g : LaneSt → LaneSt) : (s.modLane l g).eng = s.eng := rfl
@[simp] theorem State.modLane_xp (s : State) (l : Nat) (g : LaneSt → LaneSt) : (s.modLane l g).xp = s.xp := rfl
@[simp] theorem State.modLane_mat (s : State) (l : Nat) (g : LaneSt → LaneSt) : (s.modLane l g).mat = s.mat := rfl
@[simp] theorem State.modLane_coll (s : State) (l : Nat) (g : LaneSt → LaneSt) : (s.modLane l g).coll = s.coll := rfl
@[simp] theorem State.modLane_lock (s : State) (l : Nat) (g : LaneSt → LaneSt) : (s.modLane l g).lock = s.lock := rfl
@[simp] theorem State.modLane_xl (s : State) (l : Nat) (g : LaneSt → LaneSt) : (s.modLane l g).xl = s.xl := rfl
@[simp] theorem State.modLane_mover (s : State) (l : Nat) (g : LaneSt → LaneSt) : (s.modLane l g).mover = s.mover := rfl
@[simp] theorem State.modLane_pcie (s : State) (l : Nat) (g : LaneSt → LaneSt) : (s.modLane l g).pcie = s.pcie := rfl
@[simp] theorem State.modLane_lantern (s : State) (l : Nat) (g : LaneSt → LaneSt) : (s.modLane l g).lantern = s.lantern := rfl
@[simp] theorem State.modLane_mgmt (s : State) (l : Nat) (g : LaneSt → LaneSt) : (s.modLane l g).mgmt = s.mgmt := rfl
@[simp] theorem State.modLane_out (s : State) (l : Nat) (g : LaneSt → LaneSt) : (s.modLane l g).out = s.out := rfl
@[simp] theorem State.modLane_draws (s : State) (l : Nat) (g : LaneSt → LaneSt) : (s.modLane l g).draws = s.draws := rfl
@[simp] theorem State.modLane_pending (s : State) (l : Nat) (g : LaneSt → LaneSt) : (s.modLane l g).pending = s.pending := rfl

@[simp] theorem State.modRing_regs (s : State) (f r : Nat) (g : RingSt → RingSt) : (s.modRing f r g).regs = s.regs := rfl
@[simp] theorem State.modRing_active (s : State) (f r : Nat) (g : RingSt → RingSt) : (s.modRing f r g).active = s.active := rfl
@[simp] theorem State.modRing_unpublished (s : State) (f r : Nat) (g : RingSt → RingSt) : (s.modRing f r g).unpublished = s.unpublished := rfl
@[simp] theorem State.modRing_wstat (s : State) (f r : Nat) (g : RingSt → RingSt) : (s.modRing f r g).wstat = s.wstat := rfl
@[simp] theorem State.modRing_msix (s : State) (f r : Nat) (g : RingSt → RingSt) : (s.modRing f r g).msix = s.msix := rfl
@[simp] theorem State.modRing_msixPending (s : State) (f r : Nat) (g : RingSt → RingSt) : (s.modRing f r g).msixPending = s.msixPending := rfl
@[simp] theorem State.modRing_msixOn (s : State) (f r : Nat) (g : RingSt → RingSt) : (s.modRing f r g).msixOn = s.msixOn := rfl
@[simp] theorem State.modRing_mem (s : State) (f r : Nat) (g : RingSt → RingSt) : (s.modRing f r g).mem = s.mem := rfl
@[simp] theorem State.modRing_poison (s : State) (f r : Nat) (g : RingSt → RingSt) : (s.modRing f r g).poison = s.poison := rfl
@[simp] theorem State.modRing_time (s : State) (f r : Nat) (g : RingSt → RingSt) : (s.modRing f r g).time = s.time := rfl
@[simp] theorem State.modRing_jobs (s : State) (f r : Nat) (g : RingSt → RingSt) : (s.modRing f r g).jobs = s.jobs := rfl
@[simp] theorem State.modRing_core (s : State) (f r : Nat) (g : RingSt → RingSt) : (s.modRing f r g).core = s.core := rfl
@[simp] theorem State.modRing_ports (s : State) (f r : Nat) (g : RingSt → RingSt) : (s.modRing f r g).ports = s.ports := rfl
@[simp] theorem State.modRing_lanes (s : State) (f r : Nat) (g : RingSt → RingSt) : (s.modRing f r g).lanes = s.lanes := rfl
@[simp] theorem State.modRing_ni (s : State) (f r : Nat) (g : RingSt → RingSt) : (s.modRing f r g).ni = s.ni := rfl
@[simp] theorem State.modRing_flt (s : State) (f r : Nat) (g : RingSt → RingSt) : (s.modRing f r g).flt = s.flt := rfl
@[simp] theorem State.modRing_sys (s : State) (f r : Nat) (g : RingSt → RingSt) : (s.modRing f r g).sys = s.sys := rfl
@[simp] theorem State.modRing_eng (s : State) (f r : Nat) (g : RingSt → RingSt) : (s.modRing f r g).eng = s.eng := rfl
@[simp] theorem State.modRing_xp (s : State) (f r : Nat) (g : RingSt → RingSt) : (s.modRing f r g).xp = s.xp := rfl
@[simp] theorem State.modRing_mat (s : State) (f r : Nat) (g : RingSt → RingSt) : (s.modRing f r g).mat = s.mat := rfl
@[simp] theorem State.modRing_coll (s : State) (f r : Nat) (g : RingSt → RingSt) : (s.modRing f r g).coll = s.coll := rfl
@[simp] theorem State.modRing_lock (s : State) (f r : Nat) (g : RingSt → RingSt) : (s.modRing f r g).lock = s.lock := rfl
@[simp] theorem State.modRing_xl (s : State) (f r : Nat) (g : RingSt → RingSt) : (s.modRing f r g).xl = s.xl := rfl
@[simp] theorem State.modRing_mover (s : State) (f r : Nat) (g : RingSt → RingSt) : (s.modRing f r g).mover = s.mover := rfl
@[simp] theorem State.modRing_pcie (s : State) (f r : Nat) (g : RingSt → RingSt) : (s.modRing f r g).pcie = s.pcie := rfl
@[simp] theorem State.modRing_lantern (s : State) (f r : Nat) (g : RingSt → RingSt) : (s.modRing f r g).lantern = s.lantern := rfl
@[simp] theorem State.modRing_mgmt (s : State) (f r : Nat) (g : RingSt → RingSt) : (s.modRing f r g).mgmt = s.mgmt := rfl
@[simp] theorem State.modRing_out (s : State) (f r : Nat) (g : RingSt → RingSt) : (s.modRing f r g).out = s.out := rfl
@[simp] theorem State.modRing_draws (s : State) (f r : Nat) (g : RingSt → RingSt) : (s.modRing f r g).draws = s.draws := rfl
@[simp] theorem State.modRing_pending (s : State) (f r : Nat) (g : RingSt → RingSt) : (s.modRing f r g).pending = s.pending := rfl

@[simp] theorem State.modCore_regs (s : State) (g : CoreSt → CoreSt) : (s.modCore g).regs = s.regs := rfl
@[simp] theorem State.modCore_active (s : State) (g : CoreSt → CoreSt) : (s.modCore g).active = s.active := rfl
@[simp] theorem State.modCore_unpublished (s : State) (g : CoreSt → CoreSt) : (s.modCore g).unpublished = s.unpublished := rfl
@[simp] theorem State.modCore_wstat (s : State) (g : CoreSt → CoreSt) : (s.modCore g).wstat = s.wstat := rfl
@[simp] theorem State.modCore_msix (s : State) (g : CoreSt → CoreSt) : (s.modCore g).msix = s.msix := rfl
@[simp] theorem State.modCore_msixPending (s : State) (g : CoreSt → CoreSt) : (s.modCore g).msixPending = s.msixPending := rfl
@[simp] theorem State.modCore_msixOn (s : State) (g : CoreSt → CoreSt) : (s.modCore g).msixOn = s.msixOn := rfl
@[simp] theorem State.modCore_mem (s : State) (g : CoreSt → CoreSt) : (s.modCore g).mem = s.mem := rfl
@[simp] theorem State.modCore_poison (s : State) (g : CoreSt → CoreSt) : (s.modCore g).poison = s.poison := rfl
@[simp] theorem State.modCore_time (s : State) (g : CoreSt → CoreSt) : (s.modCore g).time = s.time := rfl
@[simp] theorem State.modCore_jobs (s : State) (g : CoreSt → CoreSt) : (s.modCore g).jobs = s.jobs := rfl
@[simp] theorem State.modCore_ports (s : State) (g : CoreSt → CoreSt) : (s.modCore g).ports = s.ports := rfl
@[simp] theorem State.modCore_lanes (s : State) (g : CoreSt → CoreSt) : (s.modCore g).lanes = s.lanes := rfl
@[simp] theorem State.modCore_rings (s : State) (g : CoreSt → CoreSt) : (s.modCore g).rings = s.rings := rfl
@[simp] theorem State.modCore_ni (s : State) (g : CoreSt → CoreSt) : (s.modCore g).ni = s.ni := rfl
@[simp] theorem State.modCore_flt (s : State) (g : CoreSt → CoreSt) : (s.modCore g).flt = s.flt := rfl
@[simp] theorem State.modCore_sys (s : State) (g : CoreSt → CoreSt) : (s.modCore g).sys = s.sys := rfl
@[simp] theorem State.modCore_eng (s : State) (g : CoreSt → CoreSt) : (s.modCore g).eng = s.eng := rfl
@[simp] theorem State.modCore_xp (s : State) (g : CoreSt → CoreSt) : (s.modCore g).xp = s.xp := rfl
@[simp] theorem State.modCore_mat (s : State) (g : CoreSt → CoreSt) : (s.modCore g).mat = s.mat := rfl
@[simp] theorem State.modCore_coll (s : State) (g : CoreSt → CoreSt) : (s.modCore g).coll = s.coll := rfl
@[simp] theorem State.modCore_lock (s : State) (g : CoreSt → CoreSt) : (s.modCore g).lock = s.lock := rfl
@[simp] theorem State.modCore_xl (s : State) (g : CoreSt → CoreSt) : (s.modCore g).xl = s.xl := rfl
@[simp] theorem State.modCore_mover (s : State) (g : CoreSt → CoreSt) : (s.modCore g).mover = s.mover := rfl
@[simp] theorem State.modCore_pcie (s : State) (g : CoreSt → CoreSt) : (s.modCore g).pcie = s.pcie := rfl
@[simp] theorem State.modCore_lantern (s : State) (g : CoreSt → CoreSt) : (s.modCore g).lantern = s.lantern := rfl
@[simp] theorem State.modCore_mgmt (s : State) (g : CoreSt → CoreSt) : (s.modCore g).mgmt = s.mgmt := rfl
@[simp] theorem State.modCore_out (s : State) (g : CoreSt → CoreSt) : (s.modCore g).out = s.out := rfl
@[simp] theorem State.modCore_draws (s : State) (g : CoreSt → CoreSt) : (s.modCore g).draws = s.draws := rfl
@[simp] theorem State.modCore_pending (s : State) (g : CoreSt → CoreSt) : (s.modCore g).pending = s.pending := rfl

@[simp] theorem State.wsRecord_regs (s : State) (rq : Requester) (st : Status) (off : Nat) : (s.wsRecord rq st off).regs = s.regs := rfl
@[simp] theorem State.wsRecord_active (s : State) (rq : Requester) (st : Status) (off : Nat) : (s.wsRecord rq st off).active = s.active := rfl
@[simp] theorem State.wsRecord_unpublished (s : State) (rq : Requester) (st : Status) (off : Nat) : (s.wsRecord rq st off).unpublished = s.unpublished := rfl
@[simp] theorem State.wsRecord_msix (s : State) (rq : Requester) (st : Status) (off : Nat) : (s.wsRecord rq st off).msix = s.msix := rfl
@[simp] theorem State.wsRecord_msixPending (s : State) (rq : Requester) (st : Status) (off : Nat) : (s.wsRecord rq st off).msixPending = s.msixPending := rfl
@[simp] theorem State.wsRecord_msixOn (s : State) (rq : Requester) (st : Status) (off : Nat) : (s.wsRecord rq st off).msixOn = s.msixOn := rfl
@[simp] theorem State.wsRecord_mem (s : State) (rq : Requester) (st : Status) (off : Nat) : (s.wsRecord rq st off).mem = s.mem := rfl
@[simp] theorem State.wsRecord_poison (s : State) (rq : Requester) (st : Status) (off : Nat) : (s.wsRecord rq st off).poison = s.poison := rfl
@[simp] theorem State.wsRecord_time (s : State) (rq : Requester) (st : Status) (off : Nat) : (s.wsRecord rq st off).time = s.time := rfl
@[simp] theorem State.wsRecord_jobs (s : State) (rq : Requester) (st : Status) (off : Nat) : (s.wsRecord rq st off).jobs = s.jobs := rfl
@[simp] theorem State.wsRecord_core (s : State) (rq : Requester) (st : Status) (off : Nat) : (s.wsRecord rq st off).core = s.core := rfl
@[simp] theorem State.wsRecord_ports (s : State) (rq : Requester) (st : Status) (off : Nat) : (s.wsRecord rq st off).ports = s.ports := rfl
@[simp] theorem State.wsRecord_lanes (s : State) (rq : Requester) (st : Status) (off : Nat) : (s.wsRecord rq st off).lanes = s.lanes := rfl
@[simp] theorem State.wsRecord_rings (s : State) (rq : Requester) (st : Status) (off : Nat) : (s.wsRecord rq st off).rings = s.rings := rfl
@[simp] theorem State.wsRecord_ni (s : State) (rq : Requester) (st : Status) (off : Nat) : (s.wsRecord rq st off).ni = s.ni := rfl
@[simp] theorem State.wsRecord_flt (s : State) (rq : Requester) (st : Status) (off : Nat) : (s.wsRecord rq st off).flt = s.flt := rfl
@[simp] theorem State.wsRecord_sys (s : State) (rq : Requester) (st : Status) (off : Nat) : (s.wsRecord rq st off).sys = s.sys := rfl
@[simp] theorem State.wsRecord_eng (s : State) (rq : Requester) (st : Status) (off : Nat) : (s.wsRecord rq st off).eng = s.eng := rfl
@[simp] theorem State.wsRecord_xp (s : State) (rq : Requester) (st : Status) (off : Nat) : (s.wsRecord rq st off).xp = s.xp := rfl
@[simp] theorem State.wsRecord_mat (s : State) (rq : Requester) (st : Status) (off : Nat) : (s.wsRecord rq st off).mat = s.mat := rfl
@[simp] theorem State.wsRecord_coll (s : State) (rq : Requester) (st : Status) (off : Nat) : (s.wsRecord rq st off).coll = s.coll := rfl
@[simp] theorem State.wsRecord_lock (s : State) (rq : Requester) (st : Status) (off : Nat) : (s.wsRecord rq st off).lock = s.lock := rfl
@[simp] theorem State.wsRecord_xl (s : State) (rq : Requester) (st : Status) (off : Nat) : (s.wsRecord rq st off).xl = s.xl := rfl
@[simp] theorem State.wsRecord_mover (s : State) (rq : Requester) (st : Status) (off : Nat) : (s.wsRecord rq st off).mover = s.mover := rfl
@[simp] theorem State.wsRecord_pcie (s : State) (rq : Requester) (st : Status) (off : Nat) : (s.wsRecord rq st off).pcie = s.pcie := rfl
@[simp] theorem State.wsRecord_lantern (s : State) (rq : Requester) (st : Status) (off : Nat) : (s.wsRecord rq st off).lantern = s.lantern := rfl
@[simp] theorem State.wsRecord_mgmt (s : State) (rq : Requester) (st : Status) (off : Nat) : (s.wsRecord rq st off).mgmt = s.mgmt := rfl
@[simp] theorem State.wsRecord_out (s : State) (rq : Requester) (st : Status) (off : Nat) : (s.wsRecord rq st off).out = s.out := rfl
@[simp] theorem State.wsRecord_draws (s : State) (rq : Requester) (st : Status) (off : Nat) : (s.wsRecord rq st off).draws = s.draws := rfl
@[simp] theorem State.wsRecord_pending (s : State) (rq : Requester) (st : Status) (off : Nat) : (s.wsRecord rq st off).pending = s.pending := rfl

@[simp] theorem State.modTime_regs (s : State) (g : TimeSt → TimeSt) : (s.modTime g).regs = s.regs := rfl
@[simp] theorem State.modTime_active (s : State) (g : TimeSt → TimeSt) : (s.modTime g).active = s.active := rfl
@[simp] theorem State.modTime_unpublished (s : State) (g : TimeSt → TimeSt) : (s.modTime g).unpublished = s.unpublished := rfl
@[simp] theorem State.modTime_wstat (s : State) (g : TimeSt → TimeSt) : (s.modTime g).wstat = s.wstat := rfl
@[simp] theorem State.modTime_msix (s : State) (g : TimeSt → TimeSt) : (s.modTime g).msix = s.msix := rfl
@[simp] theorem State.modTime_msixPending (s : State) (g : TimeSt → TimeSt) : (s.modTime g).msixPending = s.msixPending := rfl
@[simp] theorem State.modTime_msixOn (s : State) (g : TimeSt → TimeSt) : (s.modTime g).msixOn = s.msixOn := rfl
@[simp] theorem State.modTime_mem (s : State) (g : TimeSt → TimeSt) : (s.modTime g).mem = s.mem := rfl
@[simp] theorem State.modTime_poison (s : State) (g : TimeSt → TimeSt) : (s.modTime g).poison = s.poison := rfl
@[simp] theorem State.modTime_jobs (s : State) (g : TimeSt → TimeSt) : (s.modTime g).jobs = s.jobs := rfl
@[simp] theorem State.modTime_core (s : State) (g : TimeSt → TimeSt) : (s.modTime g).core = s.core := rfl
@[simp] theorem State.modTime_ports (s : State) (g : TimeSt → TimeSt) : (s.modTime g).ports = s.ports := rfl
@[simp] theorem State.modTime_lanes (s : State) (g : TimeSt → TimeSt) : (s.modTime g).lanes = s.lanes := rfl
@[simp] theorem State.modTime_rings (s : State) (g : TimeSt → TimeSt) : (s.modTime g).rings = s.rings := rfl
@[simp] theorem State.modTime_ni (s : State) (g : TimeSt → TimeSt) : (s.modTime g).ni = s.ni := rfl
@[simp] theorem State.modTime_flt (s : State) (g : TimeSt → TimeSt) : (s.modTime g).flt = s.flt := rfl
@[simp] theorem State.modTime_sys (s : State) (g : TimeSt → TimeSt) : (s.modTime g).sys = s.sys := rfl
@[simp] theorem State.modTime_eng (s : State) (g : TimeSt → TimeSt) : (s.modTime g).eng = s.eng := rfl
@[simp] theorem State.modTime_xp (s : State) (g : TimeSt → TimeSt) : (s.modTime g).xp = s.xp := rfl
@[simp] theorem State.modTime_mat (s : State) (g : TimeSt → TimeSt) : (s.modTime g).mat = s.mat := rfl
@[simp] theorem State.modTime_coll (s : State) (g : TimeSt → TimeSt) : (s.modTime g).coll = s.coll := rfl
@[simp] theorem State.modTime_lock (s : State) (g : TimeSt → TimeSt) : (s.modTime g).lock = s.lock := rfl
@[simp] theorem State.modTime_xl (s : State) (g : TimeSt → TimeSt) : (s.modTime g).xl = s.xl := rfl
@[simp] theorem State.modTime_mover (s : State) (g : TimeSt → TimeSt) : (s.modTime g).mover = s.mover := rfl
@[simp] theorem State.modTime_pcie (s : State) (g : TimeSt → TimeSt) : (s.modTime g).pcie = s.pcie := rfl
@[simp] theorem State.modTime_lantern (s : State) (g : TimeSt → TimeSt) : (s.modTime g).lantern = s.lantern := rfl
@[simp] theorem State.modTime_mgmt (s : State) (g : TimeSt → TimeSt) : (s.modTime g).mgmt = s.mgmt := rfl
@[simp] theorem State.modTime_out (s : State) (g : TimeSt → TimeSt) : (s.modTime g).out = s.out := rfl
@[simp] theorem State.modTime_draws (s : State) (g : TimeSt → TimeSt) : (s.modTime g).draws = s.draws := rfl
@[simp] theorem State.modTime_pending (s : State) (g : TimeSt → TimeSt) : (s.modTime g).pending = s.pending := rfl

@[simp] theorem State.modSys_regs (s : State) (g : SysSt → SysSt) : (s.modSys g).regs = s.regs := rfl
@[simp] theorem State.modSys_active (s : State) (g : SysSt → SysSt) : (s.modSys g).active = s.active := rfl
@[simp] theorem State.modSys_unpublished (s : State) (g : SysSt → SysSt) : (s.modSys g).unpublished = s.unpublished := rfl
@[simp] theorem State.modSys_wstat (s : State) (g : SysSt → SysSt) : (s.modSys g).wstat = s.wstat := rfl
@[simp] theorem State.modSys_msix (s : State) (g : SysSt → SysSt) : (s.modSys g).msix = s.msix := rfl
@[simp] theorem State.modSys_msixPending (s : State) (g : SysSt → SysSt) : (s.modSys g).msixPending = s.msixPending := rfl
@[simp] theorem State.modSys_msixOn (s : State) (g : SysSt → SysSt) : (s.modSys g).msixOn = s.msixOn := rfl
@[simp] theorem State.modSys_mem (s : State) (g : SysSt → SysSt) : (s.modSys g).mem = s.mem := rfl
@[simp] theorem State.modSys_poison (s : State) (g : SysSt → SysSt) : (s.modSys g).poison = s.poison := rfl
@[simp] theorem State.modSys_time (s : State) (g : SysSt → SysSt) : (s.modSys g).time = s.time := rfl
@[simp] theorem State.modSys_jobs (s : State) (g : SysSt → SysSt) : (s.modSys g).jobs = s.jobs := rfl
@[simp] theorem State.modSys_core (s : State) (g : SysSt → SysSt) : (s.modSys g).core = s.core := rfl
@[simp] theorem State.modSys_ports (s : State) (g : SysSt → SysSt) : (s.modSys g).ports = s.ports := rfl
@[simp] theorem State.modSys_lanes (s : State) (g : SysSt → SysSt) : (s.modSys g).lanes = s.lanes := rfl
@[simp] theorem State.modSys_rings (s : State) (g : SysSt → SysSt) : (s.modSys g).rings = s.rings := rfl
@[simp] theorem State.modSys_ni (s : State) (g : SysSt → SysSt) : (s.modSys g).ni = s.ni := rfl
@[simp] theorem State.modSys_flt (s : State) (g : SysSt → SysSt) : (s.modSys g).flt = s.flt := rfl
@[simp] theorem State.modSys_eng (s : State) (g : SysSt → SysSt) : (s.modSys g).eng = s.eng := rfl
@[simp] theorem State.modSys_xp (s : State) (g : SysSt → SysSt) : (s.modSys g).xp = s.xp := rfl
@[simp] theorem State.modSys_mat (s : State) (g : SysSt → SysSt) : (s.modSys g).mat = s.mat := rfl
@[simp] theorem State.modSys_coll (s : State) (g : SysSt → SysSt) : (s.modSys g).coll = s.coll := rfl
@[simp] theorem State.modSys_lock (s : State) (g : SysSt → SysSt) : (s.modSys g).lock = s.lock := rfl
@[simp] theorem State.modSys_xl (s : State) (g : SysSt → SysSt) : (s.modSys g).xl = s.xl := rfl
@[simp] theorem State.modSys_mover (s : State) (g : SysSt → SysSt) : (s.modSys g).mover = s.mover := rfl
@[simp] theorem State.modSys_pcie (s : State) (g : SysSt → SysSt) : (s.modSys g).pcie = s.pcie := rfl
@[simp] theorem State.modSys_lantern (s : State) (g : SysSt → SysSt) : (s.modSys g).lantern = s.lantern := rfl
@[simp] theorem State.modSys_mgmt (s : State) (g : SysSt → SysSt) : (s.modSys g).mgmt = s.mgmt := rfl
@[simp] theorem State.modSys_out (s : State) (g : SysSt → SysSt) : (s.modSys g).out = s.out := rfl
@[simp] theorem State.modSys_draws (s : State) (g : SysSt → SysSt) : (s.modSys g).draws = s.draws := rfl
@[simp] theorem State.modSys_pending (s : State) (g : SysSt → SysSt) : (s.modSys g).pending = s.pending := rfl

@[simp] theorem State.modFlt_regs (s : State) (g : FaultSt → FaultSt) : (s.modFlt g).regs = s.regs := rfl
@[simp] theorem State.modFlt_active (s : State) (g : FaultSt → FaultSt) : (s.modFlt g).active = s.active := rfl
@[simp] theorem State.modFlt_unpublished (s : State) (g : FaultSt → FaultSt) : (s.modFlt g).unpublished = s.unpublished := rfl
@[simp] theorem State.modFlt_wstat (s : State) (g : FaultSt → FaultSt) : (s.modFlt g).wstat = s.wstat := rfl
@[simp] theorem State.modFlt_msix (s : State) (g : FaultSt → FaultSt) : (s.modFlt g).msix = s.msix := rfl
@[simp] theorem State.modFlt_msixPending (s : State) (g : FaultSt → FaultSt) : (s.modFlt g).msixPending = s.msixPending := rfl
@[simp] theorem State.modFlt_msixOn (s : State) (g : FaultSt → FaultSt) : (s.modFlt g).msixOn = s.msixOn := rfl
@[simp] theorem State.modFlt_mem (s : State) (g : FaultSt → FaultSt) : (s.modFlt g).mem = s.mem := rfl
@[simp] theorem State.modFlt_poison (s : State) (g : FaultSt → FaultSt) : (s.modFlt g).poison = s.poison := rfl
@[simp] theorem State.modFlt_time (s : State) (g : FaultSt → FaultSt) : (s.modFlt g).time = s.time := rfl
@[simp] theorem State.modFlt_jobs (s : State) (g : FaultSt → FaultSt) : (s.modFlt g).jobs = s.jobs := rfl
@[simp] theorem State.modFlt_core (s : State) (g : FaultSt → FaultSt) : (s.modFlt g).core = s.core := rfl
@[simp] theorem State.modFlt_ports (s : State) (g : FaultSt → FaultSt) : (s.modFlt g).ports = s.ports := rfl
@[simp] theorem State.modFlt_lanes (s : State) (g : FaultSt → FaultSt) : (s.modFlt g).lanes = s.lanes := rfl
@[simp] theorem State.modFlt_rings (s : State) (g : FaultSt → FaultSt) : (s.modFlt g).rings = s.rings := rfl
@[simp] theorem State.modFlt_ni (s : State) (g : FaultSt → FaultSt) : (s.modFlt g).ni = s.ni := rfl
@[simp] theorem State.modFlt_sys (s : State) (g : FaultSt → FaultSt) : (s.modFlt g).sys = s.sys := rfl
@[simp] theorem State.modFlt_eng (s : State) (g : FaultSt → FaultSt) : (s.modFlt g).eng = s.eng := rfl
@[simp] theorem State.modFlt_xp (s : State) (g : FaultSt → FaultSt) : (s.modFlt g).xp = s.xp := rfl
@[simp] theorem State.modFlt_mat (s : State) (g : FaultSt → FaultSt) : (s.modFlt g).mat = s.mat := rfl
@[simp] theorem State.modFlt_coll (s : State) (g : FaultSt → FaultSt) : (s.modFlt g).coll = s.coll := rfl
@[simp] theorem State.modFlt_lock (s : State) (g : FaultSt → FaultSt) : (s.modFlt g).lock = s.lock := rfl
@[simp] theorem State.modFlt_xl (s : State) (g : FaultSt → FaultSt) : (s.modFlt g).xl = s.xl := rfl
@[simp] theorem State.modFlt_mover (s : State) (g : FaultSt → FaultSt) : (s.modFlt g).mover = s.mover := rfl
@[simp] theorem State.modFlt_pcie (s : State) (g : FaultSt → FaultSt) : (s.modFlt g).pcie = s.pcie := rfl
@[simp] theorem State.modFlt_lantern (s : State) (g : FaultSt → FaultSt) : (s.modFlt g).lantern = s.lantern := rfl
@[simp] theorem State.modFlt_mgmt (s : State) (g : FaultSt → FaultSt) : (s.modFlt g).mgmt = s.mgmt := rfl
@[simp] theorem State.modFlt_out (s : State) (g : FaultSt → FaultSt) : (s.modFlt g).out = s.out := rfl
@[simp] theorem State.modFlt_draws (s : State) (g : FaultSt → FaultSt) : (s.modFlt g).draws = s.draws := rfl
@[simp] theorem State.modFlt_pending (s : State) (g : FaultSt → FaultSt) : (s.modFlt g).pending = s.pending := rfl

@[simp] theorem State.modLantern_regs (s : State) (g : LanternSt → LanternSt) : (s.modLantern g).regs = s.regs := rfl
@[simp] theorem State.modLantern_active (s : State) (g : LanternSt → LanternSt) : (s.modLantern g).active = s.active := rfl
@[simp] theorem State.modLantern_unpublished (s : State) (g : LanternSt → LanternSt) : (s.modLantern g).unpublished = s.unpublished := rfl
@[simp] theorem State.modLantern_wstat (s : State) (g : LanternSt → LanternSt) : (s.modLantern g).wstat = s.wstat := rfl
@[simp] theorem State.modLantern_msix (s : State) (g : LanternSt → LanternSt) : (s.modLantern g).msix = s.msix := rfl
@[simp] theorem State.modLantern_msixPending (s : State) (g : LanternSt → LanternSt) : (s.modLantern g).msixPending = s.msixPending := rfl
@[simp] theorem State.modLantern_msixOn (s : State) (g : LanternSt → LanternSt) : (s.modLantern g).msixOn = s.msixOn := rfl
@[simp] theorem State.modLantern_mem (s : State) (g : LanternSt → LanternSt) : (s.modLantern g).mem = s.mem := rfl
@[simp] theorem State.modLantern_poison (s : State) (g : LanternSt → LanternSt) : (s.modLantern g).poison = s.poison := rfl
@[simp] theorem State.modLantern_time (s : State) (g : LanternSt → LanternSt) : (s.modLantern g).time = s.time := rfl
@[simp] theorem State.modLantern_jobs (s : State) (g : LanternSt → LanternSt) : (s.modLantern g).jobs = s.jobs := rfl
@[simp] theorem State.modLantern_core (s : State) (g : LanternSt → LanternSt) : (s.modLantern g).core = s.core := rfl
@[simp] theorem State.modLantern_ports (s : State) (g : LanternSt → LanternSt) : (s.modLantern g).ports = s.ports := rfl
@[simp] theorem State.modLantern_lanes (s : State) (g : LanternSt → LanternSt) : (s.modLantern g).lanes = s.lanes := rfl
@[simp] theorem State.modLantern_rings (s : State) (g : LanternSt → LanternSt) : (s.modLantern g).rings = s.rings := rfl
@[simp] theorem State.modLantern_ni (s : State) (g : LanternSt → LanternSt) : (s.modLantern g).ni = s.ni := rfl
@[simp] theorem State.modLantern_flt (s : State) (g : LanternSt → LanternSt) : (s.modLantern g).flt = s.flt := rfl
@[simp] theorem State.modLantern_sys (s : State) (g : LanternSt → LanternSt) : (s.modLantern g).sys = s.sys := rfl
@[simp] theorem State.modLantern_eng (s : State) (g : LanternSt → LanternSt) : (s.modLantern g).eng = s.eng := rfl
@[simp] theorem State.modLantern_xp (s : State) (g : LanternSt → LanternSt) : (s.modLantern g).xp = s.xp := rfl
@[simp] theorem State.modLantern_mat (s : State) (g : LanternSt → LanternSt) : (s.modLantern g).mat = s.mat := rfl
@[simp] theorem State.modLantern_coll (s : State) (g : LanternSt → LanternSt) : (s.modLantern g).coll = s.coll := rfl
@[simp] theorem State.modLantern_lock (s : State) (g : LanternSt → LanternSt) : (s.modLantern g).lock = s.lock := rfl
@[simp] theorem State.modLantern_xl (s : State) (g : LanternSt → LanternSt) : (s.modLantern g).xl = s.xl := rfl
@[simp] theorem State.modLantern_mover (s : State) (g : LanternSt → LanternSt) : (s.modLantern g).mover = s.mover := rfl
@[simp] theorem State.modLantern_pcie (s : State) (g : LanternSt → LanternSt) : (s.modLantern g).pcie = s.pcie := rfl
@[simp] theorem State.modLantern_mgmt (s : State) (g : LanternSt → LanternSt) : (s.modLantern g).mgmt = s.mgmt := rfl
@[simp] theorem State.modLantern_out (s : State) (g : LanternSt → LanternSt) : (s.modLantern g).out = s.out := rfl
@[simp] theorem State.modLantern_draws (s : State) (g : LanternSt → LanternSt) : (s.modLantern g).draws = s.draws := rfl
@[simp] theorem State.modLantern_pending (s : State) (g : LanternSt → LanternSt) : (s.modLantern g).pending = s.pending := rfl

@[simp] theorem State.modPcie_regs (s : State) (g : PcieSt → PcieSt) : (s.modPcie g).regs = s.regs := rfl
@[simp] theorem State.modPcie_active (s : State) (g : PcieSt → PcieSt) : (s.modPcie g).active = s.active := rfl
@[simp] theorem State.modPcie_unpublished (s : State) (g : PcieSt → PcieSt) : (s.modPcie g).unpublished = s.unpublished := rfl
@[simp] theorem State.modPcie_wstat (s : State) (g : PcieSt → PcieSt) : (s.modPcie g).wstat = s.wstat := rfl
@[simp] theorem State.modPcie_msix (s : State) (g : PcieSt → PcieSt) : (s.modPcie g).msix = s.msix := rfl
@[simp] theorem State.modPcie_msixPending (s : State) (g : PcieSt → PcieSt) : (s.modPcie g).msixPending = s.msixPending := rfl
@[simp] theorem State.modPcie_msixOn (s : State) (g : PcieSt → PcieSt) : (s.modPcie g).msixOn = s.msixOn := rfl
@[simp] theorem State.modPcie_mem (s : State) (g : PcieSt → PcieSt) : (s.modPcie g).mem = s.mem := rfl
@[simp] theorem State.modPcie_poison (s : State) (g : PcieSt → PcieSt) : (s.modPcie g).poison = s.poison := rfl
@[simp] theorem State.modPcie_time (s : State) (g : PcieSt → PcieSt) : (s.modPcie g).time = s.time := rfl
@[simp] theorem State.modPcie_jobs (s : State) (g : PcieSt → PcieSt) : (s.modPcie g).jobs = s.jobs := rfl
@[simp] theorem State.modPcie_core (s : State) (g : PcieSt → PcieSt) : (s.modPcie g).core = s.core := rfl
@[simp] theorem State.modPcie_ports (s : State) (g : PcieSt → PcieSt) : (s.modPcie g).ports = s.ports := rfl
@[simp] theorem State.modPcie_lanes (s : State) (g : PcieSt → PcieSt) : (s.modPcie g).lanes = s.lanes := rfl
@[simp] theorem State.modPcie_rings (s : State) (g : PcieSt → PcieSt) : (s.modPcie g).rings = s.rings := rfl
@[simp] theorem State.modPcie_ni (s : State) (g : PcieSt → PcieSt) : (s.modPcie g).ni = s.ni := rfl
@[simp] theorem State.modPcie_flt (s : State) (g : PcieSt → PcieSt) : (s.modPcie g).flt = s.flt := rfl
@[simp] theorem State.modPcie_sys (s : State) (g : PcieSt → PcieSt) : (s.modPcie g).sys = s.sys := rfl
@[simp] theorem State.modPcie_eng (s : State) (g : PcieSt → PcieSt) : (s.modPcie g).eng = s.eng := rfl
@[simp] theorem State.modPcie_xp (s : State) (g : PcieSt → PcieSt) : (s.modPcie g).xp = s.xp := rfl
@[simp] theorem State.modPcie_mat (s : State) (g : PcieSt → PcieSt) : (s.modPcie g).mat = s.mat := rfl
@[simp] theorem State.modPcie_coll (s : State) (g : PcieSt → PcieSt) : (s.modPcie g).coll = s.coll := rfl
@[simp] theorem State.modPcie_lock (s : State) (g : PcieSt → PcieSt) : (s.modPcie g).lock = s.lock := rfl
@[simp] theorem State.modPcie_xl (s : State) (g : PcieSt → PcieSt) : (s.modPcie g).xl = s.xl := rfl
@[simp] theorem State.modPcie_mover (s : State) (g : PcieSt → PcieSt) : (s.modPcie g).mover = s.mover := rfl
@[simp] theorem State.modPcie_lantern (s : State) (g : PcieSt → PcieSt) : (s.modPcie g).lantern = s.lantern := rfl
@[simp] theorem State.modPcie_mgmt (s : State) (g : PcieSt → PcieSt) : (s.modPcie g).mgmt = s.mgmt := rfl
@[simp] theorem State.modPcie_out (s : State) (g : PcieSt → PcieSt) : (s.modPcie g).out = s.out := rfl
@[simp] theorem State.modPcie_draws (s : State) (g : PcieSt → PcieSt) : (s.modPcie g).draws = s.draws := rfl
@[simp] theorem State.modPcie_pending (s : State) (g : PcieSt → PcieSt) : (s.modPcie g).pending = s.pending := rfl

/-! ### Registers that an update leaves -/

@[simp] theorem State.emit_rd (s : State) (o : Out) (q : Reg) : (s.emit o).rd q = s.rd q := rfl
@[simp] theorem State.emit_f (s : State) (o : Out) (q : RegFld) (k n : Nat) : (s.emit o).f q k n = s.f q k n := rfl
@[simp] theorem State.emit_on (s : State) (o : Out) (q : RegFld) (k n : Nat) : (s.emit o).on q k n = s.on q k n := rfl
@[simp] theorem State.emit_fa (s : State) (o : Out) (q : RegFld) (k n : Nat) : (s.emit o).fa q k n = s.fa q k n := rfl
@[simp] theorem State.wire_rd (s : State) (p : Nat) (u : WireUnit) (q : Reg) : (s.wire p u).rd q = s.rd q := rfl
@[simp] theorem State.wire_f (s : State) (p : Nat) (u : WireUnit) (q : RegFld) (k n : Nat) : (s.wire p u).f q k n = s.f q k n := rfl
@[simp] theorem State.wire_on (s : State) (p : Nat) (u : WireUnit) (q : RegFld) (k n : Nat) : (s.wire p u).on q k n = s.on q k n := rfl
@[simp] theorem State.wire_fa (s : State) (p : Nat) (u : WireUnit) (q : RegFld) (k n : Nat) : (s.wire p u).fa q k n = s.fa q k n := rfl
@[simp] theorem State.drawNat_rd (s : State) (q : Reg) : s.drawNat.2.rd q = s.rd q := rfl
@[simp] theorem State.drawNat_f (s : State) (q : RegFld) (k n : Nat) : s.drawNat.2.f q k n = s.f q k n := rfl
@[simp] theorem State.drawNat_on (s : State) (q : RegFld) (k n : Nat) : s.drawNat.2.on q k n = s.on q k n := rfl
@[simp] theorem State.drawNat_fa (s : State) (q : RegFld) (k n : Nat) : s.drawNat.2.fa q k n = s.fa q k n := rfl
@[simp] theorem State.setPort_rd (s : State) (p : Nat) (x : PortSt) (q : Reg) : (s.setPort p x).rd q = s.rd q := rfl
@[simp] theorem State.setPort_f (s : State) (p : Nat) (x : PortSt) (q : RegFld) (k n : Nat) : (s.setPort p x).f q k n = s.f q k n := rfl
@[simp] theorem State.setPort_on (s : State) (p : Nat) (x : PortSt) (q : RegFld) (k n : Nat) : (s.setPort p x).on q k n = s.on q k n := rfl
@[simp] theorem State.setPort_fa (s : State) (p : Nat) (x : PortSt) (q : RegFld) (k n : Nat) : (s.setPort p x).fa q k n = s.fa q k n := rfl
@[simp] theorem State.modPort_rd (s : State) (p : Nat) (g : PortSt → PortSt) (q : Reg) : (s.modPort p g).rd q = s.rd q := rfl
@[simp] theorem State.modPort_f (s : State) (p : Nat) (g : PortSt → PortSt) (q : RegFld) (k n : Nat) : (s.modPort p g).f q k n = s.f q k n := rfl
@[simp] theorem State.modPort_on (s : State) (p : Nat) (g : PortSt → PortSt) (q : RegFld) (k n : Nat) : (s.modPort p g).on q k n = s.on q k n := rfl
@[simp] theorem State.modPort_fa (s : State) (p : Nat) (g : PortSt → PortSt) (q : RegFld) (k n : Nat) : (s.modPort p g).fa q k n = s.fa q k n := rfl
@[simp] theorem State.modLane_rd (s : State) (l : Nat) (g : LaneSt → LaneSt) (q : Reg) : (s.modLane l g).rd q = s.rd q := rfl
@[simp] theorem State.modLane_f (s : State) (l : Nat) (g : LaneSt → LaneSt) (q : RegFld) (k n : Nat) : (s.modLane l g).f q k n = s.f q k n := rfl
@[simp] theorem State.modLane_on (s : State) (l : Nat) (g : LaneSt → LaneSt) (q : RegFld) (k n : Nat) : (s.modLane l g).on q k n = s.on q k n := rfl
@[simp] theorem State.modLane_fa (s : State) (l : Nat) (g : LaneSt → LaneSt) (q : RegFld) (k n : Nat) : (s.modLane l g).fa q k n = s.fa q k n := rfl
@[simp] theorem State.modRing_rd (s : State) (f r : Nat) (g : RingSt → RingSt) (q : Reg) : (s.modRing f r g).rd q = s.rd q := rfl
@[simp] theorem State.modRing_f (s : State) (f r : Nat) (g : RingSt → RingSt) (q : RegFld) (k n : Nat) : (s.modRing f r g).f q k n = s.f q k n := rfl
@[simp] theorem State.modRing_on (s : State) (f r : Nat) (g : RingSt → RingSt) (q : RegFld) (k n : Nat) : (s.modRing f r g).on q k n = s.on q k n := rfl
@[simp] theorem State.modRing_fa (s : State) (f r : Nat) (g : RingSt → RingSt) (q : RegFld) (k n : Nat) : (s.modRing f r g).fa q k n = s.fa q k n := rfl
@[simp] theorem State.modCore_rd (s : State) (g : CoreSt → CoreSt) (q : Reg) : (s.modCore g).rd q = s.rd q := rfl
@[simp] theorem State.modCore_f (s : State) (g : CoreSt → CoreSt) (q : RegFld) (k n : Nat) : (s.modCore g).f q k n = s.f q k n := rfl
@[simp] theorem State.modCore_on (s : State) (g : CoreSt → CoreSt) (q : RegFld) (k n : Nat) : (s.modCore g).on q k n = s.on q k n := rfl
@[simp] theorem State.modCore_fa (s : State) (g : CoreSt → CoreSt) (q : RegFld) (k n : Nat) : (s.modCore g).fa q k n = s.fa q k n := rfl
@[simp] theorem State.wsRecord_rd (s : State) (rq : Requester) (st : Status) (off : Nat) (q : Reg) : (s.wsRecord rq st off).rd q = s.rd q := rfl
@[simp] theorem State.wsRecord_f (s : State) (rq : Requester) (st : Status) (off : Nat) (q : RegFld) (k n : Nat) : (s.wsRecord rq st off).f q k n = s.f q k n := rfl
@[simp] theorem State.wsRecord_on (s : State) (rq : Requester) (st : Status) (off : Nat) (q : RegFld) (k n : Nat) : (s.wsRecord rq st off).on q k n = s.on q k n := rfl
@[simp] theorem State.wsRecord_fa (s : State) (rq : Requester) (st : Status) (off : Nat) (q : RegFld) (k n : Nat) : (s.wsRecord rq st off).fa q k n = s.fa q k n := rfl
@[simp] theorem State.modTime_rd (s : State) (g : TimeSt → TimeSt) (q : Reg) : (s.modTime g).rd q = s.rd q := rfl
@[simp] theorem State.modTime_f (s : State) (g : TimeSt → TimeSt) (q : RegFld) (k n : Nat) : (s.modTime g).f q k n = s.f q k n := rfl
@[simp] theorem State.modTime_on (s : State) (g : TimeSt → TimeSt) (q : RegFld) (k n : Nat) : (s.modTime g).on q k n = s.on q k n := rfl
@[simp] theorem State.modTime_fa (s : State) (g : TimeSt → TimeSt) (q : RegFld) (k n : Nat) : (s.modTime g).fa q k n = s.fa q k n := rfl
@[simp] theorem State.modSys_rd (s : State) (g : SysSt → SysSt) (q : Reg) : (s.modSys g).rd q = s.rd q := rfl
@[simp] theorem State.modSys_f (s : State) (g : SysSt → SysSt) (q : RegFld) (k n : Nat) : (s.modSys g).f q k n = s.f q k n := rfl
@[simp] theorem State.modSys_on (s : State) (g : SysSt → SysSt) (q : RegFld) (k n : Nat) : (s.modSys g).on q k n = s.on q k n := rfl
@[simp] theorem State.modSys_fa (s : State) (g : SysSt → SysSt) (q : RegFld) (k n : Nat) : (s.modSys g).fa q k n = s.fa q k n := rfl
@[simp] theorem State.modFlt_rd (s : State) (g : FaultSt → FaultSt) (q : Reg) : (s.modFlt g).rd q = s.rd q := rfl
@[simp] theorem State.modFlt_f (s : State) (g : FaultSt → FaultSt) (q : RegFld) (k n : Nat) : (s.modFlt g).f q k n = s.f q k n := rfl
@[simp] theorem State.modFlt_on (s : State) (g : FaultSt → FaultSt) (q : RegFld) (k n : Nat) : (s.modFlt g).on q k n = s.on q k n := rfl
@[simp] theorem State.modFlt_fa (s : State) (g : FaultSt → FaultSt) (q : RegFld) (k n : Nat) : (s.modFlt g).fa q k n = s.fa q k n := rfl
@[simp] theorem State.modLantern_rd (s : State) (g : LanternSt → LanternSt) (q : Reg) : (s.modLantern g).rd q = s.rd q := rfl
@[simp] theorem State.modLantern_f (s : State) (g : LanternSt → LanternSt) (q : RegFld) (k n : Nat) : (s.modLantern g).f q k n = s.f q k n := rfl
@[simp] theorem State.modLantern_on (s : State) (g : LanternSt → LanternSt) (q : RegFld) (k n : Nat) : (s.modLantern g).on q k n = s.on q k n := rfl
@[simp] theorem State.modLantern_fa (s : State) (g : LanternSt → LanternSt) (q : RegFld) (k n : Nat) : (s.modLantern g).fa q k n = s.fa q k n := rfl
@[simp] theorem State.modPcie_rd (s : State) (g : PcieSt → PcieSt) (q : Reg) : (s.modPcie g).rd q = s.rd q := rfl
@[simp] theorem State.modPcie_f (s : State) (g : PcieSt → PcieSt) (q : RegFld) (k n : Nat) : (s.modPcie g).f q k n = s.f q k n := rfl
@[simp] theorem State.modPcie_on (s : State) (g : PcieSt → PcieSt) (q : RegFld) (k n : Nat) : (s.modPcie g).on q k n = s.on q k n := rfl
@[simp] theorem State.modPcie_fa (s : State) (g : PcieSt → PcieSt) (q : RegFld) (k n : Nat) : (s.modPcie g).fa q k n = s.fa q k n := rfl

/-! ### Fields that an update writes -/

@[simp] theorem State.wr_regs (s : State) (r : Reg) (v : Word) : (s.wr r v).regs = mset s.regs r v := rfl
@[simp] theorem State.emit_out (s : State) (o : Out) : (s.emit o).out = s.out ++ [o] := rfl
@[simp] theorem State.wire_out (s : State) (p : Nat) (u : WireUnit) : (s.wire p u).out = s.out ++ [Out.wire p u] := rfl
@[simp] theorem State.drawNat_draws (s : State) : s.drawNat.2.draws = s.draws + 1 := rfl
@[simp] theorem State.modCore_core (s : State) (g : CoreSt → CoreSt) : (s.modCore g).core = g s.core := rfl
@[simp] theorem State.modTime_time (s : State) (g : TimeSt → TimeSt) : (s.modTime g).time = g s.time := rfl
@[simp] theorem State.modSys_sys (s : State) (g : SysSt → SysSt) : (s.modSys g).sys = g s.sys := rfl
@[simp] theorem State.modFlt_flt (s : State) (g : FaultSt → FaultSt) : (s.modFlt g).flt = g s.flt := rfl
@[simp] theorem State.modLantern_lantern (s : State) (g : LanternSt → LanternSt) : (s.modLantern g).lantern = g s.lantern := rfl
@[simp] theorem State.modPcie_pcie (s : State) (g : PcieSt → PcieSt) : (s.modPcie g).pcie = g s.pcie := rfl
@[simp] theorem State.modPort_port (s : State) (p : Nat) (g : PortSt → PortSt) : (s.modPort p g).port p = g (s.port p) :=
  mget_mset p _ _ _
@[simp] theorem State.modLane_lane (s : State) (l : Nat) (g : LaneSt → LaneSt) : (s.modLane l g).lane l = g (s.lane l) :=
  mget_mset l _ _ _
@[simp] theorem State.modRing_ring (s : State) (f r : Nat) (g : RingSt → RingSt) : (s.modRing f r g).ring f r = g (s.ring f r) :=
  mget_mset (f, r) _ _ _

/-! ### Registers -/

@[simp] theorem State.rd_wr (s : State) (r : Reg) (v : Word) : (s.wr r v).rd r = v := mget_mset r _ _ _

theorem State.rd_wr_ne (s : State) {r q : Reg} (h : q ≠ r) (v : Word) : (s.wr r v).rd q = s.rd q := mget_mset_ne h _ _ _

theorem State.rd_set_ne (s : State) (f : RegFld) (v i j : Nat) {q : Reg} (h : q ≠ f.at i j) : (s.set f v i j).rd q = s.rd q :=
  mget_mset_ne h _ _ _

/-- A field reads as what was set, modulo its size. -/
theorem State.f_set (s : State) (f : RegFld) (v i j : Nat) (hl : f.lo ≤ f.hi) (hn : f.hi < 64) :
    (s.set f v i j).f f i j = v % 2 ^ f.fld.width := by
  unfold State.f State.set
  rw [State.rd_wr]
  exact Fld.get_set _ _ _ hl hn

/-- A field of another register, or of another instance, reads as before. -/
theorem State.f_set_reg (s : State) (f g : RegFld) (v i j k l : Nat) (h : g.at k l ≠ f.at i j) :
    (s.set f v i j).f g k l = s.f g k l := by
  unfold State.f
  rw [State.rd_set_ne s f v i j h]

/-- Another field of the same register reads as before. -/
theorem State.f_set_fld (s : State) (f g : RegFld) (v i j : Nat) (hr : g.reg = f.reg) (hl : f.lo ≤ f.hi) (hn : f.hi < 64)
    (gl : g.lo ≤ g.hi) (d : g.hi < f.lo ∨ f.hi < g.lo) : (s.set f v i j).f g i j = s.f g i j := by
  have e : g.at i j = f.at i j := by unfold RegFld.at; rw [hr]
  unfold State.f State.set
  rw [e, State.rd_wr]
  exact Fld.get_set_ne _ _ _ _ hl hn gl d

/-- Counting in one register leaves the fields of every other register and instance as before. -/
theorem State.f_cnt (s : State) (r : RegName) (i j n : Nat) (g : RegFld) (k l : Nat) (h : g.at k l ≠ ⟨r, i, j⟩) :
    (s.cnt r i j n).f g k l = s.f g k l := by
  unfold State.f
  exact congrArg g.fld.get (State.rd_wr_ne s h _)

theorem State.on_cnt (s : State) (r : RegName) (i j n : Nat) (g : RegFld) (k l : Nat) (h : g.at k l ≠ ⟨r, i, j⟩) :
    (s.cnt r i j n).on g k l = s.on g k l := by
  unfold State.on
  rw [State.f_cnt s r i j n g k l h]

@[simp] theorem State.fa_cnt (s : State) (r : RegName) (i j n : Nat) (g : RegFld) (k l : Nat) :
    (s.cnt r i j n).fa g k l = s.fa g k l := rfl

@[simp] theorem State.setConn_rd (s : State) (c : Nat) (x : ConnSt) (q : Reg) : (s.setConn c x).rd q = s.rd q := rfl
@[simp] theorem State.setConn_f (s : State) (c : Nat) (x : ConnSt) (q : RegFld) (k n : Nat) : (s.setConn c x).f q k n = s.f q k n := rfl
@[simp] theorem State.setConn_on (s : State) (c : Nat) (x : ConnSt) (q : RegFld) (k n : Nat) : (s.setConn c x).on q k n = s.on q k n := rfl
@[simp] theorem State.setConn_fa (s : State) (c : Nat) (x : ConnSt) (q : RegFld) (k n : Nat) : (s.setConn c x).fa q k n = s.fa q k n := rfl

/-! ### The guards of the meanings -/

theorem whenRunning_run (g : State → State) {s : State} (h : s.running = true) : whenRunning g s = .next (g s) := by
  unfold whenRunning
  rw [if_pos h]

theorem whenRunning_not (g : State → State) {s : State} (h : s.running = false) : whenRunning g s = .next s := by
  unfold whenRunning
  rw [if_neg (by rw [h]; exact Bool.false_ne_true)]

/-- A part that runs is not held in cold reset. -/
theorem State.running_coldHold {s : State} (h : s.running = true) : s.sys.coldHold = false := by
  unfold State.running at h
  cases e : s.sys.coldHold with
  | false => rfl
  | true => rw [e] at h; exact absurd h (by simp)

theorem whenPowered_run (g : State → State) {s : State} (h : s.sys.coldHold = false) : whenPowered g s = .next (g s) := by
  unfold whenPowered
  rw [if_neg (by rw [h]; exact Bool.false_ne_true)]

theorem whenPowered_not (g : State → State) {s : State} (h : s.sys.coldHold = true) : whenPowered g s = .next s := by
  unfold whenPowered
  rw [if_pos h]

theorem whenServed_run (rq : Requester) (g : State → State) {s : State} (h : s.takesWrites rq = true) :
    whenServed rq g s = .next (g s) := by
  unfold whenServed
  rw [if_pos h]

theorem whenServed_not (rq : Requester) (g : State → State) {s : State} (h : s.takesWrites rq = false) :
    whenServed rq g s = .next s := by
  unfold whenServed
  rw [if_neg (by rw [h]; exact Bool.false_ne_true)]

/-- An accepted register write has its effect and records OK; a refused one only records its status (R588). -/
theorem State.writeAs_ok (s : State) (rq : Requester) (off : Nat) (eff : State → State) :
    s.writeAs rq off .ok eff = (eff s).wsRecord rq .ok off := rfl

theorem State.writeAs_refused (s : State) (rq : Requester) (off : Nat) {st : Status} (eff : State → State) (h : st ≠ .ok) :
    s.writeAs rq off st eff = s.wsRecord rq st off := by
  unfold State.writeAs
  rw [if_neg h]

end Sys2Proof.Machine
end

