-- ==== Sys2Proof/Laws/Cormel.lean ====
section
/-! SUPPORT. What issuing an instruction does: a word that a thread issues reaches the meaning of its row; what retiring leaves
in the thread. -/
namespace Sys2Proof.Machine

open Sys2Proof

/-- A legal word that a thread issues in its row, with its predicate set or with none, reaches the row's meaning. -/
theorem cormel_run {s : State} {t : ThreadId} {x : Thread} {w : Nat} (h : Safety.Issues s t x w) {row : Nat → Bool}
    {scalar : Bool} {g : Thread → Nat → State → State} (hr : row w = true)
    (hp : scalar = false ∨ (x.rp (wPred w)).testBit 0 = true) :
    cormel t row scalar g s = .next (g x w (Safety.unyield s t)) := by
  obtain ⟨run, th, may, fetch, word, legal⟩ := h
  unfold cormel
  rw [whenRunning_run _ run]
  have p : (scalar && !(x.rp (wPred w)).testBit 0) = false := by
    rcases hp with e | e
    · rw [e]; rfl
    · rw [e]; exact Bool.and_false scalar
  simp only [th, may, fetch, word, legal, hr, p, Bool.not_true, Bool.false_eq_true, if_false]
  rfl

/-- A word whose predicate is clear only retires. -/
theorem cormel_skip {s : State} {t : ThreadId} {x : Thread} {w : Nat} (h : Safety.Issues s t x w) {row : Nat → Bool}
    {g : Thread → Nat → State → State} (hr : row w = true) (hp : (x.rp (wPred w)).testBit 0 = false) :
    cormel t row true g s = .next ((Safety.unyield s t).fin t w id) := by
  obtain ⟨run, th, may, fetch, word, legal⟩ := h
  unfold cormel
  rw [whenRunning_run _ run]
  simp only [th, may, fetch, word, legal, hr, hp, Bool.not_true, Bool.not_false, Bool.and_self, Bool.false_eq_true, if_false, if_true]
  rfl

/-- A thread reads as it was set; the others read as before. -/
theorem State.thread_setThread (s : State) (t : ThreadId) (x : Thread) : (s.setThread t x).thread t = some x :=
  mfind_mset t x s.eng.threads

theorem State.thread_setThread_ne (s : State) {t k : ThreadId} (x : Thread) (h : k ≠ t) :
    (s.setThread t x).thread k = s.thread k := mfind_mset_ne h x s.eng.threads

theorem State.modThread_eq {s : State} {t : ThreadId} {x : Thread} (h : s.thread t = some x) (g : Thread → Thread) :
    s.modThread t g = s.setThread t (g x) := by
  unfold State.modThread
  rw [h]

/-- Changing a thread leaves the code that every engine holds. -/
theorem State.wordAt_modThread (s : State) (t : ThreadId) (g : Thread → Thread) (e pc : Nat) :
    (s.modThread t g).wordAt e pc = s.wordAt e pc := by
  unfold State.modThread
  split <;> rfl

/-- No counter that does not run counts. -/
theorem State.perf_quiet {s : State} (die ev inst qual n : Nat) (h : s.ona F.PC_CTRL.RUN = false) : s.perf die ev inst qual n = s := by
  unfold State.perf
  rw [h]
  rfl

/-- What retiring an instruction leaves where nothing samples the thread and no performance counter runs: the thread goes on at
`pc`, its cycles counted; the other threads, the memory, what has left the part and every register but the cluster's token
count are as before. -/
theorem State.retire_quiet {s : State} {t : ThreadId} {x : Thread} (w pc n : Nat) (h : s.thread t = some x)
    (h1 : s.on F.SAMPLE_CFG.SAMPLE_EN t.engine = false) (h2 : s.ona F.PC_CTRL.RUN = false) :
    (s.retire t w pc n).thread t = some { x with
      pc := pc % 2 ^ 48, count := x.count + n, cycles := x.cycles + n, stall := 0, ready := none, wait := .none
      preempted := x.preempted || x.marked, marked := false } ∧
    (∀ k, k ≠ t → (s.retire t w pc n).thread k = s.thread k) ∧ (s.retire t w pc n).mem = s.mem ∧
    (s.retire t w pc n).out = s.out ∧
    (∀ r, r ≠ ⟨.CL_TOKENS, t.engine.val / 8, 0⟩ → (s.retire t w pc n).rd r = s.rd r) := by
  have e1 : s.sampleStep t x w = s := by
    unfold State.sampleStep
    dsimp only
    rw [h1]
    rfl
  have e2 : s.retire t w pc n = (s.useCycles t n).modThread t fun x => { x with
      pc := pc % 2 ^ 48, stall := 0, ready := none, wait := .none
      preempted := x.preempted || x.marked, marked := false } := by
    unfold State.retire
    rw [h]
    dsimp only
    rw [e1]
  have e3 : ∃ a b d, s.useCycles t n =
      { (s.setThread t { x with count := x.count + n, cycles := x.cycles + n }).setTokens (t.engine.val / 8) d with
        lantern := a, jobs := b } := by
    unfold State.useCycles
    rw [h]
    dsimp only
    have hq : ∀ {u : State} (a b c d e : Nat), u.active = s.active → u.perf a b c d e = u := fun a b c d e hu =>
      State.perf_quiet a b c d e (by unfold State.ona State.fa State.rdA; rw [hu]; exact h2)
    rw [hq _ _ _ _ _ ?_]
    rotate_left
    · rfl
    by_cases hu : x.user = true
    · rw [if_pos hu]
      exact ⟨_, _, _, rfl⟩
    · rw [if_neg hu]
      exact ⟨_, _, _, rfl⟩
  obtain ⟨a, b, d, e3⟩ := e3
  have e4 : (s.useCycles t n).thread t = some { x with count := x.count + n, cycles := x.cycles + n } := by
    rw [e3]
    exact State.thread_setThread s t _
  rw [e2, State.modThread_eq e4]
  refine ⟨State.thread_setThread _ _ _, fun k hk => ?_, ?_, ?_, fun r hr => ?_⟩
  · rw [State.thread_setThread_ne _ _ hk, e3]
    exact State.thread_setThread_ne s _ hk
  · rw [e3]
    rfl
  · rw [e3]
    rfl
  · show (s.useCycles t n).rd r = s.rd r
    rw [e3]
    exact State.rd_set_ne _ _ _ _ _ hr

end Sys2Proof.Machine
end

