-- ==== Sys2Proof/Laws/Memory.lean ====
section
/-! SUPPORT. The laws of the on-package memory: reading after writing, and the canonical form, which every memory operation
keeps. -/
namespace Sys2Proof.Machine

open Sys2Proof

theorem memWfFrom_mono {lo lo' : Nat} (h : lo' ≤ lo) : ∀ {m : List Host.Cell}, memWfFrom lo m = true → memWfFrom lo' m = true
  | [], _ => rfl
  | (k, b) :: m, w => by
    simp only [memWfFrom, Bool.and_eq_true, decide_eq_true_eq] at w ⊢
    exact ⟨⟨Nat.le_trans h w.1.1, w.1.2⟩, w.2⟩

/-- An address below every listed one reads as no write has touched it. -/
theorem memGet_below {a lo : Nat} (h : a < lo) : ∀ {m : List Host.Cell}, memWfFrom lo m = true → memGet m a = memInit a
  | [], _ => rfl
  | (k, b) :: m, w => by
    simp only [memWfFrom, Bool.and_eq_true, decide_eq_true_eq] at w
    have : k ≠ a := by omega
    simp only [memGet, this, if_false]
    exact memGet_below (by omega) w.2

/-- Reading an address after a byte was stored there gives the byte. -/
theorem memGet_memPut_same (a : Nat) (b : Byte) :
    ∀ {m : List Host.Cell} {lo : Nat}, memWfFrom lo m = true → memGet (memPut m a b) a = b
  | [], _, _ => by by_cases h : b = memInit a <;> simp [memPut, memGet, h]
  | (k, c) :: m, lo, w => by
    have w' := w
    simp only [memWfFrom, Bool.and_eq_true, decide_eq_true_eq] at w
    unfold memPut
    by_cases h1 : a < k
    · rw [if_pos h1]
      by_cases h : b = memInit a
      · have hk : k ≠ a := by omega
        rw [if_pos h]
        simp only [memGet, hk, if_false]
        rw [memGet_below (lo := k + 1) (by omega) w.2, h]
      · simp [memGet, h]
    · rw [if_neg h1]
      by_cases h2 : a = k
      · rw [if_pos h2]
        by_cases h : b = memInit a
        · rw [if_pos h, memGet_below (lo := k + 1) (by omega) w.2, h]
        · simp [memGet, h]
      · have hk : k ≠ a := fun e => h2 e.symm
        rw [if_neg h2]
        simp only [memGet, hk, if_false]
        exact memGet_memPut_same a b w.2

/-- Storing a byte leaves every other address as it was. -/
theorem memGet_memPut_other {a c : Nat} (b : Byte) (h : c ≠ a) :
    ∀ m : List Host.Cell, memGet (memPut m a b) c = memGet m c
  | [] => by
    have := h.symm
    by_cases e : b = memInit a <;> simp [memPut, memGet, e, this]
  | (k, d) :: m => by
    have h' := h.symm
    unfold memPut
    by_cases h1 : a < k
    · rw [if_pos h1]
      by_cases e : b = memInit a
      · rw [if_pos e]
      · rw [if_neg e]; simp [memGet, h']
    · rw [if_neg h1]
      by_cases h2 : a = k
      · subst h2
        rw [if_pos rfl]
        by_cases e : b = memInit a
        · rw [if_pos e]; simp [memGet, h']
        · rw [if_neg e]; simp [memGet, h']
      · rw [if_neg h2]
        by_cases h3 : k = c
        · simp [memGet, h3]
        · simp only [memGet, h3, if_false]; exact memGet_memPut_other b h m

theorem memPut_wfFrom (a : Nat) (b : Byte) :
    ∀ {m : List Host.Cell} {lo : Nat}, lo ≤ a → memWfFrom lo m = true → memWfFrom lo (memPut m a b) = true
  | [], lo, h, _ => by by_cases e : b = memInit a <;> simp [memPut, memWfFrom, e, h]
  | (k, c) :: m, lo, h, w => by
    have w' := w
    simp only [memWfFrom, Bool.and_eq_true, decide_eq_true_eq] at w
    unfold memPut
    by_cases h1 : a < k
    · rw [if_pos h1]
      by_cases e : b = memInit a
      · rw [if_pos e]; exact w'
      · rw [if_neg e]
        simp only [memWfFrom, Bool.and_eq_true, decide_eq_true_eq]
        exact ⟨⟨h, e⟩, ⟨by omega, w.1.2⟩, w.2⟩
    · rw [if_neg h1]
      by_cases h2 : a = k
      · rw [if_pos h2]
        by_cases e : b = memInit a
        · rw [if_pos e]; exact memWfFrom_mono (by omega) w.2
        · rw [if_neg e]
          simp only [memWfFrom, Bool.and_eq_true, decide_eq_true_eq]
          exact ⟨⟨h, e⟩, h2 ▸ w.2⟩
      · rw [if_neg h2]
        simp only [memWfFrom, Bool.and_eq_true, decide_eq_true_eq]
        exact ⟨w.1, memPut_wfFrom a b (by omega) w.2⟩

/-- Storing a byte keeps the canonical form. -/
theorem memPut_wf {m : List Host.Cell} (a : Nat) (b : Byte) (h : Memory.wf m = true) : Memory.wf (memPut m a b) = true :=
  memPut_wfFrom a b (Nat.zero_le a) h

/-- Storing bytes keeps the canonical form. -/
theorem memPuts_wf : ∀ (bs : List Byte) {m : List Host.Cell} (a : Nat), Memory.wf m = true → Memory.wf (memPuts m a bs) = true
  | [], _, _, h => h
  | b :: bs, _, a, h => memPuts_wf bs (a + 1) (memPut_wf a b h)

/-- Storing bytes leaves every address outside them as it was. -/
theorem memGet_memPuts_other : ∀ (bs : List Byte) (m : List Host.Cell) {a c : Nat}, c < a ∨ a + bs.length ≤ c →
    memGet (memPuts m a bs) c = memGet m c
  | [], _, _, _, _ => rfl
  | b :: bs, m, a, c, h => by
    simp only [List.length_cons] at h
    rw [memPuts, memGet_memPuts_other bs _ (by omega), memGet_memPut_other b (by omega)]

/-- Leaving out cells keeps the canonical form. -/
theorem filter_wfFrom (p : Host.Cell → Bool) :
    ∀ {m : List Host.Cell} {lo : Nat}, memWfFrom lo m = true → memWfFrom lo (m.filter p) = true
  | [], _, _ => rfl
  | (k, b) :: m, lo, w => by
    simp only [memWfFrom, Bool.and_eq_true, decide_eq_true_eq] at w
    by_cases h : p (k, b)
    · simp only [List.filter, h, memWfFrom, Bool.and_eq_true, decide_eq_true_eq]
      exact ⟨w.1, filter_wfFrom p w.2⟩
    · simp only [List.filter, h]
      exact memWfFrom_mono (by omega) (filter_wfFrom p w.2)

theorem filter_wf {m : List Host.Cell} (p : Host.Cell → Bool) (h : Memory.wf m = true) : Memory.wf (m.filter p) = true :=
  filter_wfFrom p h

theorem foldPut_wf {α : Type} (f : α → Nat) (g : α → Byte) : ∀ (l : List α) {m : List Host.Cell}, Memory.wf m = true →
    Memory.wf (l.foldl (fun m x => memPut m (f x) (g x)) m) = true
  | [], _, h => h
  | x :: l, _, h => foldPut_wf f g l (memPut_wf (f x) (g x) h)

/-- The memory after reset has the canonical form. -/
theorem reset_memory_wf : Memory.wf State.reset.mem = true := rfl

end Sys2Proof.Machine
end

