-- ==== Sys2Proof/Laws/Keeps.lean ====
section
/-! SUPPORT. What every operation keeps: the queue of commands, the canonical form of the memory, the count of free values
drawn, which only rises, and the things that have left the part, which only grow. -/
namespace Sys2Proof.Machine

open Sys2Proof

/-- `t` comes from `s` by operations that leave the queue alone, keep the memory canonical, draw free values in turn and
add to what has left the part; and, unless `w`, leave the memory as it is. -/
structure Keeps (w : Prop) (s t : State) : Prop where
  queue : t.pending = s.pending
  mem : Memory.wf s.mem = true → Memory.wf t.mem = true
  draws : s.draws ≤ t.draws
  out : s.out <+: t.out
  same : w ∨ t.mem = s.mem

theorem Keeps.refl {w : Prop} (s : State) : Keeps w s s := ⟨rfl, id, Nat.le_refl _, List.prefix_rfl, .inr rfl⟩

theorem Keeps.trans {w : Prop} {a b c : State} (h : Keeps w a b) (k : Keeps w b c) : Keeps w a c :=
  ⟨k.queue.trans h.queue, fun x => k.mem (h.mem x), Nat.le_trans h.draws k.draws, h.out.trans k.out,
    h.same.elim .inl fun e => k.same.elim .inl fun d => .inr (d.trans e)⟩

/-- A state that differs in none of the four. -/
theorem keeps_rec {w : Prop} {z s t : State} (h : Keeps w z s) (hq : t.pending = s.pending) (hm : t.mem = s.mem)
    (hd : t.draws = s.draws) (ho : t.out = s.out) : Keeps w z t :=
  ⟨hq.trans h.queue, fun x => hm ▸ h.mem x, hd ▸ h.draws, ho ▸ h.out, h.same.imp_right fun e => hm.trans e⟩

/-- A state written out field by field that differs in none of the four. -/
theorem keeps_mk {w : Prop} {z s : State}
    {a0 : AMap Reg Word} {a1 : AMap Reg Word} {a2 : List Reg} {a3 : AMap Requester Word}
    {a4 : AMap (Nat × Nat) (BitVec 128)} {a5 : List (Nat × Nat)} {a6 : List Nat} {a8 : List Nat}
    {a9 : TimeSt} {a10 : JobSt} {a11 : CoreSt} {a12 : AMap Nat PortSt}
    {a13 : AMap Nat LaneSt} {a14 : AMap (Nat × Nat) RingSt} {a15 : NiSt} {a16 : FaultSt}
    {a17 : SysSt} {a18 : EngSt} {a19 : XportSt} {a20 : MatchSt}
    {a21 : CollSt} {a22 : LockSt} {a23 : XlSt} {a24 : MoverSt}
    {a25 : PcieSt} {a26 : LanternSt} {a27 : MgmtSt} (h : Keeps w z s) :
    Keeps w z (State.mk a0 a1 a2 a3 a4 a5 a6 s.mem a8 a9 a10 a11 a12 a13 a14 a15 a16 a17 a18 a19
      a20 a21 a22 a23 a24 a25 a26 a27 s.out s.draws s.pending) :=
  ⟨h.queue, h.mem, h.draws, h.out, h.same⟩

/-- A state written out field by field that differs in the memory, among the four. -/
theorem keeps_mkMem {z s : State} {m : List Host.Cell}
    {a0 : AMap Reg Word} {a1 : AMap Reg Word} {a2 : List Reg} {a3 : AMap Requester Word}
    {a4 : AMap (Nat × Nat) (BitVec 128)} {a5 : List (Nat × Nat)} {a6 : List Nat} {a8 : List Nat}
    {a9 : TimeSt} {a10 : JobSt} {a11 : CoreSt} {a12 : AMap Nat PortSt}
    {a13 : AMap Nat LaneSt} {a14 : AMap (Nat × Nat) RingSt} {a15 : NiSt} {a16 : FaultSt}
    {a17 : SysSt} {a18 : EngSt} {a19 : XportSt} {a20 : MatchSt}
    {a21 : CollSt} {a22 : LockSt} {a23 : XlSt} {a24 : MoverSt}
    {a25 : PcieSt} {a26 : LanternSt} {a27 : MgmtSt} (h : Keeps True z s)
    (hm : Memory.wf s.mem = true → Memory.wf m = true) :
    Keeps True z (State.mk a0 a1 a2 a3 a4 a5 a6 m a8 a9 a10 a11 a12 a13 a14 a15 a16 a17 a18 a19
      a20 a21 a22 a23 a24 a25 a26 a27 s.out s.draws s.pending) :=
  ⟨h.queue, fun w => hm (h.mem w), h.draws, h.out, .inl trivial⟩

/-- A state that differs in the memory only. -/
theorem keeps_mem {z s t : State} (h : Keeps True z s) (hq : t.pending = s.pending)
    (hm : Memory.wf s.mem = true → Memory.wf t.mem = true) (hd : t.draws = s.draws) (ho : t.out = s.out) : Keeps True z t :=
  ⟨hq.trans h.queue, fun x => hm (h.mem x), hd ▸ h.draws, ho ▸ h.out, .inl trivial⟩

theorem keeps_id {w : Prop} {z s : State} (h : Keeps w z s) : Keeps w z (id s) := h

theorem keeps_iteApp {w : Prop} {z s : State} {f g : State → State} {c : Prop} [Decidable c] (h : c → Keeps w z (f s)) (k : ¬c → Keeps w z (g s)) :
    Keeps w z ((if c then f else g) s) := by
  split
  · exact h ‹_›
  · exact k ‹_›

theorem keeps_ite {w : Prop} {z s t : State} {c : Prop} [Decidable c] (h : c → Keeps w z s) (k : ¬c → Keeps w z t) :
    Keeps w z (if c then s else t) := by
  split
  · exact h ‹_›
  · exact k ‹_›

theorem keeps_itep {β : Type} {w : Prop} {z : State} {s t : State × β} {c : Prop} [Decidable c] (h : c → Keeps w z s.1)
    (k : ¬c → Keeps w z t.1) : Keeps w z (if c then s else t).1 := by
  split
  · exact h ‹_›
  · exact k ‹_›

theorem keeps_foldl {α : Type} {w : Prop} {z : State} (f : State → α → State) (l : List α)
    (hf : ∀ s x, Keeps w z s → Keeps w z (f s x)) {s : State} (h : Keeps w z s) : Keeps w z (l.foldl f s) := by
  induction l generalizing s with
  | nil => exact h
  | cons x l ih => exact ih (hf s x h)

theorem keeps_foldlP {α β : Type} {w : Prop} {z : State} (f : State × β → α → State × β) (l : List α)
    (hf : ∀ r x, Keeps w z r.1 → Keeps w z (f r x).1) {r : State × β} (h : Keeps w z r.1) : Keeps w z (l.foldl f r).1 := by
  induction l generalizing r with
  | nil => exact h
  | cons x l ih => exact ih (hf r x h)

theorem keeps_fst {β : Type} {w : Prop} {z : State} {x : State × β} {a : State} {b : β} (e : x = (a, b)) (h : Keeps w z x.1) :
    Keeps w z a := by
  subst e; exact h

theorem keeps_snd {β : Type} {w : Prop} {z : State} {x : β × State} {a : β} {b : State} (e : x = (a, b)) (h : Keeps w z x.2) :
    Keeps w z b := by
  subst e; exact h

end Sys2Proof.Machine
end

