-- ==== Sys2Proof/Laws/KeepsOps.lean ====
section
/-! SUPPORT. Every operation of Machine/Ops.lean keeps the queue, the canonical form of the memory, the count of free values
drawn and what has left the part (Keeps). -/
namespace Sys2Proof.Machine

open Sys2Proof

theorem State.wr_keeps {tw : Prop} {z : State} (s : State) (r : Reg) (v : Word) (h : Keeps tw z s) : Keeps tw z (State.wr s r v) := by
  unfold State.wr
  repeat' first
    | with_reducible exact h
    | with_reducible apply keeps_mk

theorem State.set_keeps {tw : Prop} {z : State} (s : State) (f : RegFld) (v : Nat) (i : Nat) (j : Nat) (h : Keeps tw z s) : Keeps tw z (State.set s f v i j) := by
  unfold State.set
  repeat' first
    | with_reducible exact h
    | with_reducible apply State.wr_keeps

theorem State.cnt_keeps {tw : Prop} {z : State} (s : State) (r : RegName) (i : Nat) (j : Nat) (n : Nat) (h : Keeps tw z s) : Keeps tw z (State.cnt s r i j n) := by
  unfold State.cnt
  repeat' first
    | (fail_if_no_progress extract_lets)
    | with_reducible exact h
    | with_reducible apply State.wr_keeps

theorem State.cntF_keeps {tw : Prop} {z : State} (s : State) (f : RegFld) (i : Nat) (j : Nat) (n : Nat) (h : Keeps tw z s) : Keeps tw z (State.cntF s f i j n) := by
  unfold State.cntF
  repeat' first
    | with_reducible exact h
    | with_reducible apply State.set_keeps

theorem State.clearRegs_keeps {tw : Prop} {z : State} (s : State) (p : Reg → Bool) (h : Keeps tw z s) : Keeps tw z (State.clearRegs s p) := by
  unfold State.clearRegs
  repeat' first
    | with_reducible exact h
    | with_reducible apply keeps_mk

theorem State.emit_keeps {tw : Prop} {z : State} (s : State) (o : Out) (h : Keeps tw z s) : Keeps tw z (State.emit s o) := by
  unfold State.emit
  exact ⟨h.queue, h.mem, h.draws, h.out.trans (List.prefix_append _ _), h.same⟩

theorem State.drawNat_keeps {tw : Prop} {z : State} (s : State) (h : Keeps tw z s) : Keeps tw z (State.drawNat s).2 :=
  ⟨h.queue, h.mem, Nat.le_trans h.draws (Nat.le_succ _), h.out, h.same⟩

theorem State.setPort_keeps {tw : Prop} {z : State} (s : State) (p : Nat) (x : PortSt) (h : Keeps tw z s) : Keeps tw z (State.setPort s p x) := by
  unfold State.setPort
  repeat' first
    | with_reducible exact h
    | with_reducible apply keeps_mk

theorem State.modPort_keeps {tw : Prop} {z : State} (s : State) (p : Nat) (g : PortSt → PortSt) (h : Keeps tw z s) : Keeps tw z (State.modPort s p g) := by
  unfold State.modPort
  repeat' first
    | with_reducible exact h
    | with_reducible apply State.setPort_keeps

theorem State.modLane_keeps {tw : Prop} {z : State} (s : State) (l : Nat) (g : LaneSt → LaneSt) (h : Keeps tw z s) : Keeps tw z (State.modLane s l g) := by
  unfold State.modLane
  repeat' first
    | with_reducible exact h
    | with_reducible apply keeps_mk

theorem State.modRing_keeps {tw : Prop} {z : State} (s : State) (f r : Nat) (g : RingSt → RingSt) (h : Keeps tw z s) : Keeps tw z (State.modRing s f r g) := by
  unfold State.modRing
  repeat' first
    | with_reducible exact h
    | with_reducible apply keeps_mk

theorem State.modCore_keeps {tw : Prop} {z : State} (s : State) (g : CoreSt → CoreSt) (h : Keeps tw z s) : Keeps tw z (State.modCore s g) := by
  unfold State.modCore
  repeat' first
    | with_reducible exact h
    | with_reducible apply keeps_mk

theorem State.wire_keeps {tw : Prop} {z : State} (s : State) (p : Nat) (u : WireUnit) (h : Keeps tw z s) : Keeps tw z (State.wire s p u) := by
  unfold State.wire
  repeat' first
    | with_reducible exact h
    | with_reducible apply State.emit_keeps

theorem State.onLcb_keeps {tw : Prop} {z : State} (s : State) (p : Nat) (lcb : BitVec 512) (g : State → State) (hg : ∀ s, Keeps tw z s → Keeps tw z (g s)) (h : Keeps tw z s) : Keeps tw z (State.onLcb s p lcb g) := by
  unfold State.onLcb
  repeat' first
    | (with_reducible refine keeps_ite (fun _ => ?_) fun _ => ?_)
    | with_reducible exact h
    | (with_reducible apply hg)
    | with_reducible apply State.cnt_keeps

theorem State.gsPuts_keeps {z : State} (s : State) (off : Nat) (bs : List Byte) (h : Keeps True z s) : Keeps True z (State.gsPuts s off bs) := by
  unfold State.gsPuts
  extract_lets
  split
  · exact h
  · have k : Keeps True z { s with mem := memPuts s.mem (off % gsSize) bs
                                   poison := s.poison.filter fun g => g ≠ off % gsSize / 256 } :=
      keeps_mem h rfl (fun w => memPuts_wf _ _ w) rfl rfl
    split
    · split
      · exact keeps_rec k rfl rfl rfl rfl
      · exact State.emit_keeps _ _ k
    · exact k

theorem State.gsPut_keeps {z : State} (s : State) (off n v : Nat) (h : Keeps True z s) : Keeps True z (State.gsPut s off n v) := by
  unfold State.gsPut
  repeat' first
    | with_reducible exact h
    | with_reducible apply State.gsPuts_keeps

theorem State.hostWrite_keeps {tw : Prop} {z : State} (s : State) (f addr : Nat) (bs : List Byte) (h : Keeps tw z s) : Keeps tw z (State.hostWrite s f addr bs) := by
  unfold State.hostWrite
  repeat' first
    | (with_reducible refine keeps_ite (fun _ => ?_) fun _ => ?_)
    | with_reducible exact h
    | with_reducible apply State.emit_keeps

theorem State.hostRead_keeps {tw : Prop} {z : State} (s : State) (f addr n : Nat) (h : Keeps tw z s) : Keeps tw z (State.hostRead s f addr n) := by
  unfold State.hostRead
  repeat' first
    | (with_reducible refine keeps_ite (fun _ => ?_) fun _ => ?_)
    | with_reducible exact h
    | with_reducible apply State.emit_keeps

theorem State.msixRaise_keeps {tw : Prop} {z : State} (s : State) (f v : Nat) (h : Keeps tw z s) : Keeps tw z (State.msixRaise s f v) := by
  unfold State.msixRaise
  repeat' first
    | (with_reducible refine keeps_ite (fun _ => ?_) fun _ => ?_)
    | with_reducible exact h
    | with_reducible apply State.emit_keeps
    | with_reducible apply keeps_mk

end Sys2Proof.Machine
end

