-- ==== Sys2Proof/Laws/KeepsOperands.lean ====
section
/-! SUPPORT. Every operation of Machine/Operands.lean keeps the queue, the canonical form of the memory, the count of free values
drawn and what has left the part (Keeps). -/
namespace Sys2Proof.Machine

open Sys2Proof

theorem State.wsRecord_keeps {tw : Prop} {z : State} (s : State) (rq : Requester) (st : Status) (off : Nat) (h : Keeps tw z s) : Keeps tw z (State.wsRecord s rq st off) := by
  unfold State.wsRecord
  repeat' first
    | (fail_if_no_progress extract_lets)
    | with_reducible exact h
    | split
    | (dsimp +zetaDelta only; split)
    | with_reducible apply keeps_mk

theorem State.writeAs_keeps {tw : Prop} {z : State} (s : State) (rq : Requester) (off : Nat) (st : Status) (eff : State → State) (heff : ∀ s, Keeps tw z s → Keeps tw z (eff s)) (h : Keeps tw z s) : Keeps tw z (State.writeAs s rq off st eff) := by
  unfold State.writeAs
  repeat' first
    | (with_reducible refine keeps_ite (fun _ => ?_) fun _ => ?_)
    | with_reducible exact h
    | (with_reducible apply heff)
    | with_reducible apply State.wsRecord_keeps

end Sys2Proof.Machine
end

