-- ==== Sys2Proof/Laws/KeepsFlags.lean ====
section
/-! SUPPORT. Every operation of Machine/Flags.lean keeps the queue, the canonical form of the memory, the count of free values
drawn and what has left the part (Keeps). -/
namespace Sys2Proof.Machine

open Sys2Proof

theorem State.setBinding_keeps {tw : Prop} {z : State} (s : State) (slot : Nat) (b : BitVec 256) (h : Keeps tw z s) : Keeps tw z (State.setBinding s slot b) := by
  unfold State.setBinding
  repeat' first
    | (fail_if_no_progress extract_lets)
    | with_reducible exact h
    | with_reducible apply keeps_mk

theorem State.bindFault_keeps {tw : Prop} {z : State} (s : State) (slot : Nat) (st : Status) (h : Keeps tw z s) : Keeps tw z (State.bindFault s slot st) := by
  unfold State.bindFault
  repeat' first
    | (fail_if_no_progress extract_lets)
    | with_reducible exact h
    | with_reducible apply State.setBinding_keeps

theorem State.setEvq_keeps {tw : Prop} {z : State} (s : State) (c q : Nat) (l : List HEvent) (h : Keeps tw z s) : Keeps tw z (State.setEvq s c q l) := by
  unfold State.setEvq
  repeat' first
    | (fail_if_no_progress extract_lets)
    | with_reducible exact h
    | with_reducible apply keeps_mk

theorem State.writeEvent_keeps {z : State} (s : State) (t : ThreadId) (e : HEvent) (h : Keeps True z s) : Keeps True z (State.writeEvent s t e) := by
  unfold State.writeEvent
  repeat' first
    | with_reducible exact h
    | (with_reducible refine keeps_mkMem ?_ fun w => memPuts_wf _ _ w)

theorem State.giveEvent_keeps {z : State} (s : State) (t : ThreadId) (x : Thread) (e : HEvent) (h : Keeps True z s) : Keeps True z (State.giveEvent s t x e) := by
  unfold State.giveEvent
  repeat' first
    | (fail_if_no_progress extract_lets)
    | with_reducible exact h
    | with_reducible apply State.writeEvent_keeps
    | with_reducible apply keeps_mk

theorem State.joinQueue_keeps {z : State} (s : State) (c q : Nat) (e : HEvent) (h : Keeps True z s) : Keeps True z (State.joinQueue s c q e) := by
  unfold State.joinQueue
  repeat' first
    | with_reducible exact h
    | with_reducible apply State.giveEvent_keeps
    | with_reducible apply State.bindFault_keeps
    | with_reducible apply State.setEvq_keeps
    | split

theorem State.queueEvent_keeps {z : State} (s : State) (e : HEvent) (h : Keeps True z s) : Keeps True z (State.queueEvent s e) := by
  unfold State.queueEvent
  repeat' first
    | (fail_if_no_progress extract_lets)
    | (with_reducible refine keeps_ite (fun _ => ?_) fun _ => ?_)
    | with_reducible exact h
    | with_reducible apply State.bindFault_keeps
    | with_reducible apply State.setEvq_keeps
    | with_reducible apply State.joinQueue_keeps
    | with_reducible apply State.cnt_keeps
    | split
    | with_reducible apply keeps_mk

theorem State.deliver_keeps {z : State} (s : State) (src args : Nat) (h : Keeps True z s) : Keeps True z (State.deliver s src args) := by
  unfold State.deliver
  repeat' first
    | (fail_if_no_progress extract_lets)
    | (with_reducible refine keeps_ite (fun _ => ?_) fun _ => ?_)
    | with_reducible exact h
    | with_reducible apply State.queueEvent_keeps
    | with_reducible apply State.set_keeps
    | with_reducible apply State.msixRaise_keeps
    | with_reducible apply State.emit_keeps
    | split

theorem State.raise_keeps {z : State} (s : State) (src : Nat) (args : Nat) (h : Keeps True z s) : Keeps True z (State.raise s src args) := by
  unfold State.raise
  repeat' first
    | (fail_if_no_progress extract_lets)
    | (with_reducible refine keeps_ite (fun _ => ?_) fun _ => ?_)
    | with_reducible exact h
    | with_reducible apply State.cnt_keeps
    | with_reducible apply State.set_keeps
    | with_reducible apply State.deliver_keeps

theorem State.pcAdd_keeps {z : State} (s : State) (i n : Nat) (h : Keeps True z s) : Keeps True z (State.pcAdd s i n) := by
  unfold State.pcAdd
  repeat' first
    | (fail_if_no_progress extract_lets)
    | (with_reducible refine keeps_ite (fun _ => ?_) fun _ => ?_)
    | with_reducible exact h
    | with_reducible apply State.set_keeps
    | with_reducible apply State.raise_keeps

theorem State.perf_keeps {z : State} (s : State) (die ev inst qual n : Nat) (h : Keeps True z s) : Keeps True z (State.perf s die ev inst qual n) := by
  unfold State.perf
  repeat' first
    | (with_reducible refine keeps_ite (fun _ => ?_) fun _ => ?_)
    | with_reducible exact h
    | with_reducible assumption
    | with_reducible apply State.pcAdd_keeps
    | (with_reducible refine keeps_foldl _ _ ?_ ?_)
    | intro _ _ _

theorem State.portNotice_keeps {z : State} (s : State) (n cause : Nat) (h : Keeps True z s) : Keeps True z (State.portNotice s n cause) := by
  unfold State.portNotice
  repeat' first
    | with_reducible exact h
    | with_reducible apply State.set_keeps
    | with_reducible apply State.raise_keeps

theorem State.hpNotice_keeps {z : State} (s : State) (n cause : Nat) (h : Keeps True z s) : Keeps True z (State.hpNotice s n cause) := by
  unfold State.hpNotice
  repeat' first
    | with_reducible exact h
    | with_reducible apply State.set_keeps
    | with_reducible apply State.raise_keeps

theorem State.fnEvent_keeps {z : State} (s : State) (base own f : Nat) (h : Keeps True z s) : Keeps True z (State.fnEvent s base own f) := by
  unfold State.fnEvent
  repeat' first
    | (with_reducible refine keeps_ite (fun _ => ?_) fun _ => ?_)
    | with_reducible exact h
    | with_reducible apply State.raise_keeps
    | split

theorem State.errUpdate_keeps {tw : Prop} {z : State} (s : State) (h : Keeps tw z s) : Keeps tw z (State.errUpdate s) := by
  unfold State.errUpdate
  repeat' first
    | (fail_if_no_progress extract_lets)
    | (with_reducible refine keeps_ite (fun _ => ?_) fun _ => ?_)
    | with_reducible exact h
    | with_reducible apply State.set_keeps
    | with_reducible apply State.emit_keeps

theorem State.newRecord_keeps {tw : Prop} {z : State} (s : State) (src : Nat) (forced : Bool) (st : Status) (action context info seq : Nat) (h : Keeps tw z s) : Keeps tw z (State.newRecord s src forced st action context info seq) := by
  unfold State.newRecord
  repeat' first
    | (fail_if_no_progress extract_lets)
    | (with_reducible refine keeps_ite (fun _ => ?_) fun _ => ?_)
    | with_reducible exact h
    | with_reducible assumption
    | with_reducible apply State.set_keeps
    | with_reducible apply State.emit_keeps
    | with_reducible apply State.wr_keeps
    | (with_reducible refine keeps_foldl _ _ ?_ ?_)
    | intro _ _ _
    | with_reducible apply keeps_mk

theorem State.logFault_keeps {tw : Prop} {z : State} (s : State) (src : Nat) (forced : Bool) (st : Status) (action context info : Nat) (h : Keeps tw z s) : Keeps tw z (State.logFault s src forced st action context info) := by
  unfold State.logFault
  repeat' first
    | (fail_if_no_progress extract_lets)
    | (with_reducible refine keeps_ite (fun _ => ?_) fun _ => ?_)
    | with_reducible exact h
    | with_reducible apply State.newRecord_keeps
    | split
    | with_reducible apply keeps_mk

theorem State.faultMark_keeps {z : State} (s : State) (src : Nat) (forced : Bool) (st : Status) (action context info : Nat) (h : Keeps True z s) : Keeps True z (State.faultMark s src forced st action context info) := by
  unfold State.faultMark
  repeat' first
    | (fail_if_no_progress extract_lets)
    | with_reducible exact h
    | with_reducible apply State.set_keeps
    | with_reducible apply State.logFault_keeps
    | with_reducible apply State.raise_keeps
    | with_reducible apply State.errUpdate_keeps

theorem State.fatalPort_keeps {tw : Prop} {z : State} (s : State) (p cause : Nat) (h : Keeps tw z s) : Keeps tw z (State.fatalPort s p cause) := by
  unfold State.fatalPort
  repeat' first
    | (fail_if_no_progress extract_lets)
    | (with_reducible refine keeps_ite (fun _ => ?_) fun _ => ?_)
    | with_reducible exact h
    | with_reducible apply State.wire_keeps
    | with_reducible apply State.set_keeps

theorem State.safePcie_keeps {tw : Prop} {z : State} (s : State) (n : Nat) (h : Keeps tw z s) : Keeps tw z (State.safePcie s n) := by
  unfold State.safePcie
  repeat' first
    | (fail_if_no_progress extract_lets)
    | with_reducible exact h
    | with_reducible apply State.emit_keeps
    | with_reducible apply State.set_keeps
    | split

theorem State.safeState_keeps {tw : Prop} {z : State} (s : State) (trip : Bool) (h : Keeps tw z s) : Keeps tw z (State.safeState s trip) := by
  unfold State.safeState
  refine keeps_ite (fun _ => h) fun _ => ?_
  dsimp only
  refine keeps_ite (fun _ => State.emit_keeps _ _ (keeps_mk ?_)) fun _ => ?_ <;>
  · refine keeps_foldl _ _ (fun s _ h => State.set_keeps _ _ _ _ _ h) ?_
    refine keeps_foldl _ _ (fun s _ h => State.safePcie_keeps s _ h) ?_
    exact keeps_foldl _ _ (fun s _ h => State.fatalPort_keeps s _ _ h) (State.set_keeps _ _ _ _ _ h)

theorem State.occur_keeps {z : State} (s : State) (src : Nat) (st : Status) (action context info : Nat) (react : State → State) (hreact : ∀ s, Keeps True z s → Keeps True z (react s)) (h : Keeps True z s) : Keeps True z (State.occur s src st action context info react) := by
  unfold State.occur
  repeat' first
    | (with_reducible refine keeps_ite (fun _ => ?_) fun _ => ?_)
    | with_reducible exact h
    | (with_reducible apply hreact)
    | with_reducible apply State.safeState_keeps
    | with_reducible apply State.faultMark_keeps

end Sys2Proof.Machine
end

