-- ==== Sys2Proof/Laws/KeepsCoords.lean ====
section
/-! SUPPORT. Every operation of Machine/Coords.lean keeps the queue, the canonical form of the memory, the count of free values
drawn and what has left the part (Keeps). -/
namespace Sys2Proof.Machine

open Sys2Proof

theorem State.serviceUpdate_keeps {tw : Prop} {z : State} (s : State) (p : Nat) (h : Keeps tw z s) : Keeps tw z (State.serviceUpdate s p) := by
  unfold State.serviceUpdate
  repeat' first
    | with_reducible exact h
    | with_reducible apply State.set_keeps

theorem State.groupsUpdate_keeps {tw : Prop} {z : State} (s : State) (d : Nat) (h : Keeps tw z s) : Keeps tw z (State.groupsUpdate s d) := by
  unfold State.groupsUpdate
  repeat' first
    | (fail_if_no_progress extract_lets)
    | with_reducible exact h
    | with_reducible apply State.set_keeps

theorem State.fabricUpdate_keeps {tw : Prop} {z : State} (s : State) (h : Keeps tw z s) : Keeps tw z (State.fabricUpdate s) := by
  unfold State.fabricUpdate
  repeat' first
    | (fail_if_no_progress extract_lets)
    | with_reducible exact h
    | with_reducible apply State.set_keeps

end Sys2Proof.Machine
end

