-- ==== Sys2Proof/Laws/KeepsLocks.lean ====
section
/-! SUPPORT. Every operation of Machine/Locks.lean keeps the queue, the canonical form of the memory, the count of free values
drawn and what has left the part (Keeps). -/
namespace Sys2Proof.Machine

open Sys2Proof

theorem State.setThread_keeps {tw : Prop} {z : State} (s : State) (t : ThreadId) (x : Thread) (h : Keeps tw z s) : Keeps tw z (State.setThread s t x) := by
  unfold State.setThread
  repeat' first
    | (fail_if_no_progress extract_lets)
    | with_reducible exact h
    | with_reducible apply keeps_mk

theorem State.modThread_keeps {tw : Prop} {z : State} (s : State) (t : ThreadId) (g : Thread → Thread) (h : Keeps tw z s) : Keeps tw z (State.modThread s t g) := by
  unfold State.modThread
  repeat' first
    | with_reducible exact h
    | with_reducible apply State.setThread_keeps
    | split

theorem State.mapThreads_keeps {tw : Prop} {z : State} (s : State) (g : ThreadId → Thread → Thread) (h : Keeps tw z s) : Keeps tw z (State.mapThreads s g) := by
  unfold State.mapThreads
  repeat' first
    | (fail_if_no_progress extract_lets)
    | with_reducible exact h
    | with_reducible apply keeps_mk

theorem State.endResv_keeps {tw : Prop} {z : State} (s : State) (by_ : Option ThreadId) (a n : Nat) (h : Keeps tw z s) : Keeps tw z (State.endResv s by_ a n) := by
  unfold State.endResv
  repeat' first
    | (with_reducible refine keeps_ite (fun _ => ?_) fun _ => ?_)
    | with_reducible exact h
    | with_reducible apply State.mapThreads_keeps

theorem State.lockStore_keeps {z : State} (s : State) (off v : Nat) (h : Keeps True z s) : Keeps True z (State.lockStore s off v) := by
  unfold State.lockStore
  repeat' first
    | with_reducible exact h
    | with_reducible apply State.gsPut_keeps
    | with_reducible apply State.endResv_keeps

theorem State.lockAnswer_keeps {tw : Prop} {z : State} (s : State) (ident v : Nat) (h : Keeps tw z s) : Keeps tw z (State.lockAnswer s ident v) := by
  unfold State.lockAnswer
  repeat' first
    | (with_reducible refine keeps_ite (fun _ => ?_) fun _ => ?_)
    | with_reducible exact h
    | with_reducible apply State.modThread_keeps
    | with_reducible apply State.emit_keeps
    | with_reducible apply State.set_keeps
    | split

theorem State.unboost_keeps {tw : Prop} {z : State} (s : State) (off : Nat) (h : Keeps tw z s) : Keeps tw z (State.unboost s off) := by
  unfold State.unboost
  repeat' first
    | with_reducible exact h
    | with_reducible apply State.mapThreads_keeps

theorem State.lockPass_keeps {z : State} (s : State) (off : Nat) (abandoned : Bool) (h : Keeps True z s) : Keeps True z (State.lockPass s off abandoned) := by
  unfold State.lockPass
  repeat' first
    | (fail_if_no_progress extract_lets)
    | with_reducible exact h
    | with_reducible apply State.unboost_keeps
    | with_reducible apply State.lockStore_keeps
    | with_reducible apply State.lockAnswer_keeps
    | split
    | with_reducible apply keeps_mk

theorem State.lockOwn_keeps {z : State} (s : State) (off ident : Nat) (h : Keeps True z s) : Keeps True z (State.lockOwn s off ident) := by
  unfold State.lockOwn
  repeat' first
    | (fail_if_no_progress extract_lets)
    | (with_reducible refine keeps_ite (fun _ => ?_) fun _ => ?_)
    | with_reducible exact h
    | with_reducible apply State.lockStore_keeps
    | with_reducible apply keeps_mk

theorem State.lockClaim_keeps {z : State} (s : State) (off ident data : Nat) (h : Keeps True z s) : Keeps True z (State.lockClaim s off ident data) := by
  unfold State.lockClaim
  repeat' first
    | (with_reducible refine keeps_ite (fun _ => ?_) fun _ => ?_)
    | with_reducible exact h
    | with_reducible apply State.cnt_keeps
    | with_reducible apply State.lockOwn_keeps

theorem State.lockRelease_keeps {z : State} (s : State) (off ident data : Nat) (h : Keeps True z s) : Keeps True z (State.lockRelease s off ident data) := by
  unfold State.lockRelease
  repeat' first
    | (fail_if_no_progress extract_lets)
    | (with_reducible refine keeps_ite (fun _ => ?_) fun _ => ?_)
    | with_reducible exact h
    | with_reducible apply State.lockPass_keeps
    | with_reducible apply State.cnt_keeps
    | with_reducible apply keeps_mk

theorem State.lockBoost_keeps {tw : Prop} {z : State} : ∀ (k off prio : Nat) (s : State), Keeps tw z s → Keeps tw z (State.lockBoost k off prio s)
  | 0, _, _, _, h => h
  | k + 1, off, prio, s, h => by
    unfold State.lockBoost
    repeat' first
      | (fail_if_no_progress extract_lets)
      | (with_reducible refine keeps_ite (fun _ => ?_) fun _ => ?_)
      | with_reducible exact h
      | with_reducible apply State.setThread_keeps
      | with_reducible apply State.cnt_keeps
      | with_reducible apply State.lockBoost_keeps
      | split

theorem State.lockWait_keeps {z : State} (s : State) (off ident : Nat) (h : Keeps True z s) : Keeps True z (State.lockWait s off ident).1 := by
  unfold State.lockWait
  repeat' first
    | (fail_if_no_progress extract_lets)
    | with_reducible exact h
    | with_reducible apply State.cnt_keeps
    | with_reducible apply State.lockOwn_keeps
    | with_reducible apply State.lockBoost_keeps
    | (with_reducible refine keeps_itep (fun _ => ?_) fun _ => ?_)
    | with_reducible apply keeps_mk

theorem State.lockWithdraw_keeps {tw : Prop} {z : State} (s : State) (ident : Nat) (h : Keeps tw z s) : Keeps tw z (State.lockWithdraw s ident) := by
  unfold State.lockWithdraw
  repeat' first
    | (fail_if_no_progress extract_lets)
    | with_reducible exact h
    | with_reducible apply keeps_mk

theorem State.lockAbandon_keeps {z : State} (s : State) (ident : Nat) (h : Keeps True z s) : Keeps True z (State.lockAbandon s ident) := by
  unfold State.lockAbandon
  repeat' first
    | (fail_if_no_progress extract_lets)
    | with_reducible exact h
    | with_reducible assumption
    | with_reducible apply State.lockWithdraw_keeps
    | with_reducible apply State.lockPass_keeps
    | with_reducible apply State.cnt_keeps
    | (with_reducible refine keeps_foldl _ _ ?_ ?_)
    | intro _ _ _

theorem State.lockPlain_keeps {z : State} (s : State) (off : Nat) (h : Keeps True z s) : Keeps True z (State.lockPlain s off) := by
  unfold State.lockPlain
  repeat' first
    | (fail_if_no_progress extract_lets)
    | (with_reducible refine keeps_ite (fun _ => ?_) fun _ => ?_)
    | with_reducible exact h
    | with_reducible apply State.cnt_keeps
    | with_reducible apply State.lockPass_keeps
    | with_reducible apply keeps_mk

theorem State.gsStore_keeps {z : State} (s : State) (by_ : Option ThreadId) (off : Nat) (bs : List Byte) (h : Keeps True z s) : Keeps True z (State.gsStore s by_ off bs) := by
  unfold State.gsStore
  repeat' first
    | (fail_if_no_progress extract_lets)
    | with_reducible exact h
    | with_reducible apply State.gsPuts_keeps
    | with_reducible apply State.endResv_keeps
    | with_reducible apply State.lockPlain_keeps
    | (with_reducible refine keeps_foldl _ _ ?_ ?_)

theorem State.modChan_keeps {tw : Prop} {z : State} (s : State) (m c : Nat) (g : Chan → Chan) (h : Keeps tw z s) : Keeps tw z (State.modChan s m c g) := by
  unfold State.modChan
  repeat' first
    | (fail_if_no_progress extract_lets)
    | with_reducible exact h
    | with_reducible apply keeps_mk

theorem State.chanEnd_keeps {z : State} (s : State) (m c kind : Nat) (drop : Bool) (h : Keeps True z s) : Keeps True z (State.chanEnd s m c kind drop) := by
  unfold State.chanEnd
  repeat' first
    | (fail_if_no_progress extract_lets)
    | with_reducible exact h
    | with_reducible apply State.set_keeps
    | with_reducible apply State.lockAbandon_keeps
    | with_reducible apply State.modChan_keeps

theorem State.moversHalt_keeps {z : State} (s : State) (f : Nat) (h : Keeps True z s) : Keeps True z (State.moversHalt s f) := by
  unfold State.moversHalt
  repeat' first
    | (fail_if_no_progress extract_lets)
    | (with_reducible refine keeps_ite (fun _ => ?_) fun _ => ?_)
    | with_reducible exact h
    | with_reducible assumption
    | with_reducible apply State.chanEnd_keeps
    | with_reducible apply State.modChan_keeps
    | (with_reducible refine keeps_foldl _ _ ?_ ?_)
    | intro _ _ _

theorem State.lockWrite_keeps {tw : Prop} {z : State} (s : State) (rq : Requester) (off window : Nat) (eff : Nat → State → State) (heff : ∀ x0 x1, Keeps tw z x1 → Keeps tw z (eff x0 x1)) (h : Keeps tw z s) : Keeps tw z (State.lockWrite s rq off window eff) := by
  unfold State.lockWrite
  repeat' first
    | (with_reducible refine keeps_ite (fun _ => ?_) fun _ => ?_)
    | with_reducible exact h
    | (with_reducible apply heff)
    | with_reducible apply State.cnt_keeps
    | with_reducible apply State.wsRecord_keeps
    | split

theorem execLockClaim_keeps {z : State} (rq : Requester) (off : Nat) (data : Word) (s : State) (hs : Keeps True z s) {t0 : State}
    (e0 : execLockClaim rq off data s = .next t0) : Keeps True z t0 := by
  unfold execLockClaim whenRunning at e0
  cases e0
  repeat' first
    | (with_reducible refine keeps_ite (fun _ => ?_) fun _ => ?_)
    | with_reducible exact hs
    | with_reducible assumption
    | with_reducible apply State.lockWrite_keeps
    | with_reducible apply State.lockClaim_keeps
    | intro _ _ _

theorem execLockRelease_keeps {z : State} (rq : Requester) (off : Nat) (data : Word) (s : State) (hs : Keeps True z s) {t0 : State}
    (e0 : execLockRelease rq off data s = .next t0) : Keeps True z t0 := by
  unfold execLockRelease whenRunning at e0
  cases e0
  repeat' first
    | (with_reducible refine keeps_ite (fun _ => ?_) fun _ => ?_)
    | with_reducible exact hs
    | with_reducible assumption
    | with_reducible apply State.lockWrite_keeps
    | with_reducible apply State.lockRelease_keeps
    | intro _ _ _

theorem State.waitRead_keeps {z : State} (s : State) (ident off : Nat) (h : Keeps True z s) : Keeps True z (State.waitRead s ident off) := by
  unfold State.waitRead
  repeat' first
    | with_reducible exact h
    | with_reducible apply State.lockWait_keeps
    | with_reducible apply State.lockAnswer_keeps
    | split
    | (with_reducible refine keeps_fst (by assumption) ?_)

theorem execLockWaitRead_keeps {z : State} (rq : Requester) (off : Nat) (s : State) (hs : Keeps True z s) {t0 : State}
    (e0 : execLockWaitRead rq off s = .next t0) : Keeps True z t0 := by
  unfold execLockWaitRead whenRunning at e0
  cases e0
  repeat' first
    | (with_reducible refine keeps_ite (fun _ => ?_) fun _ => ?_)
    | with_reducible exact hs
    | with_reducible apply State.waitRead_keeps
    | with_reducible apply State.cnt_keeps
    | split

theorem execHostWaitTimeout_keeps {tw : Prop} {z : State} (off : Nat) (s : State) (hs : Keeps tw z s) {t0 : State}
    (e0 : execHostWaitTimeout off s = .next t0) : Keeps tw z t0 := by
  unfold execHostWaitTimeout whenRunning at e0
  cases e0
  repeat' first
    | (fail_if_no_progress extract_lets)
    | (with_reducible refine keeps_ite (fun _ => ?_) fun _ => ?_)
    | with_reducible exact hs
    | with_reducible apply State.cnt_keeps
    | with_reducible apply State.lockAnswer_keeps
    | with_reducible apply keeps_mk

theorem execLockPlainWrite_keeps {z : State} (t : Option ThreadId) (off : Nat) (v : Word) (s : State) (hs : Keeps True z s) {t0 : State}
    (e0 : execLockPlainWrite t off v s = .next t0) : Keeps True z t0 := by
  unfold execLockPlainWrite whenRunning at e0
  cases e0
  repeat' first
    | (with_reducible refine keeps_ite (fun _ => ?_) fun _ => ?_)
    | with_reducible exact hs
    | with_reducible apply State.gsStore_keeps

end Sys2Proof.Machine
end

