-- ==== Sys2Proof/Laws/KeepsRings.lean ====
section
/-! SUPPORT. Every operation of Machine/Rings.lean keeps the queue, the canonical form of the memory, the count of free values
drawn and what has left the part (Keeps). -/
namespace Sys2Proof.Machine

open Sys2Proof

theorem State.ringCfgWrite_keeps {tw : Prop} {z : State} (s : State) (f r : Nat) (v : Word) (h : Keeps tw z s) : Keeps tw z (State.ringCfgWrite s f r v) := by
  unfold State.ringCfgWrite
  repeat' first
    | (fail_if_no_progress extract_lets)
    | (with_reducible refine keeps_ite (fun _ => ?_) fun _ => ?_)
    | with_reducible exact h
    | with_reducible apply State.wr_keeps
    | with_reducible apply State.set_keeps
    | with_reducible apply State.modRing_keeps

theorem State.ringWrite_keeps {tw : Prop} {z : State} (s : State) (f : Fin 4096) (r : Nat) (n : RegName) (st : Status) (eff : State → State) (heff : ∀ s, Keeps tw z s → Keeps tw z (eff s)) (h : Keeps tw z s) : Keeps tw z (State.ringWrite s f r n st eff) := by
  unfold State.ringWrite
  repeat' first
    | with_reducible exact h
    | with_reducible assumption
    | with_reducible apply State.writeAs_keeps

theorem execRingEnable_keeps {tw : Prop} {z : State} (f r : Fin 4096) (v : Word) (s : State) (hs : Keeps tw z s) {t0 : State}
    (e0 : execRingEnable f r v s = .next t0) : Keeps tw z t0 := by
  unfold execRingEnable whenRunning at e0
  cases e0
  repeat' first
    | (with_reducible refine keeps_ite (fun _ => ?_) fun _ => ?_)
    | with_reducible exact hs
    | with_reducible assumption
    | with_reducible apply State.ringWrite_keeps
    | with_reducible apply State.ringCfgWrite_keeps
    | intro _ _

theorem State.ringVector_keeps {tw : Prop} {z : State} (s : State) (f r : Nat) (h : Keeps tw z s) : Keeps tw z (State.ringVector s f r) := by
  unfold State.ringVector
  repeat' first
    | (with_reducible refine keeps_ite (fun _ => ?_) fun _ => ?_)
    | with_reducible exact h
    | with_reducible apply State.msixRaise_keeps

theorem State.ringAdvanced_keeps {tw : Prop} {z : State} (s : State) (f r : Nat) (event : Bool) (h : Keeps tw z s) : Keeps tw z (State.ringAdvanced s f r event) := by
  unfold State.ringAdvanced
  repeat' first
    | (fail_if_no_progress extract_lets)
    | (with_reducible refine keeps_ite (fun _ => ?_) fun _ => ?_)
    | with_reducible exact h
    | with_reducible apply State.modRing_keeps
    | with_reducible apply State.set_keeps
    | with_reducible apply State.ringVector_keeps

theorem State.ringArm_keeps {tw : Prop} {z : State} (s : State) (f r idx : Nat) (h : Keeps tw z s) : Keeps tw z (State.ringArm s f r idx) := by
  unfold State.ringArm
  repeat' first
    | with_reducible exact h
    | with_reducible apply State.modRing_keeps
    | with_reducible apply State.set_keeps
    | with_reducible apply State.ringAdvanced_keeps

theorem State.ringDisarm_keeps {tw : Prop} {z : State} (s : State) (f r : Nat) (h : Keeps tw z s) : Keeps tw z (State.ringDisarm s f r) := by
  unfold State.ringDisarm
  repeat' first
    | with_reducible exact h
    | with_reducible apply State.modRing_keeps
    | with_reducible apply State.set_keeps

theorem execRingArm_keeps {tw : Prop} {z : State} (f r : Fin 4096) (idx : BitVec 32) (s : State) (hs : Keeps tw z s) {t0 : State}
    (e0 : execRingArm f r idx s = .next t0) : Keeps tw z t0 := by
  unfold execRingArm whenRunning at e0
  cases e0
  repeat' first
    | (with_reducible refine keeps_ite (fun _ => ?_) fun _ => ?_)
    | with_reducible exact hs
    | with_reducible assumption
    | with_reducible apply State.ringWrite_keeps
    | with_reducible apply State.ringArm_keeps
    | intro _ _

theorem execRingDisarm_keeps {tw : Prop} {z : State} (f r : Fin 4096) (s : State) (hs : Keeps tw z s) {t0 : State}
    (e0 : execRingDisarm f r s = .next t0) : Keeps tw z t0 := by
  unfold execRingDisarm whenRunning at e0
  cases e0
  repeat' first
    | (with_reducible refine keeps_ite (fun _ => ?_) fun _ => ?_)
    | with_reducible exact hs
    | with_reducible assumption
    | with_reducible apply State.ringWrite_keeps
    | with_reducible apply State.ringDisarm_keeps
    | intro _ _

theorem State.ringPiWrite_keeps {tw : Prop} {z : State} (s : State) (f : Fin 4096) (r : Nat) (v : Word) (h : Keeps tw z s) : Keeps tw z (State.ringPiWrite s f r v) := by
  unfold State.ringPiWrite
  repeat' first
    | (fail_if_no_progress extract_lets)
    | (with_reducible refine keeps_ite (fun _ => ?_) fun _ => ?_)
    | with_reducible exact h
    | with_reducible assumption
    | with_reducible apply State.ringWrite_keeps
    | with_reducible apply State.set_keeps
    | with_reducible apply State.cnt_keeps
    | intro _ _

theorem execRingPiWrite_keeps {tw : Prop} {z : State} (f r : Fin 4096) (v : Word) (s : State) (hs : Keeps tw z s) {t0 : State}
    (e0 : execRingPiWrite f r v s = .next t0) : Keeps tw z t0 := by
  unfold execRingPiWrite whenRunning at e0
  cases e0
  repeat' first
    | (with_reducible refine keeps_ite (fun _ => ?_) fun _ => ?_)
    | with_reducible exact hs
    | with_reducible apply State.ringPiWrite_keeps

theorem State.ringCiWrite_keeps {tw : Prop} {z : State} (s : State) (f : Fin 4096) (r : Nat) (v : Word) (h : Keeps tw z s) : Keeps tw z (State.ringCiWrite s f r v) := by
  unfold State.ringCiWrite
  repeat' first
    | (fail_if_no_progress extract_lets)
    | (with_reducible refine keeps_ite (fun _ => ?_) fun _ => ?_)
    | with_reducible exact h
    | with_reducible assumption
    | with_reducible apply State.ringWrite_keeps
    | with_reducible apply State.set_keeps
    | with_reducible apply State.cnt_keeps
    | intro _ _

theorem execRingCiWrite_keeps {tw : Prop} {z : State} (f r : Fin 4096) (v : Word) (s : State) (hs : Keeps tw z s) {t0 : State}
    (e0 : execRingCiWrite f r v s = .next t0) : Keeps tw z t0 := by
  unfold execRingCiWrite whenRunning at e0
  cases e0
  repeat' first
    | (with_reducible refine keeps_ite (fun _ => ?_) fun _ => ?_)
    | with_reducible exact hs
    | with_reducible apply State.ringCiWrite_keeps

theorem State.badDoorbell_keeps {z : State} (s : State) (f r : Nat) (h : Keeps True z s) : Keeps True z (State.badDoorbell s f r) := by
  unfold State.badDoorbell
  repeat' first
    | with_reducible exact h
    | with_reducible apply State.set_keeps
    | with_reducible apply State.cnt_keeps
    | with_reducible apply State.fnEvent_keeps

theorem execDoorbellPoll_keeps {z : State} (f r : Fin 4096) (res : ReadResult) (s : State) (hs : Keeps True z s) {t0 : State}
    (e0 : execDoorbellPoll f r res s = .next t0) : Keeps True z t0 := by
  unfold execDoorbellPoll whenRunning at e0
  cases e0
  repeat' first
    | (fail_if_no_progress extract_lets)
    | (with_reducible refine keeps_ite (fun _ => ?_) fun _ => ?_)
    | with_reducible exact hs
    | with_reducible apply State.hostRead_keeps
    | with_reducible apply State.modRing_keeps
    | with_reducible apply State.badDoorbell_keeps
    | split

theorem State.doorbellApply_keeps {z : State} (s : State) (f r : Nat) (h : Keeps True z s) : Keeps True z (State.doorbellApply s f r) := by
  unfold State.doorbellApply
  repeat' first
    | (fail_if_no_progress extract_lets)
    | (with_reducible refine keeps_ite (fun _ => ?_) fun _ => ?_)
    | with_reducible exact h
    | with_reducible apply State.modRing_keeps
    | with_reducible apply State.set_keeps
    | with_reducible apply State.badDoorbell_keeps
    | (dsimp +zetaDelta only; split)

theorem State.holdStart_keeps {tw : Prop} {z : State} (s : State) (f r start count : Nat) (h : Keeps tw z s) : Keeps tw z (State.holdStart s f r start count) := by
  unfold State.holdStart
  repeat' first
    | (fail_if_no_progress extract_lets)
    | with_reducible exact h
    | with_reducible apply State.set_keeps
    | with_reducible apply State.modRing_keeps

theorem State.ringHold_keeps {tw : Prop} {z : State} (s : State) (f : Fin 4096) (r start count : Nat) (h : Keeps tw z s) : Keeps tw z (State.ringHold s f r start count) := by
  unfold State.ringHold
  repeat' first
    | (fail_if_no_progress extract_lets)
    | with_reducible exact h
    | with_reducible assumption
    | with_reducible apply State.ringWrite_keeps
    | with_reducible apply State.holdStart_keeps
    | intro _ _

theorem execRingHoldStart_keeps {tw : Prop} {z : State} (f r : Fin 4096) (start : BitVec 32) (count : BitVec 7) (s : State) (hs : Keeps tw z s) {t0 : State}
    (e0 : execRingHoldStart f r start count s = .next t0) : Keeps tw z t0 := by
  unfold execRingHoldStart whenRunning at e0
  cases e0
  repeat' first
    | (with_reducible refine keeps_ite (fun _ => ?_) fun _ => ?_)
    | with_reducible exact hs
    | with_reducible apply State.ringHold_keeps

theorem State.ringRelease_keeps {tw : Prop} {z : State} (s : State) (f : Fin 4096) (r : Nat) (h : Keeps tw z s) : Keeps tw z (State.ringRelease s f r) := by
  unfold State.ringRelease
  repeat' first
    | (fail_if_no_progress extract_lets)
    | with_reducible exact h
    | with_reducible assumption
    | with_reducible apply State.ringWrite_keeps
    | with_reducible apply State.modRing_keeps
    | with_reducible apply State.set_keeps
    | intro _ _

theorem execRingHoldRelease_keeps {tw : Prop} {z : State} (f r : Fin 4096) (s : State) (hs : Keeps tw z s) {t0 : State}
    (e0 : execRingHoldRelease f r s = .next t0) : Keeps tw z t0 := by
  unfold execRingHoldRelease whenRunning at e0
  cases e0
  repeat' first
    | (with_reducible refine keeps_ite (fun _ => ?_) fun _ => ?_)
    | with_reducible exact hs
    | with_reducible apply State.ringRelease_keeps

theorem State.ringFetch_keeps {tw : Prop} {z : State} (s : State) (f r : Nat) (h : Keeps tw z s) : Keeps tw z (State.ringFetch s f r) := by
  unfold State.ringFetch
  repeat' first
    | (with_reducible refine keeps_ite (fun _ => ?_) fun _ => ?_)
    | with_reducible exact h
    | with_reducible apply State.set_keeps
    | with_reducible apply State.modRing_keeps
    | with_reducible apply State.hostRead_keeps
    | split

theorem execRingEntryFetch_keeps {tw : Prop} {z : State} (f r : Fin 4096) (s : State) (hs : Keeps tw z s) {t0 : State}
    (e0 : execRingEntryFetch f r s = .next t0) : Keeps tw z t0 := by
  unfold execRingEntryFetch whenRunning at e0
  cases e0
  repeat' first
    | (with_reducible refine keeps_ite (fun _ => ?_) fun _ => ?_)
    | with_reducible exact hs
    | with_reducible apply State.ringFetch_keeps

theorem State.fetchError_keeps {z : State} (s : State) (f : Nat) (h : Keeps True z s) : Keeps True z (State.fetchError s f) := by
  unfold State.fetchError
  repeat' first
    | with_reducible exact h
    | with_reducible apply State.cnt_keeps
    | with_reducible apply State.fnEvent_keeps

theorem State.ringArrive_keeps {z : State} (s : State) (e : EntryRef) (res : ReadResult) (h : Keeps True z s) : Keeps True z (State.ringArrive s e res) := by
  unfold State.ringArrive
  repeat' first
    | (with_reducible refine keeps_ite (fun _ => ?_) fun _ => ?_)
    | with_reducible exact h
    | with_reducible apply State.modRing_keeps
    | with_reducible apply State.set_keeps
    | with_reducible apply State.fetchError_keeps
    | split

theorem State.ringRetry_keeps {tw : Prop} {z : State} (s : State) (e : EntryRef) (h : Keeps tw z s) : Keeps tw z (State.ringRetry s e) := by
  unfold State.ringRetry
  repeat' first
    | (with_reducible refine keeps_ite (fun _ => ?_) fun _ => ?_)
    | with_reducible exact h
    | with_reducible apply State.modRing_keeps
    | with_reducible apply State.hostRead_keeps

theorem State.shadowWrite_keeps {tw : Prop} {z : State} (s : State) (f r v : Nat) (h : Keeps tw z s) : Keeps tw z (State.shadowWrite s f r v) := by
  unfold State.shadowWrite
  repeat' first
    | (with_reducible refine keeps_ite (fun _ => ?_) fun _ => ?_)
    | with_reducible exact h
    | with_reducible apply State.hostWrite_keeps

theorem State.cpiAdvance_keeps {tw : Prop} {z : State} (s : State) (f r : Nat) (h : Keeps tw z s) : Keeps tw z (State.cpiAdvance s f r) := by
  unfold State.cpiAdvance
  repeat' first
    | (fail_if_no_progress extract_lets)
    | (with_reducible refine keeps_ite (fun _ => ?_) fun _ => ?_)
    | with_reducible exact h
    | with_reducible apply State.set_keeps
    | with_reducible apply State.modRing_keeps
    | with_reducible apply State.shadowWrite_keeps
    | with_reducible apply State.ringAdvanced_keeps

theorem State.completeEntry_keeps {tw : Prop} {z : State} (s : State) (e : EntryRef) (st : Status) (detail result : Nat) (extra : Nat) (h : Keeps tw z s) : Keeps tw z (State.completeEntry s e st detail result extra) := by
  unfold State.completeEntry
  repeat' first
    | (fail_if_no_progress extract_lets)
    | (with_reducible refine keeps_ite (fun _ => ?_) fun _ => ?_)
    | with_reducible exact h
    | with_reducible apply State.hostWrite_keeps
    | with_reducible apply State.modRing_keeps
    | with_reducible apply State.cpiAdvance_keeps
    | split

theorem State.halt_keeps {z : State} (s : State) (f where_ : Nat) (queue cwq : Bool) (reason idx : Nat) (h : Keeps True z s) : Keeps True z (State.halt s f where_ queue cwq reason idx) := by
  unfold State.halt
  repeat' first
    | (fail_if_no_progress extract_lets)
    | (with_reducible refine keeps_ite (fun _ => ?_) fun _ => ?_)
    | with_reducible exact h
    | with_reducible apply State.set_keeps
    | with_reducible apply State.moversHalt_keeps
    | with_reducible apply State.fnEvent_keeps
    | with_reducible apply keeps_mk

theorem State.entryBegin_keeps {z : State} (s : State) (f r : Nat) (h : Keeps True z s) : Keeps True z (State.entryBegin s f r) := by
  unfold State.entryBegin
  repeat' first
    | (with_reducible refine keeps_ite (fun _ => ?_) fun _ => ?_)
    | with_reducible exact h
    | with_reducible apply State.halt_keeps
    | with_reducible apply State.modRing_keeps
    | with_reducible apply State.set_keeps
    | split

theorem execEntryBegin_keeps {z : State} (f r : Fin 4096) (s : State) (hs : Keeps True z s) {t0 : State}
    (e0 : execEntryBegin f r s = .next t0) : Keeps True z t0 := by
  unfold execEntryBegin whenRunning at e0
  cases e0
  repeat' first
    | (with_reducible refine keeps_ite (fun _ => ?_) fun _ => ?_)
    | with_reducible exact hs
    | with_reducible apply State.entryBegin_keeps

theorem State.takeEntry_keeps {tw : Prop} {z : State} (s : State) (e : EntryRef) (h : Keeps tw z s) : Keeps tw z (State.takeEntry s e) := by
  unfold State.takeEntry
  repeat' first
    | with_reducible exact h
    | with_reducible apply State.modRing_keeps

theorem onEntry_keeps {tw : Prop} {z : State} (e : EntryRef) (op : Nat) (g : BitVec 512 → State → State) (s : State) (hg : ∀ x0 x1, Keeps tw z x1 → Keeps tw z (g x0 x1)) (hs : Keeps tw z s) {t0 : State}
    (e0 : onEntry e op g s = .next t0) : Keeps tw z t0 := by
  unfold onEntry whenRunning at e0
  cases e0
  repeat' first
    | (with_reducible refine keeps_ite (fun _ => ?_) fun _ => ?_)
    | with_reducible exact hs
    | (with_reducible apply hg)
    | with_reducible apply State.takeEntry_keeps
    | (dsimp +zetaDelta only; split)

theorem execNop_keeps {tw : Prop} {z : State} (e : EntryRef) (s : State) (hs : Keeps tw z s) {t0 : State}
    (e0 : execNop e s = .next t0) : Keeps tw z t0 := by
  unfold execNop at e0
  refine onEntry_keeps _ _ _ _ ?_ ?_ e0
  repeat' first
    | with_reducible exact hs
    | with_reducible assumption
    | with_reducible apply State.completeEntry_keeps
    | intro _ _ _

theorem execRecvBuf_keeps {tw : Prop} {z : State} (e : EntryRef) (s : State) (hs : Keeps tw z s) {t0 : State}
    (e0 : execRecvBuf e s = .next t0) : Keeps tw z t0 := by
  unfold execRecvBuf at e0
  refine onEntry_keeps _ _ _ _ ?_ ?_ e0
  repeat' first
    | (fail_if_no_progress extract_lets)
    | (with_reducible refine keeps_ite (fun _ => ?_) fun _ => ?_)
    | with_reducible exact hs
    | with_reducible assumption
    | with_reducible apply State.completeEntry_keeps
    | with_reducible apply State.modRing_keeps
    | intro _ _ _

theorem State.setConn_keeps {tw : Prop} {z : State} (s : State) (c : Nat) (x : ConnSt) (h : Keeps tw z s) : Keeps tw z (State.setConn s c x) := by
  unfold State.setConn
  repeat' first
    | (fail_if_no_progress extract_lets)
    | with_reducible exact h
    | with_reducible apply keeps_mk

theorem State.modConn_keeps {tw : Prop} {z : State} (s : State) (c : Nat) (g : ConnSt → ConnSt) (h : Keeps tw z s) : Keeps tw z (State.modConn s c g) := by
  unfold State.modConn
  repeat' first
    | with_reducible exact h
    | with_reducible apply State.setConn_keeps
    | split

theorem State.noteDone_keeps {tw : Prop} {z : State} (s : State) (x : Option (Nat × Bool × Nat)) (h : Keeps tw z s) : Keeps tw z (State.noteDone s x) := by
  unfold State.noteDone
  repeat' first
      | (with_reducible refine keeps_ite (fun _ => ?_) fun _ => ?_)
      | with_reducible exact h
      | with_reducible apply State.setConn_keeps
      | split

theorem State.notePut_keeps {tw : Prop} {z : State} (s : State) (f r : Nat) (n : NoteWait) (h : Keeps tw z s) : Keeps tw z (State.notePut s f r n) := by
  unfold State.notePut
  repeat' first
    | (fail_if_no_progress extract_lets)
    | with_reducible exact h
    | with_reducible apply State.hostWrite_keeps
    | with_reducible apply State.set_keeps
    | with_reducible apply State.shadowWrite_keeps
    | with_reducible apply State.ringAdvanced_keeps
    | with_reducible apply State.noteDone_keeps

theorem State.notify_keeps {tw : Prop} {z : State} (s : State) (f r : Nat) (n : NoteWait) (h : Keeps tw z s) : Keeps tw z (State.notify s f r n) := by
  unfold State.notify
  repeat' first
    | (with_reducible refine keeps_ite (fun _ => ?_) fun _ => ?_)
    | with_reducible exact h
    | with_reducible apply State.noteDone_keeps
    | with_reducible apply State.notePut_keeps
    | with_reducible apply State.modRing_keeps
    | with_reducible apply State.cnt_keeps

theorem State.noteWrite_keeps {tw : Prop} {z : State} (s : State) (f r : Nat) (h : Keeps tw z s) : Keeps tw z (State.noteWrite s f r) := by
  unfold State.noteWrite
  repeat' first
    | (with_reducible refine keeps_ite (fun _ => ?_) fun _ => ?_)
    | with_reducible exact h
    | with_reducible apply State.modRing_keeps
    | with_reducible apply State.notePut_keeps
    | split

theorem execNotifyRecordWrite_keeps {tw : Prop} {z : State} (f r : Fin 4096) (s : State) (hs : Keeps tw z s) {t0 : State}
    (e0 : execNotifyRecordWrite f r s = .next t0) : Keeps tw z t0 := by
  unfold execNotifyRecordWrite whenRunning at e0
  cases e0
  repeat' first
    | (with_reducible refine keeps_ite (fun _ => ?_) fun _ => ?_)
    | with_reducible exact hs
    | with_reducible apply State.noteWrite_keeps

end Sys2Proof.Machine
end

