-- ==== Sys2Proof/Laws/KeepsXlate.lean ====
section
/-! SUPPORT. Every operation of Machine/Xlate.lean keeps the queue, the canonical form of the memory, the count of free values
drawn and what has left the part (Keeps). -/
namespace Sys2Proof.Machine

open Sys2Proof

theorem State.raiseMiss_keeps {z : State} (s : State) (kind num asid va access : Nat) (user : Bool) (h : Keeps True z s) : Keeps True z (State.raiseMiss s kind num asid va access user).1 := by
  unfold State.raiseMiss
  repeat' first
    | (fail_if_no_progress extract_lets)
    | with_reducible exact h
    | with_reducible apply State.cnt_keeps
    | with_reducible apply State.perf_keeps
    | with_reducible apply State.wr_keeps
    | with_reducible apply State.set_keeps
    | with_reducible apply State.raise_keeps
    | split

theorem State.translate_keeps {z : State} (s : State) (kind num asid va access : Nat) (write scalar user place : Bool) (h : Keeps True z s) : Keeps True z (State.translate s kind num asid va access write scalar user place).1 := by
  unfold State.translate
  repeat' first
    | (fail_if_no_progress extract_lets)
    | (with_reducible refine keeps_ite (fun _ => ?_) fun _ => ?_)
    | with_reducible exact h
    | with_reducible apply State.cnt_keeps
    | with_reducible apply State.raiseMiss_keeps
    | split

theorem State.xlPlace_keeps {z : State} (s : State) (f ie va n : Nat) (write : Bool) (h : Keeps True z s) : Keeps True z (State.xlPlace s f ie va n write).1 := by
  unfold State.xlPlace
  repeat' first
    | with_reducible exact h
    | with_reducible apply State.translate_keeps
    | (with_reducible refine keeps_itep (fun _ => ?_) fun _ => ?_)

theorem State.xlRange_keeps {z : State} (f ie : Nat) (write : Bool) (whole : Nat) :
    ∀ (l : List (Nat × Nat × Nat)) (s : State), Keeps True z s → Keeps True z (State.xlRange s f ie write whole l).1
  | [], _, h => h
  | (va, off, n) :: l, s, h => by
    have a := State.xlPlace_keeps s f ie va whole write h
    unfold State.xlRange
    split
    · rename_i s1 t a1 g e
      rw [e] at a
      have b := State.xlRange_keeps f ie write whole l s1 a
      split <;> rename_i e2 <;> rw [e2] at b <;> exact b
    · rename_i e
      rw [e] at a
      exact a

theorem State.placeParts_keeps {z : State} (s : State) (bs : List Byte) (parts : List (Xl × Nat × Nat)) (h : Keeps True z s) : Keeps True z (State.placeParts s bs parts) := by
  unfold State.placeParts
  repeat' first
    | with_reducible exact h
    | with_reducible assumption
    | with_reducible apply State.gsStore_keeps
    | with_reducible apply State.hostWrite_keeps
    | (with_reducible refine keeps_foldl _ _ ?_ ?_)
    | intro _ _ _
    | split

theorem State.place_keeps {z : State} (s : State) (f ie va : Nat) (bs : List Byte) (h : Keeps True z s) : Keeps True z (State.place s f ie va bs).1 := by
  unfold State.place
  repeat' first
    | with_reducible exact h
    | with_reducible apply State.xlRange_keeps
    | with_reducible apply State.placeParts_keeps
    | with_reducible apply State.perf_keeps
    | split
    | (with_reducible refine keeps_fst (by assumption) ?_)

theorem State.payloadRead_keeps {z : State} (s : State) (f ie va n : Nat) (h : Keeps True z s) : Keeps True z (State.payloadRead s f ie va n).1 := by
  unfold State.payloadRead
  repeat' first
    | with_reducible exact h
    | with_reducible assumption
    | with_reducible apply State.xlRange_keeps
    | with_reducible apply State.hostRead_keeps
    | (with_reducible refine keeps_foldlP _ _ ?_ ?_)
    | intro _ _ _
    | split
    | (with_reducible refine keeps_fst (by assumption) ?_)

theorem State.xlInvCmd_keeps {tw : Prop} {z : State} (s : State) (f : Fin 4096) (asid scope : Nat) (h : Keeps tw z s) : Keeps tw z (State.xlInvCmd s f asid scope) := by
  unfold State.xlInvCmd
  repeat' first
    | (fail_if_no_progress extract_lets)
    | with_reducible exact h
    | with_reducible assumption
    | with_reducible apply State.writeAs_keeps
    | with_reducible apply State.set_keeps
    | intro _ _
    | with_reducible apply keeps_mk

theorem execXlInvCmd_keeps {tw : Prop} {z : State} (f : Fin 4096) (asid : Fin 1024) (scope : Bool) (s : State) (hs : Keeps tw z s) {t0 : State}
    (e0 : execXlInvCmd f asid scope s = .next t0) : Keeps tw z t0 := by
  unfold execXlInvCmd whenRunning at e0
  cases e0
  repeat' first
    | (with_reducible refine keeps_ite (fun _ => ?_) fun _ => ?_)
    | with_reducible exact hs
    | with_reducible apply State.xlInvCmd_keeps

theorem execXlInvComplete_keeps {tw : Prop} {z : State} (f : Fin 4096) (s : State) (hs : Keeps tw z s) {t0 : State}
    (e0 : execXlInvComplete f s = .next t0) : Keeps tw z t0 := by
  unfold execXlInvComplete whenRunning at e0
  cases e0
  repeat' first
    | (with_reducible refine keeps_ite (fun _ => ?_) fun _ => ?_)
    | with_reducible exact hs
    | with_reducible apply State.set_keeps
    | (dsimp +zetaDelta only; split)
    | with_reducible apply keeps_mk

theorem State.asidCfgWrite_keeps {tw : Prop} {z : State} (s : State) (asid : Nat) (v : Word) (h : Keeps tw z s) : Keeps tw z (State.asidCfgWrite s asid v) := by
  unfold State.asidCfgWrite
  repeat' first
    | (fail_if_no_progress extract_lets)
    | (with_reducible refine keeps_ite (fun _ => ?_) fun _ => ?_)
    | with_reducible exact h
    | with_reducible apply State.wr_keeps
    | with_reducible apply keeps_mk

theorem execXlAsidCfgWrite_keeps {tw : Prop} {z : State} (rq : Requester) (asid : Fin 1024) (v : Word) (s : State) (hs : Keeps tw z s) {t0 : State}
    (e0 : execXlAsidCfgWrite rq asid v s = .next t0) : Keeps tw z t0 := by
  unfold execXlAsidCfgWrite whenRunning at e0
  cases e0
  repeat' first
    | (with_reducible refine keeps_ite (fun _ => ?_) fun _ => ?_)
    | with_reducible exact hs
    | with_reducible assumption
    | with_reducible apply State.writeAs_keeps
    | with_reducible apply State.asidCfgWrite_keeps
    | intro _ _

end Sys2Proof.Machine
end

