-- ==== Sys2Proof/Laws/KeepsJobs.lean ====
section
/-! SUPPORT. Every operation of Machine/Jobs.lean keeps the queue, the canonical form of the memory, the count of free values
drawn and what has left the part (Keeps). -/
namespace Sys2Proof.Machine

open Sys2Proof

theorem State.setJob_keeps {z : State} (s : State) (slot : Nat) (e : BitVec 256) (h : Keeps True z s) : Keeps True z (State.setJob s slot e) := by
  unfold State.setJob
  repeat' first
    | with_reducible exact h
    | with_reducible apply State.gsPut_keeps

theorem State.jobCount_keeps {tw : Prop} {z : State} (s : State) (slot byte n : Nat) (h : Keeps tw z s) : Keeps tw z (State.jobCount s slot byte n) := by
  unfold State.jobCount
  repeat' first
    | (fail_if_no_progress extract_lets)
    | with_reducible exact h
    | with_reducible apply keeps_mk

theorem State.jobAccumulate_keeps {z : State} (s : State) (h : Keeps True z s) : Keeps True z (State.jobAccumulate s) := by
  unfold State.jobAccumulate
  repeat' first
    | (fail_if_no_progress extract_lets)
    | with_reducible exact h
    | with_reducible assumption
    | with_reducible apply State.gsPut_keeps
    | (with_reducible refine keeps_foldl _ _ ?_ ?_)
    | intro _ _ _
    | with_reducible apply keeps_mk

theorem State.rttRead_keeps {tw : Prop} {z : State} (s : State) (u idx : Nat) (h : Keeps tw z s) : Keeps tw z (State.rttRead s u idx).1 := by
  unfold State.rttRead
  repeat' first
    | (fail_if_no_progress extract_lets)
    | with_reducible exact h
    | (dsimp +zetaDelta only; split)
    | with_reducible apply keeps_mk

theorem State.rankTranslate_keeps {tw : Prop} {z : State} (s : State) (u slot rank : Nat) (h : Keeps tw z s) : Keeps tw z (State.rankTranslate s u slot rank).1 := by
  unfold State.rankTranslate
  repeat' first
    | (fail_if_no_progress extract_lets)
    | with_reducible exact h
    | with_reducible apply State.rttRead_keeps
    | with_reducible apply State.cnt_keeps
    | (with_reducible refine keeps_itep (fun _ => ?_) fun _ => ?_)

theorem State.rttDiscard_keeps {tw : Prop} {z : State} (s : State) (base count : Nat) (h : Keeps tw z s) : Keeps tw z (State.rttDiscard s base count) := by
  unfold State.rttDiscard
  repeat' first
    | (fail_if_no_progress extract_lets)
    | with_reducible exact h
    | with_reducible apply keeps_mk

theorem State.admission_keeps {tw : Prop} {z : State} (s : State) (job ep : Nat) (h : Keeps tw z s) : Keeps tw z (State.admission s job ep).1 := by
  unfold State.admission
  repeat' first
    | with_reducible exact h
    | with_reducible apply State.jobCount_keeps
    | with_reducible apply State.cnt_keeps
    | (with_reducible refine keeps_itep (fun _ => ?_) fun _ => ?_)

theorem State.jobWrite_keeps {z : State} (s : State) (slot job base count : Nat) (h : Keeps True z s) : Keeps True z (State.jobWrite s slot job base count) := by
  unfold State.jobWrite
  repeat' first
    | (fail_if_no_progress extract_lets)
    | with_reducible exact h
    | with_reducible apply State.setJob_keeps
    | with_reducible apply State.gsPuts_keeps
    | with_reducible apply keeps_mk

theorem execJobCreate_keeps {z : State} (e : EntryRef) (s : State) (hs : Keeps True z s) {t0 : State}
    (e0 : execJobCreate e s = .next t0) : Keeps True z t0 := by
  unfold execJobCreate at e0
  refine onEntry_keeps _ _ _ _ ?_ ?_ e0
  repeat' first
    | (fail_if_no_progress extract_lets)
    | (with_reducible refine keeps_ite (fun _ => ?_) fun _ => ?_)
    | with_reducible exact hs
    | with_reducible assumption
    | with_reducible apply State.jobWrite_keeps
    | with_reducible apply State.completeEntry_keeps
    | intro _ _ _

theorem State.attachBegin_keeps {tw : Prop} {z : State} (s : State) (e : EntryRef) (d : BitVec 512) (attach : Bool) (h : Keeps tw z s) : Keeps tw z (State.attachBegin s e d attach) := by
  unfold State.attachBegin
  repeat' first
    | (fail_if_no_progress extract_lets)
    | (with_reducible refine keeps_ite (fun _ => ?_) fun _ => ?_)
    | with_reducible exact h
    | with_reducible apply State.completeEntry_keeps
    | with_reducible apply keeps_mk

theorem execJobAttach_keeps {tw : Prop} {z : State} (e : EntryRef) (s : State) (hs : Keeps tw z s) {t0 : State}
    (e0 : execJobAttach e s = .next t0) : Keeps tw z t0 := by
  unfold execJobAttach at e0
  refine onEntry_keeps _ _ _ _ ?_ ?_ e0
  repeat' first
    | with_reducible exact hs
    | with_reducible assumption
    | with_reducible apply State.attachBegin_keeps
    | intro _ _ _

theorem execJobDetach_keeps {tw : Prop} {z : State} (e : EntryRef) (s : State) (hs : Keeps tw z s) {t0 : State}
    (e0 : execJobDetach e s = .next t0) : Keeps tw z t0 := by
  unfold execJobDetach at e0
  refine onEntry_keeps _ _ _ _ ?_ ?_ e0
  repeat' first
    | with_reducible exact hs
    | with_reducible assumption
    | with_reducible apply State.attachBegin_keeps
    | intro _ _ _

theorem State.attachEffect_keeps {z : State} (s : State) (w : JobWait) (h : Keeps True z s) : Keeps True z (State.attachEffect s w) := by
  unfold State.attachEffect
  repeat' first
    | (fail_if_no_progress extract_lets)
    | with_reducible exact h
    | with_reducible apply State.setJob_keeps
    | with_reducible apply State.completeEntry_keeps

theorem State.jobBoundary_keeps {z : State} (s : State) (h : Keeps True z s) : Keeps True z (State.jobBoundary s) := by
  unfold State.jobBoundary
  repeat' first
    | (fail_if_no_progress extract_lets)
    | with_reducible exact h
    | with_reducible apply State.attachEffect_keeps
    | (with_reducible refine keeps_foldl _ _ ?_ ?_)
    | with_reducible apply keeps_mk

theorem execJobDestroy_keeps {z : State} (e : EntryRef) (s : State) (hs : Keeps True z s) {t0 : State}
    (e0 : execJobDestroy e s = .next t0) : Keeps True z t0 := by
  unfold execJobDestroy at e0
  refine onEntry_keeps _ _ _ _ ?_ ?_ e0
  repeat' first
    | (fail_if_no_progress extract_lets)
    | (with_reducible refine keeps_ite (fun _ => ?_) fun _ => ?_)
    | with_reducible exact hs
    | with_reducible assumption
    | with_reducible apply State.setJob_keeps
    | with_reducible apply State.completeEntry_keeps
    | intro _ _ _
    | with_reducible apply keeps_mk

theorem execJobDestroyComplete_keeps {z : State} (e : EntryRef) (s : State) (hs : Keeps True z s) {t0 : State}
    (e0 : execJobDestroyComplete e s = .next t0) : Keeps True z t0 := by
  unfold execJobDestroyComplete whenRunning at e0
  cases e0
  repeat' first
    | (with_reducible refine keeps_ite (fun _ => ?_) fun _ => ?_)
    | with_reducible exact hs
    | with_reducible apply State.rttDiscard_keeps
    | with_reducible apply State.setJob_keeps
    | with_reducible apply State.completeEntry_keeps
    | (dsimp +zetaDelta only; split)
    | with_reducible apply keeps_mk

theorem execRttInvalidate_keeps {tw : Prop} {z : State} (e : EntryRef) (s : State) (hs : Keeps tw z s) {t0 : State}
    (e0 : execRttInvalidate e s = .next t0) : Keeps tw z t0 := by
  unfold execRttInvalidate at e0
  refine onEntry_keeps _ _ _ _ ?_ ?_ e0
  repeat' first
    | (fail_if_no_progress extract_lets)
    | (with_reducible refine keeps_ite (fun _ => ?_) fun _ => ?_)
    | with_reducible exact hs
    | with_reducible assumption
    | with_reducible apply State.completeEntry_keeps
    | intro _ _ _
    | with_reducible apply keeps_mk

theorem execRttInvalidateComplete_keeps {tw : Prop} {z : State} (e : EntryRef) (s : State) (hs : Keeps tw z s) {t0 : State}
    (e0 : execRttInvalidateComplete e s = .next t0) : Keeps tw z t0 := by
  unfold execRttInvalidateComplete whenRunning at e0
  cases e0
  repeat' first
    | (with_reducible refine keeps_ite (fun _ => ?_) fun _ => ?_)
    | with_reducible exact hs
    | with_reducible apply State.rttDiscard_keeps
    | with_reducible apply State.completeEntry_keeps
    | (dsimp +zetaDelta only; split)
    | with_reducible apply keeps_mk

theorem execMcgInvalidate_keeps {tw : Prop} {z : State} (e : EntryRef) (s : State) (hs : Keeps tw z s) {t0 : State}
    (e0 : execMcgInvalidate e s = .next t0) : Keeps tw z t0 := by
  unfold execMcgInvalidate at e0
  refine onEntry_keeps _ _ _ _ ?_ ?_ e0
  repeat' first
    | (fail_if_no_progress extract_lets)
    | (with_reducible refine keeps_ite (fun _ => ?_) fun _ => ?_)
    | with_reducible exact hs
    | with_reducible assumption
    | with_reducible apply State.completeEntry_keeps
    | intro _ _ _
    | with_reducible apply keeps_mk

theorem execMcgInvalidateComplete_keeps {tw : Prop} {z : State} (e : EntryRef) (s : State) (hs : Keeps tw z s) {t0 : State}
    (e0 : execMcgInvalidateComplete e s = .next t0) : Keeps tw z t0 := by
  unfold execMcgInvalidateComplete whenRunning at e0
  cases e0
  repeat' first
    | (with_reducible refine keeps_ite (fun _ => ?_) fun _ => ?_)
    | with_reducible exact hs
    | with_reducible apply State.completeEntry_keeps
    | (dsimp +zetaDelta only; split)
    | with_reducible apply keeps_mk

theorem State.mcgRead_keeps {tw : Prop} {z : State} (s : State) (q g : Nat) (h : Keeps tw z s) : Keeps tw z (State.mcgRead s q g).1 := by
  unfold State.mcgRead
  repeat' first
    | (fail_if_no_progress extract_lets)
    | with_reducible exact h
    | split
    | with_reducible apply keeps_mk

end Sys2Proof.Machine
end

