-- ==== Sys2Proof/Laws/KeepsConn.lean ====
section
/-! SUPPORT. Every operation of Machine/Conn.lean keeps the queue, the canonical form of the memory, the count of free values
drawn and what has left the part (Keeps). -/
namespace Sys2Proof.Machine

open Sys2Proof

theorem State.setKey_keeps {z : State} (s : State) (i : Nat) (k : BitVec 128) (h : Keeps True z s) : Keeps True z (State.setKey s i k) := by
  unfold State.setKey
  repeat' first
    | with_reducible exact h
    | with_reducible apply State.gsPut_keeps

theorem State.setTrg_keeps {z : State} (s : State) (i : Nat) (t : BitVec 128) (h : Keeps True z s) : Keeps True z (State.setTrg s i t) := by
  unfold State.setTrg
  repeat' first
    | with_reducible exact h
    | with_reducible apply State.gsPut_keeps

theorem State.watchFire_keeps {z : State} (s : State) (w i v : Nat) (h : Keeps True z s) : Keeps True z (State.watchFire s w i v) := by
  unfold State.watchFire
  repeat' first
    | (fail_if_no_progress extract_lets)
    | with_reducible exact h
    | with_reducible apply State.set_keeps
    | with_reducible apply State.queueEvent_keeps

theorem State.watchCheck_keeps {z : State} (s : State) (i : Nat) (h : Keeps True z s) : Keeps True z (State.watchCheck s i) := by
  unfold State.watchCheck
  repeat' first
    | (fail_if_no_progress extract_lets)
    | (with_reducible refine keeps_ite (fun _ => ?_) fun _ => ?_)
    | with_reducible exact h
    | with_reducible assumption
    | with_reducible apply State.watchFire_keeps
    | (with_reducible refine keeps_foldl _ _ ?_ ?_)
    | intro _ _ _

theorem State.ctrAdd_keeps {z : State} (s : State) (i bytes : Nat) (h : Keeps True z s) : Keeps True z (State.ctrAdd s i bytes) := by
  unfold State.ctrAdd
  repeat' first
    | (fail_if_no_progress extract_lets)
    | with_reducible exact h
    | with_reducible apply State.setTrg_keeps
    | with_reducible apply State.watchCheck_keeps

theorem State.doorbellTake_keeps {tw : Prop} {z : State} (s : State) (v : Word) (h : Keeps tw z s) : Keeps tw z (State.doorbellTake s v) := by
  unfold State.doorbellTake
  repeat' first
    | (fail_if_no_progress extract_lets)
    | with_reducible exact h
    | with_reducible apply State.modConn_keeps

theorem State.cqDoorbell_keeps {tw : Prop} {z : State} (s : State) (f : Fin 4096) (v : Word) (h : Keeps tw z s) : Keeps tw z (State.cqDoorbell s f v) := by
  unfold State.cqDoorbell
  repeat' first
    | (fail_if_no_progress extract_lets)
    | with_reducible exact h
    | with_reducible assumption
    | with_reducible apply State.writeAs_keeps
    | with_reducible apply State.doorbellTake_keeps
    | intro _ _

theorem execCqDoorbell_keeps {tw : Prop} {z : State} (f : Fin 4096) (v : Word) (s : State) (hs : Keeps tw z s) {t0 : State}
    (e0 : execCqDoorbell f v s = .next t0) : Keeps tw z t0 := by
  unfold execCqDoorbell whenRunning at e0
  cases e0
  repeat' first
    | (with_reducible refine keeps_ite (fun _ => ?_) fun _ => ?_)
    | with_reducible exact hs
    | with_reducible apply State.cqDoorbell_keeps

theorem State.dbBatch_keeps {tw : Prop} {z : State} (f : Nat) (d : BitVec 512) :
    ∀ (n k : Nat) (r : Nat × Status) (s : State), Keeps tw z s → Keeps tw z (State.dbBatch s f d n k r).1
  | 0, _, _, _, h => h
  | n + 1, k, r, s, h => by
    unfold State.dbBatch
    repeat' first
      | (fail_if_no_progress extract_lets)
      | with_reducible exact h
      | with_reducible apply State.doorbellTake_keeps
      | with_reducible apply State.dbBatch_keeps
      | split

theorem execDbBatch_keeps {tw : Prop} {z : State} (e : EntryRef) (s : State) (hs : Keeps tw z s) {t0 : State}
    (e0 : execDbBatch e s = .next t0) : Keeps tw z t0 := by
  unfold execDbBatch at e0
  refine onEntry_keeps _ _ _ _ ?_ ?_ e0
  repeat' first
    | (fail_if_no_progress extract_lets)
    | with_reducible exact hs
    | with_reducible assumption
    | with_reducible apply State.dbBatch_keeps
    | with_reducible apply State.completeEntry_keeps
    | intro _ _ _

theorem State.cwqRead_keeps {tw : Prop} {z : State} (s : State) (c : Nat) (recv retry : Bool) (h : Keeps tw z s) : Keeps tw z (State.cwqRead s c recv retry) := by
  unfold State.cwqRead
  repeat' first
    | (fail_if_no_progress extract_lets)
    | with_reducible exact h
    | with_reducible assumption
    | with_reducible apply State.setConn_keeps
    | with_reducible apply State.hostRead_keeps
    | (with_reducible refine keeps_foldl _ _ ?_ ?_)
    | intro _ _ _
    | split

theorem execCwqFetch_keeps {tw : Prop} {z : State} (c : Fin 16777216) (recv : Bool) (s : State) (hs : Keeps tw z s) {t0 : State}
    (e0 : execCwqFetch c recv s = .next t0) : Keeps tw z t0 := by
  unfold execCwqFetch whenRunning at e0
  cases e0
  repeat' first
    | (with_reducible refine keeps_ite (fun _ => ?_) fun _ => ?_)
    | with_reducible exact hs
    | with_reducible apply State.cwqRead_keeps
    | (dsimp +zetaDelta only; split)

theorem State.cwqScan_keeps {tw : Prop} {z : State} (s : State) (c : Nat) (recv : Bool) (h : Keeps tw z s) : Keeps tw z (State.cwqScan s c recv) := by
  unfold State.cwqScan
  repeat' first
    | (fail_if_no_progress extract_lets)
    | (with_reducible refine keeps_ite (fun _ => ?_) fun _ => ?_)
    | with_reducible exact h
    | with_reducible apply State.setConn_keeps
    | with_reducible apply State.cnt_keeps
    | split

theorem execStampRetry_keeps {tw : Prop} {z : State} (c : Fin 16777216) (recv : Bool) (s : State) (hs : Keeps tw z s) {t0 : State}
    (e0 : execStampRetry c recv s = .next t0) : Keeps tw z t0 := by
  unfold execStampRetry whenRunning at e0
  cases e0
  repeat' first
    | (with_reducible refine keeps_ite (fun _ => ?_) fun _ => ?_)
    | with_reducible exact hs
    | with_reducible assumption
    | with_reducible apply State.setConn_keeps
    | with_reducible apply State.hostRead_keeps
    | with_reducible apply State.cwqRead_keeps
    | (with_reducible refine keeps_foldl _ _ ?_ ?_)
    | intro _ _ _
    | (dsimp +zetaDelta only; split)

theorem State.sendRecord_keeps {tw : Prop} {z : State} (s : State) (c : Nat) (x : ConnSt) (m : SMsg) (h : Keeps tw z s) : Keeps tw z (State.sendRecord s c x m) := by
  unfold State.sendRecord
  repeat' first
    | (fail_if_no_progress extract_lets)
    | (with_reducible refine keeps_ite (fun _ => ?_) fun _ => ?_)
    | with_reducible exact h
    | with_reducible apply State.notify_keeps
    | with_reducible apply State.noteDone_keeps

theorem State.abortPosted_keeps {tw : Prop} {z : State} (s : State) (c : Nat) (recv : Bool) (h : Keeps tw z s) : Keeps tw z (State.abortPosted s c recv) := by
  unfold State.abortPosted
  repeat' first
    | (fail_if_no_progress extract_lets)
    | with_reducible exact h
    | with_reducible assumption
    | with_reducible apply State.setConn_keeps
    | with_reducible apply State.notify_keeps
    | (with_reducible refine keeps_foldl _ _ ?_ ?_)
    | intro _ _ _
    | split

theorem State.workArrive_keeps {z : State} (s : State) (e : WorkRef) (res : ReadResult) (h : Keeps True z s) : Keeps True z (State.workArrive s e res) := by
  unfold State.workArrive
  repeat' first
    | (fail_if_no_progress extract_lets)
    | (with_reducible refine keeps_ite (fun _ => ?_) fun _ => ?_)
    | with_reducible exact h
    | with_reducible apply State.setConn_keeps
    | with_reducible apply State.cwqScan_keeps
    | with_reducible apply State.abortPosted_keeps
    | with_reducible apply State.fetchError_keeps
    | split

theorem State.workRetry_keeps {tw : Prop} {z : State} (s : State) (e : WorkRef) (h : Keeps tw z s) : Keeps tw z (State.workRetry s e) := by
  unfold State.workRetry
  repeat' first
    | (with_reducible refine keeps_ite (fun _ => ?_) fun _ => ?_)
    | with_reducible exact h
    | with_reducible apply State.setConn_keeps
    | with_reducible apply State.hostRead_keeps
    | split

theorem execEntryFetchComplete_keeps {z : State} (e : FetchRef) (res : ReadResult) (s : State) (hs : Keeps True z s) {t0 : State}
    (e0 : execEntryFetchComplete e res s = .next t0) : Keeps True z t0 := by
  unfold execEntryFetchComplete whenRunning at e0
  cases e0
  repeat' first
    | (with_reducible refine keeps_ite (fun _ => ?_) fun _ => ?_)
    | with_reducible exact hs
    | with_reducible apply State.ringArrive_keeps
    | with_reducible apply State.workArrive_keeps
    | split

theorem execFetchRetry_keeps {tw : Prop} {z : State} (e : FetchRef) (s : State) (hs : Keeps tw z s) {t0 : State}
    (e0 : execFetchRetry e s = .next t0) : Keeps tw z t0 := by
  unfold execFetchRetry whenRunning at e0
  cases e0
  repeat' first
    | (with_reducible refine keeps_ite (fun _ => ?_) fun _ => ?_)
    | with_reducible exact hs
    | with_reducible apply State.ringRetry_keeps
    | with_reducible apply State.workRetry_keeps
    | split

theorem State.flushDone_keeps {tw : Prop} {z : State} (s : State) (c : Nat) (h : Keeps tw z s) : Keeps tw z (State.flushDone s c) := by
  unfold State.flushDone
  repeat' first
    | (fail_if_no_progress extract_lets)
    | (with_reducible refine keeps_ite (fun _ => ?_) fun _ => ?_)
    | with_reducible exact h
    | with_reducible assumption
    | with_reducible apply State.setConn_keeps
    | with_reducible apply State.sendRecord_keeps
    | (with_reducible refine keeps_foldl _ _ ?_ ?_)
    | intro _ _ _
    | split

theorem State.flushRecv_keeps {tw : Prop} {z : State} (s : State) (c : Nat) (h : Keeps tw z s) : Keeps tw z (State.flushRecv s c) := by
  unfold State.flushRecv
  repeat' first
    | (fail_if_no_progress extract_lets)
    | with_reducible exact h
    | with_reducible assumption
    | with_reducible apply State.setConn_keeps
    | with_reducible apply State.notify_keeps
    | (with_reducible refine keeps_foldl _ _ ?_ ?_)
    | intro _ _ _
    | split

theorem State.recvAccounted_keeps {tw : Prop} {z : State} (s : State) (c msn : Nat) (h : Keeps tw z s) : Keeps tw z (State.recvAccounted s c msn) := by
  unfold State.recvAccounted
  repeat' first
    | with_reducible exact h
    | with_reducible apply State.modConn_keeps
    | with_reducible apply State.flushRecv_keeps

theorem State.recvRecord_keeps {tw : Prop} {z : State} (s : State) (c msn ring : Nat) (unordered : Bool) (n : NoteWait) (h : Keeps tw z s) : Keeps tw z (State.recvRecord s c msn ring unordered n) := by
  unfold State.recvRecord
  repeat' first
    | (fail_if_no_progress extract_lets)
    | (with_reducible refine keeps_ite (fun _ => ?_) fun _ => ?_)
    | with_reducible exact h
    | with_reducible apply State.notify_keeps
    | with_reducible apply State.setConn_keeps
    | split

theorem State.txPush_keeps {tw : Prop} {z : State} (s : State) (ie : Nat) (t : TxPkt) (h : Keeps tw z s) : Keeps tw z (State.txPush s ie t) := by
  unfold State.txPush
  repeat' first
    | (fail_if_no_progress extract_lets)
    | with_reducible exact h
    | with_reducible apply keeps_mk

theorem State.connSend_keeps {tw : Prop} {z : State} (s : State) (c : Nat) (x : ConnSt) (u : TxUnit) (psn : Nat) (first : Bool) (h : Keeps tw z s) : Keeps tw z (State.connSend s c x u psn first) := by
  unfold State.connSend
  repeat' first
    | (fail_if_no_progress extract_lets)
    | (with_reducible refine keeps_ite (fun _ => ?_) fun _ => ?_)
    | with_reducible exact h
    | with_reducible apply State.jobCount_keeps
    | with_reducible apply State.txPush_keeps

theorem State.connReply_keeps {tw : Prop} {z : State} (s : State) (c : Nat) (x : ConnSt) (tp : BitVec 256) (pay : List Byte) (h : Keeps tw z s) : Keeps tw z (State.connReply s c x tp pay) := by
  unfold State.connReply
  repeat' first
    | (fail_if_no_progress extract_lets)
    | with_reducible exact h
    | with_reducible apply State.txPush_keeps

theorem State.pump_keeps {tw : Prop} {z : State} : ∀ (k c : Nat) (s : State), Keeps tw z s → Keeps tw z (State.pump k c s)
  | 0, _, _, h => h
  | k + 1, c, s, h => by
    unfold State.pump
    repeat' first
      | (fail_if_no_progress extract_lets)
      | (with_reducible refine keeps_ite (fun _ => ?_) fun _ => ?_)
      | with_reducible exact h
      | with_reducible apply State.setConn_keeps
      | with_reducible apply State.connSend_keeps
      | with_reducible apply State.pump_keeps
      | split

theorem State.pumpAll_keeps {tw : Prop} {z : State} (s : State) (c : Nat) (h : Keeps tw z s) : Keeps tw z (State.pumpAll s c) := by
  unfold State.pumpAll
  repeat' first
    | with_reducible exact h
    | with_reducible apply State.pump_keeps
    | split

theorem State.cancelSend_keeps {tw : Prop} {z : State} (s : State) (c msn st : Nat) (h : Keeps tw z s) : Keeps tw z (State.cancelSend s c msn st) := by
  unfold State.cancelSend
  repeat' first
    | with_reducible exact h
    | with_reducible apply State.modConn_keeps
    | with_reducible apply State.cnt_keeps
    | with_reducible apply State.pumpAll_keeps

theorem State.stopMsg_keeps {tw : Prop} {z : State} (s : State) (c msn st : Nat) (h : Keeps tw z s) : Keeps tw z (State.stopMsg s c msn st) := by
  unfold State.stopMsg
  repeat' first
    | (fail_if_no_progress extract_lets)
    | (with_reducible refine keeps_ite (fun _ => ?_) fun _ => ?_)
    | with_reducible exact h
    | with_reducible apply State.setConn_keeps
    | with_reducible apply State.cancelSend_keeps
    | split

theorem State.noticeFor_keeps {tw : Prop} {z : State} (s : State) (c : Nat) (x : ConnSt) (psn msn op st : Nat) (h : Keeps tw z s) : Keeps tw z (State.noticeFor s c x psn msn op st) := by
  unfold State.noticeFor
  repeat' first
    | with_reducible exact h
    | with_reducible apply State.connReply_keeps

theorem State.unitFail_keeps {tw : Prop} {z : State} (s : State) (c : Nat) (u : TxUnit) (st : Status) (h : Keeps tw z s) : Keeps tw z (State.unitFail s c u st) := by
  unfold State.unitFail
  repeat' first
    | with_reducible exact h
    | with_reducible apply State.stopMsg_keeps
    | with_reducible apply State.setConn_keeps
    | with_reducible apply State.noticeFor_keeps
    | split

theorem State.askUnit_keeps {z : State} (s : State) (c : Nat) (x : ConnSt) (u : TxUnit) (h : Keeps True z s) : Keeps True z (State.askUnit s c x u) := by
  unfold State.askUnit
  repeat' first
    | (fail_if_no_progress extract_lets)
    | (with_reducible refine keeps_ite (fun _ => ?_) fun _ => ?_)
    | with_reducible exact h
    | with_reducible apply State.modConn_keeps
    | with_reducible apply State.payloadRead_keeps
    | with_reducible apply State.unitFail_keeps
    | split
    | (with_reducible refine keeps_fst (by assumption) ?_)

theorem State.askPayloads_keeps {z : State} (s : State) (c : Nat) (h : Keeps True z s) : Keeps True z (State.askPayloads s c) := by
  unfold State.askPayloads
  repeat' first
    | with_reducible exact h
    | with_reducible assumption
    | with_reducible apply State.askUnit_keeps
    | (with_reducible refine keeps_foldl _ _ ?_ ?_)
    | intro _ _ _
    | split

theorem State.queueUnits_keeps {z : State} (s : State) (c : Nat) (us : List TxUnit) (h : Keeps True z s) : Keeps True z (State.queueUnits s c us) := by
  unfold State.queueUnits
  repeat' first
    | with_reducible exact h
    | with_reducible apply State.modConn_keeps
    | with_reducible apply State.askPayloads_keeps
    | with_reducible apply State.pumpAll_keeps

theorem State.ctxUse_keeps {tw : Prop} {z : State} (s : State) (c : Nat) (h : Keeps tw z s) : Keeps tw z (State.ctxUse s c) := by
  unfold State.ctxUse
  repeat' first
    | (fail_if_no_progress extract_lets)
    | with_reducible exact h
    | with_reducible apply keeps_mk

theorem execConnCreate_keeps {tw : Prop} {z : State} (e : EntryRef) (s : State) (hs : Keeps tw z s) {t0 : State}
    (e0 : execConnCreate e s = .next t0) : Keeps tw z t0 := by
  unfold execConnCreate at e0
  refine onEntry_keeps _ _ _ _ ?_ ?_ e0
  repeat' first
    | (fail_if_no_progress extract_lets)
    | with_reducible exact hs
    | with_reducible assumption
    | with_reducible apply State.rankTranslate_keeps
    | with_reducible apply State.setConn_keeps
    | with_reducible apply State.ctxUse_keeps
    | with_reducible apply State.completeEntry_keeps
    | intro _ _ _
    | split
    | (with_reducible refine keeps_fst (by assumption) ?_)

end Sys2Proof.Machine
end

