-- ==== Sys2Proof/Laws/KeepsMatch.lean ====
section
/-! SUPPORT. Every operation of Machine/Match.lean keeps the queue, the canonical form of the memory, the count of free values
drawn and what has left the part (Keeps). -/
namespace Sys2Proof.Machine

open Sys2Proof

theorem State.setDomain_keeps {tw : Prop} {z : State} (s : State) (d : Domain) (h : Keeps tw z s) : Keeps tw z (State.setDomain s d) := by
  unfold State.setDomain
  repeat' first
    | (fail_if_no_progress extract_lets)
    | (with_reducible refine keeps_ite (fun _ => ?_) fun _ => ?_)
    | with_reducible exact h
    | with_reducible apply keeps_mk

theorem State.enterOverflow_keeps {z : State} (s : State) (d : Domain) (ovf : Bool) (h : Keeps True z s) : Keeps True z (State.enterOverflow s d ovf).1 := by
  unfold State.enterOverflow
  repeat' first
    | with_reducible exact h
    | with_reducible apply State.cnt_keeps
    | with_reducible apply State.raise_keeps
    | (with_reducible refine keeps_itep (fun _ => ?_) fun _ => ?_)

theorem State.overflowOp_keeps {z : State} (s : State) (d : Domain) (h : Keeps True z s) : Keeps True z (State.overflowOp s d) := by
  unfold State.overflowOp
  repeat' first
    | (with_reducible refine keeps_ite (fun _ => ?_) fun _ => ?_)
    | with_reducible exact h
    | with_reducible apply State.cnt_keeps
    | with_reducible apply State.queueEvent_keeps

theorem State.squash_keeps {z : State} (s : State) (fn slot ctx seq conn msn : Nat) (h : Keeps True z s) : Keeps True z (State.squash s fn slot ctx seq conn msn) := by
  unfold State.squash
  repeat' first
    | (fail_if_no_progress extract_lets)
    | (with_reducible refine keeps_ite (fun _ => ?_) fun _ => ?_)
    | with_reducible exact h
    | with_reducible apply State.cnt_keeps
    | with_reducible apply State.perf_keeps
    | with_reducible apply keeps_mk

theorem State.matchNotice_keeps {z : State} (s : State) (p : Post) (n : Noticed) (h : Keeps True z s) : Keeps True z (State.matchNotice s p n) := by
  unfold State.matchNotice
  repeat' first
    | (fail_if_no_progress extract_lets)
    | (with_reducible refine keeps_ite (fun _ => ?_) fun _ => ?_)
    | with_reducible exact h
    | with_reducible apply State.cnt_keeps
    | with_reducible apply State.recvRecord_keeps
    | with_reducible apply State.queueEvent_keeps
    | split

theorem State.packetEvent_keeps {z : State} (s : State) (p : Post) (c msn off : Nat) (pkt : Packet) (slot : Nat) (h : Keeps True z s) : Keeps True z (State.packetEvent s p c msn off pkt slot) := by
  unfold State.packetEvent
  repeat' first
    | (fail_if_no_progress extract_lets)
    | (with_reducible refine keeps_ite (fun _ => ?_) fun _ => ?_)
    | with_reducible exact h
    | with_reducible apply State.modConn_keeps
    | with_reducible apply State.queueEvent_keeps

theorem State.rndvSend_keeps {z : State} (s : State) (c : Nat) (m : SMsg) (h : Keeps True z s) : Keeps True z (State.rndvSend s c m) := by
  unfold State.rndvSend
  repeat' first
    | (fail_if_no_progress extract_lets)
    | with_reducible exact h
    | with_reducible apply State.setConn_keeps
    | with_reducible apply State.queueUnits_keeps
    | split

theorem State.rndvPump_keeps {z : State} : ∀ (k c : Nat) (s : State), Keeps True z s → Keeps True z (State.rndvPump k c s)
  | 0, _, _, h => h
  | k + 1, c, s, h => by
    unfold State.rndvPump
    repeat' first
      | (with_reducible refine keeps_ite (fun _ => ?_) fun _ => ?_)
      | with_reducible exact h
      | with_reducible apply State.setConn_keeps
      | with_reducible apply State.rndvSend_keeps
      | with_reducible apply State.rndvPump_keeps
      | split

theorem State.rndvBind_keeps {z : State} (s : State) (c rtsMsn bytes src : Nat) (tag : BitVec 64) (p : Post) (unexpected : Bool) (h : Keeps True z s) : Keeps True z (State.rndvBind s c rtsMsn bytes src tag p unexpected) := by
  unfold State.rndvBind
  repeat' first
    | (fail_if_no_progress extract_lets)
    | with_reducible exact h
    | with_reducible apply State.modConn_keeps
    | with_reducible apply State.rndvPump_keeps

theorem State.unexpected_keeps {z : State} (s : State) (h : HeldHdr) (hz : Keeps True z s) : Keeps True z (State.unexpected s h).1 := by
  unfold State.unexpected
  repeat' first
    | (fail_if_no_progress extract_lets)
    | with_reducible exact hz
    | with_reducible apply State.cnt_keeps
    | with_reducible apply State.enterOverflow_keeps
    | with_reducible apply State.overflowOp_keeps
    | with_reducible apply State.setDomain_keeps
    | with_reducible apply State.jobCount_keeps
    | with_reducible apply State.modConn_keeps
    | with_reducible apply State.modRing_keeps
    | (with_reducible refine keeps_itep (fun _ => ?_) fun _ => ?_)
    | split

theorem State.bindHdr_keeps {z : State} (s : State) (h : HeldHdr) (p : Post) (hz : Keeps True z s) : Keeps True z (State.bindHdr s h p) := by
  unfold State.bindHdr
  repeat' first
    | (with_reducible refine keeps_ite (fun _ => ?_) fun _ => ?_)
    | with_reducible exact hz
    | with_reducible apply State.modConn_keeps
    | with_reducible apply State.rndvBind_keeps

theorem State.commitCount_keeps {z : State} (s : State) (h : HeldHdr) (hz : Keeps True z s) : Keeps True z (State.commitCount s h) := by
  unfold State.commitCount
  repeat' first
    | (fail_if_no_progress extract_lets)
    | with_reducible exact hz
    | with_reducible apply State.cnt_keeps
    | with_reducible apply State.perf_keeps

theorem State.commitHdr_keeps {z : State} (s : State) (h : HeldHdr) (hz : Keeps True z s) : Keeps True z (State.commitHdr s h).1 := by
  unfold State.commitHdr
  repeat' first
    | (fail_if_no_progress extract_lets)
    | with_reducible exact hz
    | with_reducible apply State.overflowOp_keeps
    | with_reducible apply State.setDomain_keeps
    | with_reducible apply State.squash_keeps
    | with_reducible apply State.commitCount_keeps
    | with_reducible apply State.bindHdr_keeps
    | with_reducible apply State.unexpected_keeps
    | split
    | (with_reducible refine keeps_fst (by assumption) ?_)
    | with_reducible apply keeps_mk

theorem State.unexpNotice_keeps {z : State} (s : State) (u : Unexp) (p : Post) (h : Keeps True z s) : Keeps True z (State.unexpNotice s u p) := by
  unfold State.unexpNotice
  repeat' first
    | with_reducible exact h
    | with_reducible apply State.matchNotice_keeps

theorem State.bindUnexp_keeps {z : State} (s : State) (u : Unexp) (p : Post) (h : Keeps True z s) : Keeps True z (State.bindUnexp s u p) := by
  unfold State.bindUnexp
  repeat' first
    | (with_reducible refine keeps_ite (fun _ => ?_) fun _ => ?_)
    | with_reducible exact h
    | with_reducible apply State.matchNotice_keeps
    | with_reducible apply State.rndvBind_keeps
    | with_reducible apply State.unexpNotice_keeps
    | with_reducible apply State.modConn_keeps

theorem State.recvMatch_keeps {z : State} (s : State) (e : EntryRef) (d : BitVec 512) (h : Keeps True z s) : Keeps True z (State.recvMatch s e d) := by
  unfold State.recvMatch
  repeat' first
    | (fail_if_no_progress extract_lets)
    | with_reducible exact h
    | with_reducible apply State.overflowOp_keeps
    | with_reducible apply State.setDomain_keeps
    | with_reducible apply State.bindUnexp_keeps
    | with_reducible apply State.completeEntry_keeps
    | with_reducible apply State.enterOverflow_keeps
    | split

theorem execRecvMatch_keeps {z : State} (e : EntryRef) (s : State) (hs : Keeps True z s) {t0 : State}
    (e0 : execRecvMatch e s = .next t0) : Keeps True z t0 := by
  unfold execRecvMatch at e0
  refine onEntry_keeps _ _ _ _ ?_ ?_ e0
  repeat' first
    | (fail_if_no_progress extract_lets)
    | (with_reducible refine keeps_ite (fun _ => ?_) fun _ => ?_)
    | with_reducible exact hs
    | with_reducible assumption
    | with_reducible apply State.recvMatch_keeps
    | with_reducible apply State.completeEntry_keeps
    | intro _ _ _

theorem State.uxComplete_keeps {tw : Prop} {z : State} (s : State) (fn ring : Nat) (bufs : List Nat) (st : Status) (bytes result : Nat) (h : Keeps tw z s) : Keeps tw z (State.uxComplete s fn ring bufs st bytes result) := by
  unfold State.uxComplete
  repeat' first
    | with_reducible exact h
    | with_reducible assumption
    | with_reducible apply State.completeEntry_keeps
    | (with_reducible refine keeps_foldl _ _ ?_ ?_)
    | intro _ _ _
    | split

theorem State.mapUnexp_keeps {tw : Prop} {z : State} (s : State) (g : Unexp → Unexp) (h : Keeps tw z s) : Keeps tw z (State.mapUnexp s g) := by
  unfold State.mapUnexp
  repeat' first
    | (fail_if_no_progress extract_lets)
    | with_reducible exact h
    | with_reducible apply keeps_mk

theorem State.matchLeave_keeps {z : State} (s : State) (c : Nat) (h : Keeps True z s) : Keeps True z (State.matchLeave s c) := by
  unfold State.matchLeave
  repeat' first
    | (fail_if_no_progress extract_lets)
    | (with_reducible refine keeps_ite (fun _ => ?_) fun _ => ?_)
    | with_reducible exact h
    | with_reducible assumption
    | with_reducible apply State.setConn_keeps
    | with_reducible apply State.matchNotice_keeps
    | with_reducible apply State.uxComplete_keeps
    | with_reducible apply State.setDomain_keeps
    | (with_reducible refine keeps_foldl _ _ ?_ ?_)
    | intro _ _ _
    | split
    | with_reducible apply keeps_mk

end Sys2Proof.Machine
end

