-- ==== Sys2Proof/Laws/KeepsSend.lean ====
section
/-! SUPPORT. Every operation of Machine/Send.lean keeps the queue, the canonical form of the memory, the count of free values
drawn and what has left the part (Keeps). -/
namespace Sys2Proof.Machine

open Sys2Proof

theorem State.endEntry_keeps {tw : Prop} {z : State} (s : State) (c : Nat) (e : WorkEnt) (st : Status) (h : Keeps tw z s) : Keeps tw z (State.endEntry s c e st) := by
  unfold State.endEntry
  repeat' first
    | with_reducible exact h
    | with_reducible apply State.modConn_keeps
    | with_reducible apply State.flushDone_keeps

theorem State.recvEntry_keeps {tw : Prop} {z : State} (s : State) (c : Nat) (x : ConnSt) (m : RMsg) (idx tag st bytes : Nat) (h : Keeps tw z s) : Keeps tw z (State.recvEntry s c x m idx tag st bytes) := by
  unfold State.recvEntry
  repeat' first
    | (fail_if_no_progress extract_lets)
    | (with_reducible refine keeps_ite (fun _ => ?_) fun _ => ?_)
    | with_reducible exact h
    | with_reducible apply State.recvRecord_keeps
    | with_reducible apply State.noteDone_keeps

theorem State.leaveOpen_keeps {z : State} (s : State) (c next : Nat) (cause : Option Nat) (st : Status) (h : Keeps True z s) : Keeps True z (State.leaveOpen s c next cause st) := by
  unfold State.leaveOpen
  repeat' first
    | (fail_if_no_progress extract_lets)
    | with_reducible exact h
    | with_reducible assumption
    | with_reducible apply State.matchLeave_keeps
    | with_reducible apply State.setConn_keeps
    | with_reducible apply State.flushDone_keeps
    | with_reducible apply State.recvEntry_keeps
    | with_reducible apply State.abortPosted_keeps
    | (with_reducible refine keeps_foldl _ _ ?_ ?_)
    | intro _ _ _
    | split

theorem State.connError_keeps {z : State} (s : State) (c : Nat) (st : Status) (cause : Option Nat) (psn fail : Nat) (h : Keeps True z s) : Keeps True z (State.connError s c st cause psn fail) := by
  unfold State.connError
  repeat' first
    | (fail_if_no_progress extract_lets)
    | (with_reducible refine keeps_ite (fun _ => ?_) fun _ => ?_)
    | with_reducible exact h
    | with_reducible apply State.notify_keeps
    | with_reducible apply State.cnt_keeps
    | with_reducible apply State.leaveOpen_keeps
    | split

theorem State.sendEntry_keeps {z : State} (s : State) (c : Nat) (x : ConnSt) (e : WorkEnt) (d : BitVec 512) (h : Keeps True z s) : Keeps True z (State.sendEntry s c x e d) := by
  unfold State.sendEntry
  repeat' first
    | (fail_if_no_progress extract_lets)
    | with_reducible exact h
    | with_reducible apply State.setConn_keeps
    | with_reducible apply State.queueUnits_keeps

theorem State.workTurn_keeps {z : State} (s : State) (c : Nat) (x : ConnSt) (e : WorkEnt) (d : BitVec 512) (h : Keeps True z s) : Keeps True z (State.workTurn s c x e d) := by
  unfold State.workTurn
  repeat' first
    | (with_reducible refine keeps_ite (fun _ => ?_) fun _ => ?_)
    | with_reducible exact h
    | with_reducible apply State.endEntry_keeps
    | with_reducible apply State.halt_keeps
    | with_reducible apply State.setConn_keeps
    | with_reducible apply State.sendEntry_keeps
    | split

theorem State.workBegin_keeps {z : State} (s : State) (w : WorkRef) (op : Nat) (h : Keeps True z s) : Keeps True z (State.workBegin s w op) := by
  unfold State.workBegin
  repeat' first
    | (fail_if_no_progress extract_lets)
    | (with_reducible refine keeps_ite (fun _ => ?_) fun _ => ?_)
    | with_reducible exact h
    | with_reducible apply State.workTurn_keeps
    | split

theorem execPut_keeps {z : State} (e : WorkRef) (s : State) (hs : Keeps True z s) {t0 : State}
    (e0 : execPut e s = .next t0) : Keeps True z t0 := by
  unfold execPut whenRunning at e0
  cases e0
  repeat' first
    | (with_reducible refine keeps_ite (fun _ => ?_) fun _ => ?_)
    | with_reducible exact hs
    | with_reducible apply State.workBegin_keeps

theorem execGet_keeps {z : State} (e : WorkRef) (s : State) (hs : Keeps True z s) {t0 : State}
    (e0 : execGet e s = .next t0) : Keeps True z t0 := by
  unfold execGet whenRunning at e0
  cases e0
  repeat' first
    | (with_reducible refine keeps_ite (fun _ => ?_) fun _ => ?_)
    | with_reducible exact hs
    | with_reducible apply State.workBegin_keeps

theorem execSend_keeps {z : State} (e : WorkRef) (s : State) (hs : Keeps True z s) {t0 : State}
    (e0 : execSend e s = .next t0) : Keeps True z t0 := by
  unfold execSend whenRunning at e0
  cases e0
  repeat' first
    | (with_reducible refine keeps_ite (fun _ => ?_) fun _ => ?_)
    | with_reducible exact hs
    | with_reducible apply State.workBegin_keeps

theorem execSendMatched_keeps {z : State} (e : WorkRef) (s : State) (hs : Keeps True z s) {t0 : State}
    (e0 : execSendMatched e s = .next t0) : Keeps True z t0 := by
  unfold execSendMatched whenRunning at e0
  cases e0
  repeat' first
    | (with_reducible refine keeps_ite (fun _ => ?_) fun _ => ?_)
    | with_reducible exact hs
    | with_reducible apply State.workBegin_keeps

theorem execAtomic_keeps {z : State} (e : WorkRef) (s : State) (hs : Keeps True z s) {t0 : State}
    (e0 : execAtomic e s = .next t0) : Keeps True z t0 := by
  unfold execAtomic whenRunning at e0
  cases e0
  repeat' first
    | (with_reducible refine keeps_ite (fun _ => ?_) fun _ => ?_)
    | with_reducible exact hs
    | with_reducible apply State.workBegin_keeps

theorem State.fireTriggers_keeps {z : State} (s : State) (i : Nat) (h : Keeps True z s) : Keeps True z (State.fireTriggers s i) := by
  unfold State.fireTriggers
  repeat' first
    | (with_reducible refine keeps_ite (fun _ => ?_) fun _ => ?_)
    | with_reducible exact h
    | with_reducible assumption
    | with_reducible apply State.workTurn_keeps
    | (with_reducible refine keeps_foldl _ _ ?_ ?_)
    | intro _ _ _
    | split

theorem State.raiseCtr_keeps {z : State} (s : State) (i bytes : Nat) (h : Keeps True z s) : Keeps True z (State.raiseCtr s i bytes) := by
  unfold State.raiseCtr
  repeat' first
    | with_reducible exact h
    | with_reducible apply State.ctrAdd_keeps
    | with_reducible apply State.fireTriggers_keeps

theorem State.trgInvalidate_keeps {z : State} (s : State) (i : Nat) (h : Keeps True z s) : Keeps True z (State.trgInvalidate s i) := by
  unfold State.trgInvalidate
  repeat' first
    | (fail_if_no_progress extract_lets)
    | with_reducible exact h
    | with_reducible assumption
    | with_reducible apply State.setTrg_keeps
    | with_reducible apply State.endEntry_keeps
    | (with_reducible refine keeps_foldl _ _ ?_ ?_)
    | intro _ _ _
    | split

theorem State.msgEffect_keeps {z : State} (s : State) (c : Nat) (m : SMsg) (h : Keeps True z s) : Keeps True z (State.msgEffect s c m) := by
  unfold State.msgEffect
  repeat' first
    | (with_reducible refine keeps_ite (fun _ => ?_) fun _ => ?_)
    | with_reducible exact h
    | with_reducible apply State.matchNotice_keeps
    | with_reducible apply State.raiseCtr_keeps
    | split

theorem State.settle_keeps {z : State} (s : State) (c : Nat) (h : Keeps True z s) : Keeps True z (State.settle s c) := by
  unfold State.settle
  repeat' first
    | (fail_if_no_progress extract_lets)
    | with_reducible exact h
    | with_reducible assumption
    | with_reducible apply State.setConn_keeps
    | with_reducible apply State.msgEffect_keeps
    | with_reducible apply State.flushDone_keeps
    | with_reducible apply State.rndvPump_keeps
    | (with_reducible refine keeps_foldl _ _ ?_ ?_)
    | intro _ _ _
    | split

theorem execConnModify_keeps {tw : Prop} {z : State} (e : EntryRef) (s : State) (hs : Keeps tw z s) {t0 : State}
    (e0 : execConnModify e s = .next t0) : Keeps tw z t0 := by
  unfold execConnModify at e0
  refine onEntry_keeps _ _ _ _ ?_ ?_ e0
  repeat' first
    | (fail_if_no_progress extract_lets)
    | (with_reducible refine keeps_ite (fun _ => ?_) fun _ => ?_)
    | with_reducible exact hs
    | with_reducible assumption
    | with_reducible apply State.completeEntry_keeps
    | intro _ _ _
    | (dsimp +zetaDelta only; split)
    | with_reducible apply keeps_mk

theorem execConnDestroy_keeps {z : State} (e : EntryRef) (s : State) (hs : Keeps True z s) {t0 : State}
    (e0 : execConnDestroy e s = .next t0) : Keeps True z t0 := by
  unfold execConnDestroy at e0
  refine onEntry_keeps _ _ _ _ ?_ ?_ e0
  repeat' first
    | (fail_if_no_progress extract_lets)
    | with_reducible exact hs
    | with_reducible assumption
    | with_reducible apply State.leaveOpen_keeps
    | with_reducible apply State.modConn_keeps
    | with_reducible apply State.completeEntry_keeps
    | intro _ _ _
    | split

theorem execConnDestroyComplete_keeps {tw : Prop} {z : State} (e : EntryRef) (s : State) (hs : Keeps tw z s) {t0 : State}
    (e0 : execConnDestroyComplete e s = .next t0) : Keeps tw z t0 := by
  unfold execConnDestroyComplete whenRunning at e0
  cases e0
  repeat' first
    | (with_reducible refine keeps_ite (fun _ => ?_) fun _ => ?_)
    | with_reducible exact hs
    | with_reducible apply State.completeEntry_keeps
    | (dsimp +zetaDelta only; split)
    | with_reducible apply keeps_mk

theorem execMrRegister_keeps {z : State} (e : EntryRef) (s : State) (hs : Keeps True z s) {t0 : State}
    (e0 : execMrRegister e s = .next t0) : Keeps True z t0 := by
  unfold execMrRegister at e0
  refine onEntry_keeps _ _ _ _ ?_ ?_ e0
  repeat' first
    | (fail_if_no_progress extract_lets)
    | (with_reducible refine keeps_ite (fun _ => ?_) fun _ => ?_)
    | with_reducible exact hs
    | with_reducible assumption
    | with_reducible apply State.setKey_keeps
    | with_reducible apply State.completeEntry_keeps
    | intro _ _ _

theorem execMrRevoke_keeps {tw : Prop} {z : State} (e : EntryRef) (s : State) (hs : Keeps tw z s) {t0 : State}
    (e0 : execMrRevoke e s = .next t0) : Keeps tw z t0 := by
  unfold execMrRevoke at e0
  refine onEntry_keeps _ _ _ _ ?_ ?_ e0
  repeat' first
    | (fail_if_no_progress extract_lets)
    | (with_reducible refine keeps_ite (fun _ => ?_) fun _ => ?_)
    | with_reducible exact hs
    | with_reducible assumption
    | with_reducible apply State.completeEntry_keeps
    | intro _ _ _
    | with_reducible apply keeps_mk

theorem execMrRevokeComplete_keeps {z : State} (e : EntryRef) (s : State) (hs : Keeps True z s) {t0 : State}
    (e0 : execMrRevokeComplete e s = .next t0) : Keeps True z t0 := by
  unfold execMrRevokeComplete whenRunning at e0
  cases e0
  repeat' first
    | (fail_if_no_progress extract_lets)
    | (with_reducible refine keeps_ite (fun _ => ?_) fun _ => ?_)
    | with_reducible exact hs
    | with_reducible apply State.emit_keeps
    | with_reducible apply State.setKey_keeps
    | with_reducible apply State.completeEntry_keeps
    | (dsimp +zetaDelta only; split)
    | with_reducible apply keeps_mk

theorem execTrigCounterSet_keeps {z : State} (e : EntryRef) (s : State) (hs : Keeps True z s) {t0 : State}
    (e0 : execTrigCounterSet e s = .next t0) : Keeps True z t0 := by
  unfold execTrigCounterSet at e0
  refine onEntry_keeps _ _ _ _ ?_ ?_ e0
  repeat' first
    | (fail_if_no_progress extract_lets)
    | (with_reducible refine keeps_ite (fun _ => ?_) fun _ => ?_)
    | with_reducible exact hs
    | with_reducible assumption
    | with_reducible apply State.completeEntry_keeps
    | with_reducible apply State.setTrg_keeps
    | with_reducible apply State.watchCheck_keeps
    | with_reducible apply State.fireTriggers_keeps
    | intro _ _ _
    | with_reducible apply keeps_mk

theorem State.waitEffect_keeps {z : State} (s : State) (w : ConnWait) (h : Keeps True z s) : Keeps True z (State.waitEffect s w) := by
  unfold State.waitEffect
  repeat' first
    | (fail_if_no_progress extract_lets)
    | (with_reducible refine keeps_ite (fun _ => ?_) fun _ => ?_)
    | with_reducible exact h
    | with_reducible apply State.modConn_keeps
    | with_reducible apply State.connError_keeps
    | with_reducible apply State.completeEntry_keeps
    | with_reducible apply State.setKey_keeps
    | with_reducible apply State.trgInvalidate_keeps
    | split
    | (dsimp +zetaDelta only; split)
    | with_reducible apply keeps_mk

theorem State.connBoundary_keeps {z : State} (s : State) (h : Keeps True z s) : Keeps True z (State.connBoundary s) := by
  unfold State.connBoundary
  repeat' first
    | (fail_if_no_progress extract_lets)
    | with_reducible exact h
    | with_reducible apply State.waitEffect_keeps
    | (with_reducible refine keeps_foldl _ _ ?_ ?_)
    | with_reducible apply keeps_mk

theorem State.ackSend_keeps {tw : Prop} {z : State} (s : State) (c : Nat) (h : Keeps tw z s) : Keeps tw z (State.ackSend s c) := by
  unfold State.ackSend
  repeat' first
    | (fail_if_no_progress extract_lets)
    | (with_reducible refine keeps_ite (fun _ => ?_) fun _ => ?_)
    | with_reducible exact h
    | with_reducible apply State.jobCount_keeps
    | with_reducible apply State.setConn_keeps
    | with_reducible apply State.connReply_keeps
    | split

theorem State.windowUpdate_keeps {tw : Prop} {z : State} (s : State) (c : Nat) (h : Keeps tw z s) : Keeps tw z (State.windowUpdate s c) := by
  unfold State.windowUpdate
  repeat' first
    | (fail_if_no_progress extract_lets)
    | (with_reducible refine keeps_ite (fun _ => ?_) fun _ => ?_)
    | with_reducible exact h
    | with_reducible apply State.setConn_keeps
    | with_reducible apply State.pumpAll_keeps
    | with_reducible apply State.cnt_keeps
    | split

theorem State.windowKeep_keeps {tw : Prop} {z : State} (s : State) (c : Nat) (h : Keeps tw z s) : Keeps tw z (State.windowKeep s c) := by
  unfold State.windowKeep
  repeat' first
    | with_reducible exact h
    | with_reducible apply State.modConn_keeps
    | with_reducible apply State.pumpAll_keeps

theorem State.connTurnover_keeps {z : State} (s : State) (late : Nat) (h : Keeps True z s) : Keeps True z (State.connTurnover s late) := by
  unfold State.connTurnover
  repeat' first
    | (fail_if_no_progress extract_lets)
    | (with_reducible refine keeps_ite (fun _ => ?_) fun _ => ?_)
    | with_reducible exact h
    | with_reducible assumption
    | with_reducible apply State.ackSend_keeps
    | with_reducible apply State.windowKeep_keeps
    | with_reducible apply State.windowUpdate_keeps
    | with_reducible apply State.modConn_keeps
    | with_reducible apply State.connBoundary_keeps
    | (with_reducible refine keeps_foldl _ _ ?_ ?_)
    | intro _ _ _

theorem State.untakeEntry_keeps {tw : Prop} {z : State} (s : State) (e : EntryRef) (h : Keeps tw z s) : Keeps tw z (State.untakeEntry s e) := by
  unfold State.untakeEntry
  repeat' first
    | with_reducible exact h
    | with_reducible apply State.modRing_keeps

theorem State.dgQueue_keeps {z : State} (s : State) (e : EntryRef) (d : BitVec 512) (ie : Nat) (net : BitVec 256) (op : Nat) (res : ReadResult) (h : Keeps True z s) : Keeps True z (State.dgQueue s e d ie net op res) := by
  unfold State.dgQueue
  repeat' first
    | (fail_if_no_progress extract_lets)
    | with_reducible exact h
    | with_reducible apply State.payloadRead_keeps
    | with_reducible apply State.completeEntry_keeps
    | with_reducible apply State.untakeEntry_keeps
    | with_reducible apply State.txPush_keeps
    | split
    | (with_reducible refine keeps_fst (by assumption) ?_)

theorem execDgSend_keeps {z : State} (e : EntryRef) (payload : ReadResult) (s : State) (hs : Keeps True z s) {t0 : State}
    (e0 : execDgSend e payload s = .next t0) : Keeps True z t0 := by
  unfold execDgSend at e0
  refine onEntry_keeps _ _ _ _ ?_ ?_ e0
  repeat' first
    | (fail_if_no_progress extract_lets)
    | with_reducible exact hs
    | with_reducible assumption
    | with_reducible apply State.rankTranslate_keeps
    | with_reducible apply State.dgQueue_keeps
    | with_reducible apply State.completeEntry_keeps
    | intro _ _ _
    | split

theorem execMcSend_keeps {z : State} (e : EntryRef) (payload : ReadResult) (s : State) (hs : Keeps True z s) {t0 : State}
    (e0 : execMcSend e payload s = .next t0) : Keeps True z t0 := by
  unfold execMcSend at e0
  refine onEntry_keeps _ _ _ _ ?_ ?_ e0
  repeat' first
    | (fail_if_no_progress extract_lets)
    | with_reducible exact hs
    | with_reducible assumption
    | with_reducible apply State.mcgRead_keeps
    | with_reducible apply State.dgQueue_keeps
    | with_reducible apply State.completeEntry_keeps
    | intro _ _ _
    | split

end Sys2Proof.Machine
end

