-- ==== Sys2Proof/Laws/KeepsTransport.lean ====
section
/-! SUPPORT. Every operation of Machine/Transport.lean keeps the queue, the canonical form of the memory, the count of free values
drawn and what has left the part (Keeps). -/
namespace Sys2Proof.Machine

open Sys2Proof

theorem State.ejPop_keeps {tw : Prop} {z : State} (s : State) (ie : Nat) (h : Keeps tw z s) : Keeps tw z (State.ejPop s ie) := by
  unfold State.ejPop
  repeat' first
    | (fail_if_no_progress extract_lets)
    | with_reducible exact h
    | with_reducible apply keeps_mk

theorem State.noticeBack_keeps {tw : Prop} {z : State} (s : State) (ie : Nat) (p : Packet) (st : Status) (h : Keeps tw z s) : Keeps tw z (State.noticeBack s ie p st) := by
  unfold State.noticeBack
  repeat' first
    | (fail_if_no_progress extract_lets)
    | (with_reducible refine keeps_ite (fun _ => ?_) fun _ => ?_)
    | with_reducible exact h
    | with_reducible apply State.jobCount_keeps
    | with_reducible apply State.txPush_keeps
    | (dsimp +zetaDelta only; split)

theorem State.refuse_keeps {tw : Prop} {z : State} (s : State) (c : Nat) (x : ConnSt) (p : Packet) (st : Status) (h : Keeps tw z s) : Keeps tw z (State.refuse s c x p st) := by
  unfold State.refuse
  repeat' first
    | with_reducible exact h
    | with_reducible apply State.jobCount_keeps
    | with_reducible apply State.noticeFor_keeps

theorem State.markRecv_keeps {tw : Prop} {z : State} (s : State) (c psn : Nat) (h : Keeps tw z s) : Keeps tw z (State.markRecv s c psn) := by
  unfold State.markRecv
  repeat' first
    | with_reducible exact h
    | with_reducible apply State.modConn_keeps

theorem State.finishR_keeps {z : State} (s : State) (c : Nat) (m : RMsg) (h : Keeps True z s) : Keeps True z (State.finishR s c m) := by
  unfold State.finishR
  repeat' first
    | (fail_if_no_progress extract_lets)
    | (with_reducible refine keeps_ite (fun _ => ?_) fun _ => ?_)
    | with_reducible exact h
    | with_reducible apply State.setConn_keeps
    | with_reducible apply State.raiseCtr_keeps
    | with_reducible apply State.cnt_keeps
    | with_reducible apply State.recvEntry_keeps
    | with_reducible apply State.matchNotice_keeps
    | with_reducible apply State.uxComplete_keeps
    | with_reducible apply State.mapUnexp_keeps
    | with_reducible apply State.recvAccounted_keeps
    | split
    | (dsimp +zetaDelta only; split)

theorem State.account_keeps {z : State} (s : State) (c : Nat) (p : Packet) (placed : Nat) (st : Status) (h : Keeps True z s) : Keeps True z (State.account s c p placed st) := by
  unfold State.account
  repeat' first
    | (fail_if_no_progress extract_lets)
    | (with_reducible refine keeps_ite (fun _ => ?_) fun _ => ?_)
    | with_reducible exact h
    | with_reducible apply State.modConn_keeps
    | with_reducible apply State.markRecv_keeps
    | with_reducible apply State.setConn_keeps
    | with_reducible apply State.emit_keeps
    | with_reducible apply State.finishR_keeps
    | split

theorem State.refuseAcc_keeps {z : State} (s : State) (c : Nat) (x : ConnSt) (p : Packet) (st : Status) (h : Keeps True z s) : Keeps True z (State.refuseAcc s c x p st) := by
  unfold State.refuseAcc
  repeat' first
    | with_reducible exact h
    | with_reducible apply State.refuse_keeps
    | with_reducible apply State.account_keeps

theorem State.issue_keeps {z : State} (s : State) (c ie : Nat) (p : Packet) (d : Dst) (h : Keeps True z s) : Keeps True z (State.issue s c ie p d).1 := by
  unfold State.issue
  repeat' first
      | with_reducible exact h
      | with_reducible apply State.place_keeps
      | with_reducible apply State.hostWrite_keeps
      | with_reducible apply State.gsStore_keeps
      | with_reducible apply State.packetEvent_keeps
      | split

theorem State.park_keeps {tw : Prop} {z : State} (s : State) (c ie : Nat) (p : Packet) (miss : Option (Nat × Nat)) (h : Keeps tw z s) : Keeps tw z (State.park s c ie p miss) := by
  unfold State.park
  repeat' first
    | (with_reducible refine keeps_ite (fun _ => ?_) fun _ => ?_)
    | with_reducible exact h
    | with_reducible apply State.cnt_keeps
    | with_reducible apply State.modConn_keeps

theorem State.respPlaced_keeps {z : State} (s : State) (c : Nat) (p : Packet) (h : Keeps True z s) : Keeps True z (State.respPlaced s c p) := by
  unfold State.respPlaced
  repeat' first
    | with_reducible exact h
    | with_reducible apply State.modConn_keeps
    | with_reducible apply State.markRecv_keeps
    | with_reducible apply State.settle_keeps

theorem State.placePkt_keeps {z : State} (s : State) (c ie : Nat) (p : Packet) (h : Keeps True z s) : Keeps True z (State.placePkt s c ie p) := by
  unfold State.placePkt
  repeat' first
    | (fail_if_no_progress extract_lets)
    | (with_reducible refine keeps_ite (fun _ => ?_) fun _ => ?_)
    | with_reducible exact h
    | with_reducible apply State.issue_keeps
    | with_reducible apply State.jobCount_keeps
    | with_reducible apply State.respPlaced_keeps
    | with_reducible apply State.account_keeps
    | with_reducible apply State.refuse_keeps
    | with_reducible apply State.markRecv_keeps
    | with_reducible apply State.stopMsg_keeps
    | with_reducible apply State.settle_keeps
    | with_reducible apply State.refuseAcc_keeps
    | with_reducible apply State.park_keeps
    | split
    | (with_reducible refine keeps_fst (by assumption) ?_)

theorem State.undoCommit_keeps {z : State} (s : State) (c : Nat) (x : ConnSt) (msn : Nat) (st : Status) (h : Keeps True z s) : Keeps True z (State.undoCommit s c x msn st) := by
  unfold State.undoCommit
  repeat' first
    | (fail_if_no_progress extract_lets)
    | (with_reducible refine keeps_ite (fun _ => ?_) fun _ => ?_)
    | with_reducible exact h
    | with_reducible assumption
    | with_reducible apply State.setConn_keeps
    | with_reducible apply State.refuse_keeps
    | with_reducible apply State.refuseAcc_keeps
    | (with_reducible refine keeps_foldl _ _ ?_ ?_)
    | intro _ _ _
    | (dsimp +zetaDelta only; split)

theorem State.commitRun_keeps {z : State} : ∀ (k c ie : Nat) (s : State), Keeps True z s → Keeps True z (State.commitRun k c ie s)
  | 0, _, _, _, h => h
  | k + 1, c, ie, s, h => by
    unfold State.commitRun
    repeat' first
      | (fail_if_no_progress extract_lets)
      | (with_reducible refine keeps_ite (fun _ => ?_) fun _ => ?_)
      | with_reducible exact h
      | with_reducible assumption
      | with_reducible apply State.setConn_keeps
      | with_reducible apply State.commitHdr_keeps
      | with_reducible apply State.modConn_keeps
      | with_reducible apply State.placePkt_keeps
      | with_reducible apply State.undoCommit_keeps
      | with_reducible apply State.commitRun_keeps
      | (with_reducible refine keeps_foldl _ _ ?_ ?_)
      | intro _ _ _
      | split
      | (with_reducible refine keeps_fst (by assumption) ?_)

theorem State.commits_keeps {z : State} (s : State) (c ie : Nat) (h : Keeps True z s) : Keeps True z (State.commits s c ie) := by
  unfold State.commits
  repeat' first
    | with_reducible exact h
    | with_reducible apply State.commitRun_keeps
    | split

theorem State.commitOther_keeps {z : State} (s : State) (c ie msn : Nat) (h : Keeps True z s) : Keeps True z (State.commitOther s c ie msn) := by
  unfold State.commitOther
  repeat' first
    | with_reducible exact h
    | with_reducible apply State.modConn_keeps
    | with_reducible apply State.commits_keeps

theorem State.holdMatched_keeps {tw : Prop} {z : State} (s : State) (c : Nat) (x : ConnSt) (p : Packet) (h : Keeps tw z s) : Keeps tw z (State.holdMatched s c x p) := by
  unfold State.holdMatched
  repeat' first
    | (fail_if_no_progress extract_lets)
    | (with_reducible refine keeps_ite (fun _ => ?_) fun _ => ?_)
    | with_reducible exact h
    | with_reducible apply State.cnt_keeps
    | with_reducible apply State.setConn_keeps
    | with_reducible apply State.setDomain_keeps
    | with_reducible apply keeps_mk

theorem State.commitMatched_keeps {z : State} (s : State) (c ie : Nat) (x : ConnSt) (p : Packet) (h : Keeps True z s) : Keeps True z (State.commitMatched s c ie x p) := by
  unfold State.commitMatched
  repeat' first
    | (fail_if_no_progress extract_lets)
    | (with_reducible refine keeps_ite (fun _ => ?_) fun _ => ?_)
    | with_reducible exact h
    | with_reducible apply State.setConn_keeps
    | with_reducible apply State.commitHdr_keeps
    | with_reducible apply State.modConn_keeps
    | with_reducible apply State.placePkt_keeps
    | with_reducible apply State.commits_keeps
    | with_reducible apply State.refuse_keeps
    | with_reducible apply State.refuseAcc_keeps
    | split
    | (with_reducible refine keeps_fst (by assumption) ?_)

theorem State.recvMatched_keeps {z : State} (s : State) (c ie : Nat) (x : ConnSt) (p : Packet) (h : Keeps True z s) : Keeps True z (State.recvMatched s c ie x p) := by
  unfold State.recvMatched
  repeat' first
    | (with_reducible refine keeps_ite (fun _ => ?_) fun _ => ?_)
    | with_reducible exact h
    | with_reducible apply State.placePkt_keeps
    | with_reducible apply State.commitMatched_keeps
    | with_reducible apply State.holdMatched_keeps
    | split

theorem State.keyCount_keeps {z : State} (s : State) (x : ConnSt) (st : Status) (h : Keeps True z s) : Keeps True z (State.keyCount s x st) := by
  unfold State.keyCount
  repeat' first
    | (with_reducible refine keeps_ite (fun _ => ?_) fun _ => ?_)
    | with_reducible exact h
    | with_reducible apply State.cnt_keeps

theorem State.recvPut_keeps {z : State} (s : State) (c ie : Nat) (x : ConnSt) (p : Packet) (h : Keeps True z s) : Keeps True z (State.recvPut s c ie x p) := by
  unfold State.recvPut
  repeat' first
    | (fail_if_no_progress extract_lets)
    | with_reducible exact h
    | with_reducible apply State.setConn_keeps
    | with_reducible apply State.placePkt_keeps
    | with_reducible apply State.refuseAcc_keeps
    | with_reducible apply State.keyCount_keeps
    | split

theorem State.recvSend_keeps {z : State} (s : State) (c ie : Nat) (x : ConnSt) (p : Packet) (h : Keeps True z s) : Keeps True z (State.recvSend s c ie x p) := by
  unfold State.recvSend
  repeat' first
    | (fail_if_no_progress extract_lets)
    | with_reducible exact h
    | with_reducible apply State.cnt_keeps
    | with_reducible apply State.refuse_keeps
    | with_reducible apply State.halt_keeps
    | with_reducible apply State.setConn_keeps
    | with_reducible apply State.placePkt_keeps
    | with_reducible apply State.refuseAcc_keeps
    | split

theorem State.oneRecv_keeps {tw : Prop} {z : State} (s : State) (c : Nat) (p : Packet) (h : Keeps tw z s) : Keeps tw z (State.oneRecv s c p) := by
  unfold State.oneRecv
  repeat' first
    | with_reducible exact h
    | with_reducible apply State.markRecv_keeps
    | with_reducible apply State.recvAccounted_keeps

theorem State.oneRefuse_keeps {tw : Prop} {z : State} (s : State) (c : Nat) (x : ConnSt) (p : Packet) (st : Status) (h : Keeps tw z s) : Keeps tw z (State.oneRefuse s c x p st) := by
  unfold State.oneRefuse
  repeat' first
    | with_reducible exact h
    | with_reducible apply State.refuse_keeps
    | with_reducible apply State.oneRecv_keeps

theorem State.recvGet_keeps {z : State} (s : State) (c : Nat) (x : ConnSt) (p : Packet) (h : Keeps True z s) : Keeps True z (State.recvGet s c x p) := by
  unfold State.recvGet
  repeat' first
    | (fail_if_no_progress extract_lets)
    | with_reducible exact h
    | with_reducible apply State.oneRecv_keeps
    | with_reducible apply State.queueUnits_keeps
    | with_reducible apply State.keyCount_keeps
    | with_reducible apply State.oneRefuse_keeps
    | split

theorem State.recvRndv_keeps {z : State} (s : State) (c : Nat) (x : ConnSt) (p : Packet) (h : Keeps True z s) : Keeps True z (State.recvRndv s c x p) := by
  unfold State.recvRndv
  repeat' first
    | (fail_if_no_progress extract_lets)
    | (with_reducible refine keeps_ite (fun _ => ?_) fun _ => ?_)
    | with_reducible exact h
    | with_reducible apply State.oneRefuse_keeps
    | with_reducible apply State.setConn_keeps
    | with_reducible apply State.oneRecv_keeps
    | with_reducible apply State.queueUnits_keeps
    | split

theorem State.atomicResp_keeps {z : State} (s : State) (c : Nat) (x : ConnSt) (p : Packet) (old st : Nat) (h : Keeps True z s) : Keeps True z (State.atomicResp s c x p old st) := by
  unfold State.atomicResp
  repeat' first
    | (fail_if_no_progress extract_lets)
    | with_reducible exact h
    | with_reducible apply State.queueUnits_keeps

theorem State.gsAtomic_keeps {z : State} (s : State) (c : Nat) (x : ConnSt) (p : Packet) (a n : Nat) (h : Keeps True z s) : Keeps True z (State.gsAtomic s c x p a n) := by
  unfold State.gsAtomic
  repeat' first
    | (fail_if_no_progress extract_lets)
    | with_reducible exact h
    | with_reducible apply State.gsStore_keeps
    | with_reducible apply State.oneRecv_keeps
    | with_reducible apply State.atomicResp_keeps

theorem State.atomicGo_keeps {z : State} (s : State) (c ie : Nat) (x : ConnSt) (p : Packet) (h : Keeps True z s) : Keeps True z (State.atomicGo s c ie x p) := by
  unfold State.atomicGo
  repeat' first
    | (fail_if_no_progress extract_lets)
    | (with_reducible refine keeps_ite (fun _ => ?_) fun _ => ?_)
    | with_reducible exact h
    | with_reducible apply State.gsAtomic_keeps
    | with_reducible apply State.xlPlace_keeps
    | with_reducible apply State.modConn_keeps
    | with_reducible apply State.oneRecv_keeps
    | with_reducible apply State.emit_keeps
    | with_reducible apply State.park_keeps
    | with_reducible apply State.oneRefuse_keeps
    | split
    | (with_reducible refine keeps_fst (by assumption) ?_)

theorem State.recvAtomic_keeps {z : State} (s : State) (c ie : Nat) (x : ConnSt) (p : Packet) (h : Keeps True z s) : Keeps True z (State.recvAtomic s c ie x p) := by
  unfold State.recvAtomic
  repeat' first
    | with_reducible exact h
    | with_reducible apply State.atomicGo_keeps
    | with_reducible apply State.oneRefuse_keeps
    | with_reducible apply State.keyCount_keeps
    | split

theorem execAtomicOpComplete_keeps {z : State} (c : Fin 16777216) (psn : BitVec 24) (res : ReadResult) (s : State) (hs : Keeps True z s) {t0 : State}
    (e0 : execAtomicOpComplete c psn res s = .next t0) : Keeps True z t0 := by
  unfold execAtomicOpComplete whenRunning at e0
  cases e0
  repeat' first
    | (with_reducible refine keeps_ite (fun _ => ?_) fun _ => ?_)
    | with_reducible exact hs
    | with_reducible apply State.setConn_keeps
    | with_reducible apply State.atomicResp_keeps
    | with_reducible apply State.drawNat_keeps
    | split
    | (dsimp +zetaDelta only; split)

theorem State.recvCancel_keeps {z : State} (s : State) (c ie : Nat) (x : ConnSt) (p : Packet) (h : Keeps True z s) : Keeps True z (State.recvCancel s c ie x p) := by
  unfold State.recvCancel
  repeat' first
    | (fail_if_no_progress extract_lets)
    | (with_reducible refine keeps_ite (fun _ => ?_) fun _ => ?_)
    | with_reducible exact h
    | with_reducible assumption
    | with_reducible apply State.setConn_keeps
    | with_reducible apply State.markRecv_keeps
    | with_reducible apply State.finishR_keeps
    | with_reducible apply State.recvAccounted_keeps
    | with_reducible apply State.modConn_keeps
    | with_reducible apply State.msgEffect_keeps
    | with_reducible apply State.mapUnexp_keeps
    | with_reducible apply State.setDomain_keeps
    | with_reducible apply State.commits_keeps
    | with_reducible apply State.settle_keeps
    | (with_reducible refine keeps_foldl _ _ ?_ ?_)
    | intro _ _ _
    | (dsimp +zetaDelta only; split)
    | with_reducible apply keeps_mk

theorem State.recvOp_keeps {z : State} (s : State) (c ie : Nat) (x : ConnSt) (p : Packet) (h : Keeps True z s) : Keeps True z (State.recvOp s c ie x p) := by
  unfold State.recvOp
  repeat' first
    | (with_reducible refine keeps_ite (fun _ => ?_) fun _ => ?_)
    | with_reducible exact h
    | with_reducible apply State.placePkt_keeps
    | with_reducible apply State.recvCancel_keeps
    | with_reducible apply State.markRecv_keeps
    | with_reducible apply State.recvPut_keeps
    | with_reducible apply State.commitOther_keeps
    | with_reducible apply State.recvGet_keeps
    | with_reducible apply State.recvSend_keeps
    | with_reducible apply State.recvAtomic_keeps
    | with_reducible apply State.recvRndv_keeps
    | with_reducible apply State.recvMatched_keeps
    | split

theorem State.recvConn_keeps {z : State} (s : State) (c ie : Nat) (x : ConnSt) (p : Packet) (h : Keeps True z s) : Keeps True z (State.recvConn s c ie x p) := by
  unfold State.recvConn
  repeat' first
    | (fail_if_no_progress extract_lets)
    | (with_reducible refine keeps_ite (fun _ => ?_) fun _ => ?_)
    | with_reducible exact h
    | with_reducible apply State.cnt_keeps
    | with_reducible apply State.modConn_keeps
    | with_reducible apply State.setConn_keeps
    | with_reducible apply State.recvOp_keeps

theorem State.recvAdmitted_keeps {z : State} (s : State) (ie : Nat) (p : Packet) (h : Keeps True z s) : Keeps True z (State.recvAdmitted s ie p) := by
  unfold State.recvAdmitted
  repeat' first
    | (fail_if_no_progress extract_lets)
    | (with_reducible refine keeps_ite (fun _ => ?_) fun _ => ?_)
    | with_reducible exact h
    | with_reducible apply State.noticeBack_keeps
    | with_reducible apply State.refuse_keeps
    | with_reducible apply State.ctxUse_keeps
    | with_reducible apply State.recvConn_keeps
    | with_reducible apply State.setConn_keeps
    | with_reducible apply State.cnt_keeps
    | with_reducible apply State.hostRead_keeps
    | split

theorem execTransportReceive_keeps {z : State} (ie : Fin 16) (s : State) (hs : Keeps True z s) {t0 : State}
    (e0 : execTransportReceive ie s = .next t0) : Keeps True z t0 := by
  unfold execTransportReceive whenRunning at e0
  cases e0
  repeat' first
    | (with_reducible refine keeps_ite (fun _ => ?_) fun _ => ?_)
    | with_reducible exact hs
    | with_reducible apply State.ejPop_keeps
    | with_reducible apply State.admission_keeps
    | with_reducible apply State.noticeBack_keeps
    | with_reducible apply State.recvAdmitted_keeps
    | with_reducible apply State.cnt_keeps
    | split
    | (dsimp +zetaDelta only; split)
    | (with_reducible refine keeps_fst (by assumption) ?_)

theorem execContextFetchComplete_keeps {z : State} (c : Fin 16777216) (ok : Bool) (s : State) (hs : Keeps True z s) {t0 : State}
    (e0 : execContextFetchComplete c ok s = .next t0) : Keeps True z t0 := by
  unfold execContextFetchComplete whenRunning at e0
  cases e0
  repeat' first
    | (with_reducible refine keeps_ite (fun _ => ?_) fun _ => ?_)
    | with_reducible exact hs
    | with_reducible assumption
    | with_reducible apply State.setConn_keeps
    | with_reducible apply State.recvConn_keeps
    | with_reducible apply State.refuse_keeps
    | with_reducible apply State.ctxUse_keeps
    | with_reducible apply State.cnt_keeps
    | with_reducible apply State.fnEvent_keeps
    | (with_reducible refine keeps_foldl _ _ ?_ ?_)
    | intro _ _ _
    | split
    | (dsimp +zetaDelta only; split)

theorem execRemoteFlushComplete_keeps {z : State} (c : Fin 16777216) (psn : BitVec 24) (ok : Bool) (s : State) (hs : Keeps True z s) {t0 : State}
    (e0 : execRemoteFlushComplete c psn ok s = .next t0) : Keeps True z t0 := by
  unfold execRemoteFlushComplete whenRunning at e0
  cases e0
  repeat' first
    | (with_reducible refine keeps_ite (fun _ => ?_) fun _ => ?_)
    | with_reducible exact hs
    | with_reducible apply State.markRecv_keeps
    | with_reducible apply State.finishR_keeps
    | with_reducible apply State.emit_keeps
    | split
    | (dsimp +zetaDelta only; split)

theorem execDgReceive_keeps {tw : Prop} {z : State} (ie : Fin 16) (s : State) (hs : Keeps tw z s) {t0 : State}
    (e0 : execDgReceive ie s = .next t0) : Keeps tw z t0 := by
  unfold execDgReceive whenRunning at e0
  cases e0
  repeat' first
    | (with_reducible refine keeps_ite (fun _ => ?_) fun _ => ?_)
    | with_reducible exact hs
    | with_reducible apply State.ejPop_keeps
    | with_reducible apply State.admission_keeps
    | with_reducible apply State.noticeBack_keeps
    | with_reducible apply State.cnt_keeps
    | with_reducible apply State.hostWrite_keeps
    | with_reducible apply State.modRing_keeps
    | with_reducible apply State.completeEntry_keeps
    | split
    | (dsimp +zetaDelta only; split)
    | (with_reducible refine keeps_fst (by assumption) ?_)

theorem State.ackWhere_keeps {z : State} (s : State) (c : Nat) (p : SentPkt → Bool) (h : Keeps True z s) : Keeps True z (State.ackWhere s c p) := by
  unfold State.ackWhere
  repeat' first
    | (fail_if_no_progress extract_lets)
    | with_reducible exact h
    | with_reducible apply State.setConn_keeps
    | with_reducible apply State.settle_keeps
    | with_reducible apply State.pumpAll_keeps
    | split

theorem execTransportAckReceive_keeps {z : State} (ie : Fin 16) (s : State) (hs : Keeps True z s) {t0 : State}
    (e0 : execTransportAckReceive ie s = .next t0) : Keeps True z t0 := by
  unfold execTransportAckReceive whenRunning at e0
  cases e0
  repeat' first
    | (with_reducible refine keeps_ite (fun _ => ?_) fun _ => ?_)
    | with_reducible exact hs
    | with_reducible apply State.ejPop_keeps
    | with_reducible apply State.admission_keeps
    | with_reducible apply State.cnt_keeps
    | with_reducible apply State.setConn_keeps
    | with_reducible apply State.ackWhere_keeps
    | split
    | (dsimp +zetaDelta only; split)
    | (with_reducible refine keeps_fst (by assumption) ?_)

theorem State.resend_keeps {z : State} (s : State) (c psn : Nat) (h : Keeps True z s) : Keeps True z (State.resend s c psn) := by
  unfold State.resend
  repeat' first
    | (fail_if_no_progress extract_lets)
    | (with_reducible refine keeps_ite (fun _ => ?_) fun _ => ?_)
    | with_reducible exact h
    | with_reducible apply State.setConn_keeps
    | with_reducible apply State.askUnit_keeps
    | with_reducible apply State.connSend_keeps
    | split

theorem State.sendReread_keeps {tw : Prop} {z : State} (s : State) (c : Nat) (h : Keeps tw z s) : Keeps tw z (State.sendReread s c) := by
  unfold State.sendReread
  repeat' first
    | (fail_if_no_progress extract_lets)
    | with_reducible exact h
    | with_reducible assumption
    | with_reducible apply State.connSend_keeps
    | with_reducible apply State.setConn_keeps
    | (with_reducible refine keeps_foldl _ _ ?_ ?_)
    | intro _ _ _
    | split

theorem execRetxSelective_keeps {z : State} (c : Fin 16777216) (psn : BitVec 24) (s : State) (hs : Keeps True z s) {t0 : State}
    (e0 : execRetxSelective c psn s = .next t0) : Keeps True z t0 := by
  unfold execRetxSelective whenRunning at e0
  cases e0
  repeat' first
    | (with_reducible refine keeps_ite (fun _ => ?_) fun _ => ?_)
    | with_reducible exact hs
    | with_reducible apply State.cnt_keeps
    | with_reducible apply State.resend_keeps
    | with_reducible apply State.sendReread_keeps
    | split
    | (dsimp +zetaDelta only; split)

theorem execRtoExpire_keeps {z : State} (c : Fin 16777216) (s : State) (hs : Keeps True z s) {t0 : State}
    (e0 : execRtoExpire c s = .next t0) : Keeps True z t0 := by
  unfold execRtoExpire whenRunning at e0
  cases e0
  repeat' first
    | (with_reducible refine keeps_ite (fun _ => ?_) fun _ => ?_)
    | with_reducible exact hs
    | with_reducible assumption
    | with_reducible apply State.cnt_keeps
    | with_reducible apply State.setConn_keeps
    | with_reducible apply State.connError_keeps
    | with_reducible apply State.resend_keeps
    | with_reducible apply State.sendReread_keeps
    | (with_reducible refine keeps_foldl _ _ ?_ ?_)
    | intro _ _ _
    | (dsimp +zetaDelta only; split)

theorem execRnrRetry_keeps {z : State} (c : Fin 16777216) (psn : BitVec 24) (s : State) (hs : Keeps True z s) {t0 : State}
    (e0 : execRnrRetry c psn s = .next t0) : Keeps True z t0 := by
  unfold execRnrRetry whenRunning at e0
  cases e0
  repeat' first
    | (with_reducible refine keeps_ite (fun _ => ?_) fun _ => ?_)
    | with_reducible exact hs
    | with_reducible apply State.resend_keeps
    | (dsimp +zetaDelta only; split)

theorem State.noticeConn_keeps {z : State} (s : State) (c : Nat) (x : ConnSt) (psn st : Nat) (h : Keeps True z s) : Keeps True z (State.noticeConn s c x psn st) := by
  unfold State.noticeConn
  repeat' first
    | (fail_if_no_progress extract_lets)
    | (with_reducible refine keeps_ite (fun _ => ?_) fun _ => ?_)
    | with_reducible exact h
    | with_reducible apply State.stopMsg_keeps
    | with_reducible apply State.settle_keeps
    | with_reducible apply State.connError_keeps
    | with_reducible apply State.setConn_keeps
    | with_reducible apply State.ackWhere_keeps
    | split
    | (dsimp +zetaDelta only; split)

theorem State.routeFailConn_keeps {z : State} (s : State) (c : Nat) (x : ConnSt) (psn node dim : Nat) (h : Keeps True z s) : Keeps True z (State.routeFailConn s c x psn node dim) := by
  unfold State.routeFailConn
  repeat' first
    | (fail_if_no_progress extract_lets)
    | (with_reducible refine keeps_ite (fun _ => ?_) fun _ => ?_)
    | with_reducible exact h
    | with_reducible apply State.setConn_keeps
    | with_reducible apply State.connError_keeps
    | with_reducible apply State.resend_keeps
    | with_reducible apply State.sendReread_keeps

theorem execPayloadReadComplete_keeps {z : State} (c : Fin 16777216) (uid : Nat) (res : ReadResult) (s : State) (hs : Keeps True z s) {t0 : State}
    (e0 : execPayloadReadComplete c uid res s = .next t0) : Keeps True z t0 := by
  unfold execPayloadReadComplete whenRunning at e0
  cases e0
  repeat' first
    | (fail_if_no_progress extract_lets)
    | (with_reducible refine keeps_ite (fun _ => ?_) fun _ => ?_)
    | with_reducible exact hs
    | with_reducible apply State.setConn_keeps
    | with_reducible apply State.pumpAll_keeps
    | with_reducible apply State.sendReread_keeps
    | with_reducible apply State.unitFail_keeps
    | with_reducible apply State.settle_keeps
    | split
    | (dsimp +zetaDelta only; split)

theorem State.unpark_keeps {z : State} (s : State) (c : Nat) (x : ConnSt) (w : WaitPkt) (st : Status) (h : Keeps True z s) : Keeps True z (State.unpark s c x w st) := by
  unfold State.unpark
  repeat' first
    | (fail_if_no_progress extract_lets)
    | (with_reducible refine keeps_ite (fun _ => ?_) fun _ => ?_)
    | with_reducible exact h
    | with_reducible apply State.setConn_keeps
    | with_reducible apply State.refuse_keeps
    | with_reducible apply State.markRecv_keeps
    | with_reducible apply State.stopMsg_keeps
    | with_reducible apply State.settle_keeps
    | with_reducible apply State.oneRefuse_keeps
    | with_reducible apply State.refuseAcc_keeps
    | with_reducible apply State.atomicGo_keeps
    | with_reducible apply State.placePkt_keeps
    | with_reducible apply State.cnt_keeps
    | split

theorem State.unparkRun_keeps {z : State} (h' m : Nat) (st : Status) :
    ∀ (k c : Nat) (s : State), Keeps True z s → Keeps True z (State.unparkRun h' m st k c s)
  | 0, _, _, h => h
  | k + 1, c, s, h => by
    unfold State.unparkRun
    repeat' first
      | (with_reducible refine keeps_ite (fun _ => ?_) fun _ => ?_)
      | with_reducible exact h
      | with_reducible apply State.unpark_keeps
      | with_reducible apply State.unparkRun_keeps
      | split

theorem State.failPayloads_keeps {z : State} (s : State) (c : Nat) (x : ConnSt) (d : MissDesc) (st : Status) (h : Keeps True z s) : Keeps True z (State.failPayloads s c x d st) := by
  unfold State.failPayloads
  repeat' first
    | (fail_if_no_progress extract_lets)
    | with_reducible exact h
    | with_reducible assumption
    | with_reducible apply State.unitFail_keeps
    | with_reducible apply State.settle_keeps
    | (with_reducible refine keeps_foldl _ _ ?_ ?_)
    | intro _ _ _

theorem State.connResolve_keeps {z : State} (s : State) (h m : Nat) (d : MissDesc) (st : Status) (c : Nat) (x : ConnSt) (hz : Keeps True z s) : Keeps True z (State.connResolve s h m d st c x) := by
  unfold State.connResolve
  repeat' first
    | (fail_if_no_progress extract_lets)
    | (with_reducible refine keeps_ite (fun _ => ?_) fun _ => ?_)
    | with_reducible exact hz
    | with_reducible assumption
    | with_reducible apply State.unparkRun_keeps
    | with_reducible apply State.failPayloads_keeps
    | with_reducible apply State.askPayloads_keeps
    | with_reducible apply State.pumpAll_keeps
    | with_reducible apply State.askUnit_keeps
    | with_reducible apply State.sendReread_keeps
    | (with_reducible refine keeps_foldl _ _ ?_ ?_)
    | intro _ _ _
    | split
    | (dsimp +zetaDelta only; split)

theorem State.transportResolve_keeps {z : State} (s : State) (h m : Nat) (d : MissDesc) (st : Status) (hz : Keeps True z s) : Keeps True z (State.transportResolve s h m d st) := by
  unfold State.transportResolve
  repeat' first
    | with_reducible exact hz
    | with_reducible assumption
    | with_reducible apply State.connResolve_keeps
    | (with_reducible refine keeps_foldl _ _ ?_ ?_)
    | intro _ _ _

end Sys2Proof.Machine
end

