-- ==== Sys2Proof/Laws/KeepsColl.lean ====
section
/-! SUPPORT. Every operation of Machine/Coll.lean keeps the queue, the canonical form of the memory, the count of free values
drawn and what has left the part (Keeps). -/
namespace Sys2Proof.Machine

open Sys2Proof

theorem State.setInst_keeps {tw : Prop} {z : State} (s : State) (i : CInst) (h : Keeps tw z s) : Keeps tw z (State.setInst s i) := by
  unfold State.setInst
  repeat' first
    | with_reducible exact h
    | with_reducible apply keeps_mk

theorem State.dropInst_keeps {tw : Prop} {z : State} (s : State) (mg seq : Nat) (h : Keeps tw z s) : Keeps tw z (State.dropInst s mg seq) := by
  unfold State.dropInst
  repeat' first
    | with_reducible exact h
    | with_reducible apply keeps_mk

theorem State.addInst_keeps {tw : Prop} {z : State} (s : State) (i : CInst) (h : Keeps tw z s) : Keeps tw z (State.addInst s i) := by
  unfold State.addInst
  repeat' first
    | (fail_if_no_progress extract_lets)
    | with_reducible exact h
    | split
    | (dsimp +zetaDelta only; split)
    | with_reducible apply keeps_mk

theorem State.collSend_keeps {tw : Prop} {z : State} (s : State) (i : CInst) (ie owner : Nat) (dst : Option Nat) (tp : BitVec 256) (data : List Byte) (entry : Option EntryRef) (h : Keeps tw z s) : Keeps tw z (State.collSend s i ie owner dst tp data entry) := by
  unfold State.collSend
  repeat' first
    | (fail_if_no_progress extract_lets)
    | with_reducible exact h
    | with_reducible apply State.txPush_keeps

theorem State.collRecord_keeps {z : State} (s : State) (i : CInst) (st : Nat) (p : CPost) (h : Keeps True z s) : Keeps True z (State.collRecord s i st p) := by
  unfold State.collRecord
  repeat' first
    | (fail_if_no_progress extract_lets)
    | (with_reducible refine keeps_ite (fun _ => ?_) fun _ => ?_)
    | with_reducible exact h
    | with_reducible apply State.hostWrite_keeps
    | with_reducible apply State.cnt_keeps
    | with_reducible apply State.jobCount_keeps
    | with_reducible apply State.raiseCtr_keeps
    | split
    | (dsimp +zetaDelta only; split)

theorem State.collEntries_keeps {tw : Prop} {z : State} (s : State) (i : CInst) (h : Keeps tw z s) : Keeps tw z (State.collEntries s i) := by
  unfold State.collEntries
  repeat' first
    | with_reducible exact h
    | with_reducible assumption
    | with_reducible apply State.completeEntry_keeps
    | (with_reducible refine keeps_foldl _ _ ?_ ?_)
    | intro _ _ _
    | split

theorem State.collAbort_keeps {z : State} (s : State) (mg seq st : Nat) (tell : Bool) (h : Keeps True z s) : Keeps True z (State.collAbort s mg seq st tell) := by
  unfold State.collAbort
  repeat' first
    | (fail_if_no_progress extract_lets)
    | (with_reducible refine keeps_ite (fun _ => ?_) fun _ => ?_)
    | with_reducible exact h
    | with_reducible assumption
    | with_reducible apply State.cnt_keeps
    | with_reducible apply State.collSend_keeps
    | with_reducible apply State.raise_keeps
    | with_reducible apply State.setInst_keeps
    | with_reducible apply State.collRecord_keeps
    | with_reducible apply State.collEntries_keeps
    | (with_reducible refine keeps_foldl _ _ ?_ ?_)
    | intro _ _ _
    | split

theorem State.collComplete_keeps {z : State} (s : State) (mg seq : Nat) (h : Keeps True z s) : Keeps True z (State.collComplete s mg seq) := by
  unfold State.collComplete
  repeat' first
    | (fail_if_no_progress extract_lets)
    | (with_reducible refine keeps_ite (fun _ => ?_) fun _ => ?_)
    | with_reducible exact h
    | with_reducible assumption
    | with_reducible apply State.setInst_keeps
    | with_reducible apply State.collRecord_keeps
    | (with_reducible refine keeps_foldl _ _ ?_ ?_)
    | intro _ _ _
    | split

theorem State.postSlice_keeps {tw : Prop} {z : State} (s : State) (i : CInst) (p : CParams) (q : CPost) (k : Nat) (h : Keeps tw z s) : Keeps tw z (State.postSlice s i p q k) := by
  unfold State.postSlice
  repeat' first
    | (fail_if_no_progress extract_lets)
    | (with_reducible refine keeps_ite (fun _ => ?_) fun _ => ?_)
    | with_reducible exact h
    | with_reducible apply State.collSend_keeps

theorem State.collPump_keeps {tw : Prop} {z : State} (s : State) (mg seq : Nat) (h : Keeps tw z s) : Keeps tw z (State.collPump s mg seq) := by
  unfold State.collPump
  repeat' first
    | (fail_if_no_progress extract_lets)
    | (with_reducible refine keeps_ite (fun _ => ?_) fun _ => ?_)
    | with_reducible exact h
    | with_reducible assumption
    | with_reducible apply State.setInst_keeps
    | with_reducible apply State.postSlice_keeps
    | with_reducible apply State.collSend_keeps
    | (with_reducible refine keeps_foldl _ _ ?_ ?_)
    | intro _ _ _
    | split

theorem State.collPlace_keeps {z : State} (s : State) (i : CInst) (p : CParams) (q : CPost) (ie slice : Nat) (data : List Byte) (h : Keeps True z s) : Keeps True z (State.collPlace s i p q ie slice data).1 := by
  unfold State.collPlace
  repeat' first
    | (fail_if_no_progress extract_lets)
    | with_reducible exact h
    | with_reducible apply State.jobCount_keeps
    | with_reducible apply State.place_keeps
    | (with_reducible refine keeps_itep (fun _ => ?_) fun _ => ?_)
    | (dsimp +zetaDelta only; split)

theorem State.collPlaces_keeps {z : State} (i : CInst) (p : CParams) (ie slice : Nat) (data : List Byte) :
    ∀ (l : List CPost) (s : State), Keeps True z s → Keeps True z (State.collPlaces s i p ie slice data l).1
  | [], _, h => h
  | q :: qs, s, h => by
    have a := State.collPlace_keeps s i p q ie slice data h
    unfold State.collPlaces
    split
    · rename_i s1 e
      rw [e] at a
      exact State.collPlaces_keeps i p ie slice data qs s1 a
    · exact a

theorem State.collReduce_keeps {z : State} (s : State) (i : CInst) (p : CParams) (x : CInput) (h : Keeps True z s) : Keeps True z (State.collReduce s i p x) := by
  unfold State.collReduce
  repeat' first
    | with_reducible exact h
    | with_reducible apply State.collPlaces_keeps
    | with_reducible apply State.setInst_keeps
    | with_reducible apply State.collAbort_keeps
    | split
    | (with_reducible refine keeps_fst (by assumption) ?_)

theorem State.collNext_keeps {z : State} (s : State) (i : CInst) (p : CParams) (x : CInput) (h : Keeps True z s) : Keeps True z (State.collNext s i p x).1 := by
  unfold State.collNext
  repeat' first
    | (fail_if_no_progress extract_lets)
    | with_reducible exact h
    | with_reducible apply State.collAbort_keeps
    | with_reducible apply State.collReduce_keeps
    | with_reducible apply State.collSend_keeps
    | with_reducible apply State.setInst_keeps
    | with_reducible apply State.collPump_keeps
    | (with_reducible refine keeps_itep (fun _ => ?_) fun _ => ?_)
    | split

theorem State.collInput_keeps {z : State} (mg seq : Nat) :
    ∀ (k : Nat) (x : CInput) (s : State), Keeps True z s → Keeps True z (State.collInput mg seq k x s)
  | 0, _, _, h => h
  | k + 1, x, s, h => by
    unfold State.collInput
    repeat' first
      | (fail_if_no_progress extract_lets)
      | (with_reducible refine keeps_ite (fun _ => ?_) fun _ => ?_)
      | with_reducible exact h
      | with_reducible apply State.cnt_keeps
      | with_reducible apply State.collAbort_keeps
      | with_reducible apply State.setInst_keeps
      | with_reducible apply State.collNext_keeps
      | with_reducible apply State.collInput_keeps
      | split
      | (with_reducible refine keeps_fst (by assumption) ?_)

theorem State.collFull_keeps {tw : Prop} {z : State} (s : State) (ie : Nat) (p : Packet) (h : Keeps tw z s) : Keeps tw z (State.collFull s ie p) := by
  unfold State.collFull
  repeat' first
    | with_reducible exact h
    | with_reducible apply State.cnt_keeps
    | with_reducible apply State.noticeBack_keeps

theorem State.collHold_keeps {tw : Prop} {z : State} (s : State) (i : CInst) (p : Packet) (h : Keeps tw z s) : Keeps tw z (State.collHold s i p) := by
  unfold State.collHold
  repeat' first
    | with_reducible exact h
    | with_reducible apply State.setInst_keeps

theorem State.collDown_keeps {z : State} (s : State) (ie : Nat) (i : CInst) (p : CParams) (pkt : Packet) (h : Keeps True z s) : Keeps True z (State.collDown s ie i p pkt) := by
  unfold State.collDown
  repeat' first
    | (with_reducible refine keeps_ite (fun _ => ?_) fun _ => ?_)
    | with_reducible exact h
    | with_reducible apply State.collPlaces_keeps
    | with_reducible apply State.setInst_keeps
    | with_reducible apply State.collComplete_keeps
    | with_reducible apply State.collPump_keeps
    | with_reducible apply State.noticeBack_keeps
    | with_reducible apply State.collHold_keeps
    | split
    | (with_reducible refine keeps_fst (by assumption) ?_)

theorem State.collMark_keeps {z : State} (s : State) (i : CInst) (n : Nat) (h : Keeps True z s) : Keeps True z (State.collMark s i n) := by
  unfold State.collMark
  repeat' first
    | with_reducible exact h
    | with_reducible apply State.setInst_keeps
    | with_reducible apply State.collComplete_keeps
    | with_reducible apply State.collPump_keeps

theorem State.collUse_keeps {z : State} (s : State) (ie : Nat) (i : CInst) (p : CParams) (pkt : Packet) (h : Keeps True z s) : Keeps True z (State.collUse s ie i p pkt) := by
  unfold State.collUse
  repeat' first
    | (fail_if_no_progress extract_lets)
    | (with_reducible refine keeps_ite (fun _ => ?_) fun _ => ?_)
    | with_reducible exact h
    | with_reducible apply State.collFull_keeps
    | with_reducible apply State.collInput_keeps
    | with_reducible apply State.collDown_keeps
    | with_reducible apply State.collMark_keeps
    | split

theorem State.collAccept_keeps {z : State} (s : State) (ie : Nat) (pkt : Packet) (h : Keeps True z s) : Keeps True z (State.collAccept s ie pkt) := by
  unfold State.collAccept
  repeat' first
    | (with_reducible refine keeps_ite (fun _ => ?_) fun _ => ?_)
    | with_reducible exact h
    | with_reducible apply State.noticeBack_keeps
    | with_reducible apply State.collFull_keeps
    | with_reducible apply State.addInst_keeps
    | with_reducible apply State.cnt_keeps
    | with_reducible apply State.collHold_keeps
    | with_reducible apply State.collUse_keeps
    | split

theorem State.collRetry_keeps {z : State} (s : State) (mg seq : Nat) (h : Keeps True z s) : Keeps True z (State.collRetry s mg seq) := by
  unfold State.collRetry
  repeat' first
    | (fail_if_no_progress extract_lets)
    | with_reducible exact h
    | with_reducible assumption
    | with_reducible apply State.setInst_keeps
    | with_reducible apply State.collAccept_keeps
    | with_reducible apply State.collReduce_keeps
    | (with_reducible refine keeps_foldl _ _ ?_ ?_)
    | intro _ _ _
    | split

theorem State.collReceive_keeps {tw : Prop} {z : State} (s : State) (ie row : Nat) (g : Packet → State → State) (hg : ∀ x0 x1, Keeps tw z x1 → Keeps tw z (g x0 x1)) (h : Keeps tw z s) : Keeps tw z (State.collReceive s ie row g) := by
  unfold State.collReceive
  repeat' first
    | (fail_if_no_progress extract_lets)
    | (with_reducible refine keeps_ite (fun _ => ?_) fun _ => ?_)
    | with_reducible exact h
    | (with_reducible apply hg)
    | with_reducible apply State.ejPop_keeps
    | with_reducible apply State.admission_keeps
    | with_reducible apply State.noticeBack_keeps
    | with_reducible apply State.cnt_keeps
    | split
    | (with_reducible refine keeps_fst (by assumption) ?_)

theorem execCollUpReceive_keeps {z : State} (ie : Fin 16) (s : State) (hs : Keeps True z s) {t0 : State}
    (e0 : execCollUpReceive ie s = .next t0) : Keeps True z t0 := by
  unfold execCollUpReceive whenRunning at e0
  cases e0
  repeat' first
    | (with_reducible refine keeps_ite (fun _ => ?_) fun _ => ?_)
    | with_reducible exact hs
    | with_reducible assumption
    | with_reducible apply State.collReceive_keeps
    | with_reducible apply State.collAccept_keeps
    | intro _ _ _

theorem execCollDownReceive_keeps {z : State} (ie : Fin 16) (s : State) (hs : Keeps True z s) {t0 : State}
    (e0 : execCollDownReceive ie s = .next t0) : Keeps True z t0 := by
  unfold execCollDownReceive whenRunning at e0
  cases e0
  repeat' first
    | (with_reducible refine keeps_ite (fun _ => ?_) fun _ => ?_)
    | with_reducible exact hs
    | with_reducible assumption
    | with_reducible apply State.collReceive_keeps
    | with_reducible apply State.collAccept_keeps
    | intro _ _ _

theorem execCollMarkReceive_keeps {z : State} (ie : Fin 16) (s : State) (hs : Keeps True z s) {t0 : State}
    (e0 : execCollMarkReceive ie s = .next t0) : Keeps True z t0 := by
  unfold execCollMarkReceive whenRunning at e0
  cases e0
  repeat' first
    | (with_reducible refine keeps_ite (fun _ => ?_) fun _ => ?_)
    | with_reducible exact hs
    | with_reducible assumption
    | with_reducible apply State.collReceive_keeps
    | with_reducible apply State.collAccept_keeps
    | intro _ _ _

theorem execCollAbortReceive_keeps {z : State} (ie : Fin 16) (s : State) (hs : Keeps True z s) {t0 : State}
    (e0 : execCollAbortReceive ie s = .next t0) : Keeps True z t0 := by
  unfold execCollAbortReceive whenRunning at e0
  cases e0
  repeat' first
    | (fail_if_no_progress extract_lets)
    | (with_reducible refine keeps_ite (fun _ => ?_) fun _ => ?_)
    | with_reducible exact hs
    | with_reducible assumption
    | with_reducible apply State.collReceive_keeps
    | with_reducible apply State.addInst_keeps
    | with_reducible apply State.cnt_keeps
    | with_reducible apply State.collAbort_keeps
    | intro _ _ _
    | split

theorem execCollFoldDone_keeps {z : State} (mg : BitVec 14) (seq : BitVec 16) (stage : Fin 8) (slice : Nat) (s : State) (hs : Keeps True z s) {t0 : State}
    (e0 : execCollFoldDone mg seq stage slice s = .next t0) : Keeps True z t0 := by
  unfold execCollFoldDone whenRunning at e0
  cases e0
  repeat' first
    | (with_reducible refine keeps_ite (fun _ => ?_) fun _ => ?_)
    | with_reducible exact hs
    | with_reducible apply State.setInst_keeps
    | with_reducible apply State.perf_keeps
    | with_reducible apply State.collNext_keeps
    | with_reducible apply State.collInput_keeps
    | split
    | (dsimp +zetaDelta only; split)
    | (with_reducible refine keeps_fst (by assumption) ?_)

theorem State.instTurnover_keeps {tw : Prop} {z : State} (s : State) (i : CInst) (h : Keeps tw z s) : Keeps tw z (State.instTurnover s i) := by
  unfold State.instTurnover
  repeat' first
    | (fail_if_no_progress extract_lets)
    | (with_reducible refine keeps_ite (fun _ => ?_) fun _ => ?_)
    | with_reducible exact h
    | with_reducible apply State.cnt_keeps
    | with_reducible apply State.setInst_keeps
    | with_reducible apply State.collSend_keeps
    | split

theorem State.collTurnover_keeps {tw : Prop} {z : State} (s : State) (h : Keeps tw z s) : Keeps tw z (State.collTurnover s) := by
  unfold State.collTurnover
  repeat' first
    | with_reducible exact h
    | with_reducible apply State.instTurnover_keeps
    | (with_reducible refine keeps_foldl _ _ ?_ ?_)

theorem execCollStageTimeout_keeps {z : State} (mg : BitVec 14) (seq : BitVec 16) (s : State) (hs : Keeps True z s) {t0 : State}
    (e0 : execCollStageTimeout mg seq s = .next t0) : Keeps True z t0 := by
  unfold execCollStageTimeout whenRunning at e0
  cases e0
  repeat' first
    | (with_reducible refine keeps_ite (fun _ => ?_) fun _ => ?_)
    | with_reducible exact hs
    | with_reducible apply State.collAbort_keeps
    | (dsimp +zetaDelta only; split)

theorem execCollTombstoneExpire_keeps {tw : Prop} {z : State} (mg : BitVec 14) (seq : BitVec 16) (s : State) (hs : Keeps tw z s) {t0 : State}
    (e0 : execCollTombstoneExpire mg seq s = .next t0) : Keeps tw z t0 := by
  unfold execCollTombstoneExpire whenRunning at e0
  cases e0
  repeat' first
    | (with_reducible refine keeps_ite (fun _ => ?_) fun _ => ?_)
    | with_reducible exact hs
    | with_reducible apply State.dropInst_keeps
    | split
    | (dsimp +zetaDelta only; split)

theorem execCollOrphanExpire_keeps {tw : Prop} {z : State} (mg : BitVec 14) (seq : BitVec 16) (s : State) (hs : Keeps tw z s) {t0 : State}
    (e0 : execCollOrphanExpire mg seq s = .next t0) : Keeps tw z t0 := by
  unfold execCollOrphanExpire whenRunning at e0
  cases e0
  repeat' first
    | (with_reducible refine keeps_ite (fun _ => ?_) fun _ => ?_)
    | with_reducible exact hs
    | with_reducible apply State.dropInst_keeps
    | with_reducible apply State.cnt_keeps
    | (dsimp +zetaDelta only; split)

theorem State.postJoin_keeps {z : State} (s : State) (r : EntryRef) (d : BitVec 512) (operand : List Byte) (h : Keeps True z s) : Keeps True z (State.postJoin s r d operand) := by
  unfold State.postJoin
  repeat' first
    | (fail_if_no_progress extract_lets)
    | (with_reducible refine keeps_ite (fun _ => ?_) fun _ => ?_)
    | with_reducible exact h
    | with_reducible apply State.addInst_keeps
    | with_reducible apply State.setInst_keeps
    | with_reducible apply State.completeEntry_keeps
    | with_reducible apply State.collPump_keeps
    | with_reducible apply State.collRetry_keeps
    | split
    | (dsimp +zetaDelta only; split)

theorem execCollPost_keeps {z : State} (e : EntryRef) (operand : ReadResult) (s : State) (hs : Keeps True z s) {t0 : State}
    (e0 : execCollPost e operand s = .next t0) : Keeps True z t0 := by
  unfold execCollPost at e0
  refine onEntry_keeps _ _ _ _ ?_ ?_ e0
  repeat' first
    | (fail_if_no_progress extract_lets)
    | (with_reducible refine keeps_ite (fun _ => ?_) fun _ => ?_)
    | with_reducible exact hs
    | with_reducible assumption
    | with_reducible apply State.collAbort_keeps
    | with_reducible apply State.completeEntry_keeps
    | with_reducible apply State.payloadRead_keeps
    | with_reducible apply State.untakeEntry_keeps
    | with_reducible apply State.postJoin_keeps
    | intro _ _ _
    | split
    | (with_reducible refine keeps_fst (by assumption) ?_)

theorem execNoticeReceive_keeps {z : State} (ie : Fin 16) (s : State) (hs : Keeps True z s) {t0 : State}
    (e0 : execNoticeReceive ie s = .next t0) : Keeps True z t0 := by
  unfold execNoticeReceive whenRunning at e0
  cases e0
  repeat' first
    | (with_reducible refine keeps_ite (fun _ => ?_) fun _ => ?_)
    | with_reducible exact hs
    | with_reducible apply State.ejPop_keeps
    | with_reducible apply State.admission_keeps
    | with_reducible apply State.jobCount_keeps
    | with_reducible apply State.collAbort_keeps
    | with_reducible apply State.cnt_keeps
    | with_reducible apply State.noticeConn_keeps
    | split
    | (dsimp +zetaDelta only; split)
    | (with_reducible refine keeps_fst (by assumption) ?_)

theorem execRouteFailReceive_keeps {z : State} (ie : Fin 16) (s : State) (hs : Keeps True z s) {t0 : State}
    (e0 : execRouteFailReceive ie s = .next t0) : Keeps True z t0 := by
  unfold execRouteFailReceive whenRunning at e0
  cases e0
  repeat' first
    | (with_reducible refine keeps_ite (fun _ => ?_) fun _ => ?_)
    | with_reducible exact hs
    | with_reducible apply State.ejPop_keeps
    | with_reducible apply State.admission_keeps
    | with_reducible apply State.collAbort_keeps
    | with_reducible apply State.cnt_keeps
    | with_reducible apply State.routeFailConn_keeps
    | split
    | (dsimp +zetaDelta only; split)
    | (with_reducible refine keeps_fst (by assumption) ?_)

end Sys2Proof.Machine
end

