-- ==== Sys2Proof/Laws/KeepsEngine.lean ====
section
/-! SUPPORT. Every operation of Machine/Engine.lean keeps the queue, the canonical form of the memory, the count of free values
drawn and what has left the part (Keeps). -/
namespace Sys2Proof.Machine

open Sys2Proof

theorem State.setTokens_keeps {tw : Prop} {z : State} (s : State) (c : Nat) (v : Int) (h : Keeps tw z s) : Keeps tw z (State.setTokens s c v) := by
  unfold State.setTokens
  repeat' first
    | (fail_if_no_progress extract_lets)
    | with_reducible exact h
    | with_reducible apply State.set_keeps
    | with_reducible apply keeps_mk

theorem State.dropThread_keeps {tw : Prop} {z : State} (s : State) (t : ThreadId) (h : Keeps tw z s) : Keeps tw z (State.dropThread s t) := by
  unfold State.dropThread
  repeat' first
    | (fail_if_no_progress extract_lets)
    | with_reducible exact h
    | with_reducible apply keeps_mk

theorem State.handlerFault_keeps {z : State} (s : State) (f : Nat) (h : Keeps True z s) : Keeps True z (State.handlerFault s f) := by
  unfold State.handlerFault
  repeat' first
    | (with_reducible refine keeps_ite (fun _ => ?_) fun _ => ?_)
    | with_reducible exact h
    | with_reducible apply State.raise_keeps
    | with_reducible apply State.fnEvent_keeps

theorem State.abortHandler_keeps {z : State} (s : State) (t : ThreadId) (x : Thread) (st : Status) (h : Keeps True z s) : Keeps True z (State.abortHandler s t x st) := by
  unfold State.abortHandler
  repeat' first
    | with_reducible exact h
    | with_reducible apply State.dropThread_keeps
    | with_reducible apply State.lockAbandon_keeps
    | with_reducible apply State.bindFault_keeps
    | with_reducible apply State.handlerFault_keeps

theorem State.sample_keeps {z : State} (s : State) (t : ThreadId) (x : Thread) (word : Nat) (h : Keeps True z s) : Keeps True z (State.sample s t x word) := by
  unfold State.sample
  repeat' first
    | (fail_if_no_progress extract_lets)
    | (with_reducible refine keeps_ite (fun _ => ?_) fun _ => ?_)
    | with_reducible exact h
    | with_reducible apply State.cntF_keeps
    | with_reducible apply State.set_keeps
    | with_reducible apply State.raise_keeps
    | with_reducible apply keeps_mk
    | (with_reducible refine keeps_mkMem ?_ fun w => memPuts_wf _ _ w)

theorem State.samplePeriod_keeps {tw : Prop} {z : State} (s : State) (e : Nat) (h : Keeps tw z s) : Keeps tw z (State.samplePeriod s e).2 :=
  State.drawNat_keeps s h

theorem State.sampleStep_keeps {z : State} (s : State) (t : ThreadId) (x : Thread) (word : Nat) (h : Keeps True z s) : Keeps True z (State.sampleStep s t x word) := by
  unfold State.sampleStep
  repeat' first
    | (fail_if_no_progress extract_lets)
    | (with_reducible refine keeps_ite (fun _ => ?_) fun _ => ?_)
    | with_reducible exact h
    | with_reducible apply State.samplePeriod_keeps
    | with_reducible apply State.sample_keeps
    | (dsimp +zetaDelta only; split)
    | with_reducible apply keeps_mk

theorem State.useCycles_keeps {z : State} (s : State) (t : ThreadId) (n : Nat) (h : Keeps True z s) : Keeps True z (State.useCycles s t n) := by
  unfold State.useCycles
  repeat' first
    | (fail_if_no_progress extract_lets)
    | (with_reducible refine keeps_ite (fun _ => ?_) fun _ => ?_)
    | with_reducible exact h
    | with_reducible apply State.setThread_keeps
    | with_reducible apply State.setTokens_keeps
    | with_reducible apply State.perf_keeps
    | with_reducible apply State.jobCount_keeps
    | split
    | (dsimp +zetaDelta only; split)
    | with_reducible apply keeps_mk

theorem State.retire_keeps {z : State} (s : State) (t : ThreadId) (word pc cycles : Nat) (h : Keeps True z s) : Keeps True z (State.retire s t word pc cycles) := by
  unfold State.retire
  repeat' first
    | (fail_if_no_progress extract_lets)
    | with_reducible exact h
    | with_reducible apply State.sampleStep_keeps
    | with_reducible apply State.useCycles_keeps
    | with_reducible apply State.modThread_keeps
    | split

theorem State.dispatchEvent_keeps {z : State} (s : State) (t : ThreadId) (e : HEvent) (h : Keeps True z s) : Keeps True z (State.dispatchEvent s t e) := by
  unfold State.dispatchEvent
  repeat' first
    | (fail_if_no_progress extract_lets)
    | (with_reducible refine keeps_ite (fun _ => ?_) fun _ => ?_)
    | with_reducible exact h
    | with_reducible apply State.bindFault_keeps
    | with_reducible apply State.writeEvent_keeps
    | with_reducible apply State.setThread_keeps
    | with_reducible apply State.perf_keeps
    | split

theorem State.refuseEvent_keeps {tw : Prop} {z : State} (s : State) (e : HEvent) (h : Keeps tw z s) : Keeps tw z (State.refuseEvent s e) := by
  unfold State.refuseEvent
  repeat' first
    | with_reducible exact h
    | with_reducible apply State.bindFault_keeps

theorem State.retryHeld_keeps {z : State} (s : State) (h : Keeps True z s) : Keeps True z (State.retryHeld s) := by
  unfold State.retryHeld
  repeat' first
    | (fail_if_no_progress extract_lets)
    | (with_reducible refine keeps_ite (fun _ => ?_) fun _ => ?_)
    | with_reducible exact h
    | with_reducible assumption
    | with_reducible apply State.refuseEvent_keeps
    | with_reducible apply State.joinQueue_keeps
    | (with_reducible refine keeps_foldl _ _ ?_ ?_)
    | intro _ _ _
    | split
    | with_reducible apply keeps_mk

theorem State.dispatchClass_keeps {z : State} (s : State) (c q : Nat) (h : Keeps True z s) {t : State}
    (e : State.dispatchClass s c q = some t) : Keeps True z t := by
  unfold State.dispatchClass at e
  split at e
  · cases e
  · split at e
    · cases e
      exact State.setThread_keeps _ _ _ h
    · split at e
      · cases e
      · split at e
        · rw [Option.map_eq_some_iff] at e
          obtain ⟨w, _, rfl⟩ := e
          exact State.retryHeld_keeps _ (State.dispatchEvent_keeps _ _ _ (State.setEvq_keeps _ _ _ _ h))
        · cases e

theorem execHandlerDispatch_keeps {z : State} (c : Fin 64) (s : State) (hs : Keeps True z s) {t0 : State}
    (e0 : execHandlerDispatch c s = .next t0) : Keeps True z t0 := by
  unfold execHandlerDispatch whenRunning at e0
  cases e0
  refine keeps_ite (fun _ => ?_) fun _ => hs
  dsimp only
  cases e : [0, 1, 2, 3].findSome? (s.dispatchClass c) with
  | none => exact hs
  | some t =>
    obtain ⟨q, _, e⟩ := List.exists_of_findSome?_eq_some e
    exact State.dispatchClass_keeps s c q hs e

theorem execHandlerOverrunAbort_keeps {z : State} (t : ThreadId) (s : State) (hs : Keeps True z s) {t0 : State}
    (e0 : execHandlerOverrunAbort t s = .next t0) : Keeps True z t0 := by
  unfold execHandlerOverrunAbort whenRunning at e0
  cases e0
  repeat' first
    | (with_reducible refine keeps_ite (fun _ => ?_) fun _ => ?_)
    | with_reducible exact hs
    | with_reducible apply State.cnt_keeps
    | with_reducible apply State.abortHandler_keeps
    | (dsimp +zetaDelta only; split)

theorem execClusterTimerFire_keeps {z : State} (c : Fin 64) (k : Fin 16) (s : State) (hs : Keeps True z s) {t0 : State}
    (e0 : execClusterTimerFire c k s = .next t0) : Keeps True z t0 := by
  unfold execClusterTimerFire whenRunning at e0
  cases e0
  repeat' first
    | (fail_if_no_progress extract_lets)
    | (with_reducible refine keeps_ite (fun _ => ?_) fun _ => ?_)
    | with_reducible exact hs
    | with_reducible apply State.queueEvent_keeps
    | with_reducible apply State.set_keeps
    | with_reducible apply keeps_mk

theorem execCtrWatchArm_keeps {z : State} (rq : Requester) (w : Fin 256) (v : Word) (s : State) (hs : Keeps True z s) {t0 : State}
    (e0 : execCtrWatchArm rq w v s = .next t0) : Keeps True z t0 := by
  unfold execCtrWatchArm whenRunning at e0
  cases e0
  repeat' first
    | (with_reducible refine keeps_ite (fun _ => ?_) fun _ => ?_)
    | with_reducible exact hs
    | with_reducible assumption
    | with_reducible apply State.writeAs_keeps
    | with_reducible apply State.wr_keeps
    | with_reducible apply State.watchCheck_keeps
    | intro _ _

theorem execSampleRdWrite_keeps {tw : Prop} {z : State} (rq : Requester) (e : Fin 512) (rd : BitVec 8) (s : State) (hs : Keeps tw z s) {t0 : State}
    (e0 : execSampleRdWrite rq e rd s = .next t0) : Keeps tw z t0 := by
  unfold execSampleRdWrite whenRunning at e0
  cases e0
  repeat' first
    | (fail_if_no_progress extract_lets)
    | (with_reducible refine keeps_ite (fun _ => ?_) fun _ => ?_)
    | with_reducible exact hs
    | with_reducible assumption
    | with_reducible apply State.writeAs_keeps
    | with_reducible apply State.set_keeps
    | intro _ _
    | with_reducible apply keeps_mk

theorem State.dropEvents_keeps {tw : Prop} {z : State} (s : State) (slot : Nat) (h : Keeps tw z s) : Keeps tw z (State.dropEvents s slot) := by
  unfold State.dropEvents
  repeat' first
    | (fail_if_no_progress extract_lets)
    | with_reducible exact h
    | with_reducible assumption
    | with_reducible apply State.bindFault_keeps
    | (with_reducible refine keeps_foldl _ _ ?_ ?_)
    | intro _ _ _
    | with_reducible apply keeps_mk

theorem execHbWrite_keeps {tw : Prop} {z : State} (rq : Requester) (slot : Fin 4096) (s : State) (hs : Keeps tw z s) {t0 : State}
    (e0 : execHbWrite rq slot s = .next t0) : Keeps tw z t0 := by
  unfold execHbWrite whenRunning at e0
  cases e0
  repeat' first
    | (fail_if_no_progress extract_lets)
    | (with_reducible refine keeps_ite (fun _ => ?_) fun _ => ?_)
    | with_reducible exact hs
    | with_reducible assumption
    | with_reducible apply State.writeAs_keeps
    | intro _ _
    | with_reducible apply keeps_mk

theorem execHbRead_keeps {tw : Prop} {z : State} (rq : Requester) (slot : Fin 4096) (s : State) (hs : Keeps tw z s) {t0 : State}
    (e0 : execHbRead rq slot s = .next t0) : Keeps tw z t0 := by
  unfold execHbRead whenRunning at e0
  cases e0
  repeat' first
    | (with_reducible refine keeps_ite (fun _ => ?_) fun _ => ?_)
    | with_reducible exact hs
    | with_reducible assumption
    | with_reducible apply State.writeAs_keeps
    | with_reducible apply State.wr_keeps
    | (with_reducible refine keeps_foldl _ _ ?_ ?_)
    | intro _ _ _
    | intro _ _

theorem execHbDisable_keeps {tw : Prop} {z : State} (rq : Requester) (slot : Fin 4096) (s : State) (hs : Keeps tw z s) {t0 : State}
    (e0 : execHbDisable rq slot s = .next t0) : Keeps tw z t0 := by
  unfold execHbDisable whenRunning at e0
  cases e0
  repeat' first
    | (with_reducible refine keeps_ite (fun _ => ?_) fun _ => ?_)
    | with_reducible exact hs
    | with_reducible assumption
    | with_reducible apply State.writeAs_keeps
    | with_reducible apply State.setBinding_keeps
    | with_reducible apply State.dropEvents_keeps
    | intro _ _

theorem State.bindEffect_keeps {tw : Prop} {z : State} (s : State) (slot : Nat) (d : BitVec 256) (h : Keeps tw z s) : Keeps tw z (State.bindEffect s slot d) := by
  unfold State.bindEffect
  repeat' first
    | (fail_if_no_progress extract_lets)
    | (with_reducible refine keeps_ite (fun _ => ?_) fun _ => ?_)
    | with_reducible exact h
    | with_reducible apply State.setBinding_keeps
    | with_reducible apply State.dropEvents_keeps

theorem State.placeCode_keeps {z : State} (s : State) (off : Nat) (code : List Byte) (h : Keeps True z s) : Keeps True z (State.placeCode s off code) := by
  unfold State.placeCode
  repeat' first
    | (fail_if_no_progress extract_lets)
    | with_reducible exact h
    | with_reducible assumption
    | with_reducible apply State.gsPuts_keeps
    | (with_reducible refine keeps_foldl _ _ ?_ ?_)
    | intro _ _ _
    | (with_reducible refine keeps_mkMem ?_ fun w => memPuts_wf _ _ w)

theorem State.addImage_keeps {z : State} (s : State) (num base : Nat) (bs : List Byte) (h : Keeps True z s) : Keeps True z (State.addImage s num base bs) := by
  unfold State.addImage
  repeat' first
    | (fail_if_no_progress extract_lets)
    | with_reducible exact h
    | with_reducible apply State.placeCode_keeps
    | with_reducible apply keeps_mk

theorem State.imgDone_keeps {tw : Prop} {z : State} (s : State) (st : Status) (num : Nat) (h : Keeps tw z s) : Keeps tw z (State.imgDone s st num) := by
  unfold State.imgDone
  repeat' first
    | (fail_if_no_progress extract_lets)
    | with_reducible exact h
    | with_reducible apply State.set_keeps
    | with_reducible apply keeps_mk

theorem execImgLoad_keeps {tw : Prop} {z : State} (rq : Requester) (s : State) (hs : Keeps tw z s) {t0 : State}
    (e0 : execImgLoad rq s = .next t0) : Keeps tw z t0 := by
  unfold execImgLoad whenRunning at e0
  cases e0
  repeat' first
    | (fail_if_no_progress extract_lets)
    | (with_reducible refine keeps_ite (fun _ => ?_) fun _ => ?_)
    | with_reducible exact hs
    | with_reducible assumption
    | with_reducible apply State.writeAs_keeps
    | with_reducible apply State.set_keeps
    | with_reducible apply State.hostRead_keeps
    | intro _ _
    | with_reducible apply keeps_mk

theorem execImageLoadComplete_keeps {z : State} (res : ReadResult) (s : State) (hs : Keeps True z s) {t0 : State}
    (e0 : execImageLoadComplete res s = .next t0) : Keeps True z t0 := by
  unfold execImageLoadComplete whenRunning at e0
  cases e0
  repeat' first
    | (fail_if_no_progress extract_lets)
    | (with_reducible refine keeps_ite (fun _ => ?_) fun _ => ?_)
    | with_reducible exact hs
    | with_reducible apply State.imgDone_keeps
    | with_reducible apply State.hostRead_keeps
    | with_reducible apply State.addImage_keeps
    | split
    | (dsimp +zetaDelta only; split)

theorem execImgUnload_keeps {tw : Prop} {z : State} (rq : Requester) (img : Fin 256) (s : State) (hs : Keeps tw z s) {t0 : State}
    (e0 : execImgUnload rq img s = .next t0) : Keeps tw z t0 := by
  unfold execImgUnload whenRunning at e0
  cases e0
  repeat' first
    | (fail_if_no_progress extract_lets)
    | (with_reducible refine keeps_ite (fun _ => ?_) fun _ => ?_)
    | with_reducible exact hs
    | with_reducible assumption
    | with_reducible apply State.writeAs_keeps
    | with_reducible apply State.set_keeps
    | intro _ _
    | with_reducible apply keeps_mk

theorem State.loseThread_keeps {z : State} (s : State) (p : ThreadId × Thread) (h : Keeps True z s) : Keeps True z (State.loseThread s p) := by
  unfold State.loseThread
  repeat' first
    | (fail_if_no_progress extract_lets)
    | (with_reducible refine keeps_ite (fun _ => ?_) fun _ => ?_)
    | with_reducible exact h
    | with_reducible apply State.dropThread_keeps
    | with_reducible apply State.lockAbandon_keeps
    | with_reducible apply State.bindFault_keeps
    | with_reducible apply State.cnt_keeps
    | with_reducible apply State.setEvq_keeps
    | split

theorem State.loseThreads_keeps {z : State} (s : State) (e : Nat) (h : Keeps True z s) : Keeps True z (State.loseThreads s e) := by
  unfold State.loseThreads
  repeat' first
    | (fail_if_no_progress extract_lets)
    | with_reducible exact h
    | with_reducible assumption
    | with_reducible apply State.loseThread_keeps
    | with_reducible apply State.lockAbandon_keeps
    | (with_reducible refine keeps_foldl _ _ ?_ ?_)
    | intro _ _ _

theorem State.engDegraded_keeps {tw : Prop} {z : State} (s : State) (d : Nat) (h : Keeps tw z s) : Keeps tw z (State.engDegraded s d) := by
  unfold State.engDegraded
  repeat' first
    | (fail_if_no_progress extract_lets)
    | with_reducible exact h
    | with_reducible apply State.set_keeps

theorem State.fenceEngine_keeps {z : State} (s : State) (e : Nat) (h : Keeps True z s) : Keeps True z (State.fenceEngine s e) := by
  unfold State.fenceEngine
  repeat' first
    | (fail_if_no_progress extract_lets)
    | with_reducible exact h
    | with_reducible apply State.loseThreads_keeps
    | with_reducible apply State.set_keeps
    | with_reducible apply State.cnt_keeps
    | with_reducible apply State.engDegraded_keeps
    | split
    | (dsimp +zetaDelta only; split)
    | with_reducible apply keeps_mk

theorem State.engineFault_keeps {z : State} (s : State) (e : Nat) (h : Keeps True z s) : Keeps True z (State.engineFault s e) := by
  unfold State.engineFault
  repeat' first
    | with_reducible exact h
    | with_reducible assumption
    | with_reducible apply State.occur_keeps
    | with_reducible apply State.fenceEngine_keeps
    | intro _ _

theorem execEngineFenceCmd_keeps {z : State} (rq : Requester) (e : Fin 512) (s : State) (hs : Keeps True z s) {t0 : State}
    (e0 : execEngineFenceCmd rq e s = .next t0) : Keeps True z t0 := by
  unfold execEngineFenceCmd whenRunning at e0
  cases e0
  repeat' first
    | (with_reducible refine keeps_ite (fun _ => ?_) fun _ => ?_)
    | with_reducible exact hs
    | with_reducible assumption
    | with_reducible apply State.writeAs_keeps
    | with_reducible apply State.engineFault_keeps
    | intro _ _

theorem execWatchdogExpire_keeps {z : State} (e : Fin 512) (s : State) (hs : Keeps True z s) {t0 : State}
    (e0 : execWatchdogExpire e s = .next t0) : Keeps True z t0 := by
  unfold execWatchdogExpire whenRunning at e0
  cases e0
  repeat' first
    | (with_reducible refine keeps_ite (fun _ => ?_) fun _ => ?_)
    | with_reducible exact hs
    | with_reducible apply State.engineFault_keeps

theorem State.loadCode_keeps {z : State} (s : State) (e : Nat) (h : Keeps True z s) : Keeps True z (State.loadCode s e) := by
  unfold State.loadCode
  exact keeps_mem h rfl (fun w => foldPut_wf _ _ _ (filter_wf _ w)) rfl rfl

theorem execSpareLoadComplete_keeps {z : State} (e : Fin 512) (s : State) (hs : Keeps True z s) {t0 : State}
    (e0 : execSpareLoadComplete e s = .next t0) : Keeps True z t0 := by
  unfold execSpareLoadComplete whenRunning at e0
  cases e0
  repeat' first
    | (fail_if_no_progress extract_lets)
    | (with_reducible refine keeps_ite (fun _ => ?_) fun _ => ?_)
    | with_reducible exact hs
    | with_reducible apply State.loadCode_keeps
    | with_reducible apply State.set_keeps
    | with_reducible apply State.engDegraded_keeps
    | with_reducible apply keeps_mk

theorem State.budgets_keeps {z : State} (s : State) (h : Keeps True z s) : Keeps True z (State.budgets s) := by
  unfold State.budgets
  repeat' first
    | (fail_if_no_progress extract_lets)
    | (with_reducible refine keeps_ite (fun _ => ?_) fun _ => ?_)
    | with_reducible exact h
    | with_reducible assumption
    | with_reducible apply State.mapThreads_keeps
    | with_reducible apply State.lockWithdraw_keeps
    | with_reducible apply State.cnt_keeps
    | (with_reducible refine keeps_foldl _ _ ?_ ?_)
    | intro _ _ _
    | split

theorem State.tokenReload_keeps {tw : Prop} {z : State} (s : State) (c : Nat) (h : Keeps tw z s) : Keeps tw z (State.tokenReload s c) := by
  unfold State.tokenReload
  repeat' first
    | (fail_if_no_progress extract_lets)
    | (with_reducible refine keeps_ite (fun _ => ?_) fun _ => ?_)
    | with_reducible exact h
    | with_reducible apply State.drawNat_keeps
    | with_reducible apply State.cnt_keeps
    | with_reducible apply State.setTokens_keeps

theorem State.tickEvents_keeps {z : State} (s : State) (h : Keeps True z s) : Keeps True z (State.tickEvents s) := by
  unfold State.tickEvents
  repeat' first
    | (fail_if_no_progress extract_lets)
    | with_reducible exact h
    | with_reducible assumption
    | with_reducible apply State.queueEvent_keeps
    | (with_reducible refine keeps_foldl _ _ ?_ ?_)
    | intro _ _ _

theorem State.bindEffects_keeps {tw : Prop} {z : State} (s : State) (h : Keeps tw z s) : Keeps tw z (State.bindEffects s) := by
  unfold State.bindEffects
  repeat' first
    | (fail_if_no_progress extract_lets)
    | with_reducible exact h
    | with_reducible assumption
    | with_reducible apply State.bindEffect_keeps
    | (with_reducible refine keeps_foldl _ _ ?_ ?_)
    | intro _ _ _
    | with_reducible apply keeps_mk

theorem State.engTurnover_keeps {z : State} (s : State) (h : Keeps True z s) : Keeps True z (State.engTurnover s) := by
  unfold State.engTurnover
  repeat' first
    | (fail_if_no_progress extract_lets)
    | with_reducible exact h
    | with_reducible apply State.bindEffects_keeps
    | with_reducible apply State.budgets_keeps
    | with_reducible apply State.tokenReload_keeps
    | with_reducible apply State.tickEvents_keeps
    | with_reducible apply State.retryHeld_keeps
    | (with_reducible refine keeps_foldl _ _ ?_ ?_)
    | with_reducible apply keeps_mk

end Sys2Proof.Machine
end

