-- ==== Sys2Proof/Laws/KeepsCpu.lean ====
section
/-! SUPPORT. Every operation of Machine/Cpu.lean keeps the queue, the canonical form of the memory, the count of free values
drawn and what has left the part (Keeps). -/
namespace Sys2Proof.Machine

open Sys2Proof

theorem State.except_keeps {z : State} (s : State) (t : ThreadId) (st : Status) (eaddr : Nat) (h : Keeps True z s) : Keeps True z (State.except s t st eaddr) := by
  unfold State.except
  cases s.thread t with
  | none => exact h
  | some x =>
    refine keeps_ite (fun _ => State.abortHandler_keeps _ _ _ _ h) fun _ => keeps_ite (fun _ => ?_) fun _ => ?_
    · apply State.occur_keeps <;> first | (exact State.dropThread_keeps _ _ h) | (intros; assumption)
    · exact State.setThread_keeps _ _ _ h

theorem State.unnumbered_keeps {tw : Prop} {z : State} (s : State) (h : Nat) (hz : Keeps tw z s) : Keeps tw z (State.unnumbered s h) := by
  unfold State.unnumbered
  repeat' first
    | with_reducible exact hz
    | with_reducible apply State.mapThreads_keeps

theorem State.threadsResolve_keeps {z : State} (s : State) (h m va : Nat) (st : Status) (hz : Keeps True z s) : Keeps True z (State.threadsResolve s h m va st) := by
  unfold State.threadsResolve
  repeat' first
    | (with_reducible refine keeps_ite (fun _ => ?_) fun _ => ?_)
    | with_reducible exact hz
    | with_reducible assumption
    | with_reducible apply State.mapThreads_keeps
    | with_reducible apply State.except_keeps
    | (with_reducible refine keeps_foldl _ _ ?_ ?_)
    | intro _ _ _

theorem State.failEntries_keeps {tw : Prop} {z : State} (s : State) (d : MissDesc) (st : Status) (h : Keeps tw z s) : Keeps tw z (State.failEntries s d st) := by
  unfold State.failEntries
  repeat' first
    | (fail_if_no_progress extract_lets)
    | with_reducible exact h
    | with_reducible assumption
    | with_reducible apply State.completeEntry_keeps
    | (with_reducible refine keeps_foldl _ _ ?_ ?_)
    | intro _ _ _
    | split

theorem State.missEnd_keeps {z : State} (s : State) (h m : Nat) (st : Status) (hz : Keeps True z s) : Keeps True z (State.missEnd s h m st) := by
  unfold State.missEnd
  repeat' first
    | (fail_if_no_progress extract_lets)
    | (with_reducible refine keeps_ite (fun _ => ?_) fun _ => ?_)
    | with_reducible exact hz
    | with_reducible assumption
    | with_reducible apply State.set_keeps
    | with_reducible apply State.threadsResolve_keeps
    | with_reducible apply State.unnumbered_keeps
    | with_reducible apply State.transportResolve_keeps
    | with_reducible apply State.failEntries_keeps
    | with_reducible apply State.collRetry_keeps
    | (with_reducible refine keeps_foldl _ _ ?_ ?_)
    | intro _ _ _
    | with_reducible apply keeps_mk

theorem State.missResolve_keeps {z : State} (s : State) (rq : Requester) (h m code : Nat) (hz : Keeps True z s) : Keeps True z (State.missResolve s rq h m code) := by
  unfold State.missResolve
  repeat' first
    | (fail_if_no_progress extract_lets)
    | with_reducible exact hz
    | with_reducible assumption
    | with_reducible apply State.writeAs_keeps
    | with_reducible apply State.missEnd_keeps
    | intro _ _

theorem execXlMissResolve_keeps {z : State} (rq : Requester) (h : Fin 4) (m : Fin 256) (code : BitVec 8) (s : State) (hs : Keeps True z s) {t0 : State}
    (e0 : execXlMissResolve rq h m code s = .next t0) : Keeps True z t0 := by
  unfold execXlMissResolve whenRunning at e0
  cases e0
  repeat' first
    | (with_reducible refine keeps_ite (fun _ => ?_) fun _ => ?_)
    | with_reducible exact hs
    | with_reducible apply State.missResolve_keeps

end Sys2Proof.Machine
end

