-- ==== Sys2Proof/Laws/KeepsTick.lean ====
section
/-! SUPPORT. Every operation of Machine/Tick.lean keeps the queue, the canonical form of the memory, the count of free values
drawn and what has left the part (Keeps). -/
namespace Sys2Proof.Machine

open Sys2Proof

theorem State.modTime_keeps {tw : Prop} {z : State} (s : State) (g : TimeSt → TimeSt) (h : Keeps tw z s) : Keeps tw z (State.modTime s g) := by
  unfold State.modTime
  repeat' first
    | with_reducible exact h
    | with_reducible apply keeps_mk

theorem State.rpState_keeps {z : State} (s : State) (st : Nat) (h : Keeps True z s) : Keeps True z (State.rpState s st) := by
  unfold State.rpState
  repeat' first
    | (with_reducible refine keeps_ite (fun _ => ?_) fun _ => ?_)
    | with_reducible exact h
    | with_reducible apply State.set_keeps
    | with_reducible apply State.raise_keeps

theorem State.phaseCorrect_keeps {tw : Prop} {z : State} (s : State) (corr : Int) (h : Keeps tw z s) : Keeps tw z (State.phaseCorrect s corr) := by
  unfold State.phaseCorrect
  repeat' first
    | with_reducible exact h
    | with_reducible apply State.modTime_keeps

theorem State.servo_keeps {tw : Prop} {z : State} (s : State) (offset : Int) (h : Keeps tw z s) : Keeps tw z (State.servo s offset) := by
  unfold State.servo
  repeat' first
    | (with_reducible refine keeps_ite (fun _ => ?_) fun _ => ?_)
    | with_reducible exact h
    | with_reducible apply State.phaseCorrect_keeps
    | with_reducible apply State.modTime_keeps

theorem State.noParent_keeps {z : State} (s : State) (h : Keeps True z s) : Keeps True z (State.noParent s) := by
  unfold State.noParent
  repeat' first
    | (fail_if_no_progress extract_lets)
    | (with_reducible refine keeps_ite (fun _ => ?_) fun _ => ?_)
    | with_reducible exact h
    | with_reducible apply State.set_keeps
    | with_reducible apply State.modTime_keeps
    | with_reducible apply State.rpState_keeps

theorem State.takeParent_keeps {z : State} (s : State) (p : Nat) (h : Keeps True z s) : Keeps True z (State.takeParent s p) := by
  unfold State.takeParent
  repeat' first
    | (fail_if_no_progress extract_lets)
    | (with_reducible refine keeps_ite (fun _ => ?_) fun _ => ?_)
    | with_reducible exact h
    | with_reducible apply State.set_keeps
    | with_reducible apply State.rpState_keeps
    | with_reducible apply State.modTime_keeps

theorem State.parentLost_keeps {z : State} (s : State) (p : Nat) (h : Keeps True z s) : Keeps True z (State.parentLost s p) := by
  unfold State.parentLost
  repeat' first
    | (with_reducible refine keeps_ite (fun _ => ?_) fun _ => ?_)
    | with_reducible exact h
    | with_reducible apply State.noParent_keeps

theorem State.stratumUpdate_keeps {tw : Prop} {z : State} (s : State) (h : Keeps tw z s) : Keeps tw z (State.stratumUpdate s) := by
  unfold State.stratumUpdate
  repeat' first
    | (with_reducible refine keeps_ite (fun _ => ?_) fun _ => ?_)
    | with_reducible exact h
    | with_reducible apply State.set_keeps
    | split

theorem State.parentExchange_keeps {z : State} (s : State) (offset : Int) (h : Keeps True z s) : Keeps True z (State.parentExchange s offset) := by
  unfold State.parentExchange
  repeat' first
    | (fail_if_no_progress extract_lets)
    | (with_reducible refine keeps_ite (fun _ => ?_) fun _ => ?_)
    | with_reducible exact h
    | with_reducible apply State.set_keeps
    | with_reducible apply State.modTime_keeps
    | with_reducible apply State.servo_keeps
    | with_reducible apply State.rpState_keeps
    | with_reducible apply State.raise_keeps
    | with_reducible apply State.stratumUpdate_keeps

theorem State.skewCheck_keeps {z : State} (s : State) (p : Nat) (lcb : BitVec 512) (h : Keeps True z s) : Keeps True z (State.skewCheck s p lcb) := by
  unfold State.skewCheck
  repeat' first
    | (with_reducible refine keeps_ite (fun _ => ?_) fun _ => ?_)
    | with_reducible exact h
    | with_reducible apply State.cnt_keeps
    | with_reducible apply State.portNotice_keeps

theorem State.timestampTake_keeps {z : State} (s : State) (p : Nat) (lcb : BitVec 512) (ck : Nat) (h : Keeps True z s) : Keeps True z (State.timestampTake s p lcb ck) := by
  unfold State.timestampTake
  repeat' first
    | (fail_if_no_progress extract_lets)
    | (with_reducible refine keeps_ite (fun _ => ?_) fun _ => ?_)
    | with_reducible exact h
    | with_reducible apply State.modTime_keeps
    | with_reducible apply State.set_keeps
    | with_reducible apply State.stratumUpdate_keeps
    | with_reducible apply State.noParent_keeps
    | with_reducible apply State.takeParent_keeps
    | with_reducible apply State.parentExchange_keeps
    | split

theorem execTimestampLcbReceive_keeps {z : State} (p : Fin 256) (lcb : BitVec 512) (ck : Nat) (s : State) (hs : Keeps True z s) {t0 : State}
    (e0 : execTimestampLcbReceive p lcb ck s = .next t0) : Keeps True z t0 := by
  unfold execTimestampLcbReceive whenRunning at e0
  cases e0
  repeat' first
    | (with_reducible refine keeps_ite (fun _ => ?_) fun _ => ?_)
    | with_reducible exact hs
    | with_reducible assumption
    | with_reducible apply State.onLcb_keeps
    | with_reducible apply State.skewCheck_keeps
    | with_reducible apply State.timestampTake_keeps
    | intro _ _

theorem execRpStepCmdGo_keeps {z : State} (rq : Requester) (s : State) (hs : Keeps True z s) {t0 : State}
    (e0 : execRpStepCmdGo rq s = .next t0) : Keeps True z t0 := by
  unfold execRpStepCmdGo whenRunning at e0
  cases e0
  repeat' first
    | (with_reducible refine keeps_ite (fun _ => ?_) fun _ => ?_)
    | with_reducible exact hs
    | with_reducible assumption
    | with_reducible apply State.writeAs_keeps
    | with_reducible apply State.modTime_keeps
    | intro _ _

theorem execRpTodSecondsWrite_keeps {tw : Prop} {z : State} (rq : Requester) (v : Word) (s : State) (hs : Keeps tw z s) {t0 : State}
    (e0 : execRpTodSecondsWrite rq v s = .next t0) : Keeps tw z t0 := by
  unfold execRpTodSecondsWrite whenRunning at e0
  cases e0
  repeat' first
    | (with_reducible refine keeps_ite (fun _ => ?_) fun _ => ?_)
    | with_reducible exact hs
    | with_reducible assumption
    | with_reducible apply State.writeAs_keeps
    | with_reducible apply State.wr_keeps
    | with_reducible apply State.modTime_keeps
    | intro _ _

theorem execTbPpsEdge_keeps {z : State} (ck : Nat) (s : State) (hs : Keeps True z s) {t0 : State}
    (e0 : execTbPpsEdge ck s = .next t0) : Keeps True z t0 := by
  unfold execTbPpsEdge whenRunning at e0
  cases e0
  repeat' first
    | (fail_if_no_progress extract_lets)
    | (with_reducible refine keeps_ite (fun _ => ?_) fun _ => ?_)
    | with_reducible exact hs
    | with_reducible apply State.modTime_keeps
    | with_reducible apply State.set_keeps
    | with_reducible apply State.phaseCorrect_keeps

theorem execTbPpsLoss_keeps {z : State}  (s : State) (hs : Keeps True z s) {t0 : State}
    (e0 : execTbPpsLoss s = .next t0) : Keeps True z t0 := by
  unfold execTbPpsLoss whenRunning at e0
  cases e0
  repeat' first
    | (with_reducible refine keeps_ite (fun _ => ?_) fun _ => ?_)
    | with_reducible exact hs
    | with_reducible apply State.set_keeps
    | with_reducible apply State.modTime_keeps
    | with_reducible apply State.raise_keeps

theorem execTb10mLoss_keeps {z : State}  (s : State) (hs : Keeps True z s) {t0 : State}
    (e0 : execTb10mLoss s = .next t0) : Keeps True z t0 := by
  unfold execTb10mLoss whenRunning at e0
  cases e0
  repeat' first
    | (with_reducible refine keeps_ite (fun _ => ?_) fun _ => ?_)
    | with_reducible exact hs
    | with_reducible apply State.set_keeps
    | with_reducible apply State.raise_keeps

theorem execTb10mReturn_keeps {tw : Prop} {z : State}  (s : State) (hs : Keeps tw z s) {t0 : State}
    (e0 : execTb10mReturn s = .next t0) : Keeps tw z t0 := by
  unfold execTb10mReturn whenRunning at e0
  cases e0
  repeat' first
    | (with_reducible refine keeps_ite (fun _ => ?_) fun _ => ?_)
    | with_reducible exact hs
    | with_reducible apply State.set_keeps

theorem execRpTimeRead_keeps {tw : Prop} {z : State} (rq : Requester) (ck : Nat) (s : State) (hs : Keeps tw z s) {t0 : State}
    (e0 : execRpTimeRead rq ck s = .next t0) : Keeps tw z t0 := by
  unfold execRpTimeRead whenPowered at e0
  cases e0
  repeat' first
    | (fail_if_no_progress extract_lets)
    | (with_reducible refine keeps_ite (fun _ => ?_) fun _ => ?_)
    | with_reducible exact hs
    | with_reducible apply State.set_keeps
    | with_reducible apply State.emit_keeps

theorem State.publishTmap_keeps {tw : Prop} {z : State} (s : State) (host c ratio err : Nat) (f : Nat) (h : Keeps tw z s) : Keeps tw z (State.publishTmap s host c ratio err f) := by
  unfold State.publishTmap
  repeat' first
    | (fail_if_no_progress extract_lets)
    | with_reducible exact h
    | with_reducible apply State.set_keeps

theorem execPtmExchange_keeps {tw : Prop} {z : State} (part : Fin 16) (hostNs ratio : Word) (err : Fin 3) (ck : Nat) (s : State) (hs : Keeps tw z s) {t0 : State}
    (e0 : execPtmExchange part hostNs ratio err ck s = .next t0) : Keeps tw z t0 := by
  unfold execPtmExchange whenRunning at e0
  cases e0
  repeat' first
    | (fail_if_no_progress extract_lets)
    | (with_reducible refine keeps_ite (fun _ => ?_) fun _ => ?_)
    | with_reducible exact hs
    | with_reducible assumption
    | with_reducible apply State.modTime_keeps
    | with_reducible apply State.publishTmap_keeps
    | (with_reducible refine keeps_foldl _ _ ?_ ?_)
    | intro _ _ _

theorem State.tickAdvance_keeps {tw : Prop} {z : State} (s : State) (h : Keeps tw z s) : Keeps tw z (State.tickAdvance s) := by
  unfold State.tickAdvance
  repeat' first
    | (fail_if_no_progress extract_lets)
    | with_reducible exact h
    | with_reducible apply State.modTime_keeps
    | with_reducible apply State.set_keeps

theorem State.stepApply_keeps {z : State} (s : State) (h : Keeps True z s) : Keeps True z (State.stepApply s) := by
  unfold State.stepApply
  repeat' first
    | (fail_if_no_progress extract_lets)
    | (with_reducible refine keeps_ite (fun _ => ?_) fun _ => ?_)
    | with_reducible exact h
    | with_reducible apply State.modTime_keeps
    | with_reducible apply State.raise_keeps
    | split

theorem State.servoLoad_keeps {tw : Prop} {z : State} (s : State) (ref10m : Int) (h : Keeps tw z s) : Keeps tw z (State.servoLoad s ref10m) := by
  unfold State.servoLoad
  repeat' first
    | (fail_if_no_progress extract_lets)
    | (with_reducible refine keeps_ite (fun _ => ?_) fun _ => ?_)
    | with_reducible exact h
    | with_reducible apply State.modTime_keeps
    | with_reducible apply State.set_keeps

theorem State.timestampSend_keeps {tw : Prop} {z : State} (s : State) (h : Keeps tw z s) : Keeps tw z (State.timestampSend s) := by
  unfold State.timestampSend
  repeat' first
    | (fail_if_no_progress extract_lets)
    | (with_reducible refine keeps_ite (fun _ => ?_) fun _ => ?_)
    | with_reducible exact h
    | with_reducible assumption
    | with_reducible apply State.wire_keeps
    | with_reducible apply State.drawNat_keeps
    | (with_reducible refine keeps_foldl _ _ ?_ ?_)
    | intro _ _ _

theorem State.overruns_keeps {z : State} (s : State) (late : Nat) (h : Keeps True z s) : Keeps True z (State.overruns s late) := by
  unfold State.overruns
  repeat' first
    | (fail_if_no_progress extract_lets)
    | (with_reducible refine keeps_ite (fun _ => ?_) fun _ => ?_)
    | with_reducible exact h
    | with_reducible assumption
    | with_reducible apply State.cnt_keeps
    | with_reducible apply State.set_keeps
    | with_reducible apply State.raise_keeps
    | with_reducible apply State.modTime_keeps
    | (with_reducible refine keeps_foldl _ _ ?_ ?_)
    | intro _ _ _

theorem State.bankSwap_keeps {tw : Prop} {z : State} (s : State) (h : Keeps tw z s) : Keeps tw z (State.bankSwap s) := by
  unfold State.bankSwap
  repeat' first
    | (fail_if_no_progress extract_lets)
    | with_reducible exact h
    | with_reducible apply keeps_mk

end Sys2Proof.Machine
end

