-- ==== Sys2Proof/Laws/KeepsRoute.lean ====
section
/-! SUPPORT. Every operation of Machine/Route.lean keeps the queue, the canonical form of the memory, the count of free values
drawn and what has left the part (Keeps). -/
namespace Sys2Proof.Machine

open Sys2Proof

theorem State.routeFailNotice_keeps {tw : Prop} {z : State} (s : State) (q : Nat) (net tp : BitVec 256) (dim : Nat) (h : Keeps tw z s) : Keeps tw z (State.routeFailNotice s q net tp dim) := by
  unfold State.routeFailNotice
  repeat' first
    | (fail_if_no_progress extract_lets)
    | (with_reducible refine keeps_ite (fun _ => ?_) fun _ => ?_)
    | with_reducible exact h
    | with_reducible apply State.txPush_keeps
    | split

theorem State.routeFail_keeps {tw : Prop} {z : State} (s : State) (q : Nat) (net tp : BitVec 256) (dim : Nat) (ctr : RegName) (h : Keeps tw z s) : Keeps tw z (State.routeFail s q net tp dim ctr) := by
  unfold State.routeFail
  repeat' first
    | with_reducible exact h
    | with_reducible apply State.cnt_keeps
    | with_reducible apply State.routeFailNotice_keeps

theorem State.pickPort_keeps {tw : Prop} {z : State} (s : State) (net : BitVec 256) (d t rvc : Nat) (h : Keeps tw z s) : Keeps tw z (State.pickPort s net d t rvc).1 := by
  unfold State.pickPort
  repeat' first
    | (fail_if_no_progress extract_lets)
    | with_reducible exact h
    | with_reducible apply State.modCore_keeps
    | (with_reducible refine keeps_itep (fun _ => ?_) fun _ => ?_)
    | split
    | (dsimp +zetaDelta only; split)

theorem State.firstHop_keeps {tw : Prop} {z : State} (s : State) (d : Nat) (long : Bool) (h : Keeps tw z s) : Keeps tw z (State.firstHop s d long) := by
  unfold State.firstHop
  repeat' first
    | (fail_if_no_progress extract_lets)
    | (with_reducible refine keeps_ite (fun _ => ?_) fun _ => ?_)
    | with_reducible exact h
    | with_reducible apply State.modCore_keeps
    | with_reducible apply State.cnt_keeps

theorem State.hopVia_keeps {tw : Prop} {z : State} (s : State) (net : BitVec 256) (d t : Nat) (h : Keeps tw z s) : Keeps tw z (State.hopVia s net d t).1 := by
  unfold State.hopVia
  repeat' first
    | with_reducible exact h
    | with_reducible apply State.pickPort_keeps
    | split
    | (with_reducible refine keeps_fst (by assumption) ?_)

theorem State.cliqueHop_keeps {tw : Prop} {z : State} (s : State) (inp : Nat) (net : BitVec 256) (d : Nat) (entering : Bool) (h : Keeps tw z s) : Keeps tw z (State.cliqueHop s inp net d entering).1 := by
  unfold State.cliqueHop
  repeat' first
    | (fail_if_no_progress extract_lets)
    | with_reducible exact h
    | with_reducible apply State.hopVia_keeps
    | with_reducible apply State.modCore_keeps
    | with_reducible apply State.firstHop_keeps
    | (with_reducible refine keeps_itep (fun _ => ?_) fun _ => ?_)
    | split
    | (dsimp +zetaDelta only; split)
    | (with_reducible refine keeps_fst (by assumption) ?_)

theorem State.ringStep_keeps {tw : Prop} {z : State} (s : State) (net : BitVec 256) (d : Nat) (h : Keeps tw z s) : Keeps tw z (State.ringStep s net d).1 := by
  unfold State.ringStep
  repeat' first
    | (fail_if_no_progress extract_lets)
    | with_reducible exact h
    | with_reducible apply State.hopVia_keeps

theorem State.ringHop_keeps {tw : Prop} {z : State} (s : State) (net : BitVec 256) (d : Nat) (entering : Bool) (h : Keeps tw z s) : Keeps tw z (State.ringHop s net d entering).1 := by
  unfold State.ringHop
  repeat' first
    | with_reducible exact h
    | with_reducible apply State.ringStep_keeps
    | with_reducible apply State.firstHop_keeps
    | (with_reducible refine keeps_itep (fun _ => ?_) fun _ => ?_)
    | split
    | (with_reducible refine keeps_fst (by assumption) ?_)

theorem State.dimHop_keeps {tw : Prop} {z : State} (s : State) (inp : Nat) (net : BitVec 256) (d : Nat) (entering : Bool) (h : Keeps tw z s) : Keeps tw z (State.dimHop s inp net d entering).1 := by
  unfold State.dimHop
  repeat' first
    | with_reducible exact h
    | with_reducible apply State.ringHop_keeps
    | with_reducible apply State.cliqueHop_keeps
    | (with_reducible refine keeps_itep (fun _ => ?_) fun _ => ?_)

theorem State.routeUnicast_keeps {tw : Prop} {z : State} (s : State) (inp : Nat) (net tp : BitVec 256) (h : Keeps tw z s) : Keeps tw z (State.routeUnicast s inp net tp).1 := by
  unfold State.routeUnicast
  repeat' first
    | (fail_if_no_progress extract_lets)
    | with_reducible exact h
    | with_reducible apply State.routeFail_keeps
    | with_reducible apply State.dimHop_keeps
    | (with_reducible refine keeps_itep (fun _ => ?_) fun _ => ?_)
    | split
    | (with_reducible refine keeps_fst (by assumption) ?_)

theorem State.branchFail_keeps {tw : Prop} {z : State} (s : State) (inp : Nat) (net tp : BitVec 256) (d : Nat) (h : Keeps tw z s) : Keeps tw z (State.branchFail s inp net tp d) := by
  unfold State.branchFail
  repeat' first
    | with_reducible exact h
    | with_reducible apply State.routeFail_keeps

theorem State.forward_keeps {tw : Prop} {z : State} (s : State) (inp : Nat) (net tp : BitVec 256) (d : Nat) (hop : State → State × Hop)
    (hh : ∀ s, Keeps tw z s → Keeps tw z (hop s).1) (h : Keeps tw z s) : Keeps tw z (State.forward s inp net tp d hop).1 := by
  have a := hh s h
  unfold State.forward
  refine keeps_itep (fun _ => State.routeFail_keeps _ _ _ _ _ _ h) fun _ => ?_
  revert a
  cases hop s with
  | mk t x =>
    intro a
    cases x
    · exact a
    · exact State.branchFail_keeps _ _ _ _ _ a
    · exact State.routeFail_keeps _ _ _ _ _ _ a

theorem collect_keeps {α : Type} {tw : Prop} {z : State} {g : State → α → State × List Exit} (hg : ∀ s a, Keeps tw z s → Keeps tw z (g s a).1) :
    ∀ (l : List α) (s : State), Keeps tw z s → Keeps tw z (collect g l s).1
  | [], _, h => h
  | a :: l, s, h => collect_keeps hg l _ (hg s a h)

theorem State.mcDeliver_keeps {tw : Prop} {z : State} (s : State) (inp : Nat) (net tp : BitVec 256) (e : BitVec 512) (h : Keeps tw z s) : Keeps tw z (State.mcDeliver s inp net tp e).1 := by
  unfold State.mcDeliver
  repeat' first
    | (fail_if_no_progress extract_lets)
    | with_reducible exact h
    | with_reducible assumption
    | with_reducible apply collect_keeps
    | with_reducible apply State.branchFail_keeps
    | intro _ _ _
    | split

theorem State.ringBranch_keeps {tw : Prop} {z : State} (s : State) (inp : Nat) (net tp : BitVec 256) (e : BitVec 512) (d dir : Nat) (h : Keeps tw z s) : Keeps tw z (State.ringBranch s inp net tp e d dir).1 := by
  unfold State.ringBranch
  repeat' first
    | (fail_if_no_progress extract_lets)
    | (with_reducible refine keeps_ite (fun _ => ?_) fun _ => ?_)
    | with_reducible exact h
    | with_reducible assumption
    | with_reducible apply State.forward_keeps
    | with_reducible apply State.ringStep_keeps
    | with_reducible apply State.firstHop_keeps
    | intro _ _
    | split

theorem State.mcStart_keeps {tw : Prop} {z : State} (inp : Nat) (net tp : BitVec 256) (e : BitVec 512) :
    ∀ (k d : Nat) (s : State), Keeps tw z s → Keeps tw z (State.mcStart s inp net tp e k d).1
  | 0, _, s, h => State.mcDeliver_keeps s inp net tp e h
  | k + 1, d, s, h => by
    unfold State.mcStart
    refine keeps_itep (fun _ => State.mcStart_keeps inp net tp e k (d + 1) _ ?_) fun _ => ?_ <;>
    · refine keeps_itep (fun _ => ?_) fun _ => ?_
      · refine keeps_foldl _ _ (fun s x h => State.branchFail_keeps _ _ _ _ _ h) ?_
        exact State.ringBranch_keeps _ _ _ _ _ _ _ (State.ringBranch_keeps _ _ _ _ _ _ _ h)
      · exact collect_keeps (fun s a h => State.forward_keeps _ _ _ _ _ _ (fun s h => State.cliqueHop_keeps _ _ _ _ _ h) h) _ _ h

theorem State.replicate_keeps {z : State} (s : State) (inp : Nat) (net tp : BitVec 256) (h : Keeps True z s) : Keeps True z (State.replicate s inp net tp).1 := by
  unfold State.replicate
  repeat' first
    | (fail_if_no_progress extract_lets)
    | with_reducible exact h
    | with_reducible assumption
    | with_reducible apply State.mcgRead_keeps
    | with_reducible apply State.cnt_keeps
    | with_reducible apply State.raise_keeps
    | with_reducible apply State.mcStart_keeps
    | with_reducible apply State.forward_keeps
    | with_reducible apply State.ringStep_keeps
    | with_reducible apply State.cliqueHop_keeps
    | (with_reducible refine keeps_itep (fun _ => ?_) fun _ => ?_)
    | intro _ _

theorem State.route_keeps {z : State} (s : State) (inp : Nat) (net tp : BitVec 256) (h : Keeps True z s) : Keeps True z (State.route s inp net tp).1 := by
  unfold State.route
  repeat' first
    | with_reducible exact h
    | with_reducible apply State.cnt_keeps
    | with_reducible apply State.routeFail_keeps
    | with_reducible apply State.replicate_keeps
    | with_reducible apply State.routeUnicast_keeps
    | (with_reducible refine keeps_itep (fun _ => ?_) fun _ => ?_)

theorem State.enqueue_keeps {z : State} (s : State) (inp tc : Nat) (x : Exit) (h : Keeps True z s) : Keeps True z (State.enqueue s inp tc x).1 := by
  unfold State.enqueue
  repeat' first
    | (fail_if_no_progress extract_lets)
    | (with_reducible refine keeps_ite (fun _ => ?_) fun _ => ?_)
    | with_reducible exact h
    | with_reducible apply State.perf_keeps
    | with_reducible apply State.cnt_keeps
    | with_reducible apply State.modCore_keeps

theorem State.enqueueAll_keeps {z : State} (inp tc : Nat) :
    ∀ (l : List Exit) (s : State), Keeps True z s → Keeps True z (State.enqueueAll s inp tc l).1
  | [], _, h => h
  | x :: l, s, h => State.enqueueAll_keeps inp tc l _ (State.enqueue_keeps s inp tc x h)

theorem State.modPkt_keeps {tw : Prop} {z : State} (s : State) (id : Nat) (g : CorePkt → CorePkt) (h : Keeps tw z s) : Keeps tw z (State.modPkt s id g) := by
  unfold State.modPkt
  repeat' first
    | with_reducible exact h
    | with_reducible apply State.modCore_keeps

theorem State.freeReserve_keeps {tw : Prop} {z : State} (s : State) (k : CorePkt) (h : Keeps tw z s) : Keeps tw z (State.freeReserve s k) := by
  unfold State.freeReserve
  repeat' first
    | (with_reducible refine keeps_ite (fun _ => ?_) fun _ => ?_)
    | with_reducible exact h
    | with_reducible apply State.modPort_keeps

theorem State.releasePkt_keeps {tw : Prop} {z : State} (s : State) (k : CorePkt) (h : Keeps tw z s) : Keeps tw z (State.releasePkt s k) := by
  unfold State.releasePkt
  repeat' first
    | with_reducible exact h
    | with_reducible apply State.freeReserve_keeps
    | with_reducible apply State.modCore_keeps

theorem State.settlePkt_keeps {tw : Prop} {z : State} (s : State) (id : Nat) (h : Keeps tw z s) : Keeps tw z (State.settlePkt s id) := by
  unfold State.settlePkt
  repeat' first
    | (with_reducible refine keeps_ite (fun _ => ?_) fun _ => ?_)
    | with_reducible exact h
    | with_reducible apply State.releasePkt_keeps
    | split

theorem execPacketRoute_keeps {z : State} (inp : Fin 272) (s : State) (hs : Keeps True z s) {t0 : State}
    (e0 : execPacketRoute inp s = .next t0) : Keeps True z t0 := by
  unfold execPacketRoute whenRunning at e0
  cases e0
  repeat' first
    | (with_reducible refine keeps_ite (fun _ => ?_) fun _ => ?_)
    | with_reducible exact hs
    | with_reducible apply State.cnt_keeps
    | with_reducible apply State.route_keeps
    | with_reducible apply State.enqueueAll_keeps
    | with_reducible apply State.modPkt_keeps
    | with_reducible apply State.settlePkt_keeps
    | (dsimp +zetaDelta only; split)

theorem execGuylineLcbReceive_keeps {z : State} (p : Fin 256) (lcb : BitVec 512) (s : State) (hs : Keeps True z s) {t0 : State}
    (e0 : execGuylineLcbReceive p lcb s = .next t0) : Keeps True z t0 := by
  unfold execGuylineLcbReceive whenRunning at e0
  cases e0
  repeat' first
    | (fail_if_no_progress extract_lets)
    | (with_reducible refine keeps_ite (fun _ => ?_) fun _ => ?_)
    | with_reducible exact hs
    | with_reducible assumption
    | with_reducible apply State.onLcb_keeps
    | with_reducible apply State.skewCheck_keeps
    | with_reducible apply State.modCore_keeps
    | intro _ _

theorem State.snapTurnover_keeps {tw : Prop} {z : State} (s : State) (late : Bool) (h : Keeps tw z s) : Keeps tw z (State.snapTurnover s late) := by
  unfold State.snapTurnover
  repeat' first
    | with_reducible exact h
    | with_reducible apply State.modCore_keeps

theorem State.guylineSend_keeps {tw : Prop} {z : State} (s : State) (h : Keeps tw z s) : Keeps tw z (State.guylineSend s) := by
  unfold State.guylineSend
  repeat' first
    | (fail_if_no_progress extract_lets)
    | (with_reducible refine keeps_ite (fun _ => ?_) fun _ => ?_)
    | with_reducible exact h
    | with_reducible assumption
    | with_reducible apply State.wire_keeps
    | (with_reducible refine keeps_foldl _ _ ?_ ?_)
    | intro _ _ _

theorem State.hopAdapt_keeps {tw : Prop} {z : State} (s : State) (d : Nat) (h : Keeps tw z s) : Keeps tw z (State.hopAdapt s d) := by
  unfold State.hopAdapt
  repeat' first
    | (fail_if_no_progress extract_lets)
    | with_reducible exact h
    | with_reducible apply State.set_keeps

theorem State.hopAdapts_keeps {tw : Prop} {z : State} (s : State) (h : Keeps tw z s) : Keeps tw z (State.hopAdapts s) := by
  unfold State.hopAdapts
  repeat' first
    | with_reducible exact h
    | with_reducible apply State.hopAdapt_keeps
    | with_reducible apply State.modCore_keeps
    | (with_reducible refine keeps_foldl _ _ ?_ ?_)

end Sys2Proof.Machine
end

