-- ==== Sys2Proof/Laws/KeepsSwitchCore.lean ====
section
/-! SUPPORT. Every operation of Machine/SwitchCore.lean keeps the queue, the canonical form of the memory, the count of free values
drawn and what has left the part (Keeps). -/
namespace Sys2Proof.Machine

open Sys2Proof

theorem execSharedChargeMove_keeps {tw : Prop} {z : State} (id : Nat) (s : State) (hs : Keeps tw z s) {t0 : State}
    (e0 : execSharedChargeMove id s = .next t0) : Keeps tw z t0 := by
  unfold execSharedChargeMove whenRunning at e0
  cases e0
  repeat' first
    | (with_reducible refine keeps_ite (fun _ => ?_) fun _ => ?_)
    | with_reducible exact hs
    | with_reducible apply State.freeReserve_keeps
    | with_reducible apply State.modPkt_keeps
    | split
    | (dsimp +zetaDelta only; split)

theorem State.setStage_keeps {tw : Prop} {z : State} (s : State) (p : Nat) (l : List StagePkt) (h : Keeps tw z s) : Keeps tw z (State.setStage s p l) := by
  unfold State.setStage
  repeat' first
    | with_reducible exact h
    | with_reducible apply State.modCore_keeps

theorem State.shaperDeduct_keeps {tw : Prop} {z : State} (s : State) (out tc bytes : Nat) (h : Keeps tw z s) : Keeps tw z (State.shaperDeduct s out tc bytes) := by
  unfold State.shaperDeduct
  repeat' first
    | (fail_if_no_progress extract_lets)
    | (with_reducible refine keeps_ite (fun _ => ?_) fun _ => ?_)
    | with_reducible exact h
    | with_reducible apply State.modCore_keeps

theorem State.accept_keeps {tw : Prop} {z : State} (s : State) (first : Bool) (g : Req × Drr) (h : Keeps tw z s) : Keeps tw z (State.accept s first g) := by
  unfold State.accept
  repeat' first
    | (fail_if_no_progress extract_lets)
    | (with_reducible refine keeps_ite (fun _ => ?_) fun _ => ?_)
    | with_reducible exact h
    | with_reducible apply State.modPkt_keeps
    | with_reducible apply State.modCore_keeps
    | with_reducible apply State.shaperDeduct_keeps
    | with_reducible apply State.setStage_keeps
    | split

theorem State.iterate_keeps {tw : Prop} {z : State} (s : State) (reqs : List Req) (first : Bool) (h : Keeps tw z s) : Keeps tw z (State.iterate s reqs first) := by
  unfold State.iterate
  repeat' first
    | (fail_if_no_progress extract_lets)
    | with_reducible exact h
    | with_reducible assumption
    | with_reducible apply State.accept_keeps
    | (with_reducible refine keeps_foldl _ _ ?_ ?_)
    | intro _ _ _

theorem State.sendPkt_keeps {tw : Prop} {z : State} (s : State) (p : Nat) (env : BitVec 64) (k : Packet) (h : Keeps tw z s) : Keeps tw z (State.sendPkt s p env k) := by
  unfold State.sendPkt
  repeat' first
    | with_reducible exact h
    | with_reducible apply State.wire_keeps

theorem State.runPass_keeps {tw : Prop} {z : State} (s : State) (p : Nat) (h : Keeps tw z s) : Keeps tw z (State.runPass s p) := by
  unfold State.runPass
  repeat' first
    | with_reducible exact h
    | with_reducible assumption
    | with_reducible apply State.sendPkt_keeps
    | with_reducible apply State.set_keeps
    | (with_reducible refine keeps_foldl _ _ ?_ ?_)
    | intro _ _ _

theorem State.finishTx_keeps {tw : Prop} {z : State} (s : State) (p id enq : Nat) (k : Packet) (h : Keeps tw z s) : Keeps tw z (State.finishTx s p id enq k) := by
  unfold State.finishTx
  repeat' first
    | (fail_if_no_progress extract_lets)
    | (with_reducible refine keeps_ite (fun _ => ?_) fun _ => ?_)
    | with_reducible exact h
    | with_reducible apply State.setPort_keeps
    | with_reducible apply State.setStage_keeps
    | with_reducible apply State.sendPkt_keeps
    | with_reducible apply State.runPass_keeps

theorem State.eject_keeps {tw : Prop} {z : State} (s : State) (ie : Nat) (p : Packet) (h : Keeps tw z s) : Keeps tw z (State.eject s ie p) := by
  unfold State.eject
  repeat' first
    | (fail_if_no_progress extract_lets)
    | with_reducible exact h
    | with_reducible apply keeps_mk

theorem State.transfer_keeps {z : State} (s : State) (m : Match) (h : Keeps True z s) : Keeps True z (State.transfer s m) := by
  unfold State.transfer
  repeat' first
    | (fail_if_no_progress extract_lets)
    | (with_reducible refine keeps_ite (fun _ => ?_) fun _ => ?_)
    | with_reducible exact h
    | with_reducible apply State.modPkt_keeps
    | with_reducible apply State.perf_keeps
    | with_reducible apply State.modCore_keeps
    | with_reducible apply State.eject_keeps
    | with_reducible apply State.setStage_keeps
    | with_reducible apply State.finishTx_keeps
    | with_reducible apply State.cnt_keeps
    | with_reducible apply State.settlePkt_keeps
    | split

theorem State.cellArrives_keeps {z : State} (s : State) (inp : Nat) (h : Keeps True z s) : Keeps True z (State.cellArrives s inp) := by
  unfold State.cellArrives
  repeat' first
    | (with_reducible refine keeps_ite (fun _ => ?_) fun _ => ?_)
    | with_reducible exact h
    | with_reducible apply State.modPkt_keeps
    | with_reducible apply State.perf_keeps
    | split

theorem State.stallCounts_keeps {z : State} (s : State) (h : Keeps True z s) : Keeps True z (State.stallCounts s) := by
  unfold State.stallCounts
  repeat' first
    | (fail_if_no_progress extract_lets)
    | with_reducible exact h
    | with_reducible assumption
    | with_reducible apply State.cnt_keeps
    | with_reducible apply State.perf_keeps
    | (with_reducible refine keeps_foldl _ _ ?_ ?_)
    | intro _ _ _

theorem execCellArbitration_keeps {z : State} (arrivals : List (Fin 256)) (s : State) (hs : Keeps True z s) {t0 : State}
    (e0 : execCellArbitration arrivals s = .next t0) : Keeps True z t0 := by
  unfold execCellArbitration whenRunning at e0
  cases e0
  repeat' first
    | (with_reducible refine keeps_ite (fun _ => ?_) fun _ => ?_)
    | with_reducible exact hs
    | with_reducible assumption
    | with_reducible apply State.cellArrives_keeps
    | with_reducible apply State.stallCounts_keeps
    | with_reducible apply State.iterate_keeps
    | with_reducible apply State.transfer_keeps
    | (with_reducible refine keeps_foldl _ _ ?_ ?_)
    | intro _ _ _

theorem State.abortTx_keeps {tw : Prop} {z : State} (s : State) (p : Nat) (tell : Bool) (h : Keeps tw z s) : Keeps tw z (State.abortTx s p tell) := by
  unfold State.abortTx
  repeat' first
    | (fail_if_no_progress extract_lets)
    | (with_reducible refine keeps_ite (fun _ => ?_) fun _ => ?_)
    | with_reducible exact h
    | with_reducible apply State.setPort_keeps
    | with_reducible apply State.set_keeps
    | with_reducible apply State.cnt_keeps
    | with_reducible apply State.wire_keeps
    | split

theorem State.unstage_keeps {tw : Prop} {z : State} (s : State) (out id enq : Nat) (h : Keeps tw z s) : Keeps tw z (State.unstage s out id enq) := by
  unfold State.unstage
  repeat' first
    | (fail_if_no_progress extract_lets)
    | with_reducible exact h
    | with_reducible apply State.setStage_keeps
    | with_reducible apply State.modCore_keeps

theorem execCutThroughUnderrun_keeps {tw : Prop} {z : State} (out : Fin 256) (s : State) (hs : Keeps tw z s) {t0 : State}
    (e0 : execCutThroughUnderrun out s = .next t0) : Keeps tw z t0 := by
  unfold execCutThroughUnderrun whenRunning at e0
  cases e0
  repeat' first
    | (with_reducible refine keeps_ite (fun _ => ?_) fun _ => ?_)
    | with_reducible exact hs
    | with_reducible apply State.abortTx_keeps
    | with_reducible apply State.cnt_keeps
    | with_reducible apply State.unstage_keeps
    | with_reducible apply State.modPkt_keeps
    | split
    | (dsimp +zetaDelta only; split)

theorem State.discardArriving_keeps {z : State} (s : State) (id : Nat) (h : Keeps True z s) : Keeps True z (State.discardArriving s id) := by
  unfold State.discardArriving
  repeat' first
    | (fail_if_no_progress extract_lets)
    | (with_reducible refine keeps_ite (fun _ => ?_) fun _ => ?_)
    | with_reducible exact h
    | with_reducible assumption
    | with_reducible apply State.abortTx_keeps
    | with_reducible apply State.cnt_keeps
    | with_reducible apply State.raise_keeps
    | with_reducible apply State.unstage_keeps
    | with_reducible apply State.modCore_keeps
    | (with_reducible refine keeps_foldl _ _ ?_ ?_)
    | intro _ _ _
    | split

theorem State.flushNotice_keeps {tw : Prop} {z : State} (s : State) (p : Nat) (net tp : BitVec 256) (h : Keeps tw z s) : Keeps tw z (State.flushNotice s p net tp) := by
  unfold State.flushNotice
  repeat' first
    | (with_reducible refine keeps_ite (fun _ => ?_) fun _ => ?_)
    | with_reducible exact h
    | with_reducible apply State.routeFailNotice_keeps
    | with_reducible apply State.cnt_keeps

theorem State.portFlush_keeps {z : State} (s : State) (p : Nat) (h : Keeps True z s) : Keeps True z (State.portFlush s p) := by
  unfold State.portFlush
  repeat' first
    | (fail_if_no_progress extract_lets)
    | (with_reducible refine keeps_ite (fun _ => ?_) fun _ => ?_)
    | with_reducible exact h
    | with_reducible assumption
    | with_reducible apply State.abortTx_keeps
    | with_reducible apply State.unstage_keeps
    | with_reducible apply State.modPkt_keeps
    | with_reducible apply State.cnt_keeps
    | with_reducible apply State.flushNotice_keeps
    | with_reducible apply State.settlePkt_keeps
    | with_reducible apply State.raise_keeps
    | (with_reducible refine keeps_foldl _ _ ?_ ?_)
    | intro _ _ _

theorem execHotEntryFree_keeps {tw : Prop} {z : State} (e : Fin 64) (s : State) (hs : Keeps tw z s) {t0 : State}
    (e0 : execHotEntryFree e s = .next t0) : Keeps tw z t0 := by
  unfold execHotEntryFree whenRunning at e0
  cases e0
  repeat' first
    | (with_reducible refine keeps_ite (fun _ => ?_) fun _ => ?_)
    | with_reducible exact hs
    | with_reducible apply State.wr_keeps
    | with_reducible apply State.modCore_keeps

theorem State.hotCools_keeps {tw : Prop} {z : State} (s : State) (h : Keeps tw z s) : Keeps tw z (State.hotCools s) := by
  unfold State.hotCools
  repeat' first
    | (fail_if_no_progress extract_lets)
    | (with_reducible refine keeps_ite (fun _ => ?_) fun _ => ?_)
    | with_reducible exact h
    | with_reducible assumption
    | with_reducible apply State.modCore_keeps
    | (with_reducible refine keeps_foldl _ _ ?_ ?_)
    | intro _ _ _

theorem State.hotEnter_keeps {z : State} (s : State) (addr : Nat) (h : Keeps True z s) : Keeps True z (State.hotEnter s addr) := by
  unfold State.hotEnter
  repeat' first
    | (with_reducible refine keeps_ite (fun _ => ?_) fun _ => ?_)
    | with_reducible exact h
    | with_reducible apply State.cnt_keeps
    | with_reducible apply State.raise_keeps
    | with_reducible apply State.set_keeps
    | with_reducible apply State.modCore_keeps
    | split

theorem State.hotTurn_keeps {z : State} (s : State) (h : Keeps True z s) : Keeps True z (State.hotTurn s) := by
  unfold State.hotTurn
  repeat' first
    | (fail_if_no_progress extract_lets)
    | (with_reducible refine keeps_ite (fun _ => ?_) fun _ => ?_)
    | with_reducible exact h
    | with_reducible apply State.hotCools_keeps
    | with_reducible apply State.hotEnter_keeps
    | with_reducible apply State.modCore_keeps
    | (with_reducible refine keeps_foldl _ _ ?_ ?_)

theorem State.alphaAdjust_keeps {tw : Prop} {z : State} (s : State) (h t : Nat) (hz : Keeps tw z s) : Keeps tw z (State.alphaAdjust s h t) := by
  unfold State.alphaAdjust
  repeat' first
    | (fail_if_no_progress extract_lets)
    | with_reducible exact hz
    | with_reducible apply State.wr_keeps

theorem State.alphaAdjusts_keeps {tw : Prop} {z : State} (s : State) (h : Keeps tw z s) : Keeps tw z (State.alphaAdjusts s) := by
  unfold State.alphaAdjusts
  repeat' first
    | with_reducible exact h
    | with_reducible assumption
    | with_reducible apply State.alphaAdjust_keeps
    | with_reducible apply State.modCore_keeps
    | (with_reducible refine keeps_foldl _ _ ?_ ?_)
    | intro _ _ _

theorem State.kEffUpdate_keeps {tw : Prop} {z : State} (s : State) (h : Keeps tw z s) : Keeps tw z (State.kEffUpdate s) := by
  unfold State.kEffUpdate
  repeat' first
    | (fail_if_no_progress extract_lets)
    | with_reducible exact h
    | with_reducible apply State.modCore_keeps

theorem State.shaperRefill_keeps {tw : Prop} {z : State} (s : State) (h : Keeps tw z s) : Keeps tw z (State.shaperRefill s) := by
  unfold State.shaperRefill
  repeat' first
    | (fail_if_no_progress extract_lets)
    | with_reducible exact h
    | with_reducible apply State.modCore_keeps

end Sys2Proof.Machine
end

