-- ==== Sys2Proof/Laws/KeepsInject.lean ====
section
/-! SUPPORT. Every operation of Machine/Inject.lean keeps the queue, the canonical form of the memory, the count of free values
drawn and what has left the part (Keeps). -/
namespace Sys2Proof.Machine

open Sys2Proof

theorem State.setPolicer_keeps {z : State} (s : State) (i : Nat) (e : BitVec 512) (h : Keeps True z s) : Keeps True z (State.setPolicer s i e) := by
  unfold State.setPolicer
  repeat' first
    | with_reducible exact h
    | with_reducible apply State.gsPut_keeps

theorem State.meter_keeps {z : State} (s : State) (i pre b : Nat) (h : Keeps True z s) : Keeps True z (State.meter s i pre b).1 := by
  unfold State.meter
  repeat' first
    | (fail_if_no_progress extract_lets)
    | with_reducible exact h
    | with_reducible apply State.setPolicer_keeps

theorem State.policerCount_keeps {z : State} (s : State) (i : Nat) (f : Fld) (h : Keeps True z s) : Keeps True z (State.policerCount s i f) := by
  unfold State.policerCount
  repeat' first
    | (fail_if_no_progress extract_lets)
    | with_reducible exact h
    | with_reducible apply State.setPolicer_keeps

theorem State.remeter_keeps {z : State} (s : State) (t : TxPkt) (h : Keeps True z s) : Keeps True z (State.remeter s t).1 := by
  unfold State.remeter
  repeat' first
    | (fail_if_no_progress extract_lets)
    | with_reducible exact h
    | with_reducible apply State.meter_keeps
    | (with_reducible refine keeps_itep (fun _ => ?_) fun _ => ?_)
    | split
    | (with_reducible refine keeps_fst (by assumption) ?_)

theorem State.remeterList_keeps {z : State} :
    ∀ (l : List TxPkt) (s : State), Keeps True z s → Keeps True z (State.remeterList s l).1
  | [], _, h => h
  | t :: l, s, h => State.remeterList_keeps l _ (State.remeter_keeps s t h)

theorem State.redRemeter_keeps {z : State} (s : State) (h : Keeps True z s) : Keeps True z (State.redRemeter s) := by
  unfold State.redRemeter
  repeat' first
    | (fail_if_no_progress extract_lets)
    | with_reducible exact h
    | with_reducible assumption
    | with_reducible apply State.remeterList_keeps
    | (with_reducible refine keeps_foldl _ _ ?_ ?_)
    | intro _ _ _
    | with_reducible apply keeps_mk

theorem State.txDrop_keeps {tw : Prop} {z : State} (s : State) (ie k : Nat) (h : Keeps tw z s) : Keeps tw z (State.txDrop s ie k) := by
  unfold State.txDrop
  repeat' first
    | (fail_if_no_progress extract_lets)
    | with_reducible exact h
    | with_reducible apply keeps_mk

theorem State.injectEnd_keeps {z : State} (s : State) (t : TxPkt) (st : Status) (sent : Nat) (h : Keeps True z s) : Keeps True z (State.injectEnd s t st sent) := by
  unfold State.injectEnd
  repeat' first
    | (fail_if_no_progress extract_lets)
    | (with_reducible refine keeps_ite (fun _ => ?_) fun _ => ?_)
    | with_reducible exact h
    | with_reducible apply State.completeEntry_keeps
    | with_reducible apply State.unitFail_keeps
    | with_reducible apply State.settle_keeps
    | split
    | (dsimp +zetaDelta only; split)

theorem State.injectCount_keeps {tw : Prop} {z : State} (s : State) (net : BitVec 256) (h : Keeps tw z s) : Keeps tw z (State.injectCount s net) := by
  unfold State.injectCount
  repeat' first
    | with_reducible exact h
    | with_reducible apply State.jobCount_keeps
    | split

theorem State.intoCore_keeps {tw : Prop} {z : State} (s : State) (inp : Nat) (p : Packet) (charge : Option (Nat × Nat)) (h : Keeps tw z s) : Keeps tw z (State.intoCore s inp p charge) := by
  unfold State.intoCore
  repeat' first
    | with_reducible exact h
    | with_reducible apply State.modCore_keeps

theorem State.injectGo_keeps {z : State} (s : State) (ie k : Nat) (t : TxPkt) (net : BitVec 256) (charge : Option (Nat × Nat)) (h : Keeps True z s) : Keeps True z (State.injectGo s ie k t net charge) := by
  unfold State.injectGo
  repeat' first
    | (fail_if_no_progress extract_lets)
    | with_reducible exact h
    | with_reducible apply State.txDrop_keeps
    | with_reducible apply State.intoCore_keeps
    | with_reducible apply State.injectCount_keeps
    | with_reducible apply State.injectEnd_keeps
    | with_reducible apply State.perf_keeps

theorem execPacketInject_keeps {z : State} (ie : Fin 16) (s : State) (hs : Keeps True z s) {t0 : State}
    (e0 : execPacketInject ie s = .next t0) : Keeps True z t0 := by
  unfold execPacketInject whenRunning at e0
  cases e0
  repeat' first
    | (fail_if_no_progress extract_lets)
    | (with_reducible refine keeps_ite (fun _ => ?_) fun _ => ?_)
    | with_reducible exact hs
    | with_reducible apply State.txDrop_keeps
    | with_reducible apply State.injectEnd_keeps
    | with_reducible apply State.injectGo_keeps
    | with_reducible apply State.meter_keeps
    | with_reducible apply State.policerCount_keeps
    | split
    | (with_reducible refine keeps_fst (by assumption) ?_)
    | with_reducible apply keeps_mk

end Sys2Proof.Machine
end

