-- ==== Sys2Proof/Laws/KeepsPorts.lean ====
section
/-! SUPPORT. Every operation of Machine/Ports.lean keeps the queue, the canonical form of the memory, the count of free values
drawn and what has left the part (Keeps). -/
namespace Sys2Proof.Machine

open Sys2Proof

theorem State.setLanes_keeps {tw : Prop} {z : State} (s : State) (f : RegFld) (v : Nat) (ls : List Nat) (h : Keeps tw z s) : Keeps tw z (State.setLanes s f v ls) := by
  unfold State.setLanes
  repeat' first
    | with_reducible exact h
    | with_reducible assumption
    | with_reducible apply State.set_keeps
    | (with_reducible refine keeps_foldl _ _ ?_ ?_)
    | intro _ _ _

theorem State.newState_keeps {tw : Prop} {z : State} (s : State) (p st : Nat) (h : Keeps tw z s) : Keeps tw z (State.newState s p st) := by
  unfold State.newState
  repeat' first
    | with_reducible exact h
    | with_reducible apply State.set_keeps
    | with_reducible apply State.serviceUpdate_keeps
    | with_reducible apply State.fabricUpdate_keeps
    | with_reducible apply State.groupsUpdate_keeps

theorem State.groupLost_keeps {z : State} (s : State) (p : Nat) (was : Bool) (h : Keeps True z s) : Keeps True z (State.groupLost s p was) := by
  unfold State.groupLost
  repeat' first
    | (fail_if_no_progress extract_lets)
    | (with_reducible refine keeps_ite (fun _ => ?_) fun _ => ?_)
    | with_reducible exact h
    | with_reducible apply State.occur_keeps
    | with_reducible apply keeps_id

theorem State.dropLink_keeps {tw : Prop} {z : State} (s : State) (p : Nat) (h : Keeps tw z s) : Keeps tw z (State.dropLink s p) := by
  unfold State.dropLink
  repeat' first
    | (fail_if_no_progress extract_lets)
    | with_reducible exact h
    | with_reducible assumption
    | with_reducible apply State.flushNotice_keeps
    | with_reducible apply State.set_keeps
    | with_reducible apply State.modPort_keeps
    | (with_reducible refine keeps_foldl _ _ ?_ ?_)
    | intro _ _ _

theorem State.linkFreeze_keeps {tw : Prop} {z : State} (s : State) (p : Nat) (fatal : Bool) (h : Keeps tw z s) : Keeps tw z (State.linkFreeze s p fatal) := by
  unfold State.linkFreeze
  repeat' first
    | (fail_if_no_progress extract_lets)
    | (with_reducible refine keeps_ite (fun _ => ?_) fun _ => ?_)
    | with_reducible exact h
    | with_reducible apply State.set_keeps
    | with_reducible apply State.modPort_keeps
    | with_reducible apply State.dropLink_keeps

theorem State.dropArrival_keeps {z : State} (s : State) (p : Nat) (h : Keeps True z s) : Keeps True z (State.dropArrival s p) := by
  unfold State.dropArrival
  repeat' first
    | (fail_if_no_progress extract_lets)
    | (with_reducible refine keeps_ite (fun _ => ?_) fun _ => ?_)
    | with_reducible exact h
    | with_reducible apply State.modPort_keeps
    | with_reducible apply State.discardArriving_keeps
    | split

theorem State.leaveActive_keeps {z : State} (s : State) (p st : Nat) (fatal : Bool) (h : Keeps True z s) : Keeps True z (State.leaveActive s p st fatal) := by
  unfold State.leaveActive
  repeat' first
    | (fail_if_no_progress extract_lets)
    | (with_reducible refine keeps_ite (fun _ => ?_) fun _ => ?_)
    | with_reducible exact h
    | with_reducible apply State.newState_keeps
    | with_reducible apply State.dropArrival_keeps
    | with_reducible apply State.portFlush_keeps
    | with_reducible apply State.linkFreeze_keeps
    | with_reducible apply State.modPort_keeps
    | with_reducible apply State.modCore_keeps
    | with_reducible apply State.parentLost_keeps
    | with_reducible apply State.groupLost_keeps

theorem State.restart_keeps {z : State} (s : State) (p st : Nat) (h : Keeps True z s) : Keeps True z (State.restart s p st) := by
  unfold State.restart
  repeat' first
    | (fail_if_no_progress extract_lets)
    | (with_reducible refine keeps_ite (fun _ => ?_) fun _ => ?_)
    | with_reducible exact h
    | with_reducible assumption
    | with_reducible apply State.leaveActive_keeps
    | with_reducible apply State.newState_keeps
    | with_reducible apply State.modPort_keeps
    | with_reducible apply State.set_keeps
    | with_reducible apply State.modLane_keeps
    | (with_reducible refine keeps_foldl _ _ ?_ ?_)
    | intro _ _ _

theorem State.enterDetect_keeps {z : State} (s : State) (p reason : Nat) (h : Keeps True z s) : Keeps True z (State.enterDetect s p reason) := by
  unfold State.enterDetect
  repeat' first
    | with_reducible exact h
    | with_reducible apply State.restart_keeps
    | with_reducible apply State.set_keeps

theorem State.fallback_keeps {tw : Prop} {z : State} (s : State) (p : Nat) (h : Keeps tw z s) : Keeps tw z (State.fallback s p) := by
  unfold State.fallback
  repeat' first
    | (with_reducible refine keeps_ite (fun _ => ?_) fun _ => ?_)
    | with_reducible exact h
    | with_reducible apply State.modPort_keeps

theorem State.trainFail_keeps {z : State} (s : State) (p reason : Nat) (h : Keeps True z s) : Keeps True z (State.trainFail s p reason) := by
  unfold State.trainFail
  repeat' first
    | (fail_if_no_progress extract_lets)
    | (with_reducible refine keeps_ite (fun _ => ?_) fun _ => ?_)
    | with_reducible exact h
    | with_reducible apply State.fallback_keeps
    | with_reducible apply State.cnt_keeps
    | with_reducible apply State.enterDetect_keeps
    | with_reducible apply State.modPort_keeps

theorem State.linkGoesDown_keeps {z : State} (s : State) (p reason : Nat) (h : Keeps True z s) : Keeps True z (State.linkGoesDown s p reason) := by
  unfold State.linkGoesDown
  repeat' first
    | with_reducible exact h
    | with_reducible assumption
    | with_reducible apply State.occur_keeps
    | with_reducible apply State.cnt_keeps
    | with_reducible apply State.enterDetect_keeps
    | intro _ _

theorem State.sendLcb_keeps {tw : Prop} {z : State} (s : State) (p ty v : Nat) (h : Keeps tw z s) : Keeps tw z (State.sendLcb s p ty v) := by
  unfold State.sendLcb
  repeat' first
    | with_reducible exact h
    | with_reducible apply State.wire_keeps

theorem State.sendRetrain_keeps {tw : Prop} {z : State} (s : State) (p reason : Nat) (h : Keeps tw z s) : Keeps tw z (State.sendRetrain s p reason) := by
  unfold State.sendRetrain
  repeat' first
    | (with_reducible refine keeps_ite (fun _ => ?_) fun _ => ?_)
    | with_reducible exact h
    | with_reducible apply State.sendLcb_keeps

theorem State.retrainLimit_keeps {z : State} (s : State) (p : Nat) (h : Keeps True z s) : Keeps True z (State.retrainLimit s p) := by
  unfold State.retrainLimit
  repeat' first
    | with_reducible exact h
    | with_reducible assumption
    | with_reducible apply State.occur_keeps
    | with_reducible apply State.sendRetrain_keeps
    | with_reducible apply State.cnt_keeps
    | with_reducible apply State.enterDetect_keeps
    | intro _ _

theorem State.disable_keeps {z : State} (s : State) (p : Nat) (h : Keeps True z s) : Keeps True z (State.disable s p) := by
  unfold State.disable
  repeat' first
    | (fail_if_no_progress extract_lets)
    | (with_reducible refine keeps_ite (fun _ => ?_) fun _ => ?_)
    | with_reducible exact h
    | with_reducible apply State.restart_keeps
    | with_reducible apply State.dropLink_keeps
    | with_reducible apply State.modPort_keeps
    | with_reducible apply State.wire_keeps

theorem State.column_keeps {tw : Prop} {z : State} (s : State) (p ty : Nat) (body : List Nat) (h : Keeps tw z s) : Keeps tw z (State.column s p ty body) := by
  unfold State.column
  repeat' first
    | with_reducible exact h
    | with_reducible apply State.wire_keeps

end Sys2Proof.Machine
end

