-- ==== Sys2Proof/Laws/KeepsLink.lean ====
section
/-! SUPPORT. Every operation of Machine/Link.lean keeps the queue, the canonical form of the memory, the count of free values
drawn and what has left the part (Keeps). -/
namespace Sys2Proof.Machine

open Sys2Proof

theorem State.sendNew_keeps {z : State} (s : State) (p : Nat) (y : StagePkt) (h : Keeps True z s) : Keeps True z (State.sendNew s p y) := by
  unfold State.sendNew
  repeat' first
    | (fail_if_no_progress extract_lets)
    | (with_reducible refine keeps_ite (fun _ => ?_) fun _ => ?_)
    | with_reducible exact h
    | with_reducible apply State.modPort_keeps
    | with_reducible apply State.set_keeps
    | with_reducible apply State.perf_keeps
    | with_reducible apply State.finishTx_keeps

theorem execLinkSendNew_keeps {z : State} (p : Fin 256) (s : State) (hs : Keeps True z s) {t0 : State}
    (e0 : execLinkSendNew p s = .next t0) : Keeps True z t0 := by
  unfold execLinkSendNew whenRunning at e0
  cases e0
  repeat' first
    | (with_reducible refine keeps_ite (fun _ => ?_) fun _ => ?_)
    | with_reducible exact hs
    | with_reducible apply State.set_keeps
    | with_reducible apply State.sendNew_keeps
    | (dsimp +zetaDelta only; split)

theorem State.startPass_keeps {z : State} (s : State) (p : Nat) (counts : Bool) (h : Keeps True z s) : Keeps True z (State.startPass s p counts) := by
  unfold State.startPass
  repeat' first
    | (fail_if_no_progress extract_lets)
    | (with_reducible refine keeps_ite (fun _ => ?_) fun _ => ?_)
    | with_reducible exact h
    | with_reducible apply State.modPort_keeps
    | with_reducible apply State.cnt_keeps
    | with_reducible apply State.perf_keeps
    | with_reducible apply State.retrainLimit_keeps
    | with_reducible apply State.set_keeps
    | with_reducible apply State.runPass_keeps

theorem State.ackUpTo_keeps {tw : Prop} {z : State} (s : State) (p seq : Nat) (h : Keeps tw z s) : Keeps tw z (State.ackUpTo s p seq) := by
  unfold State.ackUpTo
  repeat' first
    | (fail_if_no_progress extract_lets)
    | with_reducible exact h
    | with_reducible apply State.set_keeps
    | with_reducible apply State.modPort_keeps

theorem State.ackCredit_keeps {tw : Prop} {z : State} (s : State) (p : Nat) (lcb : BitVec 512) (h : Keeps tw z s) : Keeps tw z (State.ackCredit s p lcb) := by
  unfold State.ackCredit
  repeat' first
    | (fail_if_no_progress extract_lets)
    | (with_reducible refine keeps_ite (fun _ => ?_) fun _ => ?_)
    | with_reducible exact h
    | with_reducible assumption
    | with_reducible apply State.setPort_keeps
    | with_reducible apply State.cnt_keeps
    | (with_reducible refine keeps_foldl _ _ ?_ ?_)
    | intro _ _ _

theorem State.onAck_keeps {z : State} (s : State) (p : Nat) (lcb : BitVec 512) (h : Keeps True z s) : Keeps True z (State.onAck s p lcb) := by
  unfold State.onAck
  repeat' first
    | (fail_if_no_progress extract_lets)
    | (with_reducible refine keeps_ite (fun _ => ?_) fun _ => ?_)
    | with_reducible exact h
    | with_reducible apply State.ackUpTo_keeps
    | with_reducible apply State.cnt_keeps
    | with_reducible apply State.ackCredit_keeps
    | with_reducible apply State.modPort_keeps
    | with_reducible apply State.startPass_keeps

theorem execAckLcbReceive_keeps {z : State} (p : Fin 256) (lcb : BitVec 512) (s : State) (hs : Keeps True z s) {t0 : State}
    (e0 : execAckLcbReceive p lcb s = .next t0) : Keeps True z t0 := by
  unfold execAckLcbReceive whenRunning at e0
  cases e0
  repeat' first
    | (with_reducible refine keeps_ite (fun _ => ?_) fun _ => ?_)
    | with_reducible exact hs
    | with_reducible assumption
    | with_reducible apply State.onLcb_keeps
    | with_reducible apply State.onAck_keeps
    | intro _ _

theorem execReplayTimerExpire_keeps {z : State} (p : Fin 256) (s : State) (hs : Keeps True z s) {t0 : State}
    (e0 : execReplayTimerExpire p s = .next t0) : Keeps True z t0 := by
  unfold execReplayTimerExpire whenRunning at e0
  cases e0
  repeat' first
    | (with_reducible refine keeps_ite (fun _ => ?_) fun _ => ?_)
    | with_reducible exact hs
    | with_reducible apply State.cnt_keeps
    | with_reducible apply State.startPass_keeps

theorem State.sendAck_keeps {tw : Prop} {z : State} (s : State) (p : Nat) (h : Keeps tw z s) : Keeps tw z (State.sendAck s p) := by
  unfold State.sendAck
  repeat' first
    | with_reducible exact h
    | with_reducible apply State.sendLcb_keeps
    | with_reducible apply State.modPort_keeps

theorem State.nak_keeps {tw : Prop} {z : State} (s : State) (p ck : Nat) (h : Keeps tw z s) : Keeps tw z (State.nak s p ck) := by
  unfold State.nak
  repeat' first
    | (fail_if_no_progress extract_lets)
    | (with_reducible refine keeps_ite (fun _ => ?_) fun _ => ?_)
    | with_reducible exact h
    | with_reducible apply State.setPort_keeps
    | with_reducible apply State.set_keeps
    | with_reducible apply State.cnt_keeps
    | with_reducible apply State.sendAck_keeps

theorem State.badPacket_keeps {z : State} (s : State) (p ck : Nat) (h : Keeps True z s) : Keeps True z (State.badPacket s p ck) := by
  unfold State.badPacket
  repeat' first
    | with_reducible exact h
    | with_reducible apply State.dropArrival_keeps
    | with_reducible apply State.cnt_keeps
    | with_reducible apply State.nak_keeps

theorem State.allocate_keeps {tw : Prop} {z : State} (s : State) (p : Nat) (env : BitVec 64) (net tp : BitVec 256) (h : Keeps tw z s) : Keeps tw z (State.allocate s p env net tp) := by
  unfold State.allocate
  repeat' first
    | (fail_if_no_progress extract_lets)
    | with_reducible exact h
    | with_reducible apply State.modCore_keeps
    | with_reducible apply State.modPort_keeps

theorem State.onSop_keeps {tw : Prop} {z : State} (s : State) (p : Nat) (env : BitVec 64) (net tp : BitVec 256) (ck : Nat) (h : Keeps tw z s) : Keeps tw z (State.onSop s p env net tp ck) := by
  unfold State.onSop
  repeat' first
    | (fail_if_no_progress extract_lets)
    | (with_reducible refine keeps_ite (fun _ => ?_) fun _ => ?_)
    | with_reducible exact h
    | with_reducible apply State.modPort_keeps
    | with_reducible apply State.allocate_keeps
    | with_reducible apply State.cnt_keeps
    | with_reducible apply State.nak_keeps

theorem execLinkPacketSop_keeps {z : State} (p : Fin 256) (env : BitVec 64) (net tp : BitVec 256) (ck : Nat) (s : State) (hs : Keeps True z s) {t0 : State}
    (e0 : execLinkPacketSop p env net tp ck s = .next t0) : Keeps True z t0 := by
  unfold execLinkPacketSop whenRunning at e0
  cases e0
  repeat' first
    | (fail_if_no_progress extract_lets)
    | (with_reducible refine keeps_ite (fun _ => ?_) fun _ => ?_)
    | with_reducible exact hs
    | with_reducible apply State.badPacket_keeps
    | with_reducible apply State.onSop_keeps

theorem State.acceptPacket_keeps {z : State} (s : State) (p id : Nat) (payload : List Byte) (h : Keeps True z s) : Keeps True z (State.acceptPacket s p id payload) := by
  unfold State.acceptPacket
  repeat' first
    | (fail_if_no_progress extract_lets)
    | with_reducible exact h
    | with_reducible apply State.set_keeps
    | with_reducible apply State.modPort_keeps
    | with_reducible apply State.perf_keeps
    | with_reducible apply State.modPkt_keeps
    | with_reducible apply State.settlePkt_keeps
    | (dsimp +zetaDelta only; split)

theorem execLinkPacketEnd_keeps {z : State} (p : Fin 256) (payload : List Byte) (lcrc : BitVec 32) (interrupted : Bool) (ck : Nat) (s : State) (hs : Keeps True z s) {t0 : State}
    (e0 : execLinkPacketEnd p payload lcrc interrupted ck s = .next t0) : Keeps True z t0 := by
  unfold execLinkPacketEnd whenRunning at e0
  cases e0
  repeat' first
    | (with_reducible refine keeps_ite (fun _ => ?_) fun _ => ?_)
    | with_reducible exact hs
    | with_reducible apply State.cnt_keeps
    | with_reducible apply State.badPacket_keeps
    | with_reducible apply State.acceptPacket_keeps
    | with_reducible apply State.modPort_keeps
    | (dsimp +zetaDelta only; split)

theorem execAbortBlockReceive_keeps {z : State} (p : Fin 256) (s : State) (hs : Keeps True z s) {t0 : State}
    (e0 : execAbortBlockReceive p s = .next t0) : Keeps True z t0 := by
  unfold execAbortBlockReceive whenRunning at e0
  cases e0
  repeat' first
    | (with_reducible refine keeps_ite (fun _ => ?_) fun _ => ?_)
    | with_reducible exact hs
    | with_reducible apply State.dropArrival_keeps
    | with_reducible apply State.cnt_keeps

theorem execAckCoalesceExpire_keeps {tw : Prop} {z : State} (p : Fin 256) (s : State) (hs : Keeps tw z s) {t0 : State}
    (e0 : execAckCoalesceExpire p s = .next t0) : Keeps tw z t0 := by
  unfold execAckCoalesceExpire whenRunning at e0
  cases e0
  repeat' first
    | (with_reducible refine keeps_ite (fun _ => ?_) fun _ => ?_)
    | with_reducible exact hs
    | with_reducible apply State.sendAck_keeps

theorem State.linkTurnover_keeps {tw : Prop} {z : State} (s : State) (h : Keeps tw z s) : Keeps tw z (State.linkTurnover s) := by
  unfold State.linkTurnover
  repeat' first
    | (fail_if_no_progress extract_lets)
    | (with_reducible refine keeps_ite (fun _ => ?_) fun _ => ?_)
    | with_reducible exact h
    | with_reducible assumption
    | with_reducible apply State.modPort_keeps
    | with_reducible apply State.sendAck_keeps
    | (with_reducible refine keeps_foldl _ _ ?_ ?_)
    | intro _ _ _

theorem State.sendInit_keeps {tw : Prop} {z : State} (s : State) (p : Nat) (resume : Bool) (h : Keeps tw z s) : Keeps tw z (State.sendInit s p resume) := by
  unfold State.sendInit
  repeat' first
    | (fail_if_no_progress extract_lets)
    | with_reducible exact h
    | with_reducible apply State.sendLcb_keeps

theorem State.linkActivate_keeps {tw : Prop} {z : State} (s : State) (p : Nat) (h : Keeps tw z s) : Keeps tw z (State.linkActivate s p) := by
  unfold State.linkActivate
  repeat' first
    | (fail_if_no_progress extract_lets)
    | (with_reducible refine keeps_ite (fun _ => ?_) fun _ => ?_)
    | with_reducible exact h
    | with_reducible apply State.set_keeps
    | with_reducible apply State.modPort_keeps
    | with_reducible apply State.sendInit_keeps
    | with_reducible apply State.dropLink_keeps

theorem State.linkResume_keeps {z : State} (s : State) (p : Nat) (lcb : BitVec 512) (h : Keeps True z s) : Keeps True z (State.linkResume s p lcb) := by
  unfold State.linkResume
  repeat' first
    | (fail_if_no_progress extract_lets)
    | with_reducible exact h
    | with_reducible apply State.set_keeps
    | with_reducible apply State.modPort_keeps
    | with_reducible apply State.cnt_keeps
    | with_reducible apply State.startPass_keeps

theorem execInitLcbReceive_keeps {z : State} (p : Fin 256) (lcb : BitVec 512) (s : State) (hs : Keeps True z s) {t0 : State}
    (e0 : execInitLcbReceive p lcb s = .next t0) : Keeps True z t0 := by
  unfold execInitLcbReceive whenRunning at e0
  cases e0
  repeat' first
    | (fail_if_no_progress extract_lets)
    | (with_reducible refine keeps_ite (fun _ => ?_) fun _ => ?_)
    | with_reducible exact hs
    | with_reducible assumption
    | with_reducible apply State.onLcb_keeps
    | with_reducible apply State.modPort_keeps
    | with_reducible apply State.linkResume_keeps
    | with_reducible apply State.dropLink_keeps
    | intro _ _

theorem execFreshStartInitSend_keeps {tw : Prop} {z : State} (p : Fin 256) (s : State) (hs : Keeps tw z s) {t0 : State}
    (e0 : execFreshStartInitSend p s = .next t0) : Keeps tw z t0 := by
  unfold execFreshStartInitSend whenRunning at e0
  cases e0
  repeat' first
    | (fail_if_no_progress extract_lets)
    | (with_reducible refine keeps_ite (fun _ => ?_) fun _ => ?_)
    | with_reducible exact hs
    | with_reducible apply State.sendInit_keeps
    | with_reducible apply State.modPort_keeps
    | with_reducible apply State.set_keeps
    | with_reducible apply State.cnt_keeps

theorem execInitRepeat_keeps {tw : Prop} {z : State} (p : Fin 256) (s : State) (hs : Keeps tw z s) {t0 : State}
    (e0 : execInitRepeat p s = .next t0) : Keeps tw z t0 := by
  unfold execInitRepeat whenRunning at e0
  cases e0
  repeat' first
    | (with_reducible refine keeps_ite (fun _ => ?_) fun _ => ?_)
    | with_reducible exact hs
    | with_reducible apply State.sendInit_keeps

theorem execRetrainLcbReceive_keeps {z : State} (p : Fin 256) (lcb : BitVec 512) (s : State) (hs : Keeps True z s) {t0 : State}
    (e0 : execRetrainLcbReceive p lcb s = .next t0) : Keeps True z t0 := by
  unfold execRetrainLcbReceive whenRunning at e0
  cases e0
  repeat' first
    | (with_reducible refine keeps_ite (fun _ => ?_) fun _ => ?_)
    | with_reducible exact hs
    | with_reducible assumption
    | with_reducible apply State.onLcb_keeps
    | with_reducible apply State.enterDetect_keeps
    | with_reducible apply State.cnt_keeps
    | with_reducible apply State.raise_keeps
    | intro _ _

theorem execFatalLcbReceive_keeps {z : State} (p : Fin 256) (lcb : BitVec 512) (s : State) (hs : Keeps True z s) {t0 : State}
    (e0 : execFatalLcbReceive p lcb s = .next t0) : Keeps True z t0 := by
  unfold execFatalLcbReceive whenRunning at e0
  cases e0
  repeat' first
    | (fail_if_no_progress extract_lets)
    | (with_reducible refine keeps_ite (fun _ => ?_) fun _ => ?_)
    | with_reducible exact hs
    | with_reducible assumption
    | with_reducible apply State.onLcb_keeps
    | with_reducible apply State.occur_keeps
    | with_reducible apply State.leaveActive_keeps
    | with_reducible apply State.enterDetect_keeps
    | with_reducible apply State.set_keeps
    | intro _ _

theorem execLinkDown_keeps {z : State} (p : Fin 256) (s : State) (hs : Keeps True z s) {t0 : State}
    (e0 : execLinkDown p s = .next t0) : Keeps True z t0 := by
  unfold execLinkDown whenRunning at e0
  cases e0
  repeat' first
    | (with_reducible refine keeps_ite (fun _ => ?_) fun _ => ?_)
    | with_reducible exact hs
    | with_reducible apply State.linkGoesDown_keeps

theorem execResumeTimeout_keeps {tw : Prop} {z : State} (p : Fin 256) (s : State) (hs : Keeps tw z s) {t0 : State}
    (e0 : execResumeTimeout p s = .next t0) : Keeps tw z t0 := by
  unfold execResumeTimeout whenRunning at e0
  cases e0
  repeat' first
    | (with_reducible refine keeps_ite (fun _ => ?_) fun _ => ?_)
    | with_reducible exact hs
    | with_reducible apply State.dropLink_keeps

end Sys2Proof.Machine
end

