-- ==== Sys2Proof/Laws/KeepsLanes.lean ====
section
/-! SUPPORT. Every operation of Machine/Lanes.lean keeps the queue, the canonical form of the memory, the count of free values
drawn and what has left the part (Keeps). -/
namespace Sys2Proof.Machine

open Sys2Proof

theorem State.portCtrlWrite_keeps {z : State} (s : State) (p : Nat) (v : Word) (h : Keeps True z s) : Keeps True z (State.portCtrlWrite s p v) := by
  unfold State.portCtrlWrite
  repeat' first
    | (fail_if_no_progress extract_lets)
    | (with_reducible refine keeps_ite (fun _ => ?_) fun _ => ?_)
    | with_reducible exact h
    | with_reducible apply State.wr_keeps
    | with_reducible apply State.disable_keeps
    | with_reducible apply State.restart_keeps

theorem State.portCtrl_keeps {z : State} (s : State) (rq : Requester) (p : Nat) (v : Word) (h : Keeps True z s) : Keeps True z (State.portCtrl s rq p v) := by
  unfold State.portCtrl
  repeat' first
    | with_reducible exact h
    | with_reducible assumption
    | with_reducible apply State.writeAs_keeps
    | with_reducible apply State.portCtrlWrite_keeps
    | intro _ _

theorem execPortEnable_keeps {z : State} (rq : Requester) (p : Fin 256) (v : Word) (s : State) (hs : Keeps True z s) {t0 : State}
    (e0 : execPortEnable rq p v s = .next t0) : Keeps True z t0 := by
  unfold execPortEnable whenRunning at e0
  cases e0
  repeat' first
    | (with_reducible refine keeps_ite (fun _ => ?_) fun _ => ?_)
    | with_reducible exact hs
    | with_reducible apply State.portCtrl_keeps

theorem execPortDisable_keeps {z : State} (rq : Requester) (p : Fin 256) (v : Word) (s : State) (hs : Keeps True z s) {t0 : State}
    (e0 : execPortDisable rq p v s = .next t0) : Keeps True z t0 := by
  unfold execPortDisable whenRunning at e0
  cases e0
  repeat' first
    | (with_reducible refine keeps_ite (fun _ => ?_) fun _ => ?_)
    | with_reducible exact hs
    | with_reducible apply State.portCtrl_keeps

theorem State.drainStart_keeps {tw : Prop} {z : State} (s : State) (p : Nat) (h : Keeps tw z s) : Keeps tw z (State.drainStart s p) := by
  unfold State.drainStart
  repeat' first
    | (fail_if_no_progress extract_lets)
    | with_reducible exact h
    | with_reducible apply State.modPort_keeps
    | with_reducible apply State.column_keeps

theorem State.restoreStart_keeps {tw : Prop} {z : State} (s : State) (p : Nat) (h : Keeps tw z s) : Keeps tw z (State.restoreStart s p) := by
  unfold State.restoreStart
  repeat' first
    | (fail_if_no_progress extract_lets)
    | with_reducible exact h
    | with_reducible apply State.modPort_keeps
    | with_reducible apply State.column_keeps

theorem State.retrainCmd_keeps {z : State} (s : State) (p : Nat) (h : Keeps True z s) : Keeps True z (State.retrainCmd s p) := by
  unfold State.retrainCmd
  repeat' first
    | (fail_if_no_progress extract_lets)
    | (with_reducible refine keeps_ite (fun _ => ?_) fun _ => ?_)
    | with_reducible exact h
    | with_reducible apply State.sendRetrain_keeps
    | with_reducible apply State.cnt_keeps
    | with_reducible apply State.enterDetect_keeps
    | with_reducible apply State.modPort_keeps
    | with_reducible apply State.raise_keeps

theorem State.testStart_keeps {z : State} (s : State) (p : Nat) (h : Keeps True z s) : Keeps True z (State.testStart s p) := by
  unfold State.testStart
  repeat' first
    | (fail_if_no_progress extract_lets)
    | (with_reducible refine keeps_ite (fun _ => ?_) fun _ => ?_)
    | with_reducible exact h
    | with_reducible assumption
    | with_reducible apply State.column_keeps
    | with_reducible apply State.restart_keeps
    | with_reducible apply State.set_keeps
    | (with_reducible refine keeps_foldl _ _ ?_ ?_)
    | intro _ _ _

theorem State.portCmdWrite_keeps {z : State} (s : State) (p : Nat) (v : Word) (h : Keeps True z s) : Keeps True z (State.portCmdWrite s p v) := by
  unfold State.portCmdWrite
  repeat' first
    | (with_reducible refine keeps_ite (fun _ => ?_) fun _ => ?_)
    | with_reducible exact h
    | with_reducible apply State.drainStart_keeps
    | with_reducible apply State.restoreStart_keeps
    | with_reducible apply State.retrainCmd_keeps
    | with_reducible apply State.testStart_keeps

theorem State.portCmd_keeps {z : State} (s : State) (rq : Requester) (p : Nat) (v : Word) (h : Keeps True z s) : Keeps True z (State.portCmd s rq p v) := by
  unfold State.portCmd
  repeat' first
    | with_reducible exact h
    | with_reducible assumption
    | with_reducible apply State.writeAs_keeps
    | with_reducible apply State.portCmdWrite_keeps
    | intro _ _

theorem execPortDrain_keeps {z : State} (rq : Requester) (p : Fin 256) (force : Bool) (s : State) (hs : Keeps True z s) {t0 : State}
    (e0 : execPortDrain rq p force s = .next t0) : Keeps True z t0 := by
  unfold execPortDrain whenRunning at e0
  cases e0
  repeat' first
    | (with_reducible refine keeps_ite (fun _ => ?_) fun _ => ?_)
    | with_reducible exact hs
    | with_reducible apply State.portCmd_keeps

theorem execPortRestore_keeps {z : State} (rq : Requester) (p : Fin 256) (s : State) (hs : Keeps True z s) {t0 : State}
    (e0 : execPortRestore rq p s = .next t0) : Keeps True z t0 := by
  unfold execPortRestore whenRunning at e0
  cases e0
  repeat' first
    | (with_reducible refine keeps_ite (fun _ => ?_) fun _ => ?_)
    | with_reducible exact hs
    | with_reducible apply State.portCmd_keeps

theorem execPortRetrain_keeps {z : State} (rq : Requester) (p : Fin 256) (s : State) (hs : Keeps True z s) {t0 : State}
    (e0 : execPortRetrain rq p s = .next t0) : Keeps True z t0 := by
  unfold execPortRetrain whenRunning at e0
  cases e0
  repeat' first
    | (with_reducible refine keeps_ite (fun _ => ?_) fun _ => ?_)
    | with_reducible exact hs
    | with_reducible apply State.portCmd_keeps

theorem execPortTest_keeps {z : State} (rq : Requester) (p : Fin 256) (s : State) (hs : Keeps True z s) {t0 : State}
    (e0 : execPortTest rq p s = .next t0) : Keeps True z t0 := by
  unfold execPortTest whenRunning at e0
  cases e0
  repeat' first
    | (with_reducible refine keeps_ite (fun _ => ?_) fun _ => ?_)
    | with_reducible exact hs
    | with_reducible apply State.portCmd_keeps

theorem State.sendCap_keeps {tw : Prop} {z : State} (s : State) (p l : Nat) (noCommon : Bool) (h : Keeps tw z s) : Keeps tw z (State.sendCap s p l noCommon) := by
  unfold State.sendCap
  repeat' first
    | (fail_if_no_progress extract_lets)
    | with_reducible exact h
    | with_reducible apply State.wire_keeps

theorem State.sendCaps_keeps {tw : Prop} {z : State} (s : State) (p : Nat) (noCommon : Bool) (h : Keeps tw z s) : Keeps tw z (State.sendCaps s p noCommon) := by
  unfold State.sendCaps
  repeat' first
    | with_reducible exact h
    | with_reducible assumption
    | with_reducible apply State.sendCap_keeps
    | (with_reducible refine keeps_foldl _ _ ?_ ?_)
    | intro _ _ _

theorem State.detectExit_keeps {tw : Prop} {z : State} (s : State) (p : Nat) (h : Keeps tw z s) : Keeps tw z (State.detectExit s p) := by
  unfold State.detectExit
  repeat' first
    | (with_reducible refine keeps_ite (fun _ => ?_) fun _ => ?_)
    | with_reducible exact h
    | with_reducible apply State.newState_keeps
    | with_reducible apply State.sendCaps_keeps

theorem execCommaLockGain_keeps {z : State} (l : Fin 1024) (inverted : Bool) (s : State) (hs : Keeps True z s) {t0 : State}
    (e0 : execCommaLockGain l inverted s = .next t0) : Keeps True z t0 := by
  unfold execCommaLockGain whenRunning at e0
  cases e0
  repeat' first
    | (fail_if_no_progress extract_lets)
    | (with_reducible refine keeps_ite (fun _ => ?_) fun _ => ?_)
    | with_reducible exact hs
    | with_reducible apply State.restart_keeps
    | with_reducible apply State.set_keeps
    | with_reducible apply State.detectExit_keeps

theorem execCommaLockLoss_keeps {tw : Prop} {z : State} (l : Fin 1024) (s : State) (hs : Keeps tw z s) {t0 : State}
    (e0 : execCommaLockLoss l s = .next t0) : Keeps tw z t0 := by
  unfold execCommaLockLoss whenRunning at e0
  cases e0
  repeat' first
    | (with_reducible refine keeps_ite (fun _ => ?_) fun _ => ?_)
    | with_reducible exact hs
    | with_reducible apply State.set_keeps

theorem execHoldOffExpire_keeps {tw : Prop} {z : State} (p : Fin 256) (s : State) (hs : Keeps tw z s) {t0 : State}
    (e0 : execHoldOffExpire p s = .next t0) : Keeps tw z t0 := by
  unfold execHoldOffExpire whenRunning at e0
  cases e0
  repeat' first
    | (with_reducible refine keeps_ite (fun _ => ?_) fun _ => ?_)
    | with_reducible exact hs
    | with_reducible apply State.modPort_keeps
    | with_reducible apply State.detectExit_keeps

theorem execNegTimeout_keeps {z : State} (p : Fin 256) (s : State) (hs : Keeps True z s) {t0 : State}
    (e0 : execNegTimeout p s = .next t0) : Keeps True z t0 := by
  unfold execNegTimeout whenRunning at e0
  cases e0
  repeat' first
    | (with_reducible refine keeps_ite (fun _ => ?_) fun _ => ?_)
    | with_reducible exact hs
    | with_reducible apply State.trainFail_keeps

theorem State.setCoef_keeps {tw : Prop} {z : State} (s : State) (l : Nat) (c : Int × Int × Int) (h : Keeps tw z s) : Keeps tw z (State.setCoef s l c) := by
  unfold State.setCoef
  repeat' first
    | (fail_if_no_progress extract_lets)
    | with_reducible exact h
    | with_reducible apply State.set_keeps

theorem State.applyMode_keeps {tw : Prop} {z : State} (s : State) (p : Nat) (cap : BitVec 224) (m : PortMode) (h : Keeps tw z s) : Keeps tw z (State.applyMode s p cap m) := by
  unfold State.applyMode
  repeat' first
    | (fail_if_no_progress extract_lets)
    | with_reducible exact h
    | with_reducible assumption
    | with_reducible apply State.newState_keeps
    | with_reducible apply State.set_keeps
    | with_reducible apply State.fabricUpdate_keeps
    | with_reducible apply State.modPort_keeps
    | with_reducible apply State.setCoef_keeps
    | with_reducible apply State.wire_keeps
    | (with_reducible refine keeps_foldl _ _ ?_ ?_)
    | intro _ _ _

theorem State.capTake_keeps {z : State} (s : State) (p l : Nat) (cap : BitVec 224) (sent : Nat) (h : Keeps True z s) : Keeps True z (State.capTake s p l cap sent) := by
  unfold State.capTake
  repeat' first
    | (fail_if_no_progress extract_lets)
    | (with_reducible refine keeps_ite (fun _ => ?_) fun _ => ?_)
    | with_reducible exact h
    | with_reducible apply State.set_keeps
    | with_reducible apply State.modLane_keeps
    | with_reducible apply State.modPort_keeps
    | with_reducible apply State.trainFail_keeps
    | with_reducible apply State.applyMode_keeps
    | with_reducible apply State.sendCaps_keeps
    | with_reducible apply State.sendCap_keeps
    | split

theorem execCapSetReceive_keeps {z : State} (l : Fin 1024) (cap : BitVec 224) (crc : BitVec 16) (sent : Nat) (s : State) (hs : Keeps True z s) {t0 : State}
    (e0 : execCapSetReceive l cap crc sent s = .next t0) : Keeps True z t0 := by
  unfold execCapSetReceive whenRunning at e0
  cases e0
  repeat' first
    | (with_reducible refine keeps_ite (fun _ => ?_) fun _ => ?_)
    | with_reducible exact hs
    | with_reducible apply State.capTake_keeps

theorem State.answerReqs_keeps {tw : Prop} {z : State} (s : State) (l word : Nat) (h : Keeps tw z s) : Keeps tw z (State.answerReqs s l word).1 := by
  unfold State.answerReqs
  repeat' first
    | (fail_if_no_progress extract_lets)
    | with_reducible exact h
    | with_reducible apply State.setCoef_keeps
    | with_reducible apply State.modLane_keeps

theorem State.answerPreset_keeps {tw : Prop} {z : State} (s : State) (l k : Nat) (h : Keeps tw z s) : Keeps tw z (State.answerPreset s l k).1 := by
  unfold State.answerPreset
  repeat' first
    | with_reducible exact h
    | with_reducible apply State.setCoef_keeps
    | with_reducible apply State.modLane_keeps
    | (with_reducible refine keeps_itep (fun _ => ?_) fun _ => ?_)

theorem State.enterAlign_keeps {tw : Prop} {z : State} (s : State) (p : Nat) (h : Keeps tw z s) : Keeps tw z (State.enterAlign s p) := by
  unfold State.enterAlign
  repeat' first
    | with_reducible exact h
    | with_reducible apply State.newState_keeps
    | with_reducible apply State.setLanes_keeps

theorem State.frameTake_keeps {tw : Prop} {z : State} (s : State) (p l : Nat) (ctl : BitVec 32) (converged : Bool) (req : Nat) (h : Keeps tw z s) : Keeps tw z (State.frameTake s p l ctl converged req) := by
  unfold State.frameTake
  repeat' first
    | (fail_if_no_progress extract_lets)
    | (with_reducible refine keeps_ite (fun _ => ?_) fun _ => ?_)
    | with_reducible assumption
    | with_reducible apply State.answerPreset_keeps
    | with_reducible apply State.answerReqs_keeps
    | with_reducible apply State.modLane_keeps
    | with_reducible apply State.wire_keeps
    | with_reducible apply State.enterAlign_keeps
    | (with_reducible refine keeps_foldl _ _ ?_ ?_)
    | (intro _ _ h)
    | (dsimp +zetaDelta only; split)

theorem execTrainingFrameReceive_keeps {tw : Prop} {z : State} (l : Fin 1024) (ctl : BitVec 32) (converged : Bool) (req : BitVec 6) (s : State) (hs : Keeps tw z s) {t0 : State}
    (e0 : execTrainingFrameReceive l ctl converged req s = .next t0) : Keeps tw z t0 := by
  unfold execTrainingFrameReceive whenRunning at e0
  cases e0
  repeat' first
    | (with_reducible refine keeps_ite (fun _ => ?_) fun _ => ?_)
    | with_reducible exact hs
    | with_reducible apply State.frameTake_keeps

theorem execEqTimeout_keeps {z : State} (p : Fin 256) (s : State) (hs : Keeps True z s) {t0 : State}
    (e0 : execEqTimeout p s = .next t0) : Keeps True z t0 := by
  unfold execEqTimeout whenRunning at e0
  cases e0
  repeat' first
    | (with_reducible refine keeps_ite (fun _ => ?_) fun _ => ?_)
    | with_reducible exact hs
    | with_reducible apply State.trainFail_keeps

theorem execAlignComplete_keeps {tw : Prop} {z : State} (p : Fin 256) (s : State) (hs : Keeps tw z s) {t0 : State}
    (e0 : execAlignComplete p s = .next t0) : Keeps tw z t0 := by
  unfold execAlignComplete whenRunning at e0
  cases e0
  repeat' first
    | (fail_if_no_progress extract_lets)
    | (with_reducible refine keeps_ite (fun _ => ?_) fun _ => ?_)
    | with_reducible exact hs
    | with_reducible apply State.newState_keeps
    | with_reducible apply State.setLanes_keeps
    | with_reducible apply State.modPort_keeps
    | with_reducible apply State.column_keeps

theorem execAlignTimeout_keeps {z : State} (p : Fin 256) (s : State) (hs : Keeps True z s) {t0 : State}
    (e0 : execAlignTimeout p s = .next t0) : Keeps True z t0 := by
  unfold execAlignTimeout whenRunning at e0
  cases e0
  repeat' first
    | (with_reducible refine keeps_ite (fun _ => ?_) fun _ => ?_)
    | with_reducible exact hs
    | with_reducible apply State.trainFail_keeps

theorem State.verifyStatus_keeps {tw : Prop} {z : State} (s : State) (p : Nat) (fail : Bool) (h : Keeps tw z s) : Keeps tw z (State.verifyStatus s p fail) := by
  unfold State.verifyStatus
  repeat' first
    | (fail_if_no_progress extract_lets)
    | with_reducible exact h
    | with_reducible apply State.column_keeps

theorem execVerifyEvaluate_keeps {z : State} (p : Fin 256) (ratio : Nat) (uncorrectable prbsError : Bool) (s : State) (hs : Keeps True z s) {t0 : State}
    (e0 : execVerifyEvaluate p ratio uncorrectable prbsError s = .next t0) : Keeps True z t0 := by
  unfold execVerifyEvaluate whenRunning at e0
  cases e0
  repeat' first
    | (with_reducible refine keeps_ite (fun _ => ?_) fun _ => ?_)
    | with_reducible exact hs
    | with_reducible apply State.modPort_keeps
    | with_reducible apply State.verifyStatus_keeps
    | with_reducible apply State.trainFail_keeps

theorem execVerifyStatusReceive_keeps {z : State} (p : Fin 256) (st : BitVec 8) (s : State) (hs : Keeps True z s) {t0 : State}
    (e0 : execVerifyStatusReceive p st s = .next t0) : Keeps True z t0 := by
  unfold execVerifyStatusReceive whenRunning at e0
  cases e0
  repeat' first
    | (with_reducible refine keeps_ite (fun _ => ?_) fun _ => ?_)
    | with_reducible exact hs
    | with_reducible apply State.trainFail_keeps
    | with_reducible apply State.modPort_keeps
    | with_reducible apply State.verifyStatus_keeps

theorem execVerifyTimeout_keeps {z : State} (p : Fin 256) (s : State) (hs : Keeps True z s) {t0 : State}
    (e0 : execVerifyTimeout p s = .next t0) : Keeps True z t0 := by
  unfold execVerifyTimeout whenRunning at e0
  cases e0
  repeat' first
    | (with_reducible refine keeps_ite (fun _ => ?_) fun _ => ?_)
    | with_reducible exact hs
    | with_reducible apply State.trainFail_keeps

theorem State.miswireCheck_keeps {z : State} (s : State) (p : Nat) (h : Keeps True z s) : Keeps True z (State.miswireCheck s p) := by
  unfold State.miswireCheck
  repeat' first
    | (with_reducible refine keeps_ite (fun _ => ?_) fun _ => ?_)
    | with_reducible exact h
    | with_reducible apply State.set_keeps
    | with_reducible apply State.raise_keeps
    | with_reducible apply State.occur_keeps
    | with_reducible apply keeps_id

theorem State.calStart_keeps {tw : Prop} {z : State} (s : State) (l : Nat) (h : Keeps tw z s) : Keeps tw z (State.calStart s l) := by
  unfold State.calStart
  repeat' first
    | (with_reducible refine keeps_ite (fun _ => ?_) fun _ => ?_)
    | with_reducible exact h
    | with_reducible apply State.set_keeps
    | with_reducible apply State.modLane_keeps

theorem State.enterActive_keeps {z : State} (s : State) (p : Nat) (h : Keeps True z s) : Keeps True z (State.enterActive s p) := by
  unfold State.enterActive
  repeat' first
    | (fail_if_no_progress extract_lets)
    | with_reducible exact h
    | with_reducible apply State.set_keeps
    | with_reducible apply State.modCore_keeps
    | with_reducible apply State.newState_keeps
    | with_reducible apply State.miswireCheck_keeps
    | with_reducible apply State.groupsUpdate_keeps
    | with_reducible apply State.calStart_keeps
    | with_reducible apply State.linkActivate_keeps
    | (with_reducible refine keeps_foldl _ _ ?_ ?_)

theorem execPortActiveEntry_keeps {z : State} (p : Fin 256) (rx : Bool) (s : State) (hs : Keeps True z s) {t0 : State}
    (e0 : execPortActiveEntry p rx s = .next t0) : Keeps True z t0 := by
  unfold execPortActiveEntry whenRunning at e0
  cases e0
  repeat' first
    | (fail_if_no_progress extract_lets)
    | (with_reducible refine keeps_ite (fun _ => ?_) fun _ => ?_)
    | with_reducible exact hs
    | with_reducible apply State.modPort_keeps
    | with_reducible apply State.enterActive_keeps

theorem State.widthColumn_keeps {tw : Prop} {z : State} (s : State) (p op reason set seq am pos : Nat) (h : Keeps tw z s) : Keeps tw z (State.widthColumn s p op reason set seq am pos) := by
  unfold State.widthColumn
  repeat' first
    | with_reducible exact h
    | with_reducible apply State.column_keeps

theorem State.widthRequest_keeps {tw : Prop} {z : State} (s : State) (p kind set : Nat) (h : Keeps tw z s) : Keeps tw z (State.widthRequest s p kind set) := by
  unfold State.widthRequest
  repeat' first
    | (fail_if_no_progress extract_lets)
    | with_reducible exact h
    | with_reducible apply State.modPort_keeps
    | with_reducible apply State.widthColumn_keeps

theorem State.degradeFail_keeps {tw : Prop} {z : State} (s : State) (p : Nat) (h : Keeps tw z s) : Keeps tw z (State.degradeFail s p) := by
  unfold State.degradeFail
  repeat' first
    | with_reducible exact h
    | with_reducible apply State.cnt_keeps
    | with_reducible apply State.set_keeps
    | with_reducible apply State.modPort_keeps

theorem State.degradeStart_keeps {tw : Prop} {z : State} (s : State) (p : Nat) (h : Keeps tw z s) : Keeps tw z (State.degradeStart s p) := by
  unfold State.degradeStart
  repeat' first
    | (fail_if_no_progress extract_lets)
    | (with_reducible refine keeps_ite (fun _ => ?_) fun _ => ?_)
    | with_reducible exact h
    | with_reducible apply State.widthRequest_keeps
    | with_reducible apply State.degradeFail_keeps

theorem State.widthCommit_keeps {tw : Prop} {z : State} (s : State) (p : Nat) (w : WidthCh) (h : Keeps tw z s) : Keeps tw z (State.widthCommit s p w) := by
  unfold State.widthCommit
  repeat' first
    | (fail_if_no_progress extract_lets)
    | with_reducible exact h
    | with_reducible apply State.drawNat_keeps
    | with_reducible apply State.modPort_keeps
    | with_reducible apply State.widthColumn_keeps

theorem execWidthReqReceive_keeps {tw : Prop} {z : State} (p : Fin 256) (m : WidthMsg) (s : State) (hs : Keeps tw z s) {t0 : State}
    (e0 : execWidthReqReceive p m s = .next t0) : Keeps tw z t0 := by
  unfold execWidthReqReceive whenRunning at e0
  cases e0
  repeat' first
    | (fail_if_no_progress extract_lets)
    | (with_reducible refine keeps_ite (fun _ => ?_) fun _ => ?_)
    | with_reducible exact hs
    | with_reducible apply State.modPort_keeps
    | with_reducible apply State.widthCommit_keeps
    | with_reducible apply State.degradeFail_keeps

theorem State.commitTake_keeps {tw : Prop} {z : State} (s : State) (p : Nat) (m : WidthMsg) (w : WidthCh) (h : Keeps tw z s) : Keeps tw z (State.commitTake s p m w) := by
  unfold State.commitTake
  repeat' first
    | (fail_if_no_progress extract_lets)
    | (with_reducible refine keeps_ite (fun _ => ?_) fun _ => ?_)
    | with_reducible exact h
    | with_reducible apply State.modPort_keeps
    | with_reducible apply State.widthCommit_keeps

theorem execWidthCommitReceive_keeps {tw : Prop} {z : State} (p : Fin 256) (m : WidthMsg) (s : State) (hs : Keeps tw z s) {t0 : State}
    (e0 : execWidthCommitReceive p m s = .next t0) : Keeps tw z t0 := by
  unfold execWidthCommitReceive whenRunning at e0
  cases e0
  repeat' first
    | (with_reducible refine keeps_ite (fun _ => ?_) fun _ => ?_)
    | with_reducible exact hs
    | with_reducible apply State.commitTake_keeps
    | (dsimp +zetaDelta only; split)

theorem execWidthWidenReceive_keeps {tw : Prop} {z : State} (p : Fin 256) (m : WidthMsg) (s : State) (hs : Keeps tw z s) {t0 : State}
    (e0 : execWidthWidenReceive p m s = .next t0) : Keeps tw z t0 := by
  unfold execWidthWidenReceive whenRunning at e0
  cases e0
  repeat' first
    | (fail_if_no_progress extract_lets)
    | (with_reducible refine keeps_ite (fun _ => ?_) fun _ => ?_)
    | with_reducible exact hs
    | with_reducible apply State.modPort_keeps
    | with_reducible apply State.setLanes_keeps

theorem State.widenCommit_keeps {tw : Prop} {z : State} (s : State) (p : Nat) (h : Keeps tw z s) : Keeps tw z (State.widenCommit s p) := by
  unfold State.widenCommit
  repeat' first
    | (with_reducible refine keeps_ite (fun _ => ?_) fun _ => ?_)
    | with_reducible exact h
    | with_reducible apply State.widthCommit_keeps
    | split

theorem State.widenReady_keeps {tw : Prop} {z : State} (s : State) (p : Nat) (h : Keeps tw z s) : Keeps tw z (State.widenReady s p) := by
  unfold State.widenReady
  repeat' first
    | (fail_if_no_progress extract_lets)
    | (with_reducible refine keeps_ite (fun _ => ?_) fun _ => ?_)
    | with_reducible exact h
    | with_reducible apply State.modPort_keeps
    | with_reducible apply State.widthColumn_keeps
    | with_reducible apply State.widenCommit_keeps
    | split

theorem execWidthReadyReceive_keeps {tw : Prop} {z : State} (p : Fin 256) (m : WidthMsg) (s : State) (hs : Keeps tw z s) {t0 : State}
    (e0 : execWidthReadyReceive p m s = .next t0) : Keeps tw z t0 := by
  unfold execWidthReadyReceive whenRunning at e0
  cases e0
  repeat' first
    | (with_reducible refine keeps_ite (fun _ => ?_) fun _ => ?_)
    | with_reducible exact hs
    | with_reducible apply State.modPort_keeps
    | with_reducible apply State.widenCommit_keeps
    | (dsimp +zetaDelta only; split)

theorem State.widthDone_keeps {z : State} (s : State) (p : Nat) (w : WidthCh) (h : Keeps True z s) : Keeps True z (State.widthDone s p w) := by
  unfold State.widthDone
  repeat' first
    | (fail_if_no_progress extract_lets)
    | (with_reducible refine keeps_ite (fun _ => ?_) fun _ => ?_)
    | with_reducible exact h
    | with_reducible apply State.set_keeps
    | with_reducible apply State.modPort_keeps
    | with_reducible apply State.setLanes_keeps
    | with_reducible apply State.cnt_keeps
    | with_reducible apply State.fabricUpdate_keeps
    | with_reducible apply State.portNotice_keeps
    | split
    | (dsimp +zetaDelta only; split)

theorem execWidthSwitch_keeps {z : State} (p : Fin 256) (rx : Bool) (s : State) (hs : Keeps True z s) {t0 : State}
    (e0 : execWidthSwitch p rx s = .next t0) : Keeps True z t0 := by
  unfold execWidthSwitch whenRunning at e0
  cases e0
  repeat' first
    | (with_reducible refine keeps_ite (fun _ => ?_) fun _ => ?_)
    | with_reducible exact hs
    | with_reducible apply State.wire_keeps
    | with_reducible apply State.widthDone_keeps
    | with_reducible apply State.modPort_keeps
    | (dsimp +zetaDelta only; split)

theorem execDegradeTimeout_keeps {z : State} (p : Fin 256) (downTimePassed : Bool) (s : State) (hs : Keeps True z s) {t0 : State}
    (e0 : execDegradeTimeout p downTimePassed s = .next t0) : Keeps True z t0 := by
  unfold execDegradeTimeout whenRunning at e0
  cases e0
  repeat' first
    | (with_reducible refine keeps_ite (fun _ => ?_) fun _ => ?_)
    | with_reducible exact hs
    | with_reducible apply State.degradeFail_keeps
    | with_reducible apply State.linkGoesDown_keeps
    | split
    | (dsimp +zetaDelta only; split)

theorem execWidenTimeout_keeps {tw : Prop} {z : State} (p : Fin 256) (s : State) (hs : Keeps tw z s) {t0 : State}
    (e0 : execWidenTimeout p s = .next t0) : Keeps tw z t0 := by
  unfold execWidenTimeout whenRunning at e0
  cases e0
  repeat' first
    | (with_reducible refine keeps_ite (fun _ => ?_) fun _ => ?_)
    | with_reducible exact hs
    | with_reducible apply State.modPort_keeps
    | with_reducible apply State.setLanes_keeps
    | (dsimp +zetaDelta only; split)

theorem State.laneFault_keeps {tw : Prop} {z : State} (s : State) (p : Nat) (h : Keeps tw z s) : Keeps tw z (State.laneFault s p) := by
  unfold State.laneFault
  repeat' first
    | (with_reducible refine keeps_ite (fun _ => ?_) fun _ => ?_)
    | with_reducible exact h
    | with_reducible apply State.degradeStart_keeps

theorem State.blockLost_keeps {z : State} (s : State) (l : Nat) (h : Keeps True z s) : Keeps True z (State.blockLost s l) := by
  unfold State.blockLost
  repeat' first
    | (fail_if_no_progress extract_lets)
    | (with_reducible refine keeps_ite (fun _ => ?_) fun _ => ?_)
    | with_reducible exact h
    | with_reducible assumption
    | with_reducible apply State.set_keeps
    | with_reducible apply State.cntF_keeps
    | with_reducible apply State.modPort_keeps
    | with_reducible apply State.occur_keeps
    | with_reducible apply State.laneFault_keeps
    | with_reducible apply State.raise_keeps
    | intro _ _

theorem execLosAssert_keeps {z : State} (l : Fin 1024) (s : State) (hs : Keeps True z s) {t0 : State}
    (e0 : execLosAssert l s = .next t0) : Keeps True z t0 := by
  unfold execLosAssert whenRunning at e0
  cases e0
  repeat' first
    | (fail_if_no_progress extract_lets)
    | (with_reducible refine keeps_ite (fun _ => ?_) fun _ => ?_)
    | with_reducible exact hs
    | with_reducible apply State.set_keeps
    | with_reducible apply State.cntF_keeps
    | with_reducible apply State.raise_keeps
    | with_reducible apply State.blockLost_keeps

theorem execLosClear_keeps {tw : Prop} {z : State} (l : Fin 1024) (s : State) (hs : Keeps tw z s) {t0 : State}
    (e0 : execLosClear l s = .next t0) : Keeps tw z t0 := by
  unfold execLosClear whenRunning at e0
  cases e0
  repeat' first
    | (with_reducible refine keeps_ite (fun _ => ?_) fun _ => ?_)
    | with_reducible exact hs
    | with_reducible apply State.set_keeps

theorem State.cdrLost_keeps {z : State} (s : State) (l : Nat) (h : Keeps True z s) : Keeps True z (State.cdrLost s l) := by
  unfold State.cdrLost
  repeat' first
    | (fail_if_no_progress extract_lets)
    | (with_reducible refine keeps_ite (fun _ => ?_) fun _ => ?_)
    | with_reducible exact h
    | with_reducible apply State.set_keeps
    | with_reducible apply State.cntF_keeps
    | with_reducible apply State.raise_keeps
    | with_reducible apply State.modPort_keeps
    | with_reducible apply State.blockLost_keeps

theorem execCdrLockLoss_keeps {z : State} (l : Fin 1024) (s : State) (hs : Keeps True z s) {t0 : State}
    (e0 : execCdrLockLoss l s = .next t0) : Keeps True z t0 := by
  unfold execCdrLockLoss whenRunning at e0
  cases e0
  repeat' first
    | (with_reducible refine keeps_ite (fun _ => ?_) fun _ => ?_)
    | with_reducible exact hs
    | with_reducible apply State.cdrLost_keeps

theorem execCdrLockGain_keeps {tw : Prop} {z : State} (l : Fin 1024) (s : State) (hs : Keeps tw z s) {t0 : State}
    (e0 : execCdrLockGain l s = .next t0) : Keeps tw z t0 := by
  unfold execCdrLockGain whenRunning at e0
  cases e0
  repeat' first
    | (with_reducible refine keeps_ite (fun _ => ?_) fun _ => ?_)
    | with_reducible exact hs
    | with_reducible apply State.set_keeps

theorem execCodewordLockLoss_keeps {z : State} (l : Fin 1024) (s : State) (hs : Keeps True z s) {t0 : State}
    (e0 : execCodewordLockLoss l s = .next t0) : Keeps True z t0 := by
  unfold execCodewordLockLoss whenRunning at e0
  cases e0
  repeat' first
    | (fail_if_no_progress extract_lets)
    | (with_reducible refine keeps_ite (fun _ => ?_) fun _ => ?_)
    | with_reducible exact hs
    | with_reducible apply State.set_keeps
    | with_reducible apply State.modPort_keeps
    | with_reducible apply State.blockLost_keeps

theorem execBlockLockGain_keeps {tw : Prop} {z : State} (l : Fin 1024) (s : State) (hs : Keeps tw z s) {t0 : State}
    (e0 : execBlockLockGain l s = .next t0) : Keeps tw z t0 := by
  unfold execBlockLockGain whenRunning at e0
  cases e0
  repeat' first
    | (fail_if_no_progress extract_lets)
    | (with_reducible refine keeps_ite (fun _ => ?_) fun _ => ?_)
    | with_reducible exact hs
    | with_reducible apply State.set_keeps
    | with_reducible apply State.widenReady_keeps

theorem execBlockLockLoss_keeps {z : State} (l : Fin 1024) (s : State) (hs : Keeps True z s) {t0 : State}
    (e0 : execBlockLockLoss l s = .next t0) : Keeps True z t0 := by
  unfold execBlockLockLoss whenRunning at e0
  cases e0
  repeat' first
    | (with_reducible refine keeps_ite (fun _ => ?_) fun _ => ?_)
    | with_reducible exact hs
    | with_reducible apply State.blockLost_keeps

theorem execDeskewError_keeps {z : State} (l : Fin 1024) (s : State) (hs : Keeps True z s) {t0 : State}
    (e0 : execDeskewError l s = .next t0) : Keeps True z t0 := by
  unfold execDeskewError whenRunning at e0
  cases e0
  repeat' first
    | (with_reducible refine keeps_ite (fun _ => ?_) fun _ => ?_)
    | with_reducible exact hs
    | with_reducible apply State.trainFail_keeps
    | with_reducible apply State.blockLost_keeps

theorem State.setDrained_keeps {z : State} (s : State) (p : Nat) (h : Keeps True z s) : Keeps True z (State.setDrained s p) := by
  unfold State.setDrained
  repeat' first
    | (fail_if_no_progress extract_lets)
    | with_reducible exact h
    | with_reducible apply State.set_keeps
    | with_reducible apply State.serviceUpdate_keeps
    | with_reducible apply State.fabricUpdate_keeps
    | with_reducible apply State.groupsUpdate_keeps
    | with_reducible apply State.modPort_keeps
    | with_reducible apply State.parentLost_keeps

theorem execServiceDrainReceive_keeps {tw : Prop} {z : State} (p : Fin 256) (seq : BitVec 8) (s : State) (hs : Keeps tw z s) {t0 : State}
    (e0 : execServiceDrainReceive p seq s = .next t0) : Keeps tw z t0 := by
  unfold execServiceDrainReceive whenRunning at e0
  cases e0
  repeat' first
    | (with_reducible refine keeps_ite (fun _ => ?_) fun _ => ?_)
    | with_reducible exact hs
    | with_reducible apply State.modPort_keeps

theorem execDrainAckSend_keeps {z : State} (p : Fin 256) (s : State) (hs : Keeps True z s) {t0 : State}
    (e0 : execDrainAckSend p s = .next t0) : Keeps True z t0 := by
  unfold execDrainAckSend whenRunning at e0
  cases e0
  repeat' first
    | (with_reducible refine keeps_ite (fun _ => ?_) fun _ => ?_)
    | with_reducible exact hs
    | with_reducible apply State.column_keeps
    | with_reducible apply State.setDrained_keeps
    | with_reducible apply State.modPort_keeps

theorem execServiceDrainAckReceive_keeps {tw : Prop} {z : State} (p : Fin 256) (seq : BitVec 8) (s : State) (hs : Keeps tw z s) {t0 : State}
    (e0 : execServiceDrainAckReceive p seq s = .next t0) : Keeps tw z t0 := by
  unfold execServiceDrainAckReceive whenRunning at e0
  cases e0
  repeat' first
    | (with_reducible refine keeps_ite (fun _ => ?_) fun _ => ?_)
    | with_reducible exact hs
    | with_reducible apply State.modPort_keeps

theorem execDrainComplete_keeps {z : State} (p : Fin 256) (s : State) (hs : Keeps True z s) {t0 : State}
    (e0 : execDrainComplete p s = .next t0) : Keeps True z t0 := by
  unfold execDrainComplete whenRunning at e0
  cases e0
  repeat' first
    | (with_reducible refine keeps_ite (fun _ => ?_) fun _ => ?_)
    | with_reducible exact hs
    | with_reducible apply State.setDrained_keeps
    | with_reducible apply State.portNotice_keeps

theorem State.clearDrained_keeps {tw : Prop} {z : State} (s : State) (p : Nat) (h : Keeps tw z s) : Keeps tw z (State.clearDrained s p) := by
  unfold State.clearDrained
  repeat' first
    | (fail_if_no_progress extract_lets)
    | with_reducible exact h
    | with_reducible apply State.set_keeps
    | with_reducible apply State.serviceUpdate_keeps
    | with_reducible apply State.fabricUpdate_keeps
    | with_reducible apply State.modPort_keeps
    | with_reducible apply State.groupsUpdate_keeps

theorem execServiceRestoreReceive_keeps {tw : Prop} {z : State} (p : Fin 256) (seq : BitVec 8) (s : State) (hs : Keeps tw z s) {t0 : State}
    (e0 : execServiceRestoreReceive p seq s = .next t0) : Keeps tw z t0 := by
  unfold execServiceRestoreReceive whenRunning at e0
  cases e0
  repeat' first
    | (fail_if_no_progress extract_lets)
    | (with_reducible refine keeps_ite (fun _ => ?_) fun _ => ?_)
    | with_reducible exact hs
    | with_reducible apply State.column_keeps
    | with_reducible apply State.clearDrained_keeps

theorem execServiceRestoreAckReceive_keeps {tw : Prop} {z : State} (p : Fin 256) (seq : BitVec 8) (s : State) (hs : Keeps tw z s) {t0 : State}
    (e0 : execServiceRestoreAckReceive p seq s = .next t0) : Keeps tw z t0 := by
  unfold execServiceRestoreAckReceive whenRunning at e0
  cases e0
  repeat' first
    | (with_reducible refine keeps_ite (fun _ => ?_) fun _ => ?_)
    | with_reducible exact hs
    | with_reducible apply State.clearDrained_keeps

theorem State.groupBoundary_keeps {tw : Prop} {z : State} (s : State) (h : Keeps tw z s) : Keeps tw z (State.groupBoundary s) := by
  unfold State.groupBoundary
  repeat' first
    | (fail_if_no_progress extract_lets)
    | with_reducible exact h
    | with_reducible assumption
    | with_reducible apply State.modPort_keeps
    | with_reducible apply State.groupsUpdate_keeps
    | (with_reducible refine keeps_foldl _ _ ?_ ?_)
    | intro _ _ _

theorem execTestNoticeReceive_keeps {z : State} (p : Fin 256) (mode _pattern _rate : BitVec 8) (s : State) (hs : Keeps True z s) {t0 : State}
    (e0 : execTestNoticeReceive p mode _pattern _rate s = .next t0) : Keeps True z t0 := by
  unfold execTestNoticeReceive whenRunning at e0
  cases e0
  repeat' first
    | (fail_if_no_progress extract_lets)
    | (with_reducible refine keeps_ite (fun _ => ?_) fun _ => ?_)
    | with_reducible exact hs
    | with_reducible apply State.restart_keeps
    | with_reducible apply State.set_keeps
    | with_reducible apply State.wire_keeps

theorem execTestComplete_keeps {tw : Prop} {z : State} (p : Fin 256) (pass : BitVec 8) (s : State) (hs : Keeps tw z s) {t0 : State}
    (e0 : execTestComplete p pass s = .next t0) : Keeps tw z t0 := by
  unfold execTestComplete whenRunning at e0
  cases e0
  repeat' first
    | (with_reducible refine keeps_ite (fun _ => ?_) fun _ => ?_)
    | with_reducible exact hs
    | with_reducible apply State.set_keeps

theorem State.prbsCmd_keeps {tw : Prop} {z : State} (s : State) (l : Nat) (inject clear : Bool) (h : Keeps tw z s) : Keeps tw z (State.prbsCmd s l inject clear) := by
  unfold State.prbsCmd
  repeat' first
    | (fail_if_no_progress extract_lets)
    | (with_reducible refine keeps_ite (fun _ => ?_) fun _ => ?_)
    | with_reducible exact h
    | with_reducible apply State.wr_keeps
    | with_reducible apply State.wire_keeps

theorem State.laneCmd_keeps {tw : Prop} {z : State} (s : State) (rq : Requester) (n : RegName) (l : Nat) (eff : State → State) (heff : ∀ s, Keeps tw z s → Keeps tw z (eff s)) (h : Keeps tw z s) : Keeps tw z (State.laneCmd s rq n l eff) := by
  unfold State.laneCmd
  repeat' first
    | with_reducible exact h
    | with_reducible assumption
    | with_reducible apply State.writeAs_keeps

theorem execLanePrbsInject_keeps {tw : Prop} {z : State} (rq : Requester) (l : Fin 1024) (s : State) (hs : Keeps tw z s) {t0 : State}
    (e0 : execLanePrbsInject rq l s = .next t0) : Keeps tw z t0 := by
  unfold execLanePrbsInject whenRunning at e0
  cases e0
  repeat' first
    | (with_reducible refine keeps_ite (fun _ => ?_) fun _ => ?_)
    | with_reducible exact hs
    | with_reducible assumption
    | with_reducible apply State.laneCmd_keeps
    | with_reducible apply State.prbsCmd_keeps
    | intro _ _

theorem execLanePrbsClear_keeps {tw : Prop} {z : State} (rq : Requester) (l : Fin 1024) (s : State) (hs : Keeps tw z s) {t0 : State}
    (e0 : execLanePrbsClear rq l s = .next t0) : Keeps tw z t0 := by
  unfold execLanePrbsClear whenRunning at e0
  cases e0
  repeat' first
    | (with_reducible refine keeps_ite (fun _ => ?_) fun _ => ?_)
    | with_reducible exact hs
    | with_reducible assumption
    | with_reducible apply State.laneCmd_keeps
    | with_reducible apply State.prbsCmd_keeps
    | intro _ _

theorem State.calCmd_keeps {tw : Prop} {z : State} (s : State) (l : Nat) (h : Keeps tw z s) : Keeps tw z (State.calCmd s l) := by
  unfold State.calCmd
  repeat' first
    | (fail_if_no_progress extract_lets)
    | (with_reducible refine keeps_ite (fun _ => ?_) fun _ => ?_)
    | with_reducible exact h
    | with_reducible apply State.set_keeps
    | with_reducible apply State.calStart_keeps

theorem execLaneCal_keeps {tw : Prop} {z : State} (rq : Requester) (l : Fin 1024) (s : State) (hs : Keeps tw z s) {t0 : State}
    (e0 : execLaneCal rq l s = .next t0) : Keeps tw z t0 := by
  unfold execLaneCal whenRunning at e0
  cases e0
  repeat' first
    | (with_reducible refine keeps_ite (fun _ => ?_) fun _ => ?_)
    | with_reducible exact hs
    | with_reducible assumption
    | with_reducible apply State.laneCmd_keeps
    | with_reducible apply State.calCmd_keeps
    | intro _ _

theorem State.sendTune_keeps {tw : Prop} {z : State} (s : State) (p i word : Nat) (h : Keeps tw z s) : Keeps tw z (State.sendTune s p i word) := by
  unfold State.sendTune
  repeat' first
    | with_reducible exact h
    | with_reducible apply State.sendLcb_keeps

theorem execRemoteTuneRequest_keeps {tw : Prop} {z : State} (l : Fin 1024) (req : BitVec 6) (s : State) (hs : Keeps tw z s) {t0 : State}
    (e0 : execRemoteTuneRequest l req s = .next t0) : Keeps tw z t0 := by
  unfold execRemoteTuneRequest whenRunning at e0
  cases e0
  repeat' first
    | (with_reducible refine keeps_ite (fun _ => ?_) fun _ => ?_)
    | with_reducible exact hs
    | with_reducible apply State.modLane_keeps
    | with_reducible apply State.sendTune_keeps

theorem execTuneLcbReceive_keeps {tw : Prop} {z : State} (p : Fin 256) (lcb : BitVec 512) (s : State) (hs : Keeps tw z s) {t0 : State}
    (e0 : execTuneLcbReceive p lcb s = .next t0) : Keeps tw z t0 := by
  unfold execTuneLcbReceive whenRunning at e0
  cases e0
  repeat' first
    | (fail_if_no_progress extract_lets)
    | (with_reducible refine keeps_ite (fun _ => ?_) fun _ => ?_)
    | with_reducible exact hs
    | with_reducible assumption
    | with_reducible apply State.onLcb_keeps
    | with_reducible apply State.sendTune_keeps
    | with_reducible apply State.modLane_keeps
    | (with_reducible refine keeps_foldl _ _ ?_ ?_)
    | intro _ _ _
    | intro _ _

theorem State.tuneApply_keeps {tw : Prop} {z : State} (s : State) (l : Nat) (h : Keeps tw z s) : Keeps tw z (State.tuneApply s l) := by
  unfold State.tuneApply
  repeat' first
    | (fail_if_no_progress extract_lets)
    | (with_reducible refine keeps_ite (fun _ => ?_) fun _ => ?_)
    | with_reducible exact h
    | with_reducible apply State.modLane_keeps
    | with_reducible apply State.answerReqs_keeps
    | with_reducible apply State.sendTune_keeps

theorem State.drawStep_keeps {tw : Prop} {z : State} (s : State) (v lo hi : Int) (h : Keeps tw z s) : Keeps tw z (State.drawStep s v lo hi).1 := by
  unfold State.drawStep
  repeat' first
    | (fail_if_no_progress extract_lets)
    | with_reducible exact h
    | with_reducible apply State.drawNat_keeps

theorem State.drawSteps_keeps {tw : Prop} {z : State} (lo hi : Int) :
    ∀ (l : List Int) (s : State), Keeps tw z s → Keeps tw z (State.drawSteps s lo hi l).1
  | [], _, h => h
  | v :: l, s, h => State.drawSteps_keeps lo hi l _ (State.drawStep_keeps s v lo hi h)

theorem State.laneAdapt_keeps {tw : Prop} {z : State} (s : State) (l : Nat) (h : Keeps tw z s) : Keeps tw z (State.laneAdapt s l) := by
  unfold State.laneAdapt
  repeat' first
    | (fail_if_no_progress extract_lets)
    | (with_reducible refine keeps_ite (fun _ => ?_) fun _ => ?_)
    | with_reducible exact h
    | with_reducible apply State.drawStep_keeps
    | with_reducible apply State.drawSteps_keeps
    | with_reducible apply State.modLane_keeps
    | with_reducible apply State.drawNat_keeps
    | with_reducible apply State.set_keeps

theorem State.laneTurnover_keeps {tw : Prop} {z : State} (s : State) (h : Keeps tw z s) : Keeps tw z (State.laneTurnover s) := by
  unfold State.laneTurnover
  repeat' first
    | (fail_if_no_progress extract_lets)
    | (with_reducible refine keeps_ite (fun _ => ?_) fun _ => ?_)
    | with_reducible exact h
    | with_reducible assumption
    | with_reducible apply State.groupBoundary_keeps
    | with_reducible apply State.tuneApply_keeps
    | with_reducible apply State.laneAdapt_keeps
    | (with_reducible refine keeps_foldl _ _ ?_ ?_)
    | intro _ _ _

end Sys2Proof.Machine
end

