-- ==== Sys2Proof/Laws/KeepsMover.lean ====
section
/-! SUPPORT. Every operation of Machine/Mover.lean keeps the queue, the canonical form of the memory, the count of free values
drawn and what has left the part (Keeps). -/
namespace Sys2Proof.Machine

open Sys2Proof

theorem State.setMvTokens_keeps {tw : Prop} {z : State} (s : State) (m : Nat) (v : Int) (h : Keeps tw z s) : Keeps tw z (State.setMvTokens s m v) := by
  unfold State.setMvTokens
  repeat' first
    | (fail_if_no_progress extract_lets)
    | with_reducible exact h
    | with_reducible apply State.set_keeps
    | with_reducible apply keeps_mk

theorem State.mvLockTake_keeps {tw : Prop} {z : State} (s : State) (m c : Nat) (h : Keeps tw z s) : Keeps tw z (State.mvLockTake s m c) := by
  unfold State.mvLockTake
  repeat' first
    | (with_reducible refine keeps_ite (fun _ => ?_) fun _ => ?_)
    | with_reducible exact h
    | with_reducible apply State.set_keeps
    | with_reducible apply State.modChan_keeps

theorem State.mvRead_keeps {tw : Prop} {z : State} (s : State) (m c pos len : Nat) (h : Keeps tw z s) : Keeps tw z (State.mvRead s m c pos len) := by
  unfold State.mvRead
  repeat' first
    | (fail_if_no_progress extract_lets)
    | (with_reducible refine keeps_ite (fun _ => ?_) fun _ => ?_)
    | with_reducible exact h
    | with_reducible apply State.hostRead_keeps

theorem State.mvPump_keeps {tw : Prop} {z : State} : ∀ (k m c ck : Nat) (s : State), Keeps tw z s → Keeps tw z (State.mvPump k m c ck s)
  | 0, _, _, _, _, h => h
  | k + 1, m, c, ck, s, h => by
    unfold State.mvPump
    repeat' first
      | (fail_if_no_progress extract_lets)
      | (with_reducible refine keeps_ite (fun _ => ?_) fun _ => ?_)
      | with_reducible exact h
      | with_reducible apply State.set_keeps
      | with_reducible apply State.modChan_keeps
      | with_reducible apply State.mvRead_keeps
      | with_reducible apply State.mvPump_keeps

theorem State.mvWrite_keeps {z : State} (s : State) (m c : Nat) (b : Burst) (bs : List Byte) (h : Keeps True z s) : Keeps True z (State.mvWrite s m c b bs) := by
  have k : Keeps True z { s with draws := s.draws + b.len } := ⟨h.queue, h.mem, Nat.le_trans h.draws (Nat.le_add_right _ _), h.out, h.same⟩
  unfold State.mvWrite
  dsimp only
  apply State.modChan_keeps
  apply State.setMvTokens_keeps
  apply State.perf_keeps
  apply State.cnt_keeps
  refine keeps_ite (fun _ => ?_) fun _ => ?_
  · exact State.gsStore_keeps _ _ _ _ k
  · exact State.hostWrite_keeps _ _ _ _ k

theorem State.mvDrain_keeps {z : State} : ∀ (k m c : Nat) (s : State), Keeps True z s → Keeps True z (State.mvDrain k m c s)
  | 0, _, _, _, h => h
  | k + 1, m, c, s, h => by
    unfold State.mvDrain
    repeat' first
      | with_reducible exact h
      | with_reducible apply State.mvWrite_keeps
      | with_reducible apply State.modChan_keeps
      | with_reducible apply State.mvDrain_keeps
      | split

theorem State.mvFlush_keeps {tw : Prop} {z : State} (s : State) (m c : Nat) (h : Keeps tw z s) : Keeps tw z (State.mvFlush s m c) := by
  unfold State.mvFlush
  repeat' first
    | (fail_if_no_progress extract_lets)
    | (with_reducible refine keeps_ite (fun _ => ?_) fun _ => ?_)
    | with_reducible exact h
    | with_reducible apply State.emit_keeps
    | with_reducible apply State.modChan_keeps

theorem State.mvRetry_keeps {tw : Prop} {z : State} (s : State) (m c : Nat) (h : Keeps tw z s) : Keeps tw z (State.mvRetry s m c) := by
  unfold State.mvRetry
  repeat' first
    | with_reducible exact h
    | with_reducible apply State.cnt_keeps
    | with_reducible apply State.modChan_keeps

theorem State.mvFail_keeps {tw : Prop} {z : State} (s : State) (m c : Nat) (b : Burst) (h : Keeps tw z s) : Keeps tw z (State.mvFail s m c b) := by
  unfold State.mvFail
  repeat' first
    | (fail_if_no_progress extract_lets)
    | (with_reducible refine keeps_ite (fun _ => ?_) fun _ => ?_)
    | with_reducible exact h
    | with_reducible apply State.modChan_keeps
    | with_reducible apply State.mvRetry_keeps
    | with_reducible apply State.mvRead_keeps

theorem execMoverBurstReadComplete_keeps {z : State} (m : Fin 16) (c : Fin 32) (pos : Nat) (res : ReadResult) (wok : Bool) (ck : Nat) (s : State) (hs : Keeps True z s) {t0 : State}
    (e0 : execMoverBurstReadComplete m c pos res wok ck s = .next t0) : Keeps True z t0 := by
  unfold execMoverBurstReadComplete whenRunning at e0
  cases e0
  repeat' first
    | (with_reducible refine keeps_ite (fun _ => ?_) fun _ => ?_)
    | with_reducible exact hs
    | with_reducible apply State.mvFail_keeps
    | with_reducible apply State.modChan_keeps
    | with_reducible apply State.mvDrain_keeps
    | with_reducible apply State.mvPump_keeps
    | with_reducible apply State.mvFlush_keeps
    | split
    | (dsimp +zetaDelta only; split)

theorem State.mvLockWait_keeps {z : State} (s : State) (m c : Nat) (h : Keeps True z s) : Keeps True z (State.mvLockWait s m c) := by
  unfold State.mvLockWait
  repeat' first
    | (fail_if_no_progress extract_lets)
    | (with_reducible refine keeps_ite (fun _ => ?_) fun _ => ?_)
    | with_reducible exact h
    | with_reducible apply State.lockWait_keeps
    | with_reducible apply State.set_keeps
    | with_reducible apply State.mvLockTake_keeps

theorem execMoverChannelStart_keeps {z : State} (m : Fin 16) (ck : Nat) (s : State) (hs : Keeps True z s) {t0 : State}
    (e0 : execMoverChannelStart m ck s = .next t0) : Keeps True z t0 := by
  unfold execMoverChannelStart whenRunning at e0
  cases e0
  repeat' first
    | (fail_if_no_progress extract_lets)
    | (with_reducible refine keeps_ite (fun _ => ?_) fun _ => ?_)
    | with_reducible exact hs
    | with_reducible apply State.set_keeps
    | with_reducible apply State.mvLockWait_keeps
    | with_reducible apply State.mvPump_keeps
    | split

theorem execMoverLockRetry_keeps {z : State} (m : Fin 16) (s : State) (hs : Keeps True z s) {t0 : State}
    (e0 : execMoverLockRetry m s = .next t0) : Keeps True z t0 := by
  unfold execMoverLockRetry whenRunning at e0
  cases e0
  repeat' first
    | (with_reducible refine keeps_ite (fun _ => ?_) fun _ => ?_)
    | with_reducible exact hs
    | with_reducible apply State.mvLockTake_keeps
    | with_reducible apply State.mvLockWait_keeps
    | with_reducible apply State.mvPump_keeps
    | (dsimp +zetaDelta only; split)

theorem State.mvRecord_keeps {z : State} (s : State) (m c : Nat) (st : Status) (whole : Bool) (h : Keeps True z s) : Keeps True z (State.mvRecord s m c st whole) := by
  unfold State.mvRecord
  repeat' first
    | (fail_if_no_progress extract_lets)
    | (with_reducible refine keeps_ite (fun _ => ?_) fun _ => ?_)
    | with_reducible exact h
    | with_reducible apply State.wr_keeps
    | with_reducible apply State.drawNat_keeps
    | with_reducible apply State.set_keeps
    | with_reducible apply State.gsStore_keeps
    | with_reducible apply State.hostWrite_keeps

theorem State.mvLeave_keeps {tw : Prop} {z : State} (s : State) (m c st : Nat) (h : Keeps tw z s) : Keeps tw z (State.mvLeave s m c st) := by
  unfold State.mvLeave
  repeat' first
    | (fail_if_no_progress extract_lets)
    | (with_reducible refine keeps_ite (fun _ => ?_) fun _ => ?_)
    | with_reducible exact h
    | with_reducible apply State.set_keeps

theorem State.mvHaltNotice_keeps {z : State} (s : State) (m c : Nat) (h : Keeps True z s) : Keeps True z (State.mvHaltNotice s m c) := by
  unfold State.mvHaltNotice
  repeat' first
    | with_reducible exact h
    | with_reducible apply State.set_keeps
    | with_reducible apply State.raise_keeps

theorem State.mvDone_keeps {z : State} (s : State) (m c : Nat) (h : Keeps True z s) : Keeps True z (State.mvDone s m c) := by
  unfold State.mvDone
  repeat' first
    | (fail_if_no_progress extract_lets)
    | (with_reducible refine keeps_ite (fun _ => ?_) fun _ => ?_)
    | with_reducible exact h
    | with_reducible apply State.lockRelease_keeps
    | with_reducible apply State.mvRecord_keeps
    | with_reducible apply State.raiseCtr_keeps
    | with_reducible apply State.set_keeps
    | with_reducible apply State.raise_keeps
    | with_reducible apply State.modChan_keeps
    | with_reducible apply State.mvLeave_keeps

theorem State.mvHalt_keeps {z : State} (s : State) (m c : Nat) (st : Status) (h : Keeps True z s) : Keeps True z (State.mvHalt s m c st) := by
  unfold State.mvHalt
  repeat' first
    | (fail_if_no_progress extract_lets)
    | with_reducible exact h
    | with_reducible apply State.mvRecord_keeps
    | with_reducible apply State.modChan_keeps
    | with_reducible apply State.mvLeave_keeps
    | with_reducible apply State.mvHaltNotice_keeps
    | with_reducible apply State.cnt_keeps

theorem State.mvConfirmed_keeps {z : State} (s : State) (m c : Nat) (h : Keeps True z s) : Keeps True z (State.mvConfirmed s m c) := by
  unfold State.mvConfirmed
  repeat' first
    | with_reducible exact h
    | with_reducible apply State.mvDone_keeps
    | with_reducible apply State.mvHalt_keeps
    | with_reducible apply State.mvRecord_keeps
    | with_reducible apply State.mvHaltNotice_keeps
    | with_reducible apply State.cnt_keeps
    | with_reducible apply State.mvLeave_keeps
    | split

theorem State.mvFlushFail_keeps {z : State} (s : State) (m c : Nat) (h : Keeps True z s) : Keeps True z (State.mvFlushFail s m c) := by
  unfold State.mvFlushFail
  repeat' first
    | (fail_if_no_progress extract_lets)
    | (with_reducible refine keeps_ite (fun _ => ?_) fun _ => ?_)
    | with_reducible exact h
    | with_reducible apply State.mvRetry_keeps
    | with_reducible apply State.emit_keeps
    | with_reducible apply State.modChan_keeps
    | with_reducible apply State.mvLeave_keeps
    | with_reducible apply State.mvHalt_keeps

theorem execMoverChannelFinish_keeps {z : State} (m : Fin 16) (c : Fin 32) (flushOk : Bool) (s : State) (hs : Keeps True z s) {t0 : State}
    (e0 : execMoverChannelFinish m c flushOk s = .next t0) : Keeps True z t0 := by
  unfold execMoverChannelFinish whenRunning at e0
  cases e0
  repeat' first
    | (fail_if_no_progress extract_lets)
    | (with_reducible refine keeps_ite (fun _ => ?_) fun _ => ?_)
    | with_reducible exact hs
    | with_reducible apply State.mvConfirmed_keeps
    | with_reducible apply State.mvFlush_keeps
    | with_reducible apply State.modChan_keeps
    | with_reducible apply State.mvFlushFail_keeps

theorem State.mvError_keeps {tw : Prop} {z : State} (s : State) (m : Nat) (h : Keeps tw z s) : Keeps tw z (State.mvError s m) := by
  unfold State.mvError
  repeat' first
    | (with_reducible refine keeps_ite (fun _ => ?_) fun _ => ?_)
    | with_reducible exact h
    | with_reducible apply State.modChan_keeps
    | with_reducible apply State.mvFlush_keeps
    | split

theorem State.chCmd_keeps {tw : Prop} {z : State} (s : State) (rq : Requester) (m c : Nat) (l : List (Bool × Status)) (eff : State → State) (heff : ∀ s, Keeps tw z s → Keeps tw z (eff s)) (h : Keeps tw z s) : Keeps tw z (State.chCmd s rq m c l eff) := by
  unfold State.chCmd
  repeat' first
    | with_reducible exact h
    | with_reducible assumption
    | with_reducible apply State.writeAs_keeps

theorem State.chGo_keeps {tw : Prop} {z : State} (s : State) (m c : Nat) (h : Keeps tw z s) : Keeps tw z (State.chGo s m c) := by
  unfold State.chGo
  repeat' first
    | (fail_if_no_progress extract_lets)
    | with_reducible exact h
    | with_reducible apply State.modChan_keeps
    | with_reducible apply State.set_keeps
    | with_reducible apply keeps_mk

theorem execChGo_keeps {tw : Prop} {z : State} (rq : Requester) (m : Fin 16) (c : Fin 32) (s : State) (hs : Keeps tw z s) {t0 : State}
    (e0 : execChGo rq m c s = .next t0) : Keeps tw z t0 := by
  unfold execChGo whenRunning at e0
  cases e0
  repeat' first
    | (with_reducible refine keeps_ite (fun _ => ?_) fun _ => ?_)
    | with_reducible exact hs
    | with_reducible assumption
    | with_reducible apply State.chCmd_keeps
    | with_reducible apply State.chGo_keeps
    | intro _ _

theorem execChAbort_keeps {z : State} (rq : Requester) (m : Fin 16) (c : Fin 32) (s : State) (hs : Keeps True z s) {t0 : State}
    (e0 : execChAbort rq m c s = .next t0) : Keeps True z t0 := by
  unfold execChAbort whenRunning at e0
  cases e0
  repeat' first
    | (with_reducible refine keeps_ite (fun _ => ?_) fun _ => ?_)
    | with_reducible exact hs
    | with_reducible assumption
    | with_reducible apply State.chCmd_keeps
    | with_reducible apply State.chanEnd_keeps
    | with_reducible apply State.mvFlush_keeps
    | intro _ _

theorem execChResume_keeps {z : State} (rq : Requester) (m : Fin 16) (c : Fin 32) (s : State) (hs : Keeps True z s) {t0 : State}
    (e0 : execChResume rq m c s = .next t0) : Keeps True z t0 := by
  unfold execChResume whenRunning at e0
  cases e0
  repeat' first
    | (fail_if_no_progress extract_lets)
    | (with_reducible refine keeps_ite (fun _ => ?_) fun _ => ?_)
    | with_reducible exact hs
    | with_reducible assumption
    | with_reducible apply State.chCmd_keeps
    | with_reducible apply State.modChan_keeps
    | with_reducible apply State.set_keeps
    | with_reducible apply State.chanEnd_keeps
    | intro _ _

theorem execChReset_keeps {z : State} (rq : Requester) (m : Fin 16) (c : Fin 32) (s : State) (hs : Keeps True z s) {t0 : State}
    (e0 : execChReset rq m c s = .next t0) : Keeps True z t0 := by
  unfold execChReset whenRunning at e0
  cases e0
  repeat' first
    | (with_reducible refine keeps_ite (fun _ => ?_) fun _ => ?_)
    | with_reducible exact hs
    | with_reducible assumption
    | with_reducible apply State.chCmd_keeps
    | with_reducible apply State.lockAbandon_keeps
    | with_reducible apply State.chanEnd_keeps
    | with_reducible apply State.mvFlush_keeps
    | intro _ _

theorem State.mvTurnover_keeps {tw : Prop} {z : State} (s : State) (m : Nat) (h : Keeps tw z s) : Keeps tw z (State.mvTurnover s m) := by
  unfold State.mvTurnover
  repeat' first
    | (fail_if_no_progress extract_lets)
    | (with_reducible refine keeps_ite (fun _ => ?_) fun _ => ?_)
    | with_reducible exact h
    | with_reducible apply State.cnt_keeps
    | with_reducible apply State.setMvTokens_keeps
    | with_reducible apply State.set_keeps
    | with_reducible apply State.modChan_keeps
    | with_reducible apply State.mvPump_keeps

end Sys2Proof.Machine
end

