-- ==== Sys2Proof/Laws/KeepsFnReset.lean ====
section
/-! SUPPORT. Every operation of Machine/FnReset.lean keeps the queue, the canonical form of the memory, the count of free values
drawn and what has left the part (Keeps). -/
namespace Sys2Proof.Machine

open Sys2Proof

theorem State.fnWindowReset_keeps {tw : Prop} {z : State} (s : State) (f : Nat) (h : Keeps tw z s) : Keeps tw z (State.fnWindowReset s f) := by
  unfold State.fnWindowReset
  repeat' first
    | (fail_if_no_progress extract_lets)
    | (with_reducible refine keeps_ite (fun _ => ?_) fun _ => ?_)
    | with_reducible exact h
    | with_reducible apply State.clearRegs_keeps
    | with_reducible apply State.set_keeps

theorem State.revokeKeys_keeps {z : State} (s : State) (f : Nat) (h : Keeps True z s) : Keeps True z (State.revokeKeys s f) := by
  unfold State.revokeKeys
  repeat' first
    | (fail_if_no_progress extract_lets)
    | (with_reducible refine keeps_ite (fun _ => ?_) fun _ => ?_)
    | with_reducible exact h
    | with_reducible assumption
    | with_reducible apply State.setKey_keeps
    | (with_reducible refine keeps_foldl _ _ ?_ ?_)
    | intro _ _ _

theorem State.clearTrigs_keeps {z : State} (s : State) (f : Nat) (h : Keeps True z s) : Keeps True z (State.clearTrigs s f) := by
  unfold State.clearTrigs
  repeat' first
    | (fail_if_no_progress extract_lets)
    | (with_reducible refine keeps_ite (fun _ => ?_) fun _ => ?_)
    | with_reducible exact h
    | with_reducible assumption
    | with_reducible apply State.setTrg_keeps
    | (with_reducible refine keeps_foldl _ _ ?_ ?_)
    | intro _ _ _

theorem State.dropFnTransport_keeps {tw : Prop} {z : State} (s : State) (f : Nat) (h : Keeps tw z s) : Keeps tw z (State.dropFnTransport s f) := by
  unfold State.dropFnTransport
  repeat' first
    | (fail_if_no_progress extract_lets)
    | with_reducible exact h
    | with_reducible apply keeps_mk

theorem State.dropFnMisc_keeps {tw : Prop} {z : State} (s : State) (f : Nat) (h : Keeps tw z s) : Keeps tw z (State.dropFnMisc s f) := by
  unfold State.dropFnMisc
  repeat' first
    | (fail_if_no_progress extract_lets)
    | with_reducible exact h
    | with_reducible apply keeps_mk

theorem State.resetOne_keeps {z : State} (s : State) (f : Nat) (h : Keeps True z s) : Keeps True z (State.resetOne s f) := by
  unfold State.resetOne
  repeat' first
    | (fail_if_no_progress extract_lets)
    | (with_reducible refine keeps_ite (fun _ => ?_) fun _ => ?_)
    | with_reducible exact h
    | with_reducible apply State.moversHalt_keeps
    | with_reducible apply State.clearTrigs_keeps
    | with_reducible apply State.revokeKeys_keeps
    | with_reducible apply State.dropFnTransport_keeps
    | with_reducible apply State.dropFnMisc_keeps
    | with_reducible apply State.fnWindowReset_keeps
    | with_reducible apply State.lockAbandon_keeps
    | with_reducible apply State.set_keeps

theorem State.fnReset_keeps {z : State} (s : State) (f : Nat) (h : Keeps True z s) : Keeps True z (State.fnReset s f) := by
  unfold State.fnReset
  repeat' first
    | with_reducible exact h
    | with_reducible apply State.resetOne_keeps
    | (with_reducible refine keeps_foldl _ _ ?_ ?_)

theorem execFunctionReset_keeps {z : State} (f : Fin 4096) (s : State) (hs : Keeps True z s) {t0 : State}
    (e0 : execFunctionReset f s = .next t0) : Keeps True z t0 := by
  unfold execFunctionReset whenRunning at e0
  cases e0
  repeat' first
    | (with_reducible refine keeps_ite (fun _ => ?_) fun _ => ?_)
    | with_reducible exact hs
    | with_reducible apply State.fnReset_keeps

theorem execFunctionResetComplete_keeps {tw : Prop} {z : State} (f : Fin 4096) (s : State) (hs : Keeps tw z s) {t0 : State}
    (e0 : execFunctionResetComplete f s = .next t0) : Keeps tw z t0 := by
  unfold execFunctionResetComplete whenRunning at e0
  cases e0
  repeat' first
    | (with_reducible refine keeps_ite (fun _ => ?_) fun _ => ?_)
    | with_reducible exact hs
    | with_reducible apply State.set_keeps

end Sys2Proof.Machine
end

