-- ==== Sys2Proof/Laws/KeepsPcie.lean ====
section
/-! SUPPORT. Every operation of Machine/Pcie.lean keeps the queue, the canonical form of the memory, the count of free values
drawn and what has left the part (Keeps). -/
namespace Sys2Proof.Machine

open Sys2Proof

theorem State.modPcie_keeps {tw : Prop} {z : State} (s : State) (g : PcieSt → PcieSt) (h : Keeps tw z s) : Keeps tw z (State.modPcie s g) := by
  unfold State.modPcie
  repeat' first
    | with_reducible exact h
    | with_reducible apply keeps_mk

theorem State.modBridge_keeps {tw : Prop} {z : State} (s : State) (n : Nat) (g : Bridge → Bridge) (h : Keeps tw z s) : Keeps tw z (State.modBridge s n g) := by
  unfold State.modBridge
  repeat' first
    | with_reducible exact h
    | with_reducible apply State.modPcie_keeps

theorem State.aerSet_keeps {tw : Prop} {z : State} (s : State) (at_ bit : Nat) (h : Keeps tw z s) : Keeps tw z (State.aerSet s at_ bit) := by
  unfold State.aerSet
  repeat' first
    | with_reducible exact h
    | with_reducible apply State.modPcie_keeps

theorem State.tlpSend_keeps {z : State} (s : State) (n : Nat) (t : Tlp) (h : Keeps True z s) : Keeps True z (State.tlpSend s n t) := by
  unfold State.tlpSend
  repeat' first
    | (fail_if_no_progress extract_lets)
    | (with_reducible refine keeps_ite (fun _ => ?_) fun _ => ?_)
    | with_reducible exact h
    | with_reducible apply State.cnt_keeps
    | with_reducible apply State.emit_keeps
    | with_reducible apply State.perf_keeps

theorem State.tlpRefuse_keeps {z : State} (s : State) (n : Nat) (t : Tlp) (status : Nat) (h : Keeps True z s) : Keeps True z (State.tlpRefuse s n t status) := by
  unfold State.tlpRefuse
  repeat' first
    | (fail_if_no_progress extract_lets)
    | (with_reducible refine keeps_ite (fun _ => ?_) fun _ => ?_)
    | with_reducible exact h
    | with_reducible apply State.aerSet_keeps
    | with_reducible apply State.tlpSend_keeps

theorem State.acsBlock_keeps {z : State} (s : State) (n : Nat) (t : Tlp) (h : Keeps True z s) : Keeps True z (State.acsBlock s n t) := by
  unfold State.acsBlock
  repeat' first
    | with_reducible exact h
    | with_reducible apply State.cnt_keeps
    | with_reducible apply State.aerSet_keeps
    | with_reducible apply State.tlpRefuse_keeps

theorem State.pendAnswer_keeps {z : State} (s : State) (x : Pend) (status : Nat) (h : Keeps True z s) : Keeps True z (State.pendAnswer s x status) := by
  unfold State.pendAnswer
  repeat' first
    | with_reducible exact h
    | with_reducible apply State.tlpSend_keeps

theorem State.pendDrop_keeps {z : State} (s : State) (p : Pend → Bool) (status : Pend → Nat) (h : Keeps True z s) : Keeps True z (State.pendDrop s p status) := by
  unfold State.pendDrop
  repeat' first
    | with_reducible exact h
    | with_reducible assumption
    | with_reducible apply State.pendAnswer_keeps
    | with_reducible apply State.modPcie_keeps
    | (with_reducible refine keeps_foldl _ _ ?_ ?_)
    | intro _ _ _

theorem State.tlpForward_keeps {z : State} (s : State) (ingress d : Nat) (orig t : Tlp) (window svf : Option Nat) (h : Keeps True z s) : Keeps True z (State.tlpForward s ingress d orig t window svf) := by
  unfold State.tlpForward
  repeat' first
    | (fail_if_no_progress extract_lets)
    | (with_reducible refine keeps_ite (fun _ => ?_) fun _ => ?_)
    | with_reducible exact h
    | with_reducible apply State.tlpSend_keeps
    | with_reducible apply State.cnt_keeps
    | with_reducible apply State.modPcie_keeps
    | (dsimp +zetaDelta only; split)

theorem State.svfMem_keeps {z : State} (s : State) (ingress k : Nat) (orig t : Tlp) (window : Option Nat) (h : Keeps True z s) : Keeps True z (State.svfMem s ingress k orig t window) := by
  unfold State.svfMem
  repeat' first
    | (fail_if_no_progress extract_lets)
    | (with_reducible refine keeps_ite (fun _ => ?_) fun _ => ?_)
    | with_reducible exact h
    | with_reducible apply State.tlpRefuse_keeps
    | with_reducible apply State.tlpForward_keeps

theorem State.sendUp_keeps {z : State} (s : State) (ingress p : Nat) (orig t : Tlp) (svf : Option Nat) (h : Keeps True z s) : Keeps True z (State.sendUp s ingress p orig t svf) := by
  unfold State.sendUp
  repeat' first
    | (with_reducible refine keeps_ite (fun _ => ?_) fun _ => ?_)
    | with_reducible exact h
    | with_reducible apply State.tlpForward_keeps
    | with_reducible apply State.tlpRefuse_keeps
    | split

theorem State.routeMem_keeps {z : State} (s : State) (ingress p : Nat) (orig t : Tlp) (svf : Option Nat) (h : Keeps True z s) : Keeps True z (State.routeMem s ingress p orig t svf) := by
  unfold State.routeMem
  repeat' first
    | (fail_if_no_progress extract_lets)
    | (with_reducible refine keeps_ite (fun _ => ?_) fun _ => ?_)
    | with_reducible exact h
    | with_reducible apply State.acsBlock_keeps
    | with_reducible apply State.sendUp_keeps
    | with_reducible apply State.tlpRefuse_keeps
    | with_reducible apply State.tlpForward_keeps
    | with_reducible apply State.svfMem_keeps
    | split

theorem State.windowRefuse_keeps {z : State} (s : State) (ingress : Nat) (t : Tlp) (h : Keeps True z s) : Keeps True z (State.windowRefuse s ingress t) := by
  unfold State.windowRefuse
  repeat' first
    | with_reducible exact h
    | with_reducible apply State.cnt_keeps
    | with_reducible apply State.tlpRefuse_keeps

theorem State.windowGo_keeps {z : State} (s : State) (ingress w : Nat) (orig : Tlp) (h : Keeps True z s) : Keeps True z (State.windowGo s ingress w orig) := by
  unfold State.windowGo
  repeat' first
    | (fail_if_no_progress extract_lets)
    | (with_reducible refine keeps_ite (fun _ => ?_) fun _ => ?_)
    | with_reducible exact h
    | with_reducible apply State.windowRefuse_keeps
    | with_reducible apply State.modPcie_keeps
    | with_reducible apply State.tlpForward_keeps
    | with_reducible apply State.svfMem_keeps
    | split

theorem State.enterPart_keeps {z : State} (s : State) (ingress p : Nat) (orig t : Tlp) (svf : Option Nat) (h : Keeps True z s) : Keeps True z (State.enterPart s ingress p orig t svf) := by
  unfold State.enterPart
  repeat' first
    | with_reducible exact h
    | with_reducible apply State.windowGo_keeps
    | with_reducible apply State.routeMem_keeps
    | split

theorem State.windowRetry_keeps {z : State} (s : State) (p : Nat) (h : Keeps True z s) : Keeps True z (State.windowRetry s p) := by
  unfold State.windowRetry
  repeat' first
    | (fail_if_no_progress extract_lets)
    | with_reducible exact h
    | with_reducible apply State.modPcie_keeps
    | with_reducible apply State.enterPart_keeps
    | split

theorem State.sharedLost_keeps {z : State} (s : State) (n : Nat) (h : Keeps True z s) : Keeps True z (State.sharedLost s n) := by
  unfold State.sharedLost
  repeat' first
    | (fail_if_no_progress extract_lets)
    | with_reducible exact h
    | with_reducible assumption
    | with_reducible apply State.set_keeps
    | with_reducible apply State.pendDrop_keeps
    | with_reducible apply State.modPcie_keeps
    | with_reducible apply State.emit_keeps
    | with_reducible apply State.hpNotice_keeps
    | (with_reducible refine keeps_foldl _ _ ?_ ?_)
    | intro _ _ _

theorem State.dpcReact_keeps {z : State} (s : State) (n cause : Nat) (h : Keeps True z s) : Keeps True z (State.dpcReact s n cause) := by
  unfold State.dpcReact
  repeat' first
    | (fail_if_no_progress extract_lets)
    | (with_reducible refine keeps_ite (fun _ => ?_) fun _ => ?_)
    | with_reducible exact h
    | with_reducible apply State.set_keeps
    | with_reducible apply State.emit_keeps
    | with_reducible apply State.sharedLost_keeps
    | with_reducible apply State.pendDrop_keeps

theorem State.dpcEnter_keeps {z : State} (s : State) (n cause : Nat) (h : Keeps True z s) : Keeps True z (State.dpcEnter s n cause) := by
  unfold State.dpcEnter
  repeat' first
    | (with_reducible refine keeps_ite (fun _ => ?_) fun _ => ?_)
    | with_reducible exact h
    | with_reducible assumption
    | with_reducible apply State.occur_keeps
    | with_reducible apply State.dpcReact_keeps
    | intro _ _

theorem execDpcTrigger_keeps {z : State} (n : Fin 40) (cause : Fin 4) (s : State) (hs : Keeps True z s) {t0 : State}
    (e0 : execDpcTrigger n cause s = .next t0) : Keeps True z t0 := by
  unfold execDpcTrigger whenRunning at e0
  cases e0
  repeat' first
    | (with_reducible refine keeps_ite (fun _ => ?_) fun _ => ?_)
    | with_reducible exact hs
    | with_reducible apply State.dpcEnter_keeps

theorem execDpcTriggerStatusClear_keeps {tw : Prop} {z : State} (n : Fin 40) (s : State) (hs : Keeps tw z s) {t0 : State}
    (e0 : execDpcTriggerStatusClear n s = .next t0) : Keeps tw z t0 := by
  unfold execDpcTriggerStatusClear whenRunning at e0
  cases e0
  repeat' first
    | (with_reducible refine keeps_ite (fun _ => ?_) fun _ => ?_)
    | with_reducible exact hs
    | with_reducible apply State.set_keeps
    | with_reducible apply State.emit_keeps

theorem execSwitchCompletionTimeout_keeps {z : State} (n : Fin 40) (reqId : BitVec 16) (tag : BitVec 14) (s : State) (hs : Keeps True z s) {t0 : State}
    (e0 : execSwitchCompletionTimeout n reqId tag s = .next t0) : Keeps True z t0 := by
  unfold execSwitchCompletionTimeout whenRunning at e0
  cases e0
  repeat' first
    | (fail_if_no_progress extract_lets)
    | (with_reducible refine keeps_ite (fun _ => ?_) fun _ => ?_)
    | with_reducible exact hs
    | with_reducible apply State.pendDrop_keeps
    | with_reducible apply State.cnt_keeps
    | with_reducible apply State.set_keeps
    | with_reducible apply State.hpNotice_keeps
    | with_reducible apply State.dpcEnter_keeps

theorem State.completionIn_keeps {z : State} (s : State) (n : Nat) (t : Tlp) (h : Keeps True z s) : Keeps True z (State.completionIn s n t) := by
  unfold State.completionIn
  repeat' first
    | (fail_if_no_progress extract_lets)
    | with_reducible exact h
    | with_reducible apply State.cnt_keeps
    | with_reducible apply State.aerSet_keeps
    | with_reducible apply State.modPcie_keeps
    | with_reducible apply State.tlpSend_keeps
    | with_reducible apply State.windowRetry_keeps
    | split
    | (dsimp +zetaDelta only; split)

theorem State.errorIn_keeps {z : State} (s : State) (n : Nat) (t : Tlp) (h : Keeps True z s) : Keeps True z (State.errorIn s n t) := by
  unfold State.errorIn
  repeat' first
    | (fail_if_no_progress extract_lets)
    | (with_reducible refine keeps_ite (fun _ => ?_) fun _ => ?_)
    | with_reducible exact h
    | with_reducible apply State.dpcEnter_keeps
    | with_reducible apply State.tlpSend_keeps
    | split

theorem State.configIn_keeps {z : State} (s : State) (n : Nat) (t : Tlp) (h : Keeps True z s) : Keeps True z (State.configIn s n t) := by
  unfold State.configIn
  repeat' first
    | (fail_if_no_progress extract_lets)
    | (with_reducible refine keeps_ite (fun _ => ?_) fun _ => ?_)
    | with_reducible exact h
    | with_reducible apply State.tlpForward_keeps
    | with_reducible apply State.tlpSend_keeps
    | with_reducible apply State.drawNat_keeps
    | with_reducible apply State.tlpRefuse_keeps
    | split

theorem State.msixEnable_keeps {tw : Prop} {z : State} (s : State) (f : Nat) (enabled : Bool) (h : Keeps tw z s) : Keeps tw z (State.msixEnable s f enabled) := by
  unfold State.msixEnable
  repeat' first
    | with_reducible exact h
    | split
    | with_reducible apply keeps_mk

theorem State.bridgeWrite_keeps {tw : Prop} {z : State} (s : State) (n : Nat) (sel : BridgeSel) (r : BridgeReg) (h : Keeps tw z s) : Keeps tw z (State.bridgeWrite s n sel r) := by
  unfold State.bridgeWrite
  repeat' first
    | (fail_if_no_progress extract_lets)
    | (with_reducible refine keeps_ite (fun _ => ?_) fun _ => ?_)
    | with_reducible exact h
    | with_reducible apply State.modBridge_keeps
    | with_reducible apply State.modPcie_keeps
    | with_reducible apply State.msixEnable_keeps
    | split

theorem State.memIn_keeps {z : State} (s : State) (n : Nat) (t : Tlp) (h : Keeps True z s) : Keeps True z (State.memIn s n t) := by
  unfold State.memIn
  repeat' first
    | (fail_if_no_progress extract_lets)
    | (with_reducible refine keeps_ite (fun _ => ?_) fun _ => ?_)
    | with_reducible exact h
    | with_reducible apply State.enterPart_keeps
    | with_reducible apply State.tlpRefuse_keeps
    | with_reducible apply State.tlpForward_keeps
    | with_reducible apply State.acsBlock_keeps
    | split

theorem State.tlpIn_keeps {z : State} (s : State) (n : Nat) (t : Tlp) (h : Keeps True z s) : Keeps True z (State.tlpIn s n t) := by
  unfold State.tlpIn
  repeat' first
    | (fail_if_no_progress extract_lets)
    | (with_reducible refine keeps_ite (fun _ => ?_) fun _ => ?_)
    | with_reducible exact h
    | with_reducible apply State.perf_keeps
    | with_reducible apply State.memIn_keeps
    | with_reducible apply State.tlpRefuse_keeps
    | with_reducible apply State.acsBlock_keeps
    | with_reducible apply State.completionIn_keeps
    | with_reducible apply State.configIn_keeps
    | with_reducible apply State.errorIn_keeps
    | with_reducible apply State.aerSet_keeps
    | with_reducible apply State.tlpSend_keeps
    | split

theorem execTlpReceive_keeps {z : State} (n : Fin 40) (t : Tlp) (br : Option (BridgeSel × BridgeReg)) (s : State) (hs : Keeps True z s) {t0 : State}
    (e0 : execTlpReceive n t br s = .next t0) : Keeps True z t0 := by
  unfold execTlpReceive whenRunning at e0
  cases e0
  repeat' first
    | (with_reducible refine keeps_ite (fun _ => ?_) fun _ => ?_)
    | with_reducible exact hs
    | with_reducible apply State.set_keeps
    | with_reducible apply State.modPcie_keeps
    | with_reducible apply State.hpNotice_keeps
    | with_reducible apply State.bridgeWrite_keeps
    | with_reducible apply State.tlpSend_keeps
    | with_reducible apply State.tlpIn_keeps
    | split

theorem execIdeKmMessage_keeps {z : State} (n : Fin 40) (good : Bool) (s : State) (hs : Keeps True z s) {t0 : State}
    (e0 : execIdeKmMessage n good s = .next t0) : Keeps True z t0 := by
  unfold execIdeKmMessage whenRunning at e0
  cases e0
  repeat' first
    | (with_reducible refine keeps_ite (fun _ => ?_) fun _ => ?_)
    | with_reducible exact hs
    | with_reducible apply State.set_keeps
    | with_reducible apply State.modPcie_keeps
    | with_reducible apply State.emit_keeps
    | with_reducible apply State.hpNotice_keeps

theorem State.svfHeaderWrite_keeps {z : State} (s : State) (k off v : Nat) (t : Tlp) (h : Keeps True z s) : Keeps True z (State.svfHeaderWrite s k off v t) := by
  unfold State.svfHeaderWrite
  repeat' first
    | (fail_if_no_progress extract_lets)
    | with_reducible exact h
    | with_reducible apply State.modPcie_keeps
    | with_reducible apply State.tlpSend_keeps
    | split

theorem execSharedVfConfigRequest_keeps {z : State} (p : Fin 16) (vfunc : Fin 256) (t : Tlp) (s : State) (hs : Keeps True z s) {t0 : State}
    (e0 : execSharedVfConfigRequest p vfunc t s = .next t0) : Keeps True z t0 := by
  unfold execSharedVfConfigRequest whenRunning at e0
  cases e0
  repeat' first
    | (with_reducible refine keeps_ite (fun _ => ?_) fun _ => ?_)
    | with_reducible exact hs
    | with_reducible apply State.tlpSend_keeps
    | with_reducible apply State.svfHeaderWrite_keeps
    | with_reducible apply State.tlpForward_keeps
    | split
    | (dsimp +zetaDelta only; split)

theorem State.svfDisable_keeps {tw : Prop} {z : State} (s : State) (k : Nat) (h : Keeps tw z s) : Keeps tw z (State.svfDisable s k) := by
  unfold State.svfDisable
  repeat' first
    | (fail_if_no_progress extract_lets)
    | (with_reducible refine keeps_ite (fun _ => ?_) fun _ => ?_)
    | with_reducible exact h
    | with_reducible apply State.set_keeps
    | with_reducible apply State.modPcie_keeps
    | with_reducible apply State.emit_keeps

theorem execSvfDisable_keeps {tw : Prop} {z : State} (rq : Requester) (k : Fin 256) (s : State) (hs : Keeps tw z s) {t0 : State}
    (e0 : execSvfDisable rq k s = .next t0) : Keeps tw z t0 := by
  unfold execSvfDisable whenRunning at e0
  cases e0
  repeat' first
    | (with_reducible refine keeps_ite (fun _ => ?_) fun _ => ?_)
    | with_reducible exact hs
    | with_reducible assumption
    | with_reducible apply State.writeAs_keeps
    | with_reducible apply State.svfDisable_keeps
    | intro _ _

theorem State.slotNotice_keeps {tw : Prop} {z : State} (s : State) (n : Nat) (pres dll : Bool) (h : Keeps tw z s) : Keeps tw z (State.slotNotice s n pres dll) := by
  unfold State.slotNotice
  repeat' first
    | (fail_if_no_progress extract_lets)
    | (with_reducible refine keeps_ite (fun _ => ?_) fun _ => ?_)
    | with_reducible exact h
    | with_reducible apply State.modBridge_keeps
    | with_reducible apply State.emit_keeps

theorem execPcieLinkUp_keeps {tw : Prop} {z : State} (n : Fin 40) (sense : PortSense) (speed : Fin 7) (width : Fin 5) (flit : Bool) (s : State) (hs : Keeps tw z s) {t0 : State}
    (e0 : execPcieLinkUp n sense speed width flit s = .next t0) : Keeps tw z t0 := by
  unfold execPcieLinkUp whenRunning at e0
  cases e0
  repeat' first
    | (fail_if_no_progress extract_lets)
    | (with_reducible refine keeps_ite (fun _ => ?_) fun _ => ?_)
    | with_reducible exact hs
    | with_reducible apply State.set_keeps
    | with_reducible apply State.modPcie_keeps
    | with_reducible apply State.slotNotice_keeps

theorem execHotplugPresenceChange_keeps {z : State} (n : Fin 40) (sense : PortSense) (s : State) (hs : Keeps True z s) {t0 : State}
    (e0 : execHotplugPresenceChange n sense s = .next t0) : Keeps True z t0 := by
  unfold execHotplugPresenceChange whenRunning at e0
  cases e0
  repeat' first
    | (fail_if_no_progress extract_lets)
    | (with_reducible refine keeps_ite (fun _ => ?_) fun _ => ?_)
    | with_reducible exact hs
    | with_reducible apply State.set_keeps
    | with_reducible apply State.slotNotice_keeps
    | with_reducible apply State.dpcEnter_keeps
    | with_reducible apply State.sharedLost_keeps
    | with_reducible apply State.pendDrop_keeps

theorem State.partReset_keeps {z : State} (s : State) (p u : Nat) (h : Keeps True z s) : Keeps True z (State.partReset s p u) := by
  unfold State.partReset
  repeat' first
    | (fail_if_no_progress extract_lets)
    | (with_reducible refine keeps_ite (fun _ => ?_) fun _ => ?_)
    | with_reducible exact h
    | with_reducible assumption
    | with_reducible apply State.modBridge_keeps
    | with_reducible apply State.emit_keeps
    | with_reducible apply State.fnReset_keeps
    | with_reducible apply State.pendDrop_keeps
    | with_reducible apply State.set_keeps
    | (with_reducible refine keeps_foldl _ _ ?_ ?_)
    | intro _ _ _

theorem execPartitionReset_keeps {z : State} (p : Fin 16) (why : Fin 3) (s : State) (hs : Keeps True z s) {t0 : State}
    (e0 : execPartitionReset p why s = .next t0) : Keeps True z t0 := by
  unfold execPartitionReset at e0
  cases e0
  repeat' first
    | (with_reducible refine keeps_ite (fun _ => ?_) fun _ => ?_)
    | with_reducible exact hs
    | with_reducible apply State.modPcie_keeps
    | with_reducible apply State.partReset_keeps
    | split

theorem State.nfWindow_keeps {tw : Prop} {z : State} (s : State) (p : Nat) (h : Keeps tw z s) : Keeps tw z (State.nfWindow s p) := by
  unfold State.nfWindow
  repeat' first
    | (with_reducible refine keeps_ite (fun _ => ?_) fun _ => ?_)
    | with_reducible exact h
    | with_reducible apply State.modPcie_keeps

theorem execHostPerstRelease_keeps {tw : Prop} {z : State} (p : Fin 16) (s : State) (hs : Keeps tw z s) {t0 : State}
    (e0 : execHostPerstRelease p s = .next t0) : Keeps tw z t0 := by
  unfold execHostPerstRelease at e0
  cases e0
  repeat' first
    | (with_reducible refine keeps_ite (fun _ => ?_) fun _ => ?_)
    | with_reducible exact hs
    | with_reducible apply State.modPcie_keeps
    | with_reducible apply State.nfWindow_keeps

theorem execNfReady_keeps {tw : Prop} {z : State} (p : Fin 16) (s : State) (hs : Keeps tw z s) {t0 : State}
    (e0 : execNfReady p s = .next t0) : Keeps tw z t0 := by
  unfold execNfReady whenRunning at e0
  cases e0
  repeat' first
    | (with_reducible refine keeps_ite (fun _ => ?_) fun _ => ?_)
    | with_reducible exact hs
    | with_reducible apply State.modPcie_keeps

theorem execDevPerstRelease_keeps {tw : Prop} {z : State} (n : Fin 40) (s : State) (hs : Keeps tw z s) {t0 : State}
    (e0 : execDevPerstRelease n s = .next t0) : Keeps tw z t0 := by
  unfold execDevPerstRelease whenRunning at e0
  cases e0
  repeat' first
    | (with_reducible refine keeps_ite (fun _ => ?_) fun _ => ?_)
    | with_reducible exact hs
    | with_reducible apply State.modPcie_keeps
    | with_reducible apply State.emit_keeps

theorem execPtmRequestReceive_keeps {tw : Prop} {z : State} (n : Fin 40) (ck : Nat) (s : State) (hs : Keeps tw z s) {t0 : State}
    (e0 : execPtmRequestReceive n ck s = .next t0) : Keeps tw z t0 := by
  unfold execPtmRequestReceive whenRunning at e0
  cases e0
  repeat' first
    | (with_reducible refine keeps_ite (fun _ => ?_) fun _ => ?_)
    | with_reducible exact hs
    | with_reducible apply State.emit_keeps

theorem State.perstFollow_keeps {tw : Prop} {z : State} (s : State) (n : Nat) (h : Keeps tw z s) : Keeps tw z (State.perstFollow s n) := by
  unfold State.perstFollow
  repeat' first
    | (with_reducible refine keeps_ite (fun _ => ?_) fun _ => ?_)
    | with_reducible exact h
    | with_reducible apply State.modPcie_keeps
    | with_reducible apply State.emit_keeps

theorem State.partCfgWrite_keeps {tw : Prop} {z : State} (s : State) (p : Nat) (v : Word) (h : Keeps tw z s) : Keeps tw z (State.partCfgWrite s p v) := by
  unfold State.partCfgWrite
  repeat' first
    | (fail_if_no_progress extract_lets)
    | (with_reducible refine keeps_ite (fun _ => ?_) fun _ => ?_)
    | with_reducible exact h
    | with_reducible apply State.wr_keeps
    | with_reducible apply State.set_keeps
    | with_reducible apply State.nfWindow_keeps
    | with_reducible apply State.modPcie_keeps
    | (dsimp +zetaDelta only; split)

theorem execPartitionEnable_keeps {tw : Prop} {z : State} (rq : Requester) (p : Fin 16) (v : Word) (s : State) (hs : Keeps tw z s) {t0 : State}
    (e0 : execPartitionEnable rq p v s = .next t0) : Keeps tw z t0 := by
  unfold execPartitionEnable whenRunning at e0
  cases e0
  repeat' first
    | (fail_if_no_progress extract_lets)
    | (with_reducible refine keeps_ite (fun _ => ?_) fun _ => ?_)
    | with_reducible exact hs
    | with_reducible assumption
    | with_reducible apply State.writeAs_keeps
    | with_reducible apply State.partCfgWrite_keeps
    | intro _ _

theorem State.svfCtrlWrite_keeps {tw : Prop} {z : State} (s : State) (k : Nat) (v : Word) (h : Keeps tw z s) : Keeps tw z (State.svfCtrlWrite s k v) := by
  unfold State.svfCtrlWrite
  repeat' first
    | (with_reducible refine keeps_ite (fun _ => ?_) fun _ => ?_)
    | with_reducible exact h
    | with_reducible apply State.svfDisable_keeps
    | with_reducible apply State.wr_keeps

end Sys2Proof.Machine
end

