-- ==== Sys2Proof/Laws/KeepsLantern.lean ====
section
/-! SUPPORT. Every operation of Machine/Lantern.lean keeps the queue, the canonical form of the memory, the count of free values
drawn and what has left the part (Keeps). -/
namespace Sys2Proof.Machine

open Sys2Proof

theorem State.modLantern_keeps {tw : Prop} {z : State} (s : State) (g : LanternSt → LanternSt) (h : Keeps tw z s) : Keeps tw z (State.modLantern s g) := by
  unfold State.modLantern
  repeat' first
    | with_reducible exact h
    | with_reducible apply keeps_mk

theorem State.dieOccur_keeps {z : State} (s : State) (d context : Nat) (h : Keeps True z s) : Keeps True z (State.dieOccur s d context) := by
  unfold State.dieOccur
  repeat' first
    | with_reducible exact h
    | with_reducible apply State.occur_keeps
    | with_reducible apply keeps_id

theorem State.sensorTake_keeps {z : State} (s : State) (i : TickInput) (r : Nat × Int) (h : Keeps True z s) : Keeps True z (State.sensorTake s i r) := by
  unfold State.sensorTake
  repeat' first
    | (fail_if_no_progress extract_lets)
    | (with_reducible refine keeps_ite (fun _ => ?_) fun _ => ?_)
    | with_reducible exact h
    | with_reducible apply State.modLantern_keeps
    | with_reducible apply State.cnt_keeps
    | with_reducible apply State.dieOccur_keeps
    | with_reducible apply State.set_keeps

theorem State.dieTake_keeps {tw : Prop} {z : State} (s : State) (i : TickInput) (d : Nat) (h : Keeps tw z s) : Keeps tw z (State.dieTake s i d) := by
  unfold State.dieTake
  repeat' first
    | (fail_if_no_progress extract_lets)
    | with_reducible exact h
    | with_reducible apply State.modLantern_keeps
    | with_reducible apply State.set_keeps

theorem State.heatCheck_keeps {z : State} (s : State) (d : Nat) (h : Keeps True z s) : Keeps True z (State.heatCheck s d) := by
  unfold State.heatCheck
  repeat' first
    | (fail_if_no_progress extract_lets)
    | (with_reducible refine keeps_ite (fun _ => ?_) fun _ => ?_)
    | with_reducible exact h
    | with_reducible apply State.set_keeps
    | with_reducible apply State.cnt_keeps
    | with_reducible apply State.raise_keeps
    | with_reducible apply State.modLantern_keeps

theorem State.poolUpdate_keeps {tw : Prop} {z : State} (s : State) (h : Keeps tw z s) : Keeps tw z (State.poolUpdate s) := by
  unfold State.poolUpdate
  repeat' first
    | (fail_if_no_progress extract_lets)
    | with_reducible exact h
    | with_reducible apply State.modLantern_keeps
    | with_reducible apply State.set_keeps

theorem State.allotDivide_keeps {tw : Prop} {z : State} (s : State) (h : Keeps tw z s) : Keeps tw z (State.allotDivide s) := by
  unfold State.allotDivide
  repeat' first
    | (fail_if_no_progress extract_lets)
    | (with_reducible refine keeps_ite (fun _ => ?_) fun _ => ?_)
    | with_reducible exact h
    | with_reducible assumption
    | with_reducible apply State.set_keeps
    | (with_reducible refine keeps_foldl _ _ ?_ ?_)
    | intro _ _ _

theorem State.tokenCosts_keeps {tw : Prop} {z : State} (s : State) (h : Keeps tw z s) : Keeps tw z (State.tokenCosts s) := by
  unfold State.tokenCosts
  repeat' first
    | (fail_if_no_progress extract_lets)
    | with_reducible exact h
    | with_reducible assumption
    | with_reducible apply State.set_keeps
    | (with_reducible refine keeps_foldl _ _ ?_ ?_)
    | intro _ _ _

theorem State.riseDone_keeps {tw : Prop} {z : State} (s : State) (d : Nat) (h : Keeps tw z s) : Keeps tw z (State.riseDone s d) := by
  unfold State.riseDone
  repeat' first
    | (fail_if_no_progress extract_lets)
    | (with_reducible refine keeps_ite (fun _ => ?_) fun _ => ?_)
    | with_reducible exact h
    | with_reducible assumption
    | with_reducible apply State.set_keeps
    | with_reducible apply State.modLantern_keeps
    | (with_reducible refine keeps_foldl _ _ ?_ ?_)
    | intro _ _ _

theorem State.codeStep_keeps {tw : Prop} {z : State} (s : State) (busy : Nat → Bool) (c : Nat) (h : Keeps tw z s) : Keeps tw z (State.codeStep s busy c) := by
  unfold State.codeStep
  repeat' first
    | (fail_if_no_progress extract_lets)
    | (with_reducible refine keeps_ite (fun _ => ?_) fun _ => ?_)
    | with_reducible exact h
    | with_reducible apply State.set_keeps
    | with_reducible apply State.modLantern_keeps

theorem State.voltRequest_keeps {tw : Prop} {z : State} (s : State) (d : Nat) (h : Keeps tw z s) : Keeps tw z (State.voltRequest s d) := by
  unfold State.voltRequest
  repeat' first
    | (fail_if_no_progress extract_lets)
    | (with_reducible refine keeps_ite (fun _ => ?_) fun _ => ?_)
    | with_reducible exact h
    | with_reducible apply State.modLantern_keeps
    | with_reducible apply State.set_keeps
    | with_reducible apply State.emit_keeps

theorem State.freqUpdate_keeps {tw : Prop} {z : State} (s : State) (h : Keeps tw z s) : Keeps tw z (State.freqUpdate s) := by
  unfold State.freqUpdate
  repeat' first
    | (fail_if_no_progress extract_lets)
    | with_reducible exact h
    | with_reducible assumption
    | with_reducible apply State.riseDone_keeps
    | with_reducible apply State.codeStep_keeps
    | with_reducible apply State.voltRequest_keeps
    | (with_reducible refine keeps_foldl _ _ ?_ ?_)
    | intro _ _ _

theorem State.emergencyClocks_keeps {tw : Prop} {z : State} (s : State) (h : Keeps tw z s) : Keeps tw z (State.emergencyClocks s) := by
  unfold State.emergencyClocks
  repeat' first
    | (with_reducible refine keeps_ite (fun _ => ?_) fun _ => ?_)
    | with_reducible exact h
    | with_reducible assumption
    | with_reducible apply State.set_keeps
    | with_reducible apply State.modLantern_keeps
    | (with_reducible refine keeps_foldl _ _ ?_ ?_)
    | intro _ _ _

theorem State.placeUpdate_keeps {tw : Prop} {z : State} (s : State) (h : Keeps tw z s) : Keeps tw z (State.placeUpdate s) := by
  unfold State.placeUpdate
  repeat' first
    | (fail_if_no_progress extract_lets)
    | (with_reducible refine keeps_ite (fun _ => ?_) fun _ => ?_)
    | with_reducible exact h
    | with_reducible assumption
    | with_reducible apply State.set_keeps
    | with_reducible apply State.cnt_keeps
    | (with_reducible refine keeps_foldl _ _ ?_ ?_)
    | intro _ _ _

theorem State.widenRequest_keeps {tw : Prop} {z : State} (s : State) (p set : Nat) (h : Keeps tw z s) : Keeps tw z (State.widenRequest s p set) := by
  unfold State.widenRequest
  repeat' first
    | (fail_if_no_progress extract_lets)
    | with_reducible exact h
    | with_reducible apply State.modPort_keeps
    | with_reducible apply State.setLanes_keeps
    | with_reducible apply State.widthColumn_keeps

theorem State.narrowStep_keeps {tw : Prop} {z : State} (s : State) (i : TickInput) (p : Nat) (h : Keeps tw z s) : Keeps tw z (State.narrowStep s i p) := by
  unfold State.narrowStep
  repeat' first
    | (fail_if_no_progress extract_lets)
    | (with_reducible refine keeps_ite (fun _ => ?_) fun _ => ?_)
    | with_reducible exact h
    | with_reducible apply State.modPort_keeps
    | with_reducible apply State.widenRequest_keeps
    | split

theorem execLaneNarrowRequest_keeps {tw : Prop} {z : State} (p : Fin 256) (s : State) (hs : Keeps tw z s) {t0 : State}
    (e0 : execLaneNarrowRequest p s = .next t0) : Keeps tw z t0 := by
  unfold execLaneNarrowRequest whenRunning at e0
  cases e0
  repeat' first
    | (with_reducible refine keeps_ite (fun _ => ?_) fun _ => ?_)
    | with_reducible exact hs
    | with_reducible apply State.modPort_keeps
    | with_reducible apply State.widthRequest_keeps
    | (dsimp +zetaDelta only; split)

theorem State.unmetUpdate_keeps {tw : Prop} {z : State} (s : State) (h : Keeps tw z s) : Keeps tw z (State.unmetUpdate s) := by
  unfold State.unmetUpdate
  repeat' first
    | (fail_if_no_progress extract_lets)
    | (with_reducible refine keeps_ite (fun _ => ?_) fun _ => ?_)
    | with_reducible exact h
    | with_reducible apply State.modLantern_keeps
    | with_reducible apply State.set_keeps

theorem execPowerLimitUnmet_keeps {z : State}  (s : State) (hs : Keeps True z s) {t0 : State}
    (e0 : execPowerLimitUnmet s = .next t0) : Keeps True z t0 := by
  unfold execPowerLimitUnmet whenRunning at e0
  cases e0
  repeat' first
    | (with_reducible refine keeps_ite (fun _ => ?_) fun _ => ?_)
    | with_reducible exact hs
    | with_reducible apply State.set_keeps
    | with_reducible apply State.cnt_keeps
    | with_reducible apply State.occur_keeps
    | with_reducible apply keeps_id

theorem execSafeClocks_keeps {tw : Prop} {z : State}  (s : State) (hs : Keeps tw z s) {t0 : State}
    (e0 : execSafeClocks s = .next t0) : Keeps tw z t0 := by
  unfold execSafeClocks whenRunning at e0
  cases e0
  repeat' first
    | (fail_if_no_progress extract_lets)
    | (with_reducible refine keeps_ite (fun _ => ?_) fun _ => ?_)
    | with_reducible exact hs
    | with_reducible assumption
    | with_reducible apply State.set_keeps
    | with_reducible apply State.modLantern_keeps
    | (with_reducible refine keeps_foldl _ _ ?_ ?_)
    | intro _ _ _

theorem State.lanternCompute_keeps {tw : Prop} {z : State} (s : State) (i : TickInput) (h : Keeps tw z s) : Keeps tw z (State.lanternCompute s i) := by
  unfold State.lanternCompute
  repeat' first
    | (fail_if_no_progress extract_lets)
    | with_reducible exact h
    | with_reducible assumption
    | with_reducible apply State.modLantern_keeps
    | with_reducible apply State.set_keeps
    | with_reducible apply State.poolUpdate_keeps
    | with_reducible apply State.freqUpdate_keeps
    | with_reducible apply State.allotDivide_keeps
    | with_reducible apply State.tokenCosts_keeps
    | with_reducible apply State.placeUpdate_keeps
    | with_reducible apply State.narrowStep_keeps
    | with_reducible apply State.unmetUpdate_keeps
    | (with_reducible refine keeps_foldl _ _ ?_ ?_)
    | intro _ _ _

theorem State.lanternTurnover_keeps {z : State} (s : State) (i : TickInput) (h : Keeps True z s) : Keeps True z (State.lanternTurnover s i) := by
  unfold State.lanternTurnover
  repeat' first
    | (fail_if_no_progress extract_lets)
    | (with_reducible refine keeps_ite (fun _ => ?_) fun _ => ?_)
    | with_reducible exact h
    | with_reducible assumption
    | with_reducible apply State.sensorTake_keeps
    | with_reducible apply State.dieTake_keeps
    | with_reducible apply State.heatCheck_keeps
    | with_reducible apply State.modLantern_keeps
    | with_reducible apply State.emergencyClocks_keeps
    | with_reducible apply State.lanternCompute_keeps
    | (with_reducible refine keeps_foldl _ _ ?_ ?_)
    | intro _ _ _

theorem State.gainUpdate_keeps {z : State} (s : State) (d : Nat) (iout : Option Nat) (h : Keeps True z s) : Keeps True z (State.gainUpdate s d iout) := by
  unfold State.gainUpdate
  repeat' first
    | (fail_if_no_progress extract_lets)
    | (with_reducible refine keeps_ite (fun _ => ?_) fun _ => ?_)
    | with_reducible exact h
    | with_reducible apply State.cnt_keeps
    | with_reducible apply State.dieOccur_keeps
    | with_reducible apply State.modLantern_keeps
    | with_reducible apply State.set_keeps
    | split

theorem execPmbusPoll_keeps {z : State} (reads : List (Fin 13 × Option Nat)) (s : State) (hs : Keeps True z s) {t0 : State}
    (e0 : execPmbusPoll reads s = .next t0) : Keeps True z t0 := by
  unfold execPmbusPoll whenRunning at e0
  cases e0
  repeat' first
    | (with_reducible refine keeps_ite (fun _ => ?_) fun _ => ?_)
    | with_reducible exact hs
    | with_reducible assumption
    | with_reducible apply State.gainUpdate_keeps
    | (with_reducible refine keeps_foldl _ _ ?_ ?_)
    | intro _ _ _

theorem execAvsSettled_keeps {tw : Prop} {z : State} (d : Fin 13) (s : State) (hs : Keeps tw z s) {t0 : State}
    (e0 : execAvsSettled d s = .next t0) : Keeps tw z t0 := by
  unfold execAvsSettled whenRunning at e0
  cases e0
  repeat' first
    | (with_reducible refine keeps_ite (fun _ => ?_) fun _ => ?_)
    | with_reducible exact hs
    | with_reducible apply State.modLantern_keeps

theorem execVSettleTimeout_keeps {z : State} (d : Fin 13) (s : State) (hs : Keeps True z s) {t0 : State}
    (e0 : execVSettleTimeout d s = .next t0) : Keeps True z t0 := by
  unfold execVSettleTimeout whenRunning at e0
  cases e0
  repeat' first
    | (fail_if_no_progress extract_lets)
    | (with_reducible refine keeps_ite (fun _ => ?_) fun _ => ?_)
    | with_reducible exact hs
    | with_reducible assumption
    | with_reducible apply State.set_keeps
    | with_reducible apply State.modLantern_keeps
    | with_reducible apply State.cnt_keeps
    | with_reducible apply State.dieOccur_keeps
    | (with_reducible refine keeps_foldl _ _ ?_ ?_)
    | intro _ _ _

theorem State.tripNow_keeps {z : State} (s : State) (k : Nat) (h : Keeps True z s) : Keeps True z (State.tripNow s k) := by
  unfold State.tripNow
  repeat' first
    | (fail_if_no_progress extract_lets)
    | (with_reducible refine keeps_ite (fun _ => ?_) fun _ => ?_)
    | with_reducible exact h
    | with_reducible apply State.emit_keeps
    | with_reducible apply State.safeState_keeps
    | with_reducible apply State.faultMark_keeps
    | with_reducible apply keeps_mk

theorem execThermalTrip_keeps {z : State} (k : Fin 208) (s : State) (hs : Keeps True z s) {t0 : State}
    (e0 : execThermalTrip k s = .next t0) : Keeps True z t0 := by
  unfold execThermalTrip whenPowered at e0
  cases e0
  repeat' first
    | (with_reducible refine keeps_ite (fun _ => ?_) fun _ => ?_)
    | with_reducible exact hs
    | with_reducible apply State.tripNow_keeps

end Sys2Proof.Machine
end

