-- ==== Sys2Proof/Laws/KeepsFault.lean ====
section
/-! SUPPORT. Every operation of Machine/Fault.lean keeps the queue, the canonical form of the memory, the count of free values
drawn and what has left the part (Keeps). -/
namespace Sys2Proof.Machine

open Sys2Proof

theorem State.modFlt_keeps {tw : Prop} {z : State} (s : State) (g : FaultSt → FaultSt) (h : Keeps tw z s) : Keeps tw z (State.modFlt s g) := by
  unfold State.modFlt
  repeat' first
    | with_reducible exact h
    | with_reducible apply keeps_mk

theorem State.bankDegraded_keeps {tw : Prop} {z : State} (s : State) (d : Nat) (h : Keeps tw z s) : Keeps tw z (State.bankDegraded s d) := by
  unfold State.bankDegraded
  repeat' first
    | (fail_if_no_progress extract_lets)
    | with_reducible exact h
    | with_reducible apply State.set_keeps

theorem State.zeroBank_keeps {z : State} (s : State) (k : Nat) (h : Keeps True z s) : Keeps True z (State.zeroBank s k) := by
  unfold State.zeroBank
  exact keeps_mem h rfl (fun w => foldPut_wf _ _ _ (filter_wf _ w)) rfl rfl

theorem State.poisonBank_keeps {tw : Prop} {z : State} (s : State) (k : Nat) (h : Keeps tw z s) : Keeps tw z (State.poisonBank s k) := by
  unfold State.poisonBank
  repeat' first
    | with_reducible exact h
    | with_reducible apply keeps_mk

theorem State.entryLost_keeps {tw : Prop} {z : State} (s : State) (e : EntryRef) (h : Keeps tw z s) : Keeps tw z (State.entryLost s e) := by
  unfold State.entryLost
  repeat' first
    | (with_reducible refine keeps_ite (fun _ => ?_) fun _ => ?_)
    | with_reducible exact h
    | with_reducible apply State.completeEntry_keeps
    | with_reducible apply State.modRing_keeps
    | with_reducible apply State.hostRead_keeps
    | split

theorem State.releaseBank_keeps {tw : Prop} {z : State} (s : State) (k : Nat) (h : Keeps tw z s) : Keeps tw z (State.releaseBank s k) := by
  unfold State.releaseBank
  repeat' first
    | (fail_if_no_progress extract_lets)
    | (with_reducible refine keeps_ite (fun _ => ?_) fun _ => ?_)
    | with_reducible exact h
    | with_reducible assumption
    | with_reducible apply State.modFlt_keeps
    | with_reducible apply State.emit_keeps
    | (with_reducible refine keeps_foldl _ _ ?_ ?_)
    | intro _ _ _

theorem State.bankMap_keeps {tw : Prop} {z : State} (s : State) (k : Nat) (h : Keeps tw z s) : Keeps tw z (State.bankMap s k) := by
  unfold State.bankMap
  repeat' first
    | (fail_if_no_progress extract_lets)
    | (with_reducible refine keeps_ite (fun _ => ?_) fun _ => ?_)
    | with_reducible exact h
    | with_reducible apply State.modFlt_keeps
    | with_reducible apply State.cnt_keeps
    | with_reducible apply State.bankDegraded_keeps
    | with_reducible apply State.releaseBank_keeps

theorem State.bankResv_keeps {tw : Prop} {z : State} (s : State) (k : Nat) (h : Keeps tw z s) : Keeps tw z (State.bankResv s k) := by
  unfold State.bankResv
  exact State.mapThreads_keeps _ _ h

theorem State.bankRetire_keeps {z : State} (s : State) (k : Nat) (i : FaultInfo) (h : Keeps True z s) : Keeps True z (State.bankRetire s k i) := by
  unfold State.bankRetire
  repeat' first
    | (fail_if_no_progress extract_lets)
    | (with_reducible refine keeps_ite (fun _ => ?_) fun _ => ?_)
    | with_reducible exact h
    | with_reducible assumption
    | with_reducible apply State.emit_keeps
    | with_reducible apply State.zeroBank_keeps
    | with_reducible apply State.poisonBank_keeps
    | with_reducible apply State.bankResv_keeps
    | with_reducible apply State.connError_keeps
    | with_reducible apply State.entryLost_keeps
    | with_reducible apply State.modFlt_keeps
    | with_reducible apply State.bankMap_keeps
    | (with_reducible refine keeps_foldl _ _ ?_ ?_)
    | intro _ _ _

theorem State.nextRetire_keeps {tw : Prop} {z : State} (s : State) (d : Nat) (h : Keeps tw z s) : Keeps tw z (State.nextRetire s d) := by
  unfold State.nextRetire
  repeat' first
    | (with_reducible refine keeps_ite (fun _ => ?_) fun _ => ?_)
    | with_reducible exact h
    | with_reducible assumption
    | with_reducible apply State.modFlt_keeps
    | with_reducible apply State.bankMap_keeps
    | (with_reducible refine keeps_foldl _ _ ?_ ?_)
    | intro _ _ _

theorem execBankRestoreComplete_keeps {tw : Prop} {z : State} (k : Fin 128) (s : State) (hs : Keeps tw z s) {t0 : State}
    (e0 : execBankRestoreComplete k s = .next t0) : Keeps tw z t0 := by
  unfold execBankRestoreComplete whenRunning at e0
  cases e0
  repeat' first
    | (with_reducible refine keeps_ite (fun _ => ?_) fun _ => ?_)
    | with_reducible exact hs
    | with_reducible apply State.releaseBank_keeps
    | with_reducible apply State.nextRetire_keeps

theorem State.mirrorStart_keeps {tw : Prop} {z : State} (s : State) (h : Keeps tw z s) : Keeps tw z (State.mirrorStart s) := by
  unfold State.mirrorStart
  repeat' first
    | with_reducible exact h
    | with_reducible apply State.set_keeps
    | with_reducible apply State.modFlt_keeps

theorem State.mirrorError_keeps {tw : Prop} {z : State} (s : State) (h : Keeps tw z s) : Keeps tw z (State.mirrorError s) := by
  unfold State.mirrorError
  repeat' first
    | (with_reducible refine keeps_ite (fun _ => ?_) fun _ => ?_)
    | with_reducible exact h
    | with_reducible apply State.mirrorStart_keeps
    | with_reducible apply State.cnt_keeps
    | with_reducible apply State.set_keeps

theorem State.recordReject_keeps {tw : Prop} {z : State} (s : State) (n : Nat) (h : Keeps tw z s) : Keeps tw z (State.recordReject s n) := by
  unfold State.recordReject
  repeat' first
    | (fail_if_no_progress extract_lets)
    | with_reducible exact h
    | with_reducible apply State.set_keeps
    | with_reducible apply keeps_mk

theorem State.heldRelease_keeps {z : State} : ∀ (l : List (Nat × Nat × Word)) (s : State), Keeps True z s → Keeps True z (State.heldRelease l s)
  | [], s, h => by
    unfold State.heldRelease
    repeat' first
      | (fail_if_no_progress extract_lets)
      | with_reducible exact h
      | with_reducible apply keeps_mk
  | (n, p, v) :: l, s, h => by
    unfold State.heldRelease
    repeat' first
      | (with_reducible refine keeps_ite (fun _ => ?_) fun _ => ?_)
      | with_reducible exact h
      | with_reducible apply State.portCtrlWrite_keeps
      | with_reducible apply State.wsRecord_keeps
      | with_reducible apply State.recordReject_keeps
      | with_reducible apply State.heldRelease_keeps

theorem State.mirrorWrite_keeps {z : State} (s : State) (v : Word) (h : Keeps True z s) : Keeps True z (State.mirrorWrite s v) := by
  unfold State.mirrorWrite
  repeat' first
    | (fail_if_no_progress extract_lets)
    | (with_reducible refine keeps_ite (fun _ => ?_) fun _ => ?_)
    | with_reducible exact h
    | with_reducible apply State.wr_keeps
    | with_reducible apply State.mirrorStart_keeps
    | with_reducible apply State.heldRelease_keeps
    | with_reducible apply State.set_keeps
    | with_reducible apply State.modFlt_keeps

theorem execMirrorEnable_keeps {z : State} (rq : Requester) (v : Word) (s : State) (hs : Keeps True z s) {t0 : State}
    (e0 : execMirrorEnable rq v s = .next t0) : Keeps True z t0 := by
  unfold execMirrorEnable whenServed at e0
  cases e0
  repeat' first
    | (fail_if_no_progress extract_lets)
    | (with_reducible refine keeps_ite (fun _ => ?_) fun _ => ?_)
    | with_reducible exact hs
    | with_reducible assumption
    | with_reducible apply State.writeAs_keeps
    | with_reducible apply State.mirrorWrite_keeps
    | intro _ _

theorem execMirrorSyncComplete_keeps {tw : Prop} {z : State}  (s : State) (hs : Keeps tw z s) {t0 : State}
    (e0 : execMirrorSyncComplete s = .next t0) : Keeps tw z t0 := by
  unfold execMirrorSyncComplete whenRunning at e0
  cases e0
  repeat' first
    | (with_reducible refine keeps_ite (fun _ => ?_) fun _ => ?_)
    | with_reducible exact hs
    | with_reducible apply State.emit_keeps
    | with_reducible apply State.set_keeps
    | with_reducible apply State.modFlt_keeps

theorem execMirrorWriteError_keeps {z : State}  (s : State) (hs : Keeps True z s) {t0 : State}
    (e0 : execMirrorWriteError s = .next t0) : Keeps True z t0 := by
  unfold execMirrorWriteError whenRunning at e0
  cases e0
  repeat' first
    | (with_reducible refine keeps_ite (fun _ => ?_) fun _ => ?_)
    | with_reducible exact hs
    | with_reducible apply State.occur_keeps
    | with_reducible apply State.mirrorError_keeps

theorem State.packetEnd_keeps {tw : Prop} {z : State} (s : State) (id : Nat) (h : Keeps tw z s) : Keeps tw z (State.packetEnd s id) := by
  unfold State.packetEnd
  repeat' first
    | (fail_if_no_progress extract_lets)
    | (with_reducible refine keeps_ite (fun _ => ?_) fun _ => ?_)
    | with_reducible exact h
    | with_reducible assumption
    | with_reducible apply State.abortTx_keeps
    | with_reducible apply State.unstage_keeps
    | with_reducible apply State.releasePkt_keeps
    | with_reducible apply State.modCore_keeps
    | with_reducible apply State.modPort_keeps
    | (with_reducible refine keeps_foldl _ _ ?_ ?_)
    | intro _ _ _
    | split

theorem State.pipeLoss_keeps {tw : Prop} {z : State} (s : State) (pipe : Nat) (h : Keeps tw z s) : Keeps tw z (State.pipeLoss s pipe) := by
  unfold State.pipeLoss
  repeat' first
    | (fail_if_no_progress extract_lets)
    | with_reducible exact h
    | with_reducible assumption
    | with_reducible apply State.modConn_keeps
    | (with_reducible refine keeps_foldl _ _ ?_ ?_)
    | intro _ _ _
    | with_reducible apply keeps_mk

theorem State.tlbLoss_keeps {tw : Prop} {z : State} (s : State) (t : Nat) (h : Keeps tw z s) : Keeps tw z (State.tlbLoss s t) := by
  unfold State.tlbLoss
  repeat' first
    | (fail_if_no_progress extract_lets)
    | with_reducible exact h
    | (dsimp +zetaDelta only; split)
    | with_reducible apply keeps_mk

theorem State.lockUnitLoss_keeps {z : State} (s : State) (u : Nat) (h : Keeps True z s) : Keeps True z (State.lockUnitLoss s u) := by
  unfold State.lockUnitLoss
  repeat' first
    | (fail_if_no_progress extract_lets)
    | with_reducible exact h
    | with_reducible assumption
    | with_reducible apply State.lockAnswer_keeps
    | with_reducible apply State.lockPass_keeps
    | with_reducible apply State.cnt_keeps
    | (with_reducible refine keeps_foldl _ _ ?_ ?_)
    | intro _ _ _
    | with_reducible apply keeps_mk

theorem State.columnLoss_keeps {tw : Prop} {z : State} (s : State) (d col : Nat) (h : Keeps tw z s) : Keeps tw z (State.columnLoss s d col) := by
  unfold State.columnLoss
  repeat' first
    | with_reducible exact h
    | with_reducible apply State.modFlt_keeps
    | with_reducible apply State.set_keeps

theorem State.hubUnit_keeps {z : State} (s : State) (h k : Nat) (c : Nat) (hz : Keeps True z s) : Keeps True z (State.hubUnit s h k c) := by
  unfold State.hubUnit
  repeat' first
    | (fail_if_no_progress extract_lets)
    | with_reducible exact hz
    | with_reducible apply State.packetEnd_keeps
    | with_reducible apply State.connError_keeps
    | with_reducible apply State.pipeLoss_keeps
    | with_reducible apply State.collAbort_keeps
    | with_reducible apply State.mvError_keeps
    | with_reducible apply State.tlbLoss_keeps
    | with_reducible apply State.lockUnitLoss_keeps
    | split
    | with_reducible apply keeps_mk

theorem State.xUnit_keeps {z : State} (s : State) (k c : Nat) (h : Keeps True z s) : Keeps True z (State.xUnit s k c) := by
  unfold State.xUnit
  repeat' first
    | with_reducible exact h
    | with_reducible apply State.aerSet_keeps
    | with_reducible apply State.rpState_keeps
    | split

theorem State.hpReact_keeps {z : State} (s : State) (n cause : Nat) (h : Keeps True z s) : Keeps True z (State.hpReact s n cause) := by
  unfold State.hpReact
  repeat' first
    | (with_reducible refine keeps_ite (fun _ => ?_) fun _ => ?_)
    | with_reducible exact h
    | with_reducible apply State.dpcReact_keeps
    | with_reducible apply State.aerSet_keeps

theorem State.faultReact_keeps {z : State} (s : State) (src : Nat) (i : FaultInfo) (h : Keeps True z s) : Keeps True z (State.faultReact s src i) := by
  unfold State.faultReact
  repeat' first
    | (fail_if_no_progress extract_lets)
    | (with_reducible refine keeps_ite (fun _ => ?_) fun _ => ?_)
    | with_reducible exact h
    | with_reducible apply State.set_keeps
    | with_reducible apply State.cnt_keeps
    | with_reducible apply State.mirrorError_keeps
    | with_reducible apply State.packetEnd_keeps
    | with_reducible apply State.laneFault_keeps
    | with_reducible apply State.enterDetect_keeps
    | with_reducible apply State.fenceEngine_keeps
    | with_reducible apply State.bankRetire_keeps
    | with_reducible apply State.hpReact_keeps
    | with_reducible apply State.hubUnit_keeps
    | with_reducible apply State.xUnit_keeps

theorem State.faultOccur_keeps {z : State} (s : State) (src : Nat) (forced : Bool) (i : FaultInfo) (h : Keeps True z s) : Keeps True z (State.faultOccur s src forced i) := by
  unfold State.faultOccur
  repeat' first
    | (fail_if_no_progress extract_lets)
    | (with_reducible refine keeps_ite (fun _ => ?_) fun _ => ?_)
    | with_reducible exact h
    | with_reducible apply State.columnLoss_keeps
    | with_reducible apply State.tripNow_keeps
    | with_reducible apply State.safeState_keeps
    | with_reducible apply State.faultMark_keeps
    | with_reducible apply State.faultReact_keeps

theorem execFaultOccurrence_keeps {z : State} (src : Fin 1200) (i : FaultInfo) (s : State) (hs : Keeps True z s) {t0 : State}
    (e0 : execFaultOccurrence src i s = .next t0) : Keeps True z t0 := by
  unfold execFaultOccurrence whenPowered at e0
  cases e0
  repeat' first
    | (with_reducible refine keeps_ite (fun _ => ?_) fun _ => ?_)
    | with_reducible exact hs
    | with_reducible apply State.faultOccur_keeps

theorem State.forceFault_keeps {z : State} (s : State) (src : Nat) (act : Bool) (h : Keeps True z s) : Keeps True z (State.forceFault s src act) := by
  unfold State.forceFault
  repeat' first
    | (with_reducible refine keeps_ite (fun _ => ?_) fun _ => ?_)
    | with_reducible exact h
    | with_reducible apply State.faultOccur_keeps
    | with_reducible apply State.faultMark_keeps

theorem execFaultForce_keeps {z : State} (rq : Requester) (src : BitVec 11) (act : Bool) (s : State) (hs : Keeps True z s) {t0 : State}
    (e0 : execFaultForce rq src act s = .next t0) : Keeps True z t0 := by
  unfold execFaultForce whenServed at e0
  cases e0
  repeat' first
    | (with_reducible refine keeps_ite (fun _ => ?_) fun _ => ?_)
    | with_reducible exact hs
    | with_reducible assumption
    | with_reducible apply State.writeAs_keeps
    | with_reducible apply State.forceFault_keeps
    | intro _ _

theorem State.statusClear_keeps {tw : Prop} {z : State} (s : State) (w : Nat) (v : Word) (h : Keeps tw z s) : Keeps tw z (State.statusClear s w v) := by
  unfold State.statusClear
  repeat' first
    | with_reducible exact h
    | with_reducible apply State.set_keeps
    | with_reducible apply State.errUpdate_keeps

theorem execFaultStatusClear_keeps {tw : Prop} {z : State} (rq : Requester) (w : Fin 19) (v : Word) (s : State) (hs : Keeps tw z s) {t0 : State}
    (e0 : execFaultStatusClear rq w v s = .next t0) : Keeps tw z t0 := by
  unfold execFaultStatusClear whenServed at e0
  cases e0
  repeat' first
    | (with_reducible refine keeps_ite (fun _ => ?_) fun _ => ?_)
    | with_reducible exact hs
    | with_reducible assumption
    | with_reducible apply State.writeAs_keeps
    | with_reducible apply State.statusClear_keeps
    | intro _ _

end Sys2Proof.Machine
end

