-- ==== Sys2Proof/Laws/KeepsBoot.lean ====
section
/-! SUPPORT. Every operation of Machine/Boot.lean keeps the queue, the canonical form of the memory, the count of free values
drawn and what has left the part (Keeps). -/
namespace Sys2Proof.Machine

open Sys2Proof

theorem State.modSys_keeps {tw : Prop} {z : State} (s : State) (g : SysSt → SysSt) (h : Keeps tw z s) : Keeps tw z (State.modSys s g) := by
  unfold State.modSys
  repeat' first
    | with_reducible exact h
    | with_reducible apply keeps_mk

theorem State.coldReset_keeps {z : State} (s : State) (cause : Nat) (h : Keeps True z s) : Keeps True z (State.coldReset s cause) := by
  unfold State.coldReset
  apply State.set_keeps
  exact ⟨h.queue, fun _ => rfl, h.draws, h.out.trans (List.prefix_append _ _), .inl trivial⟩

theorem execSysResetAssert_keeps {z : State}  (s : State) (hs : Keeps True z s) {t0 : State}
    (e0 : execSysResetAssert s = .next t0) : Keeps True z t0 := by
  unfold execSysResetAssert at e0
  cases e0
  repeat' first
    | with_reducible exact hs
    | with_reducible apply State.modSys_keeps
    | with_reducible apply State.coldReset_keeps

theorem execRailUndervoltage_keeps {z : State}  (s : State) (hs : Keeps True z s) {t0 : State}
    (e0 : execRailUndervoltage s = .next t0) : Keeps True z t0 := by
  unfold execRailUndervoltage at e0
  cases e0
  repeat' first
    | with_reducible exact hs
    | with_reducible apply State.modSys_keeps
    | with_reducible apply State.coldReset_keeps

theorem execSprefLoss_keeps {z : State}  (s : State) (hs : Keeps True z s) {t0 : State}
    (e0 : execSprefLoss s = .next t0) : Keeps True z t0 := by
  unfold execSprefLoss at e0
  cases e0
  repeat' first
    | with_reducible exact hs
    | with_reducible apply State.modSys_keeps
    | with_reducible apply State.coldReset_keeps

theorem State.fuseDie_keeps {z : State} (s : State) (d : Nat) (f : DieFuses) (h : Keeps True z s) : Keeps True z (State.fuseDie s d f) := by
  unfold State.fuseDie
  repeat' first
    | (fail_if_no_progress extract_lets)
    | (with_reducible refine keeps_ite (fun _ => ?_) fun _ => ?_)
    | with_reducible exact h
    | with_reducible apply State.wr_keeps
    | with_reducible apply State.set_keeps
    | with_reducible apply State.occur_keeps
    | with_reducible apply keeps_id

theorem State.fuseLoad_keeps {z : State} (s : State) (x : ColdStart) (h : Keeps True z s) : Keeps True z (State.fuseLoad s x) := by
  unfold State.fuseLoad
  repeat' first
    | (fail_if_no_progress extract_lets)
    | with_reducible exact h
    | with_reducible assumption
    | with_reducible apply State.fuseDie_keeps
    | with_reducible apply State.set_keeps
    | with_reducible apply State.modSys_keeps
    | (with_reducible refine keeps_foldl _ _ ?_ ?_)
    | intro _ _ _

theorem State.activate_keeps {tw : Prop} {z : State} (s : State) (h : Keeps tw z s) : Keeps tw z (State.activate s) := by
  unfold State.activate
  repeat' first
    | (fail_if_no_progress extract_lets)
    | (with_reducible refine keeps_ite (fun _ => ?_) fun _ => ?_)
    | with_reducible exact h
    | with_reducible apply State.set_keeps
    | with_reducible apply State.modSys_keeps
    | split
    | (dsimp +zetaDelta only; split)

theorem State.repairEngine_keeps {tw : Prop} {z : State} (s : State) (d e : Nat) (h : Keeps tw z s) : Keeps tw z (State.repairEngine s d e) := by
  unfold State.repairEngine
  repeat' first
    | (fail_if_no_progress extract_lets)
    | with_reducible exact h
    | with_reducible apply State.modFlt_keeps
    | with_reducible apply State.set_keeps
    | split

theorem State.repairBank_keeps {tw : Prop} {z : State} (s : State) (d k : Nat) (h : Keeps tw z s) : Keeps tw z (State.repairBank s d k) := by
  unfold State.repairBank
  repeat' first
    | with_reducible exact h
    | with_reducible apply State.modFlt_keeps
    | split

theorem State.repairMesh_keeps {z : State} (s : State) (d : Nat) (cols : List Nat) (h : Keeps True z s) : Keeps True z (State.repairMesh s d cols) := by
  unfold State.repairMesh
  repeat' first
    | (fail_if_no_progress extract_lets)
    | (with_reducible refine keeps_ite (fun _ => ?_) fun _ => ?_)
    | with_reducible exact h
    | with_reducible apply State.set_keeps
    | with_reducible apply State.safeState_keeps
    | with_reducible apply State.faultMark_keeps

theorem State.repairDie_keeps {z : State} (s : State) (d : Nat) (t : SelfTest) (h : Keeps True z s) : Keeps True z (State.repairDie s d t) := by
  unfold State.repairDie
  repeat' first
    | (fail_if_no_progress extract_lets)
    | with_reducible exact h
    | with_reducible assumption
    | with_reducible apply State.modFlt_keeps
    | with_reducible apply State.repairEngine_keeps
    | with_reducible apply State.repairBank_keeps
    | with_reducible apply State.engDegraded_keeps
    | with_reducible apply State.bankDegraded_keeps
    | with_reducible apply State.repairMesh_keeps
    | (with_reducible refine keeps_foldl _ _ ?_ ?_)
    | intro _ _ _

theorem State.selfTests_keeps {z : State} (s : State) (ts : List SelfTest) (h : Keeps True z s) : Keeps True z (State.selfTests s ts) := by
  unfold State.selfTests
  repeat' first
    | with_reducible exact h
    | with_reducible assumption
    | with_reducible apply State.repairDie_keeps
    | (with_reducible refine keeps_foldl _ _ ?_ ?_)
    | intro _ _ _

theorem State.coldEnd_keeps {z : State} (s : State) (x : ColdStart) (h : Keeps True z s) : Keeps True z (State.coldEnd s x) := by
  unfold State.coldEnd
  repeat' first
    | (fail_if_no_progress extract_lets)
    | (with_reducible refine keeps_ite (fun _ => ?_) fun _ => ?_)
    | with_reducible exact h
    | with_reducible apply State.modSys_keeps
    | with_reducible apply State.fuseLoad_keeps
    | with_reducible apply State.activate_keeps
    | with_reducible apply State.set_keeps
    | with_reducible apply State.selfTests_keeps
    | with_reducible apply State.tripNow_keeps
    | split

theorem execSysResetRelease_keeps {z : State} (x : ColdStart) (s : State) (hs : Keeps True z s) {t0 : State}
    (e0 : execSysResetRelease x s = .next t0) : Keeps True z t0 := by
  unfold execSysResetRelease at e0
  cases e0
  repeat' first
    | with_reducible exact hs
    | with_reducible apply State.modSys_keeps
    | with_reducible apply State.coldEnd_keeps

theorem execRailRecovery_keeps {z : State} (x : ColdStart) (s : State) (hs : Keeps True z s) {t0 : State}
    (e0 : execRailRecovery x s = .next t0) : Keeps True z t0 := by
  unfold execRailRecovery at e0
  cases e0
  repeat' first
    | (with_reducible refine keeps_ite (fun _ => ?_) fun _ => ?_)
    | with_reducible exact hs
    | with_reducible apply State.modSys_keeps
    | with_reducible apply State.coldEnd_keeps

theorem execSprefReturn_keeps {z : State} (x : ColdStart) (s : State) (hs : Keeps True z s) {t0 : State}
    (e0 : execSprefReturn x s = .next t0) : Keeps True z t0 := by
  unfold execSprefReturn at e0
  cases e0
  repeat' first
    | (with_reducible refine keeps_ite (fun _ => ?_) fun _ => ?_)
    | with_reducible exact hs
    | with_reducible apply State.modSys_keeps
    | with_reducible apply State.coldEnd_keeps

theorem execFrefLoss_keeps {z : State} (k : Fin 8) (s : State) (hs : Keeps True z s) {t0 : State}
    (e0 : execFrefLoss k s = .next t0) : Keeps True z t0 := by
  unfold execFrefLoss at e0
  split at e0 <;> cases e0
  · exact hs
  · repeat' first
      | (with_reducible refine keeps_ite (fun _ => ?_) fun _ => ?_)
      | with_reducible assumption
      | with_reducible apply State.modSys_keeps
      | with_reducible apply State.cdrLost_keeps
      | (with_reducible refine keeps_foldl _ _ ?_ ?_)
      | intro _ _ _

theorem execFrefReturn_keeps {tw : Prop} {z : State} (k : Fin 8) (s : State) (hs : Keeps tw z s) {t0 : State}
    (e0 : execFrefReturn k s = .next t0) : Keeps tw z t0 := by
  unfold execFrefReturn at e0
  cases e0
  repeat' first
    | with_reducible exact hs
    | with_reducible apply State.modSys_keeps

theorem State.engineReset_keeps {z : State} (s : State) (e : Nat) (h : Keeps True z s) : Keeps True z (State.engineReset s e) := by
  unfold State.engineReset
  repeat' first
    | (fail_if_no_progress extract_lets)
    | with_reducible exact h
    | with_reducible apply State.loseThreads_keeps
    | with_reducible apply State.loadCode_keeps
    | with_reducible apply State.clearRegs_keeps
    | with_reducible apply keeps_mk
    | (with_reducible refine keeps_mkMem ?_ fun w => memPuts_wf _ _ w)

theorem State.portReset_keeps {z : State} (s : State) (p : Nat) (h : Keeps True z s) : Keeps True z (State.portReset s p) := by
  unfold State.portReset
  repeat' first
    | (with_reducible refine keeps_ite (fun _ => ?_) fun _ => ?_)
    | with_reducible exact h
    | with_reducible apply State.restart_keeps
    | with_reducible apply State.dropLink_keeps

theorem execRstEngine_keeps {z : State} (rq : Requester) (e : Fin 512) (s : State) (hs : Keeps True z s) {t0 : State}
    (e0 : execRstEngine rq e s = .next t0) : Keeps True z t0 := by
  unfold execRstEngine whenServed at e0
  cases e0
  repeat' first
    | (with_reducible refine keeps_ite (fun _ => ?_) fun _ => ?_)
    | with_reducible exact hs
    | with_reducible assumption
    | with_reducible apply State.writeAs_keeps
    | with_reducible apply State.engineReset_keeps
    | intro _ _

theorem execRstPort_keeps {z : State} (rq : Requester) (p : Fin 256) (s : State) (hs : Keeps True z s) {t0 : State}
    (e0 : execRstPort rq p s = .next t0) : Keeps True z t0 := by
  unfold execRstPort whenServed at e0
  cases e0
  repeat' first
    | (with_reducible refine keeps_ite (fun _ => ?_) fun _ => ?_)
    | with_reducible exact hs
    | with_reducible assumption
    | with_reducible apply State.writeAs_keeps
    | with_reducible apply State.portReset_keeps
    | intro _ _

theorem execRepairClear_keeps {tw : Prop} {z : State} (rq : Requester) (s : State) (hs : Keeps tw z s) {t0 : State}
    (e0 : execRepairClear rq s = .next t0) : Keeps tw z t0 := by
  unfold execRepairClear whenServed at e0
  cases e0
  repeat' first
    | (with_reducible refine keeps_ite (fun _ => ?_) fun _ => ?_)
    | with_reducible exact hs
    | with_reducible assumption
    | with_reducible apply State.writeAs_keeps
    | with_reducible apply State.modFlt_keeps
    | intro _ _

end Sys2Proof.Machine
end

