-- ==== Sys2Proof/Laws/KeepsMgmt.lean ====
section
/-! SUPPORT. Every operation of Machine/Mgmt.lean keeps the queue, the canonical form of the memory, the count of free values
drawn and what has left the part (Keeps). -/
namespace Sys2Proof.Machine

open Sys2Proof

theorem execEvForce_keeps {z : State} (rq : Requester) (src : BitVec 11) (s : State) (hs : Keeps True z s) {t0 : State}
    (e0 : execEvForce rq src s = .next t0) : Keeps True z t0 := by
  unfold execEvForce whenServed at e0
  cases e0
  repeat' first
    | (with_reducible refine keeps_ite (fun _ => ?_) fun _ => ?_)
    | with_reducible exact hs
    | with_reducible assumption
    | with_reducible apply State.writeAs_keeps
    | with_reducible apply State.raise_keeps
    | intro _ _

theorem State.wrTick_keeps {tw : Prop} {z : State} (s : State) (r : Reg) (v : Word) (h : Keeps tw z s) : Keeps tw z (State.wrTick s r v) := by
  unfold State.wrTick
  repeat' first
    | (fail_if_no_progress extract_lets)
    | (with_reducible refine keeps_ite (fun _ => ?_) fun _ => ?_)
    | with_reducible exact h
    | with_reducible apply State.wr_keeps
    | with_reducible apply keeps_mk

theorem execPcSelWrite_keeps {tw : Prop} {z : State} (rq : Requester) (i : Fin 144) (v : Word) (s : State) (hs : Keeps tw z s) {t0 : State}
    (e0 : execPcSelWrite rq i v s = .next t0) : Keeps tw z t0 := by
  unfold execPcSelWrite whenServed at e0
  cases e0
  repeat' first
    | (fail_if_no_progress extract_lets)
    | (with_reducible refine keeps_ite (fun _ => ?_) fun _ => ?_)
    | with_reducible exact hs
    | with_reducible assumption
    | with_reducible apply State.writeAs_keeps
    | with_reducible apply State.wrTick_keeps
    | intro _ _

theorem State.pcRun_keeps {tw : Prop} {z : State} (s : State) (v : Nat) (h : Keeps tw z s) : Keeps tw z (State.pcRun s v) := by
  unfold State.pcRun
  repeat' first
    | with_reducible exact h
    | with_reducible apply State.wrTick_keeps

theorem State.pcSnap_keeps {tw : Prop} {z : State} (s : State) (h : Keeps tw z s) : Keeps tw z (State.pcSnap s) := by
  unfold State.pcSnap
  repeat' first
    | (fail_if_no_progress extract_lets)
    | with_reducible exact h
    | with_reducible apply keeps_mk

theorem execPcRun_keeps {tw : Prop} {z : State} (rq : Requester) (run : Bool) (s : State) (hs : Keeps tw z s) {t0 : State}
    (e0 : execPcRun rq run s = .next t0) : Keeps tw z t0 := by
  unfold execPcRun whenServed at e0
  cases e0
  repeat' first
    | (with_reducible refine keeps_ite (fun _ => ?_) fun _ => ?_)
    | with_reducible exact hs
    | with_reducible assumption
    | with_reducible apply State.writeAs_keeps
    | with_reducible apply State.pcRun_keeps
    | intro _ _

theorem execPcSnap_keeps {tw : Prop} {z : State} (rq : Requester) (s : State) (hs : Keeps tw z s) {t0 : State}
    (e0 : execPcSnap rq s = .next t0) : Keeps tw z t0 := by
  unfold execPcSnap whenServed at e0
  cases e0
  repeat' first
    | (with_reducible refine keeps_ite (fun _ => ?_) fun _ => ?_)
    | with_reducible exact hs
    | with_reducible apply State.writeAs_keeps
    | with_reducible apply State.pcSnap_keeps

theorem execPcValueWrite_keeps {tw : Prop} {z : State} (rq : Requester) (i : Fin 144) (v : Word) (s : State) (hs : Keeps tw z s) {t0 : State}
    (e0 : execPcValueWrite rq i v s = .next t0) : Keeps tw z t0 := by
  unfold execPcValueWrite whenServed at e0
  cases e0
  repeat' first
    | (fail_if_no_progress extract_lets)
    | (with_reducible refine keeps_ite (fun _ => ?_) fun _ => ?_)
    | with_reducible exact hs
    | with_reducible assumption
    | with_reducible apply State.writeAs_keeps
    | with_reducible apply State.wr_keeps
    | intro _ _

theorem State.modulePoll_keeps {z : State} (s : State) (q : Fin 256 × ModulePoll) (h : Keeps True z s) : Keeps True z (State.modulePoll s q) := by
  unfold State.modulePoll
  repeat' first
    | (fail_if_no_progress extract_lets)
    | (with_reducible refine keeps_ite (fun _ => ?_) fun _ => ?_)
    | with_reducible exact h
    | with_reducible apply State.wr_keeps
    | with_reducible apply State.raise_keeps
    | with_reducible apply State.emit_keeps
    | with_reducible apply keeps_mk

theorem execModulePoll_keeps {z : State} (polls : List (Fin 256 × ModulePoll)) (s : State) (hs : Keeps True z s) {t0 : State}
    (e0 : execModulePoll polls s = .next t0) : Keeps True z t0 := by
  unfold execModulePoll whenPowered at e0
  cases e0
  repeat' first
    | (with_reducible refine keeps_ite (fun _ => ?_) fun _ => ?_)
    | with_reducible exact hs
    | with_reducible apply State.modulePoll_keeps
    | (with_reducible refine keeps_foldl _ _ ?_ ?_)

theorem execModIntFall_keeps {z : State} (m : Fin 16) (polls : List (Fin 256 × ModulePoll)) (s : State) (hs : Keeps True z s) {t0 : State}
    (e0 : execModIntFall m polls s = .next t0) : Keeps True z t0 := by
  unfold execModIntFall whenPowered at e0
  cases e0
  repeat' first
    | (with_reducible refine keeps_ite (fun _ => ?_) fun _ => ?_)
    | with_reducible exact hs
    | with_reducible apply State.modulePoll_keeps
    | (with_reducible refine keeps_foldl _ _ ?_ ?_)

theorem execMctpMessage_keeps {tw : Prop} {z : State} (path : Fin 17) (reply : List Byte) (s : State) (hs : Keeps tw z s) {t0 : State}
    (e0 : execMctpMessage path reply s = .next t0) : Keeps tw z t0 := by
  unfold execMctpMessage whenPowered at e0
  cases e0
  repeat' first
    | (with_reducible refine keeps_ite (fun _ => ?_) fun _ => ?_)
    | with_reducible exact hs
    | with_reducible apply State.emit_keeps

theorem execPldmGetTelemetry_keeps {tw : Prop} {z : State} (path : Fin 17) (k : BitVec 16) (s : State) (hs : Keeps tw z s) {t0 : State}
    (e0 : execPldmGetTelemetry path k s = .next t0) : Keeps tw z t0 := by
  unfold execPldmGetTelemetry whenPowered at e0
  cases e0
  repeat' first
    | (fail_if_no_progress extract_lets)
    | (with_reducible refine keeps_ite (fun _ => ?_) fun _ => ?_)
    | with_reducible exact hs
    | with_reducible apply State.emit_keeps
    | with_reducible apply State.drawNat_keeps
    | split

theorem execPldmFirmwareUpdate_keeps {tw : Prop} {z : State} (slot : Fin 2) (im : SlotImage) (s : State) (hs : Keeps tw z s) {t0 : State}
    (e0 : execPldmFirmwareUpdate slot im s = .next t0) : Keeps tw z t0 := by
  unfold execPldmFirmwareUpdate whenPowered at e0
  cases e0
  repeat' first
    | (fail_if_no_progress extract_lets)
    | (with_reducible refine keeps_ite (fun _ => ?_) fun _ => ?_)
    | with_reducible exact hs
    | with_reducible apply State.emit_keeps
    | with_reducible apply State.modSys_keeps

theorem execPldmEventAck_keeps {tw : Prop} {z : State} (seq : BitVec 32) (s : State) (hs : Keeps tw z s) {t0 : State}
    (e0 : execPldmEventAck seq s = .next t0) : Keeps tw z t0 := by
  unfold execPldmEventAck whenPowered at e0
  cases e0
  repeat' first
    | (with_reducible refine keeps_ite (fun _ => ?_) fun _ => ?_)
    | with_reducible exact hs
    | with_reducible apply State.modFlt_keeps
    | (dsimp +zetaDelta only; split)

theorem execDelholtFrameReceive_keeps {tw : Prop} {z : State} (dst : BitVec 48) (listed : Bool) (frame : List Byte) (s : State) (hs : Keeps tw z s) {t0 : State}
    (e0 : execDelholtFrameReceive dst listed frame s = .next t0) : Keeps tw z t0 := by
  unfold execDelholtFrameReceive whenPowered at e0
  cases e0
  repeat' first
    | (fail_if_no_progress extract_lets)
    | (with_reducible refine keeps_ite (fun _ => ?_) fun _ => ?_)
    | with_reducible exact hs
    | with_reducible apply keeps_mk

theorem execDelholtLinkChange_keeps {z : State} (up an : Bool) (speed : Fin 3) (s : State) (hs : Keeps True z s) {t0 : State}
    (e0 : execDelholtLinkChange up an speed s = .next t0) : Keeps True z t0 := by
  unfold execDelholtLinkChange whenPowered at e0
  cases e0
  repeat' first
    | (with_reducible refine keeps_ite (fun _ => ?_) fun _ => ?_)
    | with_reducible exact hs
    | with_reducible apply State.wr_keeps
    | with_reducible apply State.raise_keeps

end Sys2Proof.Machine
end

