-- ==== Sys2Proof/Laws/KeepsRegWrite.lean ====
section
/-! SUPPORT. Every operation of Machine/RegWrite.lean keeps the queue, the canonical form of the memory, the count of free values
drawn and what has left the part (Keeps). -/
namespace Sys2Proof.Machine

open Sys2Proof

theorem runOn_keeps {tw : Prop} {z : State} {g : State → Res} (hg : ∀ s, Keeps tw z s → ∀ t, g s = .next t → Keeps tw z t) {s : State}
    (h : Keeps tw z s) : Keeps tw z (runOn g s) := by
  unfold runOn
  cases e : g s with
  | next t => exact hg s h t e
  | fault _ => exact h
  | refused _ => exact h

theorem State.rootWrite_keeps {z : State} (s : State) (was : Bool) (h : Keeps True z s) : Keeps True z (State.rootWrite s was) := by
  unfold State.rootWrite
  repeat' first
    | (fail_if_no_progress extract_lets)
    | (with_reducible refine keeps_ite (fun _ => ?_) fun _ => ?_)
    | with_reducible exact h
    | with_reducible apply State.set_keeps
    | with_reducible apply State.modTime_keeps
    | with_reducible apply State.rpState_keeps
    | with_reducible apply State.noParent_keeps

theorem State.regStore_keeps {z : State} (s : State) (r : Reg) (v : Word) (h : Keeps True z s) : Keeps True z (State.regStore s r v) := by
  unfold State.regStore
  repeat' first
    | (fail_if_no_progress extract_lets)
    | (with_reducible refine keeps_ite (fun _ => ?_) fun _ => ?_)
    | with_reducible exact h
    | with_reducible apply State.wrTick_keeps
    | with_reducible apply State.wr_keeps
    | with_reducible apply State.rootWrite_keeps
    | with_reducible apply State.errUpdate_keeps
    | with_reducible apply State.groupsUpdate_keeps
    | with_reducible apply State.watchCheck_keeps
    | split

theorem State.atOffset_keeps {tw : Prop} {z : State} (before : State) (rq : Requester) (off : Nat) (s : State) (h : Keeps tw z s) :
    Keeps tw z (State.atOffset before rq off s) := by
  unfold State.atOffset
  refine keeps_ite (fun _ => h) fun _ => ?_
  exact keeps_mk h

theorem State.viaRow_keeps {tw : Prop} {z : State} (s : State) (rq : Requester) (r : Reg) (v : Word) (off : Nat) (row : State → State)
    (hrow : ∀ s, Keeps tw z s → Keeps tw z (row s)) (h : Keeps tw z s) : Keeps tw z (State.viaRow s rq r v off row) := by
  unfold State.viaRow
  dsimp only
  refine keeps_ite (fun _ => State.wsRecord_keeps _ _ _ _ h) fun _ => ?_
  exact State.atOffset_keeps _ _ _ _ (hrow _ h)

theorem State.noCommand_keeps {tw : Prop} {z : State} (s : State) (rq : Requester) (r : Reg) (off : Nat) (st : Status) (h : Keeps tw z s) : Keeps tw z (State.noCommand s rq r off st) := by
  unfold State.noCommand
  repeat' first
    | with_reducible exact h
    | with_reducible apply State.wsRecord_keeps

theorem State.rstWrite_keeps {z : State} (s : State) (rq : Requester) (off : Nat) (v : Word) (h : Keeps True z s) : Keeps True z (State.rstWrite s rq off v) := by
  unfold State.rstWrite
  repeat' first
    | (fail_if_no_progress extract_lets)
    | (with_reducible refine keeps_ite (fun _ => ?_) fun _ => ?_)
    | with_reducible exact h
    | with_reducible assumption
    | with_reducible apply State.noCommand_keeps
    | with_reducible apply State.wsRecord_keeps
    | (with_reducible refine runOn_keeps (fun _ _ _ _ => ?_) ?_)
    | (refine execRstEngine_keeps _ _ _ ?_ (by assumption))
    | (refine execRstPort_keeps _ _ _ ?_ (by assumption))

theorem State.hbWrite_keeps {tw : Prop} {z : State} (s : State) (rq : Requester) (off : Nat) (v : Word) (h : Keeps tw z s) : Keeps tw z (State.hbWrite s rq off v) := by
  unfold State.hbWrite
  repeat' first
    | (fail_if_no_progress extract_lets)
    | with_reducible exact h
    | with_reducible assumption
    | with_reducible apply State.noCommand_keeps
    | (with_reducible refine runOn_keeps (fun _ _ _ _ => ?_) ?_)
    | (refine execHbWrite_keeps _ _ _ ?_ (by assumption))
    | (refine execHbRead_keeps _ _ _ ?_ (by assumption))
    | (refine execHbDisable_keeps _ _ _ ?_ (by assumption))
    | split

theorem State.imgWrite_keeps {tw : Prop} {z : State} (s : State) (rq : Requester) (off : Nat) (v : Word) (h : Keeps tw z s) : Keeps tw z (State.imgWrite s rq off v) := by
  unfold State.imgWrite
  repeat' first
    | (fail_if_no_progress extract_lets)
    | with_reducible exact h
    | with_reducible assumption
    | with_reducible apply State.noCommand_keeps
    | (with_reducible refine runOn_keeps (fun _ _ _ _ => ?_) ?_)
    | (refine execImgLoad_keeps _ _ ?_ (by assumption))
    | (refine execImgUnload_keeps _ _ _ ?_ (by assumption))
    | split

theorem State.chWrite_keeps {z : State} (s : State) (rq : Requester) (r : Reg) (off : Nat) (v : Word) (h : Keeps True z s) : Keeps True z (State.chWrite s rq r off v) := by
  unfold State.chWrite
  repeat' first
    | (fail_if_no_progress extract_lets)
    | with_reducible exact h
    | with_reducible assumption
    | with_reducible apply State.noCommand_keeps
    | (with_reducible refine runOn_keeps (fun _ _ _ _ => ?_) ?_)
    | (refine execChGo_keeps _ _ _ _ ?_ (by assumption))
    | (refine execChAbort_keeps _ _ _ _ ?_ (by assumption))
    | (refine execChResume_keeps _ _ _ _ ?_ (by assumption))
    | (refine execChReset_keeps _ _ _ _ ?_ (by assumption))
    | split

theorem State.checkedWrite_keeps {tw : Prop} {z : State} (s : State) (rq : Requester) (r : Reg) (off : Nat) (st : Status) (eff : State → State) (heff : ∀ s, Keeps tw z s → Keeps tw z (eff s)) (h : Keeps tw z s) : Keeps tw z (State.checkedWrite s rq r off st eff) := by
  unfold State.checkedWrite
  repeat' first
    | with_reducible exact h
    | with_reducible assumption
    | with_reducible apply State.writeAs_keeps

theorem devCommand_keeps {z : State} (rq : Requester) (r : Reg) (off : Nat) (v : Word) {g : State → State}
    (e : devCommand rq r off v = some g) (s : State) (h : Keeps True z s) : Keeps True z (g s) := by
  have no : ∀ st, Keeps True z (s.noCommand rq r off st) := fun st => State.noCommand_keeps _ _ _ _ _ h
  unfold devCommand at e
  split at e <;> cases e
  · exact keeps_iteApp (fun _ => runOn_keeps (fun s h _ e => execRpStepCmdGo_keeps _ s h e) h) fun _ => no _
  · exact runOn_keeps (fun s h _ e => execRpTodSecondsWrite_keeps _ _ s h e) h
  · exact runOn_keeps (fun s h _ e => execXlMissResolve_keeps _ _ _ _ s h e) h
  · exact runOn_keeps (fun s h _ e => execXlAsidCfgWrite_keeps _ _ _ s h e) h
  · exact State.hbWrite_keeps _ _ _ _ h
  · exact State.imgWrite_keeps _ _ _ _ h
  · exact runOn_keeps (fun s h _ e => execCtrWatchArm_keeps _ _ _ s h e) h
  · exact runOn_keeps (fun s h _ e => execSampleRdWrite_keeps _ _ _ s h e) h
  · exact keeps_iteApp (fun _ => runOn_keeps (fun s h _ e => execLaneCal_keeps _ _ s h e) h) fun _ => no _
  · exact State.laneCmd_keeps _ _ _ _ _ (fun s h => State.prbsCmd_keeps s _ _ _ h) h
  · exact State.portCmd_keeps _ _ _ _ h
  · exact State.portCtrl_keeps _ _ _ _ h
  · exact State.chWrite_keeps _ _ _ _ _ h
  · exact State.checkedWrite_keeps _ _ _ _ _ _ (fun s h => State.regStore_keeps s _ _ h) h
  · exact State.checkedWrite_keeps _ _ _ _ _ _ (fun s h => State.perstFollow_keeps _ _ (State.regStore_keeps s _ _ h)) h
  · exact runOn_keeps (fun s h _ e => execPartitionEnable_keeps _ _ _ s h e) h
  · exact State.checkedWrite_keeps _ _ _ _ _ _ (fun s h => State.svfCtrlWrite_keeps s _ _ h) h
  · exact State.checkedWrite_keeps _ _ _ _ _ _ (fun s h => State.regStore_keeps s _ _ h) h

theorem servedCommand_keeps {z : State} (rq : Requester) (r : Reg) (off : Nat) (v : Word) {g : State → State} (e : servedCommand rq r off v = some g)
    (s : State) (h : Keeps True z s) : Keeps True z (g s) := by
  unfold servedCommand at e
  split at e <;> cases e
  all_goals
    repeat' first
      | (with_reducible refine keeps_iteApp (fun _ => ?_) fun _ => ?_)
      | (fail_if_no_progress extract_lets)
      | (with_reducible refine keeps_ite (fun _ => ?_) fun _ => ?_)
      | with_reducible exact h
      | with_reducible assumption
      | with_reducible apply State.rstWrite_keeps
      | with_reducible apply State.noCommand_keeps
      | with_reducible apply State.checkedWrite_keeps
      | with_reducible apply State.mirrorWrite_keeps
      | with_reducible apply State.pcRun_keeps
      | with_reducible apply State.pcSnap_keeps
      | (with_reducible refine runOn_keeps (fun _ _ _ _ => ?_) ?_)
      | (refine execRepairClear_keeps _ _ ?_ (by assumption))
      | (refine execEvForce_keeps _ _ _ ?_ (by assumption))
      | (refine execFaultForce_keeps _ _ _ _ ?_ (by assumption))
      | (refine execFaultStatusClear_keeps _ _ _ _ ?_ (by assumption))
      | (refine execPcSelWrite_keeps _ _ _ _ ?_ (by assumption))
      | (refine execPcValueWrite_keeps _ _ _ _ ?_ (by assumption))
      | intro _ _

theorem State.wsWrite_keeps {tw : Prop} {z : State} (s : State) (rq : Requester) (v : Word) (h : Keeps tw z s) : Keeps tw z (State.wsWrite s rq v) := by
  unfold State.wsWrite
  repeat' first
    | (with_reducible refine keeps_ite (fun _ => ?_) fun _ => ?_)
    | with_reducible exact h
    | with_reducible apply keeps_mk

theorem State.devRegWrite_keeps {z : State} (s : State) (rq : Requester) (r : Reg) (off size : Nat) (w : Word) (h : Keeps True z s) :
    Keeps True z (State.devRegWrite s rq r off size w) := by
  unfold State.devRegWrite
  dsimp only
  generalize accessValue off size _ w _ = v
  refine keeps_ite (fun _ => State.wsWrite_keeps _ _ _ h) fun _ => ?_
  cases e : servedCommand rq r off v with
  | some g => exact State.viaRow_keeps _ _ _ _ _ _ (servedCommand_keeps _ _ _ _ e) h
  | none =>
    dsimp only
    cases e : devCommand rq r off v with
    | some g =>
      refine keeps_ite (fun _ => ?_) fun _ => State.noCommand_keeps _ _ _ _ _ h
      exact State.viaRow_keeps _ _ _ _ _ _ (devCommand_keeps _ _ _ _ e) h
    | none => exact State.writeAs_keeps _ _ _ _ _ (fun s h => State.regStore_keeps s _ _ h) h

theorem State.aliasWrite_keeps {tw : Prop} {z : State} (s : State) (rq : Requester) (r : Reg) (off size : Nat) (w : Word) (h : Keeps tw z s) : Keeps tw z (State.aliasWrite s rq r off size w) := by
  unfold State.aliasWrite
  repeat' first
    | (fail_if_no_progress extract_lets)
    | (with_reducible refine keeps_ite (fun _ => ?_) fun _ => ?_)
    | with_reducible exact h
    | with_reducible assumption
    | with_reducible apply State.writeAs_keeps
    | with_reducible apply State.wr_keeps
    | intro _ _

theorem State.deviceWrite_keeps {z : State} (s : State) (rq : Requester) (off size : Nat) (w : Word) (h : Keeps True z s) : Keeps True z (State.deviceWrite s rq off size w) := by
  unfold State.deviceWrite
  repeat' first
    | with_reducible exact h
    | with_reducible apply State.devRegWrite_keeps
    | with_reducible apply State.aliasWrite_keeps
    | with_reducible apply State.wsRecord_keeps
    | split

theorem State.ringCmdWrite_keeps {tw : Prop} {z : State} (s : State) (f r : Fin 4096) (off : Nat) (n : RegName) (v : Word) (h : Keeps tw z s) : Keeps tw z (State.ringCmdWrite s f r off n v) := by
  unfold State.ringCmdWrite
  repeat' first
    | (with_reducible refine keeps_ite (fun _ => ?_) fun _ => ?_)
    | with_reducible exact h
    | with_reducible assumption
    | with_reducible apply State.wsRecord_keeps
    | (with_reducible refine runOn_keeps (fun _ _ _ _ => ?_) ?_)
    | (refine execRingHoldRelease_keeps _ _ _ ?_ (by assumption))
    | (refine execRingHoldStart_keeps _ _ _ _ _ ?_ (by assumption))
    | (refine execRingArm_keeps _ _ _ _ ?_ (by assumption))
    | (refine execRingDisarm_keeps _ _ _ ?_ (by assumption))
    | split

theorem fnCommand_keeps {tw : Prop} {z : State} (f : Fin 4096) (r : Reg) (off : Nat) (v : Word) {g : State → State} (e : fnCommand f r off v = some g)
    (s : State) (h : Keeps tw z s) : Keeps tw z (g s) := by
  unfold fnCommand at e
  split at e <;> cases e
  all_goals
    repeat' first
      | (with_reducible refine keeps_ite (fun _ => ?_) fun _ => ?_)
      | with_reducible exact h
      | with_reducible assumption
      | with_reducible apply State.ringCmdWrite_keeps
      | with_reducible apply State.wsRecord_keeps
      | (with_reducible refine runOn_keeps (fun _ _ _ _ => ?_) ?_)
      | (refine execCqDoorbell_keeps _ _ _ ?_ (by assumption))
      | (refine execRingEnable_keeps _ _ _ _ ?_ (by assumption))
      | (refine execRingPiWrite_keeps _ _ _ _ ?_ (by assumption))
      | (refine execRingCiWrite_keeps _ _ _ _ ?_ (by assumption))
      | (refine execXlInvCmd_keeps _ _ _ _ ?_ (by assumption))

theorem State.msixWrite_keeps {tw : Prop} {z : State} (s : State) (f vec half off size : Nat) (w : Word) (h : Keeps tw z s) : Keeps tw z (State.msixWrite s f vec half off size w) := by
  unfold State.msixWrite
  repeat' first
    | (fail_if_no_progress extract_lets)
    | (with_reducible refine keeps_ite (fun _ => ?_) fun _ => ?_)
    | with_reducible exact h
    | with_reducible apply State.emit_keeps
    | (dsimp +zetaDelta only; split)
    | with_reducible apply keeps_mk

theorem State.ownWrite_keeps {z : State} (s : State) (f : Fin 4096) (off size : Nat) (w : Word) (h : Keeps True z s) :
    Keeps True z (State.ownWrite s f off size w) := by
  unfold State.ownWrite
  dsimp only
  split
  · rename_i r a _
    generalize accessValue off size _ w _ = v
    refine keeps_ite (fun _ => State.wsWrite_keeps _ _ _ h) fun _ => keeps_ite (fun _ => State.wsRecord_keeps _ _ _ _ h) fun _ => ?_
    cases e : fnCommand f r off v with
    | some g => exact State.viaRow_keeps _ _ _ _ _ _ (fnCommand_keeps _ _ _ _ e) h
    | none => exact State.writeAs_keeps _ _ _ _ _ (fun s h => State.regStore_keeps s _ _ h) h
  · exact State.writeAs_keeps _ _ _ _ _ (fun s h => State.msixWrite_keeps s _ _ _ _ _ _ h) h
  · exact keeps_ite (fun _ => State.wsRecord_keeps _ _ _ _ h) fun _ => State.wsRecord_keeps _ _ _ _ h

theorem State.regWrite_keeps {z : State} (s : State) (rq : Requester) (w : Window) (off size : Nat) (v : Word) (h : Keeps True z s) : Keeps True z (State.regWrite s rq w off size v) := by
  unfold State.regWrite
  repeat' first
    | (with_reducible refine keeps_ite (fun _ => ?_) fun _ => ?_)
    | with_reducible exact h
    | with_reducible apply State.ownWrite_keeps
    | with_reducible apply State.wsRecord_keeps
    | with_reducible apply State.deviceWrite_keeps
    | split

theorem State.devWrite_keeps {z : State} (s : State) (rq : Requester) (off n v : Nat) (h : Keeps True z s) : Keeps True z (State.devWrite s rq off n v) := by
  unfold State.devWrite
  repeat' first
    | with_reducible exact h
    | with_reducible apply State.regWrite_keeps

theorem State.regRead_keeps {tw : Prop} {z : State} (s : State) (rq : Requester) (r : Reg) (h : Keeps tw z s) : Keeps tw z (State.regRead s rq r).1 := by
  unfold State.regRead
  repeat' first
    | (fail_if_no_progress extract_lets)
    | with_reducible exact h
    | with_reducible apply State.drawNat_keeps
    | with_reducible apply State.set_keeps
    | split

theorem State.targetRead_keeps {tw : Prop} {z : State} (s : State) (rq : Requester) (t : Target) (h : Keeps tw z s) : Keeps tw z (State.targetRead s rq t).1 := by
  unfold State.targetRead
  repeat' first
      | (fail_if_no_progress extract_lets)
      | with_reducible exact h
      | with_reducible apply State.regRead_keeps
      | with_reducible apply State.drawNat_keeps
      | split

theorem State.devRead_keeps {tw : Prop} {z : State} (s : State) (rq : Requester) (off n : Nat) (h : Keeps tw z s) : Keeps tw z (State.devRead s rq off n).1 := by
  unfold State.devRead
  repeat' first
    | (fail_if_no_progress extract_lets)
    | with_reducible exact h
    | with_reducible apply State.targetRead_keeps
    | (with_reducible refine keeps_itep (fun _ => ?_) fun _ => ?_)

theorem State.ownRead_keeps {tw : Prop} {z : State} (s : State) (f : Fin 4096) (off n : Nat) (h : Keeps tw z s) : Keeps tw z (State.ownRead s f off n).1 := by
  unfold State.ownRead
  repeat' first
    | (fail_if_no_progress extract_lets)
    | with_reducible exact h
    | with_reducible apply State.targetRead_keeps
    | (with_reducible refine keeps_itep (fun _ => ?_) fun _ => ?_)

end Sys2Proof.Machine
end

