-- ==== Sys2Proof/Laws/KeepsCormel.lean ====
section
/-! SUPPORT. Every operation of Machine/Cormel.lean keeps the queue, the canonical form of the memory, the count of free values
drawn and what has left the part (Keeps). -/
namespace Sys2Proof.Machine

open Sys2Proof

theorem State.fin_keeps {z : State} (s : State) (t : ThreadId) (w : Nat) (g : Thread → Thread) (h : Keeps True z s) : Keeps True z (State.fin s t w g) := by
  unfold State.fin
  repeat' first
    | with_reducible exact h
    | with_reducible apply State.setThread_keeps
    | with_reducible apply State.retire_keeps
    | split

theorem cormel_keeps {z : State} (t : ThreadId) (row : Nat → Bool) (scalar : Bool) (g : Thread → Nat → State → State) (s : State) (hg : ∀ x0 x1 x2, Keeps True z x2 → Keeps True z (g x0 x1 x2)) (hs : Keeps True z s) {t0 : State}
    (e0 : cormel t row scalar g s = .next t0) : Keeps True z t0 := by
  unfold cormel whenRunning at e0
  cases e0
  repeat' first
    | (with_reducible refine keeps_ite (fun _ => ?_) fun _ => ?_)
    | with_reducible exact hs
    | (with_reducible apply hg)
    | with_reducible apply State.except_keeps
    | with_reducible apply State.fin_keeps
    | (dsimp +zetaDelta only; split)
    | with_reducible apply keeps_mk

theorem regInsn_keeps {z : State} (t : ThreadId) (row : Nat → Bool) (v : Thread → Nat → Nat) (s : State) (hs : Keeps True z s) {t0 : State}
    (e0 : regInsn t row v s = .next t0) : Keeps True z t0 := by
  unfold regInsn at e0
  refine cormel_keeps _ _ _ _ _ ?_ ?_ e0
  repeat' first
    | with_reducible exact hs
    | with_reducible assumption
    | with_reducible apply State.fin_keeps
    | intro _ _ _ _

theorem execAlu_keeps {z : State} (t : ThreadId) (s : State) (hs : Keeps True z s) {t0 : State}
    (e0 : execAlu t s = .next t0) : Keeps True z t0 := by
  unfold execAlu at e0
  refine regInsn_keeps _ _ _ _ ?_ e0
  repeat' first
    | with_reducible exact hs

theorem execAddi_keeps {z : State} (t : ThreadId) (s : State) (hs : Keeps True z s) {t0 : State}
    (e0 : execAddi t s = .next t0) : Keeps True z t0 := by
  unfold execAddi at e0
  refine regInsn_keeps _ _ _ _ ?_ e0
  repeat' first
    | with_reducible exact hs

theorem execAndi_keeps {z : State} (t : ThreadId) (s : State) (hs : Keeps True z s) {t0 : State}
    (e0 : execAndi t s = .next t0) : Keeps True z t0 := by
  unfold execAndi at e0
  refine regInsn_keeps _ _ _ _ ?_ e0
  repeat' first
    | with_reducible exact hs

theorem execOri_keeps {z : State} (t : ThreadId) (s : State) (hs : Keeps True z s) {t0 : State}
    (e0 : execOri t s = .next t0) : Keeps True z t0 := by
  unfold execOri at e0
  refine regInsn_keeps _ _ _ _ ?_ e0
  repeat' first
    | with_reducible exact hs

theorem execXori_keeps {z : State} (t : ThreadId) (s : State) (hs : Keeps True z s) {t0 : State}
    (e0 : execXori t s = .next t0) : Keeps True z t0 := by
  unfold execXori at e0
  refine regInsn_keeps _ _ _ _ ?_ e0
  repeat' first
    | with_reducible exact hs

theorem execShifti_keeps {z : State} (t : ThreadId) (s : State) (hs : Keeps True z s) {t0 : State}
    (e0 : execShifti t s = .next t0) : Keeps True z t0 := by
  unfold execShifti at e0
  refine regInsn_keeps _ _ _ _ ?_ e0
  repeat' first
    | with_reducible exact hs

theorem execLui_keeps {z : State} (t : ThreadId) (s : State) (hs : Keeps True z s) {t0 : State}
    (e0 : execLui t s = .next t0) : Keeps True z t0 := by
  unfold execLui at e0
  refine regInsn_keeps _ _ _ _ ?_ e0
  repeat' first
    | with_reducible exact hs

theorem execMuldiv_keeps {z : State} (t : ThreadId) (s : State) (hs : Keeps True z s) {t0 : State}
    (e0 : execMuldiv t s = .next t0) : Keeps True z t0 := by
  unfold execMuldiv at e0
  refine regInsn_keeps _ _ _ _ ?_ e0
  repeat' first
    | with_reducible exact hs

theorem execCmp_keeps {z : State} (t : ThreadId) (s : State) (hs : Keeps True z s) {t0 : State}
    (e0 : execCmp t s = .next t0) : Keeps True z t0 := by
  unfold execCmp at e0
  refine cormel_keeps _ _ _ _ _ ?_ ?_ e0
  repeat' first
    | with_reducible exact hs
    | with_reducible assumption
    | with_reducible apply State.fin_keeps
    | intro _ _ _ _

theorem execCmpi_keeps {z : State} (t : ThreadId) (s : State) (hs : Keeps True z s) {t0 : State}
    (e0 : execCmpi t s = .next t0) : Keeps True z t0 := by
  unfold execCmpi at e0
  refine cormel_keeps _ _ _ _ _ ?_ ?_ e0
  repeat' first
    | with_reducible exact hs
    | with_reducible assumption
    | with_reducible apply State.fin_keeps
    | intro _ _ _ _

theorem execPred_keeps {z : State} (t : ThreadId) (s : State) (hs : Keeps True z s) {t0 : State}
    (e0 : execPred t s = .next t0) : Keeps True z t0 := by
  unfold execPred at e0
  refine cormel_keeps _ _ _ _ _ ?_ ?_ e0
  repeat' first
    | with_reducible exact hs
    | with_reducible assumption
    | with_reducible apply State.fin_keeps
    | intro _ _ _ _

theorem State.access_keeps {z : State} (s : State) (t : ThreadId) (x : Thread) (va n : Nat) (write scalar resv : Bool) (h : Keeps True z s) : Keeps True z (State.access s t x va n write scalar resv).1 := by
  unfold State.access
  repeat' first
    | (fail_if_no_progress extract_lets)
    | (with_reducible refine keeps_ite (fun _ => ?_) fun _ => ?_)
    | with_reducible exact h
    | with_reducible apply State.translate_keeps
    | with_reducible apply State.cnt_keeps
    | (with_reducible refine keeps_itep (fun _ => ?_) fun _ => ?_)
    | split
    | (with_reducible refine keeps_fst (by assumption) ?_)

theorem State.waitFor_keeps {tw : Prop} {z : State} (s : State) (t : ThreadId) (w : TWait) (stall : Nat) (h : Keeps tw z s) : Keeps tw z (State.waitFor s t w stall) := by
  unfold State.waitFor
  repeat' first
    | with_reducible exact h
    | with_reducible apply State.modThread_keeps

theorem State.load_keeps {z : State} (s : State) (t : ThreadId) (x : Thread) (w va n : Nat) (signed resv : Bool) (h : Keeps True z s) : Keeps True z (State.load s t x w va n signed resv) := by
  unfold State.load
  repeat' first
    | (fail_if_no_progress extract_lets)
    | (with_reducible refine keeps_ite (fun _ => ?_) fun _ => ?_)
    | with_reducible exact h
    | with_reducible apply State.fin_keeps
    | with_reducible apply State.access_keeps
    | with_reducible apply State.except_keeps
    | with_reducible apply State.waitFor_keeps
    | with_reducible apply State.lockWait_keeps
    | with_reducible apply State.hostRead_keeps
    | with_reducible apply State.devRead_keeps
    | split
    | (with_reducible refine keeps_fst (by assumption) ?_)

theorem State.posted_keeps {tw : Prop} {z : State} (s : State) (t : ThreadId) (f : Nat) (h : Keeps tw z s) : Keeps tw z (State.posted s t f) := by
  unfold State.posted
  repeat' first
    | with_reducible exact h
    | with_reducible apply State.modThread_keeps

theorem State.storeTo_keeps {z : State} (s : State) (t : ThreadId) (a : Spot) (bs : List Byte) (h : Keeps True z s) : Keeps True z (State.storeTo s t a bs) := by
  unfold State.storeTo
  repeat' first
    | with_reducible exact h
    | with_reducible apply State.endResv_keeps
    | with_reducible apply State.lockClaim_keeps
    | with_reducible apply State.lockRelease_keeps
    | with_reducible apply State.gsStore_keeps
    | with_reducible apply State.hostWrite_keeps
    | with_reducible apply State.posted_keeps
    | with_reducible apply State.devWrite_keeps
    | split
    | (with_reducible refine keeps_mkMem ?_ fun w => memPuts_wf _ _ w)

theorem State.store_keeps {z : State} (s : State) (t : ThreadId) (x : Thread) (w n : Nat) (h : Keeps True z s) : Keeps True z (State.store s t x w n) := by
  unfold State.store
  repeat' first
    | with_reducible exact h
    | with_reducible apply State.access_keeps
    | with_reducible apply State.except_keeps
    | with_reducible apply State.waitFor_keeps
    | with_reducible apply State.storeTo_keeps
    | with_reducible apply State.fin_keeps
    | split
    | (with_reducible refine keeps_fst (by assumption) ?_)

theorem execLb_keeps {z : State} (t : ThreadId) (s : State) (hs : Keeps True z s) {t0 : State}
    (e0 : execLb t s = .next t0) : Keeps True z t0 := by
  unfold execLb at e0
  refine cormel_keeps _ _ _ _ _ ?_ ?_ e0
  repeat' first
    | with_reducible exact hs
    | with_reducible assumption
    | with_reducible apply State.load_keeps
    | intro _ _ _ _

theorem execLbu_keeps {z : State} (t : ThreadId) (s : State) (hs : Keeps True z s) {t0 : State}
    (e0 : execLbu t s = .next t0) : Keeps True z t0 := by
  unfold execLbu at e0
  refine cormel_keeps _ _ _ _ _ ?_ ?_ e0
  repeat' first
    | with_reducible exact hs
    | with_reducible assumption
    | with_reducible apply State.load_keeps
    | intro _ _ _ _

theorem execLh_keeps {z : State} (t : ThreadId) (s : State) (hs : Keeps True z s) {t0 : State}
    (e0 : execLh t s = .next t0) : Keeps True z t0 := by
  unfold execLh at e0
  refine cormel_keeps _ _ _ _ _ ?_ ?_ e0
  repeat' first
    | with_reducible exact hs
    | with_reducible assumption
    | with_reducible apply State.load_keeps
    | intro _ _ _ _

theorem execLhu_keeps {z : State} (t : ThreadId) (s : State) (hs : Keeps True z s) {t0 : State}
    (e0 : execLhu t s = .next t0) : Keeps True z t0 := by
  unfold execLhu at e0
  refine cormel_keeps _ _ _ _ _ ?_ ?_ e0
  repeat' first
    | with_reducible exact hs
    | with_reducible assumption
    | with_reducible apply State.load_keeps
    | intro _ _ _ _

theorem execLw_keeps {z : State} (t : ThreadId) (s : State) (hs : Keeps True z s) {t0 : State}
    (e0 : execLw t s = .next t0) : Keeps True z t0 := by
  unfold execLw at e0
  refine cormel_keeps _ _ _ _ _ ?_ ?_ e0
  repeat' first
    | with_reducible exact hs
    | with_reducible assumption
    | with_reducible apply State.load_keeps
    | intro _ _ _ _

theorem execLwu_keeps {z : State} (t : ThreadId) (s : State) (hs : Keeps True z s) {t0 : State}
    (e0 : execLwu t s = .next t0) : Keeps True z t0 := by
  unfold execLwu at e0
  refine cormel_keeps _ _ _ _ _ ?_ ?_ e0
  repeat' first
    | with_reducible exact hs
    | with_reducible assumption
    | with_reducible apply State.load_keeps
    | intro _ _ _ _

theorem execLd_keeps {z : State} (t : ThreadId) (s : State) (hs : Keeps True z s) {t0 : State}
    (e0 : execLd t s = .next t0) : Keeps True z t0 := by
  unfold execLd at e0
  refine cormel_keeps _ _ _ _ _ ?_ ?_ e0
  repeat' first
    | with_reducible exact hs
    | with_reducible assumption
    | with_reducible apply State.load_keeps
    | intro _ _ _ _

theorem execSb_keeps {z : State} (t : ThreadId) (s : State) (hs : Keeps True z s) {t0 : State}
    (e0 : execSb t s = .next t0) : Keeps True z t0 := by
  unfold execSb at e0
  refine cormel_keeps _ _ _ _ _ ?_ ?_ e0
  repeat' first
    | with_reducible exact hs
    | with_reducible assumption
    | with_reducible apply State.store_keeps
    | intro _ _ _ _

theorem execSh_keeps {z : State} (t : ThreadId) (s : State) (hs : Keeps True z s) {t0 : State}
    (e0 : execSh t s = .next t0) : Keeps True z t0 := by
  unfold execSh at e0
  refine cormel_keeps _ _ _ _ _ ?_ ?_ e0
  repeat' first
    | with_reducible exact hs
    | with_reducible assumption
    | with_reducible apply State.store_keeps
    | intro _ _ _ _

theorem execSw_keeps {z : State} (t : ThreadId) (s : State) (hs : Keeps True z s) {t0 : State}
    (e0 : execSw t s = .next t0) : Keeps True z t0 := by
  unfold execSw at e0
  refine cormel_keeps _ _ _ _ _ ?_ ?_ e0
  repeat' first
    | with_reducible exact hs
    | with_reducible assumption
    | with_reducible apply State.store_keeps
    | intro _ _ _ _

theorem execSd_keeps {z : State} (t : ThreadId) (s : State) (hs : Keeps True z s) {t0 : State}
    (e0 : execSd t s = .next t0) : Keeps True z t0 := by
  unfold execSd at e0
  refine cormel_keeps _ _ _ _ _ ?_ ?_ e0
  repeat' first
    | with_reducible exact hs
    | with_reducible assumption
    | with_reducible apply State.store_keeps
    | intro _ _ _ _

theorem execLdrsv_keeps {z : State} (t : ThreadId) (s : State) (hs : Keeps True z s) {t0 : State}
    (e0 : execLdrsv t s = .next t0) : Keeps True z t0 := by
  unfold execLdrsv at e0
  refine cormel_keeps _ _ _ _ _ ?_ ?_ e0
  repeat' first
    | with_reducible exact hs
    | with_reducible assumption
    | with_reducible apply State.load_keeps
    | intro _ _ _ _

theorem execStcnd_keeps {z : State} (t : ThreadId) (s : State) (hs : Keeps True z s) {t0 : State}
    (e0 : execStcnd t s = .next t0) : Keeps True z t0 := by
  unfold execStcnd at e0
  refine cormel_keeps _ _ _ _ _ ?_ ?_ e0
  repeat' first
    | (fail_if_no_progress extract_lets)
    | (with_reducible refine keeps_ite (fun _ => ?_) fun _ => ?_)
    | with_reducible exact hs
    | with_reducible assumption
    | with_reducible apply State.access_keeps
    | with_reducible apply State.except_keeps
    | with_reducible apply State.waitFor_keeps
    | with_reducible apply State.storeTo_keeps
    | with_reducible apply State.fin_keeps
    | intro _ _ _ _
    | split
    | (with_reducible refine keeps_fst (by assumption) ?_)

theorem State.jump_keeps {z : State} (s : State) (t : ThreadId) (w pc : Nat) (g : Thread → Thread) (h : Keeps True z s) : Keeps True z (State.jump s t w pc g) := by
  unfold State.jump
  repeat' first
    | with_reducible exact h
    | with_reducible apply State.modThread_keeps
    | with_reducible apply State.retire_keeps

theorem execB_keeps {z : State} (t : ThreadId) (s : State) (hs : Keeps True z s) {t0 : State}
    (e0 : execB t s = .next t0) : Keeps True z t0 := by
  unfold execB at e0
  refine cormel_keeps _ _ _ _ _ ?_ ?_ e0
  repeat' first
    | with_reducible exact hs
    | with_reducible assumption
    | with_reducible apply State.jump_keeps
    | intro _ _ _ _

theorem execJal_keeps {z : State} (t : ThreadId) (s : State) (hs : Keeps True z s) {t0 : State}
    (e0 : execJal t s = .next t0) : Keeps True z t0 := by
  unfold execJal at e0
  refine cormel_keeps _ _ _ _ _ ?_ ?_ e0
  repeat' first
    | with_reducible exact hs
    | with_reducible assumption
    | with_reducible apply State.jump_keeps
    | intro _ _ _ _

theorem execJalr_keeps {z : State} (t : ThreadId) (s : State) (hs : Keeps True z s) {t0 : State}
    (e0 : execJalr t s = .next t0) : Keeps True z t0 := by
  unfold execJalr at e0
  refine cormel_keeps _ _ _ _ _ ?_ ?_ e0
  repeat' first
    | (fail_if_no_progress extract_lets)
    | (with_reducible refine keeps_ite (fun _ => ?_) fun _ => ?_)
    | with_reducible exact hs
    | with_reducible assumption
    | with_reducible apply State.except_keeps
    | with_reducible apply State.jump_keeps
    | intro _ _ _ _

theorem State.vnone_keeps {z : State} (s : State) (t : ThreadId) (w va : Nat) (h : Keeps True z s) : Keeps True z (State.vnone s t w va) := by
  unfold State.vnone
  repeat' first
    | (with_reducible refine keeps_ite (fun _ => ?_) fun _ => ?_)
    | with_reducible exact h
    | with_reducible apply State.except_keeps
    | with_reducible apply State.fin_keeps

theorem execVld_keeps {z : State} (t : ThreadId) (s : State) (hs : Keeps True z s) {t0 : State}
    (e0 : execVld t s = .next t0) : Keeps True z t0 := by
  unfold execVld at e0
  refine cormel_keeps _ _ _ _ _ ?_ ?_ e0
  repeat' first
    | (fail_if_no_progress extract_lets)
    | (with_reducible refine keeps_ite (fun _ => ?_) fun _ => ?_)
    | with_reducible exact hs
    | with_reducible assumption
    | with_reducible apply State.vnone_keeps
    | with_reducible apply State.access_keeps
    | with_reducible apply State.except_keeps
    | with_reducible apply State.waitFor_keeps
    | with_reducible apply State.fin_keeps
    | with_reducible apply State.hostRead_keeps
    | intro _ _ _ _
    | split
    | (with_reducible refine keeps_fst (by assumption) ?_)

theorem execVst_keeps {z : State} (t : ThreadId) (s : State) (hs : Keeps True z s) {t0 : State}
    (e0 : execVst t s = .next t0) : Keeps True z t0 := by
  unfold execVst at e0
  refine cormel_keeps _ _ _ _ _ ?_ ?_ e0
  repeat' first
    | (fail_if_no_progress extract_lets)
    | (with_reducible refine keeps_ite (fun _ => ?_) fun _ => ?_)
    | with_reducible exact hs
    | with_reducible assumption
    | with_reducible apply State.vnone_keeps
    | with_reducible apply State.access_keeps
    | with_reducible apply State.except_keeps
    | with_reducible apply State.waitFor_keeps
    | with_reducible apply State.hostWrite_keeps
    | with_reducible apply State.storeTo_keeps
    | with_reducible apply State.posted_keeps
    | with_reducible apply State.fin_keeps
    | (with_reducible refine keeps_foldl _ _ ?_ ?_)
    | intro _ _ _ _
    | intro _ _ _
    | split
    | (dsimp +zetaDelta only; split)
    | (with_reducible refine keeps_fst (by assumption) ?_)

theorem execVop_keeps {z : State} (t : ThreadId) (s : State) (hs : Keeps True z s) {t0 : State}
    (e0 : execVop t s = .next t0) : Keeps True z t0 := by
  unfold execVop at e0
  refine cormel_keeps _ _ _ _ _ ?_ ?_ e0
  repeat' first
    | with_reducible exact hs
    | with_reducible assumption
    | with_reducible apply State.fin_keeps
    | intro _ _ _ _

theorem execVred_keeps {z : State} (t : ThreadId) (s : State) (hs : Keeps True z s) {t0 : State}
    (e0 : execVred t s = .next t0) : Keeps True z t0 := by
  unfold execVred at e0
  refine cormel_keeps _ _ _ _ _ ?_ ?_ e0
  repeat' first
    | with_reducible exact hs
    | with_reducible assumption
    | with_reducible apply State.fin_keeps
    | intro _ _ _ _

theorem execMfsr_keeps {z : State} (t : ThreadId) (ck : Nat) (s : State) (hs : Keeps True z s) {t0 : State}
    (e0 : execMfsr t ck s = .next t0) : Keeps True z t0 := by
  unfold execMfsr at e0
  refine cormel_keeps _ _ _ _ _ ?_ ?_ e0
  repeat' first
    | (fail_if_no_progress extract_lets)
    | (with_reducible refine keeps_ite (fun _ => ?_) fun _ => ?_)
    | with_reducible exact hs
    | with_reducible assumption
    | with_reducible apply State.except_keeps
    | with_reducible apply State.fin_keeps
    | intro _ _ _ _

theorem execMtsr_keeps {z : State} (t : ThreadId) (s : State) (hs : Keeps True z s) {t0 : State}
    (e0 : execMtsr t s = .next t0) : Keeps True z t0 := by
  unfold execMtsr at e0
  refine cormel_keeps _ _ _ _ _ ?_ ?_ e0
  repeat' first
    | (fail_if_no_progress extract_lets)
    | (with_reducible refine keeps_ite (fun _ => ?_) fun _ => ?_)
    | with_reducible exact hs
    | with_reducible assumption
    | with_reducible apply State.except_keeps
    | with_reducible apply State.fin_keeps
    | intro _ _ _ _

theorem execYield_keeps {z : State} (t : ThreadId) (s : State) (hs : Keeps True z s) {t0 : State}
    (e0 : execYield t s = .next t0) : Keeps True z t0 := by
  unfold execYield at e0
  refine cormel_keeps _ _ _ _ _ ?_ ?_ e0
  repeat' first
    | (fail_if_no_progress extract_lets)
    | with_reducible exact hs
    | with_reducible assumption
    | with_reducible apply State.fin_keeps
    | intro _ _ _ _
    | with_reducible apply keeps_mk

theorem execYieldt_keeps {z : State} (t : ThreadId) (s : State) (hs : Keeps True z s) {t0 : State}
    (e0 : execYieldt t s = .next t0) : Keeps True z t0 := by
  unfold execYieldt at e0
  refine cormel_keeps _ _ _ _ _ ?_ ?_ e0
  repeat' first
    | with_reducible exact hs
    | with_reducible assumption
    | with_reducible apply State.fin_keeps
    | with_reducible apply State.modThread_keeps
    | intro _ _ _ _

theorem State.cbEnd_keeps {z : State} (s : State) (t : ThreadId) (w lost : Nat) (h : Keeps True z s) : Keeps True z (State.cbEnd s t w lost) := by
  unfold State.cbEnd
  repeat' first
    | (with_reducible refine keeps_ite (fun _ => ?_) fun _ => ?_)
    | with_reducible exact h
    | with_reducible apply State.fin_keeps
    | with_reducible apply State.except_keeps
    | split

theorem execCb_keeps {z : State} (t : ThreadId) (s : State) (hs : Keeps True z s) {t0 : State}
    (e0 : execCb t s = .next t0) : Keeps True z t0 := by
  unfold execCb at e0
  refine cormel_keeps _ _ _ _ _ ?_ ?_ e0
  repeat' first
    | (fail_if_no_progress extract_lets)
    | (with_reducible refine keeps_ite (fun _ => ?_) fun _ => ?_)
    | with_reducible exact hs
    | with_reducible assumption
    | with_reducible apply State.modThread_keeps
    | with_reducible apply State.cbEnd_keeps
    | with_reducible apply State.emit_keeps
    | with_reducible apply State.waitFor_keeps
    | (with_reducible refine keeps_foldl _ _ ?_ ?_)
    | intro _ _ _ _
    | intro _ _ _

theorem execCbComplete_keeps {z : State} (t : ThreadId) (f : Fin 4096) (ok : Bool) (s : State) (hs : Keeps True z s) {t0 : State}
    (e0 : execCbComplete t f ok s = .next t0) : Keeps True z t0 := by
  unfold execCbComplete whenRunning at e0
  cases e0
  repeat' first
    | (with_reducible refine keeps_ite (fun _ => ?_) fun _ => ?_)
    | with_reducible exact hs
    | with_reducible apply State.modThread_keeps
    | with_reducible apply State.cbEnd_keeps
    | split
    | (dsimp +zetaDelta only; split)

theorem execExit_keeps {z : State} (t : ThreadId) (s : State) (hs : Keeps True z s) {t0 : State}
    (e0 : execExit t s = .next t0) : Keeps True z t0 := by
  unfold execExit at e0
  refine cormel_keeps _ _ _ _ _ ?_ ?_ e0
  repeat' first
    | with_reducible exact hs
    | with_reducible assumption
    | with_reducible apply State.fin_keeps
    | with_reducible apply State.dropThread_keeps
    | intro _ _ _ _

theorem execEret_keeps {z : State} (t : ThreadId) (s : State) (hs : Keeps True z s) {t0 : State}
    (e0 : execEret t s = .next t0) : Keeps True z t0 := by
  unfold execEret at e0
  refine cormel_keeps _ _ _ _ _ ?_ ?_ e0
  repeat' first
    | (with_reducible refine keeps_ite (fun _ => ?_) fun _ => ?_)
    | with_reducible exact hs
    | with_reducible assumption
    | with_reducible apply State.except_keeps
    | with_reducible apply State.jump_keeps
    | intro _ _ _ _

theorem execEvwait_keeps {z : State} (t : ThreadId) (s : State) (hs : Keeps True z s) {t0 : State}
    (e0 : execEvwait t s = .next t0) : Keeps True z t0 := by
  unfold execEvwait at e0
  refine cormel_keeps _ _ _ _ _ ?_ ?_ e0
  repeat' first
    | (fail_if_no_progress extract_lets)
    | with_reducible exact hs
    | with_reducible assumption
    | with_reducible apply State.fin_keeps
    | with_reducible apply State.modThread_keeps
    | with_reducible apply State.setEvq_keeps
    | with_reducible apply State.giveEvent_keeps
    | with_reducible apply State.retryHeld_keeps
    | intro _ _ _ _
    | split
    | with_reducible apply keeps_mk

theorem execEvwaitTimeout_keeps {tw : Prop} {z : State} (t : ThreadId) (s : State) (hs : Keeps tw z s) {t0 : State}
    (e0 : execEvwaitTimeout t s = .next t0) : Keeps tw z t0 := by
  unfold execEvwaitTimeout whenRunning at e0
  cases e0
  repeat' first
    | (with_reducible refine keeps_ite (fun _ => ?_) fun _ => ?_)
    | with_reducible exact hs
    | with_reducible apply State.setThread_keeps
    | split
    | (dsimp +zetaDelta only; split)

theorem State.emitPacket_keeps {tw : Prop} {z : State} (s : State) (t : ThreadId) (x : Thread) (va : Nat) (h : Keeps tw z s) : Keeps tw z (State.emitPacket s t x va).1 := by
  unfold State.emitPacket
  repeat' first
    | (fail_if_no_progress extract_lets)
    | (with_reducible refine keeps_ite (fun _ => ?_) fun _ => ?_)
    | with_reducible exact h
    | with_reducible apply State.mcgRead_keeps
    | with_reducible apply State.rankTranslate_keeps
    | (with_reducible refine keeps_itep (fun _ => ?_) fun _ => ?_)
    | split
    | (with_reducible refine keeps_fst (by assumption) ?_)

theorem State.emitNow_keeps {z : State} (s : State) (t : ThreadId) (x : Thread) (w va : Nat) (h : Keeps True z s) : Keeps True z (State.emitNow s t x w va) := by
  unfold State.emitNow
  repeat' first
    | (fail_if_no_progress extract_lets)
    | with_reducible exact h
    | with_reducible apply State.emitPacket_keeps
    | with_reducible apply State.txPush_keeps
    | with_reducible apply State.fin_keeps
    | split
    | (with_reducible refine keeps_fst (by assumption) ?_)

theorem execEmit_keeps {z : State} (t : ThreadId) (room : Bool) (s : State) (hs : Keeps True z s) {t0 : State}
    (e0 : execEmit t room s = .next t0) : Keeps True z t0 := by
  unfold execEmit at e0
  refine cormel_keeps _ _ _ _ _ ?_ ?_ e0
  repeat' first
    | (fail_if_no_progress extract_lets)
    | (with_reducible refine keeps_ite (fun _ => ?_) fun _ => ?_)
    | with_reducible exact hs
    | with_reducible assumption
    | with_reducible apply State.except_keeps
    | with_reducible apply State.emitNow_keeps
    | with_reducible apply State.waitFor_keeps
    | intro _ _ _ _

theorem execEmitRetire_keeps {z : State} (t : ThreadId) (s : State) (hs : Keeps True z s) {t0 : State}
    (e0 : execEmitRetire t s = .next t0) : Keeps True z t0 := by
  unfold execEmitRetire whenRunning at e0
  cases e0
  repeat' first
    | (with_reducible refine keeps_ite (fun _ => ?_) fun _ => ?_)
    | with_reducible exact hs
    | with_reducible apply State.emitNow_keeps
    | (dsimp +zetaDelta only; split)

theorem State.tlbPut_keeps {tw : Prop} {z : State} (s : State) (k : Nat × Nat × Nat) (tag dat : Word) (h : Keeps tw z s) : Keeps tw z (State.tlbPut s k tag dat) := by
  unfold State.tlbPut
  repeat' first
    | (fail_if_no_progress extract_lets)
    | with_reducible exact h
    | with_reducible apply keeps_mk

theorem tlbInsn_keeps {z : State} (t : ThreadId) (row : Nat → Bool) (bad : Thread → Nat → Nat × Nat × Nat → Bool) (g : Thread → Nat → Nat × Nat × Nat → State → State) (s : State) (hg : ∀ x0 x1 x2 x3, Keeps True z x3 → Keeps True z (g x0 x1 x2 x3)) (hs : Keeps True z s) {t0 : State}
    (e0 : tlbInsn t row bad g s = .next t0) : Keeps True z t0 := by
  unfold tlbInsn at e0
  refine cormel_keeps _ _ _ _ _ ?_ ?_ e0
  repeat' first
    | (with_reducible refine keeps_ite (fun _ => ?_) fun _ => ?_)
    | with_reducible exact hs
    | with_reducible assumption
    | (with_reducible apply hg)
    | with_reducible apply State.except_keeps
    | intro _ _ _ _
    | split

theorem execXput_keeps {z : State} (t : ThreadId) (s : State) (hs : Keeps True z s) {t0 : State}
    (e0 : execXput t s = .next t0) : Keeps True z t0 := by
  unfold execXput at e0
  refine tlbInsn_keeps _ _ _ _ _ ?_ ?_ e0
  repeat' first
    | with_reducible exact hs
    | with_reducible assumption
    | with_reducible apply State.tlbPut_keeps
    | with_reducible apply State.fin_keeps
    | intro _ _ _ _ _

theorem execXputr_keeps {z : State} (t : ThreadId) (s : State) (hs : Keeps True z s) {t0 : State}
    (e0 : execXputr t s = .next t0) : Keeps True z t0 := by
  unfold execXputr at e0
  refine tlbInsn_keeps _ _ _ _ _ ?_ ?_ e0
  repeat' first
    | (fail_if_no_progress extract_lets)
    | with_reducible exact hs
    | with_reducible assumption
    | with_reducible apply State.drawNat_keeps
    | with_reducible apply State.tlbPut_keeps
    | with_reducible apply State.fin_keeps
    | intro _ _ _ _ _

theorem execXdrop_keeps {z : State} (t : ThreadId) (s : State) (hs : Keeps True z s) {t0 : State}
    (e0 : execXdrop t s = .next t0) : Keeps True z t0 := by
  unfold execXdrop at e0
  refine tlbInsn_keeps _ _ _ _ _ ?_ ?_ e0
  repeat' first
    | (fail_if_no_progress extract_lets)
    | with_reducible exact hs
    | with_reducible assumption
    | with_reducible apply State.fin_keeps
    | intro _ _ _ _ _
    | (dsimp +zetaDelta only; split)
    | with_reducible apply keeps_mk

theorem execLoadCompletion_keeps {z : State} (t : ThreadId) (res : ReadResult) (s : State) (hs : Keeps True z s) {t0 : State}
    (e0 : execLoadCompletion t res s = .next t0) : Keeps True z t0 := by
  unfold execLoadCompletion whenRunning at e0
  cases e0
  repeat' first
    | (with_reducible refine keeps_ite (fun _ => ?_) fun _ => ?_)
    | with_reducible exact hs
    | with_reducible apply State.modThread_keeps
    | with_reducible apply State.fin_keeps
    | with_reducible apply State.except_keeps
    | split
    | (dsimp +zetaDelta only; split)

end Sys2Proof.Machine
end

