-- ==== Sys2Proof/Laws/KeepsWarm.lean ====
section
/-! SUPPORT. Every operation of Machine/Warm.lean keeps the queue, the canonical form of the memory, the count of free values
drawn and what has left the part (Keeps). -/
namespace Sys2Proof.Machine

open Sys2Proof

theorem State.loadFirmware_keeps {z : State} (s : State) (bs : List Byte) (h : Keeps True z s) : Keeps True z (State.loadFirmware s bs) := by
  unfold State.loadFirmware
  repeat' first
    | (with_reducible refine keeps_ite (fun _ => ?_) fun _ => ?_)
    | with_reducible exact h
    | with_reducible apply State.addImage_keeps
    | split

theorem State.applyRecords_keeps {z : State} : ∀ (l : List (Nat × BitVec 64)) (n : Nat) (s : State), Keeps True z s →
    Keeps True z (State.applyRecords l n s)
  | [], _, s, h => State.set_keeps _ _ _ _ _ h
  | (a, v) :: l, n, s, h => by
    unfold State.applyRecords
    refine keeps_ite (fun _ => State.recordReject_keeps _ _ h) fun _ => ?_
    split
    · exact State.applyRecords_keeps l _ _ (State.modSys_keeps _ _ h)
    · dsimp only
      have k := State.regWrite_keeps s .serviceProcessor .device a 8 v h
      exact keeps_ite (fun _ => State.recordReject_keeps _ _ k) fun _ => State.applyRecords_keeps l _ _ k

theorem State.loadSlot_keeps {z : State} (s : State) (im : SlotImage) (h : Keeps True z s) : Keeps True z (State.loadSlot s im) := by
  unfold State.loadSlot
  dsimp only
  refine State.set_keeps _ _ _ _ _ (State.applyRecords_keeps _ _ _ ?_)
  exact keeps_foldl _ _ (fun s _ h => State.gsPuts_keeps s _ _ h) (State.loadFirmware_keeps _ _ h)

theorem execSecureBoot_keeps {z : State} (a b : Option SlotImage) (s : State) (hs : Keeps True z s) {t0 : State}
    (e0 : execSecureBoot a b s = .next t0) : Keeps True z t0 := by
  unfold execSecureBoot whenPowered at e0
  cases e0
  repeat' first
    | (fail_if_no_progress extract_lets)
    | (with_reducible refine keeps_ite (fun _ => ?_) fun _ => ?_)
    | with_reducible exact hs
    | with_reducible apply State.set_keeps
    | with_reducible apply State.modSys_keeps
    | with_reducible apply State.loadSlot_keeps
    | split

theorem State.warmClear_keeps {z : State} (s : State) (h : Keeps True z s) : Keeps True z (State.warmClear s) := by
  unfold State.warmClear
  exact ⟨h.queue, fun _ => rfl, h.draws, h.out.trans (List.prefix_append _ _), .inl trivial⟩

theorem State.dieLimits_keeps {tw : Prop} {z : State} (s : State) (h : Keeps tw z s) : Keeps tw z (State.dieLimits s) := by
  unfold State.dieLimits
  repeat' first
    | (fail_if_no_progress extract_lets)
    | (with_reducible refine keeps_ite (fun _ => ?_) fun _ => ?_)
    | with_reducible exact h
    | with_reducible assumption
    | with_reducible apply State.set_keeps
    | (with_reducible refine keeps_foldl _ _ ?_ ?_)
    | intro _ _ _

theorem State.warmReset_keeps {z : State} (s : State) (cause : Nat) (tests : List SelfTest) (h : Keeps True z s) : Keeps True z (State.warmReset s cause tests) := by
  unfold State.warmReset
  repeat' first
    | (fail_if_no_progress extract_lets)
    | (with_reducible refine keeps_ite (fun _ => ?_) fun _ => ?_)
    | with_reducible exact h
    | with_reducible apply State.warmClear_keeps
    | with_reducible apply State.dieLimits_keeps
    | with_reducible apply State.set_keeps
    | with_reducible apply State.selfTests_keeps
    | with_reducible apply State.safeState_keeps
    | with_reducible apply State.errUpdate_keeps
    | with_reducible apply State.loadSlot_keeps
    | split

theorem execRstWarm_keeps {z : State} (rq : Requester) (tests : List SelfTest) (s : State) (hs : Keeps True z s) {t0 : State}
    (e0 : execRstWarm rq tests s = .next t0) : Keeps True z t0 := by
  unfold execRstWarm whenServed at e0
  cases e0
  repeat' first
    | (with_reducible refine keeps_ite (fun _ => ?_) fun _ => ?_)
    | with_reducible exact hs
    | with_reducible assumption
    | with_reducible apply State.writeAs_keeps
    | with_reducible apply State.warmReset_keeps
    | intro _ _

theorem execPldmResetRequest_keeps {z : State} (tests : List SelfTest) (s : State) (hs : Keeps True z s) {t0 : State}
    (e0 : execPldmResetRequest tests s = .next t0) : Keeps True z t0 := by
  unfold execPldmResetRequest whenPowered at e0
  cases e0
  repeat' first
    | (with_reducible refine keeps_ite (fun _ => ?_) fun _ => ?_)
    | with_reducible exact hs
    | with_reducible apply State.warmReset_keeps

end Sys2Proof.Machine
end

