-- ==== Sys2Proof/Laws/KeepsBar.lean ====
section
/-! SUPPORT. Every operation of Machine/Bar.lean keeps the queue, the canonical form of the memory, the count of free values
drawn and what has left the part (Keeps). -/
namespace Sys2Proof.Machine

open Sys2Proof

theorem State.outerWrite_keeps {z : State} (s : State) (rq : Requester) (w : Window) (off size : Nat) (v : Word) (h : Keeps True z s) : Keeps True z (State.outerWrite s rq w off size v) := by
  unfold State.outerWrite
  repeat' first
    | (with_reducible refine keeps_ite (fun _ => ?_) fun _ => ?_)
    | with_reducible exact h
    | with_reducible apply State.warmReset_keeps
    | with_reducible apply State.regWrite_keeps

theorem execRegisterWrite_keeps {z : State} (rq : Requester) (w : Window) (off : Nat) (size : Nat) (v : Word) (s : State) (hs : Keeps True z s) {t0 : State}
    (e0 : execRegisterWrite rq w off size v s = .next t0) : Keeps True z t0 := by
  unfold execRegisterWrite at e0
  cases e0
  repeat' first
    | with_reducible exact hs
    | with_reducible apply State.outerWrite_keeps

theorem execWriteStatusRead_keeps {tw : Prop} {z : State} (rq : Requester) (s : State) (hs : Keeps tw z s) {t0 : State}
    (e0 : execWriteStatusRead rq s = .next t0) : Keeps tw z t0 := by
  unfold execWriteStatusRead whenPowered at e0
  cases e0
  repeat' first
    | (with_reducible refine keeps_ite (fun _ => ?_) fun _ => ?_)
    | with_reducible exact hs
    | with_reducible apply State.emit_keeps

theorem State.gsWindowWrite_keeps {z : State} (s : State) (off : Nat) (bs : List Byte) (h : Keeps True z s) : Keeps True z (State.gsWindowWrite s off bs) := by
  unfold State.gsWindowWrite
  repeat' first
    | (fail_if_no_progress extract_lets)
    | (with_reducible refine keeps_ite (fun _ => ?_) fun _ => ?_)
    | with_reducible exact h
    | with_reducible assumption
    | with_reducible apply State.gsStore_keeps
    | with_reducible apply State.wsRecord_keeps
    | with_reducible apply State.lockWrite_keeps
    | with_reducible apply State.lockClaim_keeps
    | with_reducible apply State.cnt_keeps
    | with_reducible apply State.lockRelease_keeps
    | intro _ _ _
    | split

theorem execGroundsheetWindowWrite_keeps {z : State} (off : Fin 268435456) (bs : List Byte) (s : State) (hs : Keeps True z s) {t0 : State}
    (e0 : execGroundsheetWindowWrite off bs s = .next t0) : Keeps True z t0 := by
  unfold execGroundsheetWindowWrite whenRunning at e0
  cases e0
  repeat' first
    | (with_reducible refine keeps_ite (fun _ => ?_) fun _ => ?_)
    | with_reducible exact hs
    | with_reducible apply State.gsWindowWrite_keeps

theorem State.barData_keeps {z : State} (s : State) (port : Nat) (t : Tlp) (bs : List Byte) (ep : Bool) (h : Keeps True z s) : Keeps True z (State.barData s port t bs ep) := by
  unfold State.barData
  repeat' first
    | (fail_if_no_progress extract_lets)
    | with_reducible exact h
    | with_reducible apply State.tlpSend_keeps

theorem State.barUnsupported_keeps {z : State} (s : State) (f port : Nat) (t : Tlp) (h : Keeps True z s) : Keeps True z (State.barUnsupported s f port t) := by
  unfold State.barUnsupported
  repeat' first
    | with_reducible exact h
    | with_reducible apply State.aerSet_keeps
    | with_reducible apply State.tlpSend_keeps

theorem State.gsWindowRead_keeps {z : State} (s : State) (port off : Nat) (t : Tlp) (h : Keeps True z s) : Keeps True z (State.gsWindowRead s port off t) := by
  unfold State.gsWindowRead
  repeat' first
    | (fail_if_no_progress extract_lets)
    | (with_reducible refine keeps_ite (fun _ => ?_) fun _ => ?_)
    | with_reducible exact h
    | with_reducible apply State.cnt_keeps
    | with_reducible apply State.barUnsupported_keeps
    | with_reducible apply State.barData_keeps
    | with_reducible apply State.lockWait_keeps
    | split
    | (with_reducible refine keeps_fst (by assumption) ?_)

theorem State.gsWindowAtomic_keeps {z : State} (s : State) (port off : Nat) (t : Tlp) (aop : Fin 3) (h : Keeps True z s) : Keeps True z (State.gsWindowAtomic s port off t aop) := by
  unfold State.gsWindowAtomic
  repeat' first
    | (fail_if_no_progress extract_lets)
    | (with_reducible refine keeps_ite (fun _ => ?_) fun _ => ?_)
    | with_reducible exact h
    | with_reducible apply State.barUnsupported_keeps
    | with_reducible apply State.wsRecord_keeps
    | with_reducible apply State.gsStore_keeps
    | with_reducible apply State.barData_keeps

theorem State.barTake_keeps {z : State} (s : State) (f : Fin 4096) (bar : Nat) (off : Nat) (t : Tlp) (aop : Fin 3) (port : Nat) (h : Keeps True z s) : Keeps True z (State.barTake s f bar off t aop port) := by
  unfold State.barTake
  repeat' first
    | (fail_if_no_progress extract_lets)
    | (with_reducible refine keeps_ite (fun _ => ?_) fun _ => ?_)
    | with_reducible exact h
    | with_reducible apply State.aerSet_keeps
    | with_reducible apply State.outerWrite_keeps
    | with_reducible apply State.gsWindowWrite_keeps
    | with_reducible apply State.gsWindowRead_keeps
    | with_reducible apply State.ownRead_keeps
    | with_reducible apply State.devRead_keeps
    | with_reducible apply State.barData_keeps
    | with_reducible apply State.gsWindowAtomic_keeps
    | with_reducible apply State.barUnsupported_keeps
    | split
    | (dsimp +zetaDelta only; split)

theorem execNfBarRequest_keeps {z : State} (f : Fin 4096) (bar : Fin 6) (off : Nat) (t : Tlp) (aop : Fin 3) (s : State) (hs : Keeps True z s) {t0 : State}
    (e0 : execNfBarRequest f bar off t aop s = .next t0) : Keeps True z t0 := by
  unfold execNfBarRequest whenPowered at e0
  cases e0
  repeat' first
    | (with_reducible refine keeps_ite (fun _ => ?_) fun _ => ?_)
    | with_reducible exact hs
    | with_reducible apply State.barTake_keeps
    | with_reducible apply State.tlpSend_keeps
    | split
    | (dsimp +zetaDelta only; split)

end Sys2Proof.Machine
end

