-- ==== Sys2Proof/Laws/KeepsTurnover.lean ====
section
/-! SUPPORT. Every operation of Machine/Turnover.lean keeps the queue, the canonical form of the memory, the count of free values
drawn and what has left the part (Keeps). -/
namespace Sys2Proof.Machine

open Sys2Proof

theorem State.takeCounts_keeps {z : State} (s : State) (l : List (Nat × Nat)) (h : Keeps True z s) : Keeps True z (State.takeCounts s l) := by
  unfold State.takeCounts
  repeat' first
    | (with_reducible refine keeps_ite (fun _ => ?_) fun _ => ?_)
    | with_reducible exact h
    | with_reducible assumption
    | with_reducible apply State.pcAdd_keeps
    | (with_reducible refine keeps_foldl _ _ ?_ ?_)
    | intro _ _ _

theorem State.snapshot_keeps {tw : Prop} {z : State} (s : State) (h : Keeps tw z s) : Keeps tw z (State.snapshot s) := by
  unfold State.snapshot
  repeat' first
    | (fail_if_no_progress extract_lets)
    | (with_reducible refine keeps_ite (fun _ => ?_) fun _ => ?_)
    | with_reducible exact h
    | with_reducible assumption
    | with_reducible apply State.wr_keeps
    | with_reducible apply State.set_keeps
    | (with_reducible refine keeps_foldl _ _ ?_ ?_)
    | intro _ _ _
    | with_reducible apply keeps_mk

theorem State.countTurnover_keeps {z : State} (s : State) (h : Keeps True z s) : Keeps True z (State.countTurnover s) := by
  unfold State.countTurnover
  repeat' first
    | (with_reducible refine keeps_ite (fun _ => ?_) fun _ => ?_)
    | with_reducible exact h
    | with_reducible assumption
    | with_reducible apply State.pcAdd_keeps
    | (with_reducible refine keeps_foldl _ _ ?_ ?_)
    | intro _ _ _

theorem State.fabricReady_keeps {z : State} (s : State) (h : Keeps True z s) : Keeps True z (State.fabricReady s) := by
  unfold State.fabricReady
  repeat' first
    | (fail_if_no_progress extract_lets)
    | (with_reducible refine keeps_ite (fun _ => ?_) fun _ => ?_)
    | with_reducible exact h
    | with_reducible apply State.set_keeps
    | with_reducible apply State.raise_keeps

theorem State.doorbells_keeps {z : State} (s : State) (h : Keeps True z s) : Keeps True z (State.doorbells s) := by
  unfold State.doorbells
  repeat' first
    | with_reducible exact h
    | with_reducible assumption
    | with_reducible apply State.doorbellApply_keeps
    | (with_reducible refine keeps_foldl _ _ ?_ ?_)
    | intro _ _ _

theorem State.coreTurnover_keeps {z : State} (s : State) (h : Keeps True z s) : Keeps True z (State.coreTurnover s) := by
  unfold State.coreTurnover
  repeat' first
    | with_reducible exact h
    | with_reducible apply State.hopAdapts_keeps
    | with_reducible apply State.alphaAdjusts_keeps
    | with_reducible apply State.hotTurn_keeps
    | with_reducible apply State.kEffUpdate_keeps
    | with_reducible apply State.shaperRefill_keeps
    | with_reducible apply State.redRemeter_keeps

theorem State.blocksTurnover_keeps {z : State} (s : State) (i : TickInput) (late : Nat) (h : Keeps True z s) : Keeps True z (State.blocksTurnover s i late) := by
  unfold State.blocksTurnover
  repeat' first
    | (fail_if_no_progress extract_lets)
    | with_reducible exact h
    | with_reducible apply State.jobBoundary_keeps
    | with_reducible apply State.connTurnover_keeps
    | with_reducible apply State.coreTurnover_keeps
    | with_reducible apply State.laneTurnover_keeps
    | with_reducible apply State.linkTurnover_keeps
    | with_reducible apply State.collTurnover_keeps
    | with_reducible apply State.lanternTurnover_keeps
    | with_reducible apply State.mvTurnover_keeps
    | with_reducible apply State.engTurnover_keeps
    | with_reducible apply State.doorbells_keeps
    | (with_reducible refine keeps_foldl _ _ ?_ ?_)

theorem State.turnover_keeps {z : State} (s : State) (i : TickInput) (h : Keeps True z s) : Keeps True z (State.turnover s i) := by
  unfold State.turnover
  repeat' first
    | (fail_if_no_progress extract_lets)
    | with_reducible exact h
    | with_reducible apply State.takeCounts_keeps
    | with_reducible apply State.jobAccumulate_keeps
    | with_reducible apply State.tickAdvance_keeps
    | with_reducible apply State.overruns_keeps
    | with_reducible apply State.snapshot_keeps
    | with_reducible apply State.countTurnover_keeps
    | with_reducible apply State.stepApply_keeps
    | with_reducible apply State.bankSwap_keeps
    | with_reducible apply State.blocksTurnover_keeps
    | with_reducible apply State.snapTurnover_keeps
    | with_reducible apply State.timestampSend_keeps
    | with_reducible apply State.guylineSend_keeps
    | with_reducible apply State.servoLoad_keeps
    | with_reducible apply State.fabricReady_keeps

theorem execTurnover_keeps {z : State} (i : TickInput) (s : State) (hs : Keeps True z s) {t0 : State}
    (e0 : execTurnover i s = .next t0) : Keeps True z t0 := by
  unfold execTurnover whenPowered at e0
  cases e0
  repeat' first
    | (with_reducible refine keeps_ite (fun _ => ?_) fun _ => ?_)
    | with_reducible exact hs
    | with_reducible apply State.turnover_keeps
    | with_reducible apply State.tickAdvance_keeps

end Sys2Proof.Machine
end

