-- ==== Sys2Proof/Tests/Slice0.lean ====
section
/-!
SUPPORT. Tests. A smoke test of the well-formedness checks, with one ill-formed term for each of them; witnesses, which show
for every clause of every statement a state and operands that meet its hypotheses together; and results worked out by hand
from the spec's formulas and tables.
-/
namespace Sys2Proof.Tests

open Sys2Proof Sys2Proof.Machine

-- One theorem at a time: elaborated side by side, these would hold a thread each.
set_option Elab.async false

/-! ### States and operands that the tests are built from -/

/-- The state after reset, with nothing placed. -/
abbrev R : State := State.reset

/-- The first entry of ring 0 of function f. -/
abbrev entryOf (f : Fin 4096) : EntryRef := ⟨f, 0, 0⟩

/-- A 64-byte entry: its opcode, and values at bit positions. -/
def ent (op : Nat) (l : List (Nat × Nat)) : BitVec 512 := BitVec.ofNat 512 (l.foldl (fun a x => a + x.2 * 2 ^ x.1) op)

/-- A state in which ring 0 of f is enabled and holds one entry, begun and not yet taken. -/
def begun (s : State) (f : Fin 4096) (d : BitVec 512) : State :=
  { s.set F.RING_CFG.ENABLE 1 f 0 with rings := mset s.rings (f.val, 0) { descs := [⟨0, some d, true, false, false⟩] } }

/-- A state whose port p is in a state of R158. -/
def portIn (s : State) (p : Fin 256) (st : Nat) : State := s.set F.PORT_STATE.STATE st p

/-! ### Well-formedness refuses -/

/-- An index of 33 bits is no ring index; one of 32 bits is. -/
theorem test_wf_entry :
    Instr.wf (.nop ⟨0, 0, 2 ^ 32⟩) = false ∧ Instr.wf (.nop ⟨0, 0, 2 ^ 32 - 1⟩) = true :=
  by decide +kernel

/-- Nor a work queue index. -/
theorem test_wf_work :
    Instr.wf (.put ⟨0, false, 2 ^ 32⟩) = false :=
  by decide +kernel

/-- Nor the index of a fetch, of either kind. -/
theorem test_wf_fetch :
    Instr.wf (.fetchRetry (.ring ⟨0, 0, 2 ^ 32⟩)) = false ∧ Instr.wf (.fetchRetry (.work ⟨0, true, 2 ^ 32⟩)) = false :=
  by decide +kernel

/-- A CK lies within a tick. -/
theorem test_wf_ck :
    Instr.wf (.tbPpsEdge 1752) = false ∧ Instr.wf (.tbPpsEdge 1751) = true :=
  by decide +kernel

/-- A register access has 1 to 8 bytes and lies in its window. -/
theorem test_wf_access :
    (Instr.wf (.registerWrite .serviceProcessor .device 0 9 0) = false ∧
      Instr.wf (.registerWrite .serviceProcessor .device 0 0 0) = false) ∧
    (Instr.wf (.registerWrite .serviceProcessor .device (2 ^ 27) 8 0) = false ∧
      Instr.wf (.registerWrite (.func 0) .own (2 ^ 21) 8 0) = false) :=
  ⟨by decide +kernel, by decide +kernel⟩

/-- A lock word lies in the Groundsheet. -/
theorem test_wf_offset :
    Instr.wf (.lockClaim .serviceProcessor (2 ^ 26) 0) = false ∧
      Instr.wf (.lockClaim .serviceProcessor (2 ^ 26 - 8) 0) = true :=
  by decide +kernel

/-- A TLP for the tests: a read of 4 bytes at an address. -/
def tlpAt (kind : TlpKind) (addr len : Nat) : Tlp := ⟨kind, 0, 0, 0, false, addr, len, [], 0, 0, true⟩

/-- A TLP's length and address fit their fields. -/
theorem test_wf_tlp :
    (Instr.wf (.tlpReceive 0 (tlpAt .memRead 0 4097) none) = false ∧
      Instr.wf (.tlpReceive 0 (tlpAt .memRead (2 ^ 64) 4) none) = false) ∧
    (Instr.wf (.nfBarRequest 0 0 (2 ^ 28) (tlpAt .memRead 0 4) 0) = false ∧
      Instr.wf (.tlpReceive 0 (tlpAt .memRead 0 4096) none) = true) :=
  ⟨by decide +kernel, by decide +kernel⟩

/-- The fields of a WIDTH column fit. -/
theorem test_wf_width :
    Instr.wf (.widthReqReceive 0 ⟨16, 0, 0, 0, 0⟩) = false ∧ Instr.wf (.widthReqReceive 0 ⟨15, 255, 255, 0, 0⟩) = true :=
  by decide +kernel

/-- A payload is at most 4,096 bytes. -/
theorem test_wf_payload :
    Instr.wf (.linkPacketEnd 0 (List.replicate 4097 0) 0 false 0) = false :=
  by decide +kernel

/-- What a read returns is at most what was asked. -/
theorem test_wf_read :
    Instr.wf (.doorbellPoll 0 0 (.data (List.replicate 4097 0))) = false ∧ Instr.wf (.doorbellPoll 0 0 .error) = true :=
  by decide +kernel

/-- A slice of a collective lies in its 24 bits. -/
theorem test_wf_slice :
    Instr.wf (.collFoldDone 0 0 0 (2 ^ 24)) = false :=
  by decide +kernel

/-- A burst's position has 64 bits. -/
theorem test_wf_position :
    Instr.wf (.moverBurstReadComplete 0 0 (2 ^ 64) .error true 0) = false :=
  by decide +kernel

/-- A self-test names 9 columns, 136 engines and 34 banks. -/
theorem test_wf_self_test :
    (Instr.wf (.rstWarm .serviceProcessor [⟨[9], [], []⟩]) = false ∧
      Instr.wf (.rstWarm .serviceProcessor [⟨[], [136], []⟩]) = false) ∧
    (Instr.wf (.rstWarm .serviceProcessor [⟨[], [], [34]⟩]) = false ∧
      Instr.wf (.rstWarm .serviceProcessor [⟨[8], [135], [33]⟩]) = true) :=
  ⟨by decide +kernel, by decide +kernel⟩

/-- The end of a cold reset with a number of dies whose fuses read well. -/
def cold (n : Nat) : ColdStart := ⟨List.replicate n ⟨0, 0, true⟩, 0, (true, true), 0, 0, [], none⟩

/-- The end of a cold reset brings 13 dies. -/
theorem test_wf_cold :
    Instr.wf (.sysResetRelease (cold 12)) = false ∧ Instr.wf (.sysResetRelease (cold 13)) = true :=
  by decide +kernel

/-- An image slot with an SVN. -/
def slotOf (svn : Nat) : SlotImage := ⟨true, 0, true, true, svn, 1, false, none, [], [], []⟩

/-- An SVN is 0 to 63. -/
theorem test_wf_slot :
    (Instr.wf (.secureBoot (some (slotOf 64)) none) = false ∧ Instr.wf (.secureBoot none (some (slotOf 64))) = false) ∧
    (Instr.wf (.pldmFirmwareUpdate 0 (slotOf 64)) = false ∧ Instr.wf (.secureBoot (some (slotOf 63)) none) = true) :=
  ⟨by decide +kernel, by decide +kernel⟩

/-- A fault names connections and entries that can exist. -/
theorem test_wf_fault :
    Instr.wf (.faultOccurrence 0 ⟨0, 0, 0, [2 ^ 24], []⟩) = false ∧
      Instr.wf (.faultOccurrence 0 ⟨0, 0, 0, [], [⟨0, 0, 2 ^ 32⟩]⟩) = false :=
  by decide +kernel

/-- A module's temperature is one that CMIS can report. -/
theorem test_wf_poll :
    Instr.wf (.modulePoll [(0, ⟨true, 0, false, 128⟩)]) = false ∧ Instr.wf (.modulePoll [(0,
      ⟨true, 0, false, -128⟩)]) = true :=
  by decide +kernel

/-- What a quiet tick's surroundings bring to a turnover. -/
def quietTick : TickInput := ⟨0, 0, [], [], [], [], [], []⟩

/-- A turnover names units, sensors, dies, ports and counters that exist. -/
theorem test_wf_tick :
    (Instr.wf (.turnover { quietTick with late := 64 }) = false ∧
      Instr.wf (.turnover { quietTick with temps := [(208, 0)] }) = false) ∧
    (Instr.wf (.turnover { quietTick with badSensors := [208] }) = false ∧
      Instr.wf (.turnover { quietTick with currents := [(13, 0)] }) = false) ∧
    (Instr.wf (.turnover { quietTick with volts := [(13, 0)] }) = false ∧
      Instr.wf (.turnover { quietTick with columnUse := [(256, 0, 0)] }) = false) ∧
    (Instr.wf (.turnover { quietTick with counts := [(144, 0)] }) = false ∧ Instr.wf (.turnover quietTick) = true) :=
  ⟨by decide +kernel, by decide +kernel, by decide +kernel, by decide +kernel⟩

/-- A control block is of its row's type or of a reserved one. -/
theorem test_wf_lcb :
    (Instr.wf (.ackLcbReceive 0 (mkLcb 0x11 0 0)) = false ∧ Instr.wf (.ackLcbReceive 0 (mkLcb 0x10 0 0)) = true ∧
      Instr.wf (.ackLcbReceive 0 (mkLcb 0x7F 0 0)) = true) ∧
    (Instr.wf (.guylineLcbReceive 0 (mkLcb 0x10 0 0)) = false ∧
      Instr.wf (.timestampLcbReceive 0 (mkLcb 0x16 0 0) 0) = false) :=
  ⟨by decide +kernel, by decide +kernel⟩

/-! ### Witnesses -/

/-- Each clause of TimeCommandsComplete has a state that meets its hypotheses. -/
theorem witness_TimeCommandsComplete :
    (R.running = true ∧ (portIn R 255 6).running = true ∧ (portIn R 255 6).f F.PORT_STATE.STATE 255 = 6 ∧
      reservedBlock (L.LCB.TYPE.get (mkLcb 0x12 1 2)) = false ∧ lcbOk (mkLcb 0x12 1 2) = true) ∧
    (Requester.serviceProcessor.reaches = true) ∧
    ((let s := (R.set F.RP_CONTROL.ROOT 1).set F.RP_CONTROL.ROOT_SOURCE 2; s.running = true ∧
      s.on F.RP_CONTROL.ROOT = true ∧ s.f F.RP_CONTROL.ROOT_SOURCE = 2)) ∧
    ((let s := R.set F.RP_CONTROL.ROOT 1; s.running = true ∧ s.on F.RP_CONTROL.ROOT = true ∧ s.time.lastPps = none ∧
      s.f F.RP_CONTROL.ROOT_SOURCE ≠ 2)) ∧
    ((let s := (R.set F.RP_CONTROL.ROOT 1).set F.RP_STATUS.PPS_OK 1; s.running = true ∧ s.on F.RP_CONTROL.ROOT = true ∧
      s.on F.RP_STATUS.PPS_OK = true)) ∧
    ((let s := (R.set F.RP_CONTROL.ROOT 1).set F.RP_STATUS.REF10M_OK 1; s.running = true ∧ s.on F.RP_CONTROL.ROOT = true ∧
      s.on F.RP_STATUS.REF10M_OK = true)) ∧
    ((let s := (R.set F.EB_PART_CFG.ENABLE 1 15).set F.EB_PART_STATUS.UPSTREAM_UP 1 15; s.running = true ∧
      s.on F.EB_PART_CFG.ENABLE 15 = true ∧ s.on F.EB_PART_STATUS.UPSTREAM_UP 15 = true ∧ mfind s.time.ptmLast 15 = none)) :=
  ⟨by decide +kernel, by decide +kernel, by decide +kernel, by decide +kernel, by decide +kernel, by decide +kernel,
      by decide +kernel⟩

/-- Each clause of RingRegisterCommandsComplete, on ring 4095 of function 15. -/
theorem witness_RingRegisterCommandsComplete :
    (R.running = true ∧ R.inReset 15 = false ∧
      R.ringCfgCheck 15 4095 (F.RING_CFG.LOG2SIZE.fld.set (F.RING_CFG.ENABLE.fld.set 0 1) 16) = .ok) ∧
    (R.ringKind 15 4095 ≠ 4 ∧ R.on F.RING_CFG.DB_POLL 15 4095 = false ∧ setsRsv RegName.RING_PI.desc.fields 64 = false ∧
      R.piOk 15 4095 64 = true) ∧
    ((let s := (R.set F.RING_CFG.KIND 4 15 4095).set F.RING_PI.PI 1 15 4095; s.running = true ∧ s.inReset 15 = false ∧
      s.ringKind 15 4095 = 4 ∧ setsRsv RegName.RING_CI.desc.fields 1 = false ∧
      wsub 32 1 (s.ci 15 4095) ≤ wsub 32 (s.pi 15 4095) (s.ci 15 4095))) ∧
    ((let s := R.set F.RING_PI.PI 64 15 4095; s.running = true ∧ s.inReset 15 = false ∧
      s.on F.RING_STATUS.HELD 15 4095 = false ∧ wsub 32 0 (s.cpi 15 4095) + 64 ≤ wsub 32 (s.pi 15 4095) (s.cpi 15 4095) ∧
      wsub 32 63 (s.cpi 15 4095) + 1 ≤ wsub 32 (s.pi 15 4095) (s.cpi 15 4095))) ∧
    ((let s := R.set F.RING_STATUS.HELD 1 15 4095; s.running = true ∧ s.inReset 15 = false ∧
      s.on F.RING_STATUS.HELD 15 4095 = true)) :=
  ⟨by decide +kernel, by decide +kernel, by decide +kernel, by decide +kernel, by decide +kernel⟩

/-- Each clause of RingEntryCommandsComplete. -/
theorem witness_RingEntryCommandsComplete :
    ((let s := (R.set F.RING_CFG.ENABLE 1 0 0).set F.RING_CFG.DB_POLL 1 0 0; s.running = true ∧ s.ringOn 0 0 = true ∧
      s.on F.RING_CFG.DB_POLL 0 0 = true ∧ (s.ring 0 0).polled = false ∧ s.inReset 0 = false)) ∧
    ((let s := (R.set F.RING_CFG.ENABLE 1 0 0).set F.RING_PI.PI 1 0 0; s.running = true ∧ s.ringOn 0 0 = true ∧
      s.ringKind 0 0 ≠ 4 ∧ s.inReset 0 = false ∧
      ((s.ring 0 0).descs.filter fun d => !d.begun).length < s.f F.FUNC_CFG.FETCH_DEPTH 0 ∧ s.nextFetch 0 0 = some 0 ∧
      s.descUsed < s.descSlots)) ∧
    ((let s : State := { (R.set F.RING_CFG.ENABLE 1 0 0).set F.RING_PI.PI 1 0 0 with rings := [((0, 0), { descs := [⟨0, some (ent 0 []), false, false, false⟩] })] };
      s.running = true ∧ s.ringOn 0 0 = true ∧ s.ringKind 0 0 ≠ 4 ∧ s.fnQuiet 0 = false ∧ s.ci 0 0 ≠ s.pi 0 0 ∧
      (((s.ring 0 0).descs.find? fun y => y.idx == s.ci 0 0) = some ⟨0, some (ent 0 []), false, false, false⟩) ∧
      s.mayBegin 0 0 (ent 0 []) = true ∧ malformed (ent 0 []) (s.ringKind 0 0) = none)) ∧
    ((begun R 0 (ent 0 [])).running = true ∧ (begun R 0 (ent 0 [])).begunEntry (entryOf 0) 0x00 = some (ent 0 [])) ∧
    ((begun R 0 (ent 0x60 [(192, 4096)])).begunEntry (entryOf 0) 0x60 = some (ent 0x60 [(192, 4096)]) ∧
      entryFld (ent 0x60 [(192, 4096)]) 204 192 = 4096 ∧
      ((begun R 0 (ent 0x60 [(192, 4096)])).takeEntry (entryOf 0)).on F.MATCH_CFG.UX_EN 0 = false) ∧
    ((let s : State := { R with rings := [((0, 0), { waiting := [⟨0, none⟩] })] }; s.running = true ∧
      (s.ring 0 0).waiting = ⟨0, none⟩ :: [] ∧ s.noteRoom 0 0 = true ∧ s.fnQuiet 0 = false)) :=
  ⟨by decide +kernel, by decide +kernel, by decide +kernel, by decide +kernel, by decide +kernel, by decide +kernel⟩

/-- A JOB_CREATE entry of job 7 with the whole rank table. -/
def jobNewEntry : BitVec 512 := ent 0x10 [(64, 7), (128, 2 ^ 20)]

/-- A state in which that entry has begun. -/
def jobNew : State := begun R 16 jobNewEntry

/-- A string of zero bytes is the number 0. -/
theorem leNat_zeros : ∀ l : List Byte, (∀ b ∈ l, b = 0) → leNat l = 0
  | [], _ => rfl
  | b :: bs, h => by
    have h0 : b = 0 := h b (by simp)
    have := leNat_zeros bs fun c hc => h c (by simp [hc])
    simp [leNat, h0, this]

/-- With nothing written, every slot of the job table but slot 0 reads as zero. -/
theorem jobEntry_blank {s : State} (hm : s.mem = []) {k : Nat} (h1 : 1 ≤ k) (h2 : k < 4096) : s.jobEntry k = 0 := by
  unfold State.jobEntry State.gsNat State.gsGets memGets
  rw [leNat_zeros _ ?_]; rfl
  intro b hb
  obtain ⟨i, hi, rfl⟩ := List.mem_map.1 hb
  have hi := List.mem_range.1 hi
  rw [hm]
  have e : (jobBase + 256 * k) % gsSize = jobBase + 256 * k := Nat.mod_eq_of_lt (by unfold jobBase gsSize; omega)
  rw [e]; unfold memGet memInit jobBase
  rw [if_neg (by omega), if_neg (by omega)]

/-- No number of a range is found where none passes. -/
theorem firstFrom_none {p : Nat → Bool} : ∀ n i, (∀ k, i ≤ k → k < i + n → p k = false) → firstFrom p n i = none
  | 0, _, _ => rfl
  | n + 1, i, h => by
    unfold firstFrom
    rw [h i (by omega) (by omega)]
    simpa using firstFrom_none n (i + 1) fun k a b => h k (by omega) (by omega)

/-- No slot of that state holds job 7. -/
theorem jobNew_slot : (jobNew.takeEntry (entryOf 16)).jobSlot 7 = none := by
  unfold State.jobSlot firstNat
  rw [firstFrom_none 4096 0 fun k _ hk => ?_]
  rcases Nat.eq_zero_or_pos k with rfl | h1
  · decide +kernel
  · have : (jobNew.takeEntry (entryOf 16)).jobEntry k = 0 := jobEntry_blank rfl h1 (by omega)
    unfold State.jobState; rw [this]; rfl

/-- No slot of that state overlaps the whole rank table. -/
theorem jobNew_overlap : (jobNew.takeEntry (entryOf 16)).sliceOverlap 0 (2 ^ 20) = false := by
  unfold State.sliceOverlap firstNat
  rw [firstFrom_none 4096 0 fun k _ hk => ?_]; rfl
  rcases Nat.eq_zero_or_pos k with rfl | h1
  · decide +kernel
  · have : (jobNew.takeEntry (entryOf 16)).jobEntry k = 0 := jobEntry_blank rfl h1 (by omega)
    dsimp only; rw [this]; rfl

/-- A state in which job 7 holds slot 1 with the rank table slice 0 to 3. -/
def jobbed : State := R.jobWrite 1 7 0 4

/-- Each clause of JobCommandsComplete. -/
theorem witness_JobCommandsComplete :
    (jobNew.running = true ∧ jobNew.begunEntry (entryOf 16) 0x10 = some jobNewEntry ∧ entryFld jobNewEntry 79 64 = 7 ∧
      (jobNew.takeEntry (entryOf 16)).jobSlot 7 = none ∧ entryFld jobNewEntry 148 128 = 2 ^ 20 ∧
      entryFld jobNewEntry 115 96 = 0 ∧ (jobNew.takeEntry (entryOf 16)).sliceOverlap 0 (2 ^ 20) = false ∧
      (jobNew.takeEntry (entryOf 16)).freeJobSlot = some 1) ∧
    ((begun R 16 (ent 0x11 [])).running = true ∧
      (begun R 16 (ent 0x11 [])).begunEntry (entryOf 16) 0x11 = some (ent 0x11 [])) ∧
    ((begun R 16 (ent 0x12 [])).begunEntry (entryOf 16) 0x12 = some (ent 0x12 [])) ∧
    ((let d := ent 0x13 [(64, 7)]; let s := begun jobbed 16 d; let t := s.takeEntry (entryOf 16); s.running = true ∧
      s.begunEntry (entryOf 16) 0x13 = some d ∧ t.jobLive (entryFld d 79 64) = some 1 ∧
      L.JOB.EP_MASK.get (t.jobEntry 1) = 0 ∧ (t.jobs.waits.any fun w => w.slot == 1) = false ∧
      (t.xp.conns.any fun c => c.2.slot == 1) = false)) ∧
    ((let s : State := { R with jobs := { destroys := [⟨entryOf 16, 0, 4, 1, []⟩] } }; s.running = true ∧
      (s.jobs.destroys.find? fun w => w.e == entryOf 16) = some ⟨entryOf 16, 0, 4, 1, []⟩)) ∧
    ((let d := ent 0x14 [(64, 2 ^ 20 - 1), (96, 1)]; (begun R 16 d).running = true ∧
      (begun R 16 d).begunEntry (entryOf 16) 0x14 = some d ∧ entryFld d 116 96 = 1 ∧
      entryFld d 83 64 + entryFld d 116 96 ≤ 2 ^ 20)) ∧
    ((let s : State := { R with jobs := { rttInvals := [⟨entryOf 16, 0, 4, 0, []⟩] } }; s.running = true ∧
      (s.jobs.rttInvals.find? fun w => w.e == entryOf 16) = some ⟨entryOf 16, 0, 4, 0, []⟩)) ∧
    ((let d := ent 0x15 [(64, 16383), (96, 1)]; (begun R 16 d).running = true ∧
      (begun R 16 d).begunEntry (entryOf 16) 0x15 = some d ∧ entryFld d 110 96 = 1 ∧
      entryFld d 77 64 + entryFld d 110 96 ≤ 16384)) ∧
    ((let s : State := { R with jobs := { mcgInvals := [⟨entryOf 16, 0, 4, 0, [3]⟩] } }; s.running = true ∧
      (s.jobs.mcgInvals.find? fun w => w.e == entryOf 16) = some ⟨entryOf 16, 0, 4, 0, [3]⟩ ∧
      (s.core.pkts.any fun k => [3].contains k.id) = false)) :=
  ⟨⟨by decide +kernel, by decide +kernel, by decide +kernel, jobNew_slot, by decide +kernel,
      by decide +kernel, jobNew_overlap, by decide +kernel⟩, by decide +kernel, by decide +kernel, by decide +kernel,
      by decide +kernel, by decide +kernel, by decide +kernel, by decide +kernel, by decide +kernel⟩

/-- A state in which ASID 1 is bound to function 0. -/
def asidOne : State := R.asidCfgWrite 1 (BitVec.ofNat 64 (2 ^ 63))

/-- Each clause of LockAndInvalidateCommandsComplete. -/
theorem witness_LockAndInvalidateCommandsComplete :
    (R.running = true ∧ Requester.serviceProcessor.ident.isSome = true ∧ (2 ^ 26 - 8) % 8 = 0) ∧
    ((Requester.func 16).ident.isSome = true ∧ hostWritable ((2 ^ 26 - 8) % gsSize) = true) ∧
    ((let s : State := { R with lock := { waiters := [⟨8, fmfIdent⟩] } }; s.running = true ∧
      (s.lock.waiters.any fun w => w.off == 8 && w.ident == fmfIdent) = true)) ∧
    ((let s : State := { R with lock := { owned := [8] } }; s.running = true ∧ s.lockRecorded (8 % gsSize) = true)) ∧
    (asidOne.running = true ∧ asidOne.f F.XL_ASID_CFG.FUNC 1 = 0 ∧ asidOne.on F.XL_INV_STATUS.BUSY 0 = false ∧
      asidOne.inReset 0 = false) ∧
    ((let s : State := { R with xl := { invs := [⟨0, 1, true, 0, 0, []⟩] } }; s.running = true ∧
      (s.xl.invs.find? fun x => x.fn == 0) = some ⟨0, 1, true, 0, 0, []⟩ ∧ s.asidBusy 1 = false)) ∧
    (Requester.serviceProcessor.reaches = true ∧ R.asidCfgCheck 1023 (BitVec.ofNat 64 (2 ^ 63)) = .ok) :=
  ⟨by decide +kernel, by decide +kernel, by decide +kernel, by decide +kernel, by decide +kernel, by decide +kernel,
      by decide +kernel⟩

/-- Slot 1 of the job table holds job 7, active at every endpoint, and its ranks 0 to 3 lie at this node's endpoint 0. -/
def active : State :=
  let s := R.setJob 1 (L.JOB.EP_MASK.set (L.JOB.STATE.set (R.jobWrite 1 7 0 4 |>.jobEntry 1) 2) (2 ^ 64 - 1))
  let s := s.gsPut (rttBase + 8) 8 (2 ^ 63 + 7 * 2 ^ 32)
  let s := (s.set F.EB_PART_CFG.ENABLE 1 0).set F.FUNC_CONN_RANGE.CONN_COUNT (2 ^ 24) 0
  let s := ((s.set F.NF_JOB_BIND.VALID 1 0 0).set F.NF_JOB_BIND.JOB_SLOT 1 0 0).set F.CTX_ADDR.BASE 1 0
  (s.set F.RING_CFG.ENABLE 1 0 1).set F.RING_CFG.KIND 4 0 1

/-- A connection of function 0 in slot 1, with a peer at this node's endpoint 0. -/
def link : ConnSt :=
  { fn := 0, slot := 1, rank := 1, node := 0, ep := 0, peer := 5, tc := 0, mtu := 4, pinned := false
    sq := { log2 := 6, nring := 1 }, rq := { log2 := 6, nring := 1 } }

/-- The last connection of the part. -/
abbrev lastConn : Fin 16777216 := 16777215

/-- A state with the last connection. -/
def linked (s : State) (x : ConnSt) : State := s.setConn lastConn x

/-- A send queue with one entry fetched. -/
def queued (x : ConnSt) (w : WorkEnt) : ConnSt := { x with sq := { x.sq with ents := [w] } }

/-- A CONN_CREATE entry for the last connection, to rank 1. -/
def createEntry : BitVec 512 := ent 0x01 [(16, 1), (64, 2 ^ 24 - 1), (88, 1), (320, 16), (330, 1)]

/-- Each clause of ConnectionCommandsComplete. -/
theorem witness_ConnectionCommandsComplete :
    ((linked R link).running = true ∧ (linked R link).doorbellCheck 0 (BitVec.ofNat 64 (2 ^ 24 - 1 + 64 * 2 ^ 32)) = .ok ∧
      (linked R link).inReset 0 = false ∧
      setsRsv RegName.CQ_DOORBELL.desc.fields (BitVec.ofNat 64 (2 ^ 24 - 1 + 64 * 2 ^ 32)) = false) ∧
    ((begun R 0 (ent 0x80 [(10, 7)])).running = true ∧
      (begun R 0 (ent 0x80 [(10, 7)])).begunEntry (entryOf 0) 0x80 = some (ent 0x80 [(10, 7)])) ∧
    ((let x := { link with sq := { link.sq with want := true } }; (linked R x).running = true ∧
      (linked R x).conn lastConn = some x ∧ (x.q false).want = true ∧ (linked R x).inReset x.fn = false)) ∧
    ((let x := { link with rq := { link.rq with due := true } }; (linked R x).running = true ∧
      (linked R x).conn lastConn = some x ∧ (x.q true).due = true ∧ (linked R x).inReset x.fn = false)) ∧
    ((let s : State := { R with rings := [((0, 0), { descs := [⟨0, none, false, false, false⟩] })] }; s.running = true ∧
      ((s.ring 0 0).descs.any fun d => d.inFlight 0) = true)) ∧
    ((let x := queued link ⟨0, none, false, false, false, false⟩; (linked R x).running = true ∧
      (linked R x).conn lastConn = some x ∧ ((x.q false).ents.any fun w => w.inFlight 0) = true ∧ x.st = 1)) ∧
    ((let s : State := { R with rings := [((0, 0), { descs := [⟨0, none, false, true, false⟩] })] }; s.running = true ∧
      ((s.ring 0 0).descs.any fun d => d.idx == 0 && d.failed) = true ∧ s.inReset 0 = false)) ∧
    ((let s := begun active 0 createEntry; let t := s.takeEntry (entryOf 0); s.running = true ∧
      s.begunEntry (entryOf 0) 0x01 = some createEntry ∧ t.connCheck 0 (entryFld createEntry 27 16) createEntry = .ok ∧
      (t.rankTranslate (t.fnIe 0 (entryFld createEntry 87 64)) (entryFld createEntry 27 16) (entryFld createEntry 107 88)).2.isSome = true)) ∧
    ((let d := ent 0x02 [(16, 1), (64, 2 ^ 24 - 1), (88, 1), (89, 5)]; let s := begun (linked active link) 0 d;
      let t := s.takeEntry (entryOf 0); s.running = true ∧ s.begunEntry (entryOf 0) 0x02 = some d ∧
      t.connCmdCheck 0 (entryFld d 27 16) (entryFld d 87 64) = .ok ∧ t.conn (entryFld d 87 64) = some link ∧ link.st ≠ 2 ∧
      d.toNat.testBit 88 = true ∧ entryFld d 91 89 = 5)) ∧
    ((let d := ent 0x03 [(16, 1), (64, 2 ^ 24 - 1)]; let s := begun (linked active link) 0 d; s.running = true ∧
      s.begunEntry (entryOf 0) 0x03 = some d ∧
      (s.takeEntry (entryOf 0)).connCmdCheck 0 (entryFld d 27 16) (entryFld d 87 64) = .ok)) ∧
    ((let x := { link with st := 3, destroy := some (entryOf 0) }; let s := linked R x; s.running = true ∧
      (s.xp.conns.find? fun p => p.2.destroy == some (entryOf 0)) = some (lastConn.val, x) ∧
      s.connPackets lastConn x = false ∧ x.sq.idleQ = true ∧ x.rq.idleQ = true)) :=
  ⟨by decide +kernel, by decide +kernel, by decide +kernel, by decide +kernel, by decide +kernel, by decide +kernel,
      by decide +kernel, by decide +kernel, by decide +kernel, by decide +kernel, by decide +kernel⟩

/-- A state in which function 0 owns the last memory region key alone. -/
def keyed (s : State) : State := (s.set F.FUNC_KEY_RANGE.KEY_BASE (2 ^ 18 - 1) 0).set F.FUNC_KEY_RANGE.KEY_COUNT 1 0

/-- The last key, valid, of job slot 1 and with tag 1. -/
def keyGood (s : State) : State := (keyed s).setKey (2 ^ 18 - 1) (BitVec.ofNat 128 (2 ^ 96 + 2 ^ 108 + 2 ^ 126))

/-- A multicast group of job 7. -/
def groupGood (s : State) : State := s.gsPut mcgBase 64 (2 ^ 511 + 7 * 2 ^ 320)

/-- Each clause of RegionAndDatagramCommandsComplete. -/
theorem witness_RegionAndDatagramCommandsComplete :
    ((let d := ent 0x08 [(16, 1), (76, 1), (128, 2 ^ 44 - 1)]; let s := begun (keyed active) 0 d;
      let t := s.takeEntry (entryOf 0); s.running = true ∧ s.begunEntry (entryOf 0) 0x08 = some d ∧
      t.jobBound 0 (entryFld d 27 16) = true ∧ d.toNat.testBit 175 = false ∧ entryFld d 127 64 % 4096 = 0 ∧
      entryFld d 171 128 ≠ 0 ∧ t.keyIndex 0 = some (2 ^ 18 - 1))) ∧
    ((let d := ent 0x09 [(16, 1), (64, 2 ^ 18 - 1 + 2 ^ 18)]; let s := begun (keyGood active) 0 d;
      let t := s.takeEntry (entryOf 0); s.running = true ∧ s.begunEntry (entryOf 0) 0x09 = some d ∧
      t.keyWrong 0 (entryFld d 95 64) = false ∧ t.keyState (entryFld d 95 64 % 2 ^ 18) < 2 ∧ t.xp.waits = [] ∧
      L.KEY.JOB_SLOT.get (t.key (entryFld d 95 64 % 2 ^ 18)) = entryFld d 27 16)) ∧
    ((let s : State := { R with xp := { waits := [.revoke (entryOf 0) (2 ^ 18 - 1) 1] } }; s.running = true ∧
      s.xp.waits = [.revoke (entryOf 0) (2 ^ 18 - 1) 1] ∧ (s.xp.conns.any fun p => p.2.holdsKey (2 ^ 18 - 1)) = false)) ∧
    ((let d := ent 0x0A [(16, 1), (64, 65535), (80, 1), (83, 1)];
      let s := begun ((active.set F.FUNC_TRIG_RANGE.TRIG_BASE 65535 0).set F.FUNC_TRIG_RANGE.TRIG_COUNT 1 0) 0 d;
      let t := s.takeEntry (entryOf 0); s.running = true ∧ s.begunEntry (entryOf 0) 0x0A = some d ∧
      t.trgInRange 0 (entryFld d 79 64) = true ∧ t.jobBound 0 (entryFld d 27 16) = true ∧
      L.TRG.VALID.on (t.trg (entryFld d 79 64)) = false ∧ d.toNat.testBit 80 = true ∧ d.toNat.testBit 83 = true)) ∧
    ((let d := ent 0x40 [(16, 1), (64, 1), (96, 256)]; let s := begun active 0 d; let t := s.takeEntry (entryOf 0);
      s.running = true ∧ s.begunEntry (entryOf 0) 0x40 = some d ∧
      (t.rankTranslate (t.fnIe 0 0) (entryFld d 27 16) (entryFld d 83 64)).2.isSome = true ∧
      t.dgCheck (entryOf 0) d false false = .ok)) ∧
    ((let d := ent 0x41 [(16, 1), (96, 256)]; let s := begun (groupGood active) 0 d; let t := s.takeEntry (entryOf 0);
      s.running = true ∧ s.begunEntry (entryOf 0) 0x41 = some d ∧
      mcgValid (t.mcgRead (t.homeHub 0) (entryFld d 77 64)).2 = true ∧
      L.MCG.JOB.get (t.mcgRead (t.homeHub 0) (entryFld d 77 64)).2 = t.jobId (entryFld d 27 16) ∧
      t.dgCheck (entryOf 0) d false false = .ok)) ∧
    ((let d := ent 0x61 [(16, 1), (112, 1)]; let s := begun active 0 d; let t := s.takeEntry (entryOf 0);
      s.running = true ∧ s.begunEntry (entryOf 0) 0x61 = some d ∧ t.jobBound 0 (entryFld d 27 16) = true ∧
      t.ringIs 0 (L.RM.NRING.get d) 4 = true)) :=
  ⟨by decide +kernel, by decide +kernel, by decide +kernel, by decide +kernel, by decide +kernel, by decide +kernel,
      by decide +kernel⟩

/-- The hypotheses of WorkEntriesComplete for an entry of one opcode at the head of the last connection's send queue. -/
def sendable (op : Nat) : Bool :=
  let d := ent op []
  let w : WorkEnt := ⟨0, some d, false, false, true, false⟩
  let s := linked active (queued link w)
  s.running && s.conn lastConn == some (queued link w) && !(s.fnQuiet link.fn) && (queued link w).headEntry == some w &&
    workMalformed d false == none && decide ((queued link w).span < 16) && s.sendCheck (queued link w) d == .ok &&
    !(s.trigWaits d) && entryFld d 7 0 == op

/-- Each of the five opcodes at the head of a send queue. -/
theorem witness_WorkEntriesComplete :
    (sendable 0xA0 = true ∧ sendable 0xA1 = true) ∧
    (sendable 0xA2 = true ∧ sendable 0xA3 = true ∧ sendable 0xA4 = true) :=
  ⟨by decide +kernel, by decide +kernel⟩

/-- A fabric packet from this node's endpoint 0 to endpoint ep, of job 7, with transport bits and a payload. -/
def pktTo (ep : Nat) (job : Nat) (tp : List (Nat × Nat)) (hdr : Nat) (payload : List Byte) : Packet :=
  ⟨BitVec.ofNat 256 (ep * 2 ^ 20 + job * 2 ^ 64 + (hdr + payload.length) * 2 ^ 120), (ent 0 tp).truncate 256, payload⟩

/-- A state with a packet at the head of ejection port 15. -/
def ejecting (s : State) (p : Packet) : State := { s with ni := { s.ni with ej := [(15, [p])] } }

/-- A PUT packet of one byte for the last connection. -/
def putPkt : Packet := pktTo 0 7 [(0, 1), (16, 2 ^ 24 - 1), (40, 5)] 32 [1]

/-- A datagram of 5 bytes for ring 0. -/
def dgPkt : Packet := pktTo 0 7 [(0, 0x0B), (16, 0)] 16 [1, 2, 3, 4, 5]

/-- An ACK for the last connection. -/
def ackPkt : Packet := pktTo 0 7 [(0, 8), (16, 2 ^ 24 - 1), (40, 5)] 16 (List.replicate 64 0)

/-- A refusal notice for the last connection, of a PUT with status 0x0D. -/
def noticePkt : Packet := pktTo 0 7 [(0, 9), (16, 2 ^ 24 - 1), (40, 5), (112, 0x010D)] 16 []

/-- A ROUTE_FAIL that returns a datagram. -/
def failPkt : Packet := pktTo 0 7 [(0, 10)] 16 (List.replicate 32 0 ++ [0x0B] ++ List.replicate 15 0)

/-- Each clause of TransportPacketsComplete. -/
theorem witness_TransportPacketsComplete :
    ((let s := ejecting active putPkt; s.running = true ∧ ((s.ejPop 15).admission putPkt.job putPkt.dstEp).2 = none ∧
      s.ejFor 15 0 = some putPkt ∧ putPkt.wellFormed = true)) ∧
    ((let s := ejecting (((active.set F.RING_CFG.KIND 2 0 0).set F.RING_CFG.ENABLE 1 0 0).modRing 0 0 fun x => { x with bufs := [0] }) dgPkt;
      let t := ((s.ejPop 15).admission dgPkt.job dgPkt.dstEp).1; s.running = true ∧
      ((s.ejPop 15).admission dgPkt.job dgPkt.dstEp).2 = none ∧ epFn dgPkt.dstEp < 4096 ∧ dgPkt.th 27 16 < 4096 ∧
      s.ejFor 15 1 = some dgPkt ∧ dgPkt.wellFormed = true ∧ (t.ring (epFn dgPkt.dstEp) (dgPkt.th 27 16)).bufs = [0] ∧
      t.fnQuiet (epFn dgPkt.dstEp) = false ∧ t.ringIs (epFn dgPkt.dstEp) (dgPkt.th 27 16) 2 = true)) ∧
    ((let s := ejecting (linked active link) ackPkt; let t := ((s.ejPop 15).admission ackPkt.job ackPkt.dstEp).1;
      s.running = true ∧ ((s.ejPop 15).admission ackPkt.job ackPkt.dstEp).2 = none ∧ s.ejFor 15 2 = some ackPkt ∧
      ackPkt.wellFormed = true ∧ (t.backConn ackPkt).isSome = true ∧ ackPkt.aux / 256 = 0)) ∧
    ((let s := ejecting (linked active link) noticePkt; let r := (s.ejPop 15).admission noticePkt.job noticePkt.dstEp;
      s.running = true ∧ r.2 = none ∧ s.ejFor 15 3 = some noticePkt ∧ noticePkt.wellFormed = true ∧
      r.1.jobSlot noticePkt.job = some 1 ∧ noticePkt.dstEp ≠ 62 ∧ noticePkt.aux / 256 ≠ 0x0B ∧
      noticePkt.aux / 256 ≠ 0x0C ∧ ((r.1.jobCount 1 80 1).backConn noticePkt).isSome = true)) ∧
    ((let s := ejecting active failPkt; let r := (s.ejPop 15).admission failPkt.job failPkt.dstEp; s.running = true ∧
      r.2 = none ∧ s.ejFor 15 4 = some failPkt ∧ failPkt.wellFormed = true ∧ failPkt.dstEp ≠ 62 ∧
      leNat (failPkt.payload.drop 32) % 256 = 0x0B ∧ r.1.fnQuiet (epFn failPkt.dstEp) = false)) :=
  ⟨by decide +kernel, by decide +kernel, by decide +kernel, by decide +kernel, by decide +kernel⟩

/-- A packet of a connection that its sender keeps. -/
def unitOf (uid : Nat) : TxUnit := ⟨uid, 1, 0, 0, 4, 0, 1, 0, none, true, false, 0, none, 0, none, []⟩

/-- A sent packet of PSN 0 sent at turnover 0. -/
def sentOf (rnr : Option Nat) : SentPkt := ⟨0, unitOf 0, 0, 1, false, rnr, false⟩

/-- A message at its receiver whose flush read is out. -/
def flushing : RMsg := ⟨0, 1, 4, 4, 4, false, 0, none, 2, 2 ^ 24 - 1, false, .plain, 0, 0, 0, true, false⟩

/-- The state at a number of turnovers. -/
def later (s : State) (n : Nat) : State := s.set F.RP_TURNOVERS.TURNOVERS n

/-- Each clause of TransportTimersComplete, on the last connection. -/
theorem witness_TransportTimersComplete :
    ((let x := { link with atomics := [putPkt] }; (linked R x).running = true ∧ (linked R x).conn lastConn = some x ∧
      (x.atomics.find? fun p => p.psn == 0) = some putPkt)) ∧
    ((let x := { link with ctxWait := [putPkt] }; (linked R x).conn lastConn = some x ∧ x.ctxWait = putPkt :: [])) ∧
    ((let x := { link with rmsgs := [flushing] }; (linked R x).conn lastConn = some x ∧
      (x.rmsgs.find? fun m => m.flush == 2 && m.flushPsn == 2 ^ 24 - 1) = some flushing)) ∧
    ((let x := { link with sent := [sentOf none], reported := some 1 }; let s := linked (later R 1) x; s.running = true ∧
      s.conn lastConn = some x ∧ (x.sent.find? fun q => q.psn == 0) = some (sentOf none) ∧ x.st = 1 ∧
      x.missing (sentOf none) = true ∧ max 16 x.srtt ≤ ((16 * (s.turnovers - (sentOf none).sentAt) : Nat) : Int) ∧
      s.fnQuiet x.fn = false)) ∧
    ((let x := { link with sent := [sentOf none], rto := 1 };
      let s := (linked (later R 1) x).set F.TP_RTO_CFG.RTO_FREEZE 1; s.running = true ∧ s.conn lastConn = some x ∧
      x.st = 1 ∧ (x.sent.filter fun q => !q.acked).isEmpty = false ∧ x.rto ≤ s.turnovers - x.progress ∧
      s.fnQuiet x.fn = false ∧ s.on F.TP_RTO_CFG.RTO_FREEZE = true ∧ x.timeouts + 1 < s.f F.TP_RTO_CFG.RETRY_LIMIT)) ∧
    ((let x := { link with sent := [sentOf (some 0)] }; let s := linked (later R (R.f F.TP_RETRY_CFG.RNR_TICKS)) x;
      s.running = true ∧ s.conn lastConn = some x ∧ (sentOf (some 0)).rnrAt = some 0 ∧
      s.f F.TP_RETRY_CFG.RNR_TICKS ≤ s.turnovers - 0 ∧ x.st = 1 ∧ s.fnQuiet x.fn = false)) ∧
    ((let x := { link with txq := [unitOf 9] }; (linked R x).conn lastConn = some x ∧
      ((x.txq ++ x.sent.map fun q => q.u).find? fun u => u.uid == 9 && u.asked && u.payload.isNone) = some (unitOf 9))) :=
  ⟨by decide +kernel, by decide +kernel, by decide +kernel, by decide +kernel, by decide +kernel, by decide +kernel,
      by decide +kernel⟩

/-- A collective packet of group 0, instance 1. -/
def collPkt (op : Nat) : Packet := pktTo 62 7 [(0, op), (64, 1)] 32 []

/-- An instance of group 0. -/
def instOne : CInst := { mg := 0, seq := 1, job := 7 }

/-- A state with an instance. -/
def withInst (s : State) (i : CInst) : State := { s with coll := ⟨[i]⟩ }

/-- A fold's input of stage 0, slice 0. -/
def foldIn : CInput := ⟨0, 0, 0, 1, [1, 0, 0, 0], ⟨2, false, 1, 0, 0, 4⟩, true, 1⟩

/-- A node with one dimension of two nodes, and group 0 of job 7 over both, for the collective endpoint. -/
def twoNodes : State :=
  (active.set F.DIM_CFG.ENABLE 1 0).gsPut mcgBase 64 (2 ^ 511 + 7 * 2 ^ 320 + 2 ^ 318 + 3)

/-- A COLL_POST entry of contributor 0 of 2, all-reduce of 4,096 bytes, for group 0. -/
def postEntry : BitVec 512 := ent 0x48 [(16, 1), (64, 1), (116, 3), (120, 1), (124, 0), (152, 2), (172, 1), (192, 4096)]

/-- Each clause of CollectiveCommandsComplete. -/
theorem witness_CollectiveCommandsComplete :
    ((let s := ejecting active (collPkt 0x30); s.running = true ∧
      ((s.ejPop 15).admission (collPkt 0x30).job (collPkt 0x30).dstEp).2 = none ∧ (collPkt 0x30).dstEp = 62 ∧
      L.NET.PLEN.get (collPkt 0x30).net = 32 + (collPkt 0x30).payload.length ∧ s.ejFor 15 5 = some (collPkt 0x30))) ∧
    ((ejecting active (collPkt 0x31)).ejFor 15 6 = some (collPkt 0x31) ∧
      (ejecting active (collPkt 0x32)).ejFor 15 7 = some (collPkt 0x32)) ∧
    ((let s := ejecting (withInst active instOne) (collPkt 0x33);
      let r := (s.ejPop 15).admission (collPkt 0x33).job (collPkt 0x33).dstEp; r.2 = none ∧
      s.ejFor 15 8 = some (collPkt 0x33) ∧ r.1.inst (collPkt 0x33).mg (collPkt 0x33).seq = some instOne ∧
      instOne.tomb = none ∧ instOne.complete = false)) ∧
    ((let i : CInst := { instOne with par := some foldIn.par, folds := [(0, 0)], inputs := [foldIn], ntotal := 2 };
      let s := withInst twoNodes i; s.running = true ∧ s.inst 0 1 = some i ∧ i.folds.contains (0, 0) = true ∧
      foldInputs foldIn.par (i.at 0 0) = some foldIn ∧
      ((((s.setInst { i.folded 0 0 with progress := s.turnovers }).perf (s.collIe 0 / 4) 0x60 (s.collIe 0) 0 1).collNext i foldIn.par foldIn).2).isSome = true)) ∧
    ((let i : CInst := { instOne with posts := [⟨0, 0, none, [], 0, 0, 0, none⟩] };
      let s := later (withInst R i) (R.f F.COLL_CFG.STAGE_TIMEOUT); s.running = true ∧ s.inst 0 1 = some i ∧
      i.posts.isEmpty = false ∧ i.tomb = none ∧ i.complete = false ∧ s.collPassed i.progress = true)) ∧
    ((let i : CInst := { instOne with tomb := some 0 }; let s := later (withInst R i) (R.f F.COLL_CFG.STAGE_TIMEOUT);
      s.running = true ∧ s.inst 0 1 = some i ∧ i.tomb = some 0 ∧ s.collPassed 0 = true)) ∧
    ((let s := later (withInst R instOne) (R.f F.COLL_CFG.STAGE_TIMEOUT); s.running = true ∧ s.inst 0 1 = some instOne ∧
      instOne.par = none ∧ instOne.tomb = none ∧ s.collPassed instOne.born = true)) ∧
    ((let s := begun twoNodes 0 postEntry; let t := s.takeEntry (entryOf 0); s.running = true ∧
      s.begunEntry (entryOf 0) 0x48 = some postEntry ∧
      t.postCheck (entryOf 0) postEntry (t.collGroup (L.CP.MGROUP.get postEntry)) = .ok ∧
      t.inst (L.CP.MGROUP.get postEntry) (L.CP.SEQ.get postEntry) = none ∧
      (postParams postEntry).contributes (L.CP.CRI.get postEntry) = true ∧
      (t.payloadRead 0 (t.fnIe 0 (L.CP.MGROUP.get postEntry)) (L.CP.SRC_ADDR.get postEntry) (postParams postEntry).bytes).2.toOption = some [] ∧
      (postParams postEntry).bytes = 4096)) :=
  ⟨by decide +kernel, by decide +kernel, by decide +kernel, by decide +kernel, by decide +kernel, by decide +kernel,
      by decide +kernel, by decide +kernel⟩

/-- A thread of engine 511, context 3. -/
abbrev lastThread : ThreadId := ⟨511, 3⟩

/-- A state with that thread. -/
def threaded (s : State) (x : Thread) : State := s.setThread lastThread x

/-- A user image of one entry at offset 0 and one word of code, without and with its CRC. -/
def imageBare : List Byte := leBytes 64 (0x51425945 + 2 ^ 32 + 2 ^ 40 + 2 ^ 48 + 4 * 2 ^ 64 + 84 * 2 ^ 96) ++ List.replicate 20 0

/-- The same image with its CRC. -/
def imageBytes : List Byte :=
  imageBare.take 60 ++ leBytes 4 (crc32 (imageBare.take 60 ++ imageBare.drop 64)) ++ imageBare.drop 64

/-- A state with that image loaded as image 255. -/
def imaged (s : State) : State := { s with eng := { s.eng with images := [(255, ⟨true, [(0, 0)], 0, 4⟩)] } }

/-- A binding of image 255 for job slot 1 of function 0, class 2, budget 1, on cluster 0. -/
def bindData : BitVec 256 := BitVec.ofNat 256 (255 + 2 * 2 ^ 14 + 2 ^ 18 + 2 ^ 20 + 2 ^ 32 + 2 ^ 128)

/-- A state whose HB_DATA holds that binding. -/
def bindable : State :=
  (List.range 4).foldl (fun s i => s.wr ⟨.HB_DATA, i, 0⟩ (BitVec.ofNat 64 (bindData.toNat / 2 ^ (64 * i)))) (imaged active)

/-- Each clause of EngineCommandsComplete. -/
theorem witness_EngineCommandsComplete :
    ((let s := threaded R { preempted := true, bind := BitVec.ofNat 256 (3 * 2 ^ 14) }; s.running = true ∧
      (([0, 1, 2, 3] : List Nat).findSome? (s.dispatchClass 63)).isSome = true)) ∧
    ((let x : Thread := { user := true, overruns := 8 }; (threaded R x).running = true ∧
      (threaded R x).thread lastThread = some x)) ∧
    ((let s : State := { R.set F.TIMER_CFG.ENABLE 1 63 15 with eng := { timersDue := [(63, 15)] } }; s.running = true ∧
      s.eng.timersDue.contains (63, 15) = true ∧ s.on F.TIMER_CFG.ENABLE 63 15 = true)) ∧
    (R.watchCheckWrite .serviceProcessor (F.CTR_WATCH.ARM.fld.set 0 1) = .ok) ∧
    (Requester.serviceProcessor.reaches = true) ∧
    (bindable.running = true ∧ bindable.hbCheck .serviceProcessor bindable.hbData = .ok) ∧
    (R.eng.loadAddr = none) ∧
    ((let s : State := { R with eng := { loadAddr := some 64 } }; s.running = true ∧
      64 < L.IMG.IMAGE_BYTES.get (bits512 (imageBytes.take 64)) ∧ imageOk imageBytes = true ∧
      L.IMG.KIND.get (bits512 (imageBytes.take 64)) ≠ 0 ∧
      (s.codeFit (L.IMG.CODE_BYTES.get (bits512 (imageBytes.take 64)))).isSome = true ∧ s.freeImage = some 0)) ∧
    ((imaged R).running = true ∧ (imaged R).eng.loadAddr = none ∧ (imaged R).imageUsed 255 = false ∧
      mhas (imaged R).eng.images 255 = true) ∧
    (R.supervises .serviceProcessor = true) ∧
    ((threaded R {}).running = true ∧ ((threaded R {}).engThreads 511).any (threaded R {}).issuable = true) ∧
    ((let s : State := { R with eng := { reloading := [511] } }; s.running = true ∧ s.eng.reloading.contains 511 = true)) :=
  ⟨by decide +kernel, by decide +kernel, by decide +kernel, by decide +kernel, by decide +kernel, by decide +kernel,
      by decide +kernel, by decide +kernel, by decide +kernel, by decide +kernel, by decide +kernel, by decide +kernel⟩

/-- A Cormel word: its MAJOR, Rd, Ra and low 13 bits, with predicate P0. -/
def cw (major rd ra low : Nat) : Nat := major * 2 ^ 26 + rd * 2 ^ 18 + ra * 2 ^ 13 + low

/-- A supervisor thread of engine 511 at the first word of its code region, with an address of its data region in G1. -/
def cpu : Thread := { pc := localBase, g := [0, BitVec.ofNat 64 (localBase + 0x6000)] ++ List.replicate 30 0 }

/-- A state in which that thread stands before a word, its only thread. -/
def coded (x : Thread) (w : Nat) : State := { threaded R x with mem := memPuts [] (lmBase 511) (leBytes 4 w) }

/-- Whether the thread may issue a word there, with its predicate set: the premises of the Cormel statements. -/
def issues (x : Thread) (w : Nat) : Bool :=
  let s := coded x w
  s.running && s.thread lastThread == some x && s.mayIssue lastThread x && fetchOk x.user x.pc && s.wordAt 511 x.pc == w &&
    legalWord w && (x.rp (wPred w)).testBit 0

/-- A word of each MAJOR from 0x01 to 0x0B, with Rd 31 or P7. -/
theorem witness_CormelIntegerComplete :
    (((cw 1 31 1 0x100) :: [2, 3, 4, 5, 7, 8].map fun m => cw m 31 1 0).all (issues cpu) = true) ∧
    ([cw 6 31 1 0xBF, cw 9 7 1 0, cw 10 31 1 0, cw 11 7 7 (7 * 2 ^ 8 + 3), cw 11 7 1 4,
      cw 11 31 7 5].all (issues cpu) = true) ∧
    (([1, 2, 3, 4, 5, 7, 8].map fun m => wMajor (cw m 31 1 0)) = [1, 2, 3, 4, 5, 7, 8] ∧
      wFn (cw 11 7 7 (7 * 2 ^ 8 + 3)) < 4 ∧ wFn (cw 11 7 1 4) = 4 ∧ wFn (cw 11 31 7 5) = 5) :=
  ⟨by decide +kernel, by decide +kernel, by decide +kernel⟩

/-- Whether an access of n bytes at an address goes to local memory. -/
def goesLocal (w va n : Nat) (write scalar resv : Bool) : Bool :=
  ((Safety.unyield (coded cpu w) lastThread).access lastThread cpu va n write scalar resv).2 == .ok (.loc (lmBase 511 + (va - localBase)))

/-- A load of each MAJOR from the data region. -/
theorem witness_CormelLoadsComplete :
    (([(0x10, 1), (0x11, 1), (0x12, 2), (0x13, 2), (0x14, 4), (0x15, 4), (0x16, 8)].all fun p => let w := cw p.1 31 1 8;
      issues cpu w && wMajor w == p.1 && goesLocal w (cpu.ea w) p.2 false true false) = true ∧ cpu.ready = none) ∧
    (([4, 5].all fun k => let w := cw 0x1C 31 1 k;
      issues cpu w && w / 8 % 2 == 0 && goesLocal w (cpu.rg (wRa w)) (resvBytes w) false true true) = true) :=
  ⟨by decide +kernel, by decide +kernel⟩

/-- A store of each MAJOR to the data region, and STCND with and without its reservation. -/
theorem witness_CormelStoresComplete :
    (([(0x18, 1), (0x19, 2), (0x1A, 4), (0x1B, 8)].all fun p => let w := cw p.1 31 1 8;
      issues cpu w && wMajor w == p.1 && goesLocal w (cpu.ea w) p.2 true true false) = true) ∧
    (([0x0C, 0x0D].all fun k => let w := cw 0x1C 31 1 k;
      issues cpu w && w / 8 % 2 == 1 && goesLocal w (cpu.rg (wRa w)) (resvBytes w) true true true) = true) ∧
    (issues { cpu with resv := some ((lmBase 511 + 0x6000) / 64) } (cw 0x1C 31 1 0x0D) = true ∧
      (Spot.loc (lmBase 511 + 0x6000)).mem / 64 = (lmBase 511 + 0x6000) / 64 ∧
      cpu.resv ≠ some ((lmBase 511 + 0x6000) / 64)) :=
  ⟨by decide +kernel, by decide +kernel, by decide +kernel⟩

/-- With P0 every element of a vector is active, whatever its size. -/
theorem vmActive_all (w : Nat) (h : wPred w = 0) : (cpu.vmActive w).isEmpty = false := by
  have : ∀ k : Fin 4, ((List.range (64 / 2 ^ k.val)).filter fun e => (cpu.rp 0).testBit e).isEmpty = false := by decide +kernel
  unfold Thread.vmActive vmBytes
  rw [h]
  exact this _

/-- A branch, jump and vector instruction of each MAJOR. -/
theorem witness_CormelBranchVectorComplete :
    ([cw 0x20 0 0 4, cw 0x21 31 0 4, cw 0x22 31 1 4, cw 0x28 15 1 1, cw 0x29 15 1 1, cw 0x2A 15 1 0,
      cw 0x2B 15 2 0].all (issues cpu) = true) ∧
    (cpu.ea (cw 0x22 31 1 4) % 4 = 0 ∧ cpu.ea (cw 0x22 31 1 4) < 2 ^ 48) ∧
    ((cpu.vmActive (cw 0x28 15 1 1)).isEmpty = false ∧ (cpu.vmActive (cw 0x29 15 1 1)).isEmpty = false) ∧
    (goesLocal (cw 0x28 15 1 1) (cpu.vea (cw 0x28 15 1 1)) 64 false false false = true ∧
      goesLocal (cw 0x29 15 1 1) (cpu.vea (cw 0x29 15 1 1)) 64 true false false = true) :=
  ⟨by decide +kernel, by decide +kernel, ⟨vmActive_all _ (by decide), vmActive_all _ (by decide)⟩, by decide +kernel⟩

/-- A system instruction of each MAJOR and FN that the thread may run. -/
theorem witness_CormelSystemComplete :
    ([cw 0x30 31 0 0, cw 0x30 31 0 0x19, cw 0x31 0 1 0x0B, cw 0x31 0 1 0x13, cw 0x32 0 0 0, cw 0x32 0 0 1,
      cw 0x32 0 0 3, cw 0x32 0 0 4, cw 0x33 31 0 8191, cw 0x34 31 1 0, cw 0x35 31 1 1, cw 0x35 31 1 2,
      cw 0x35 2 1 8].all (issues cpu) = true) ∧
    (wImm (cw 0x30 31 0 0x19) = 0x19 ∧ srSup 0x19 = true ∧ srUser 0 = true ∧ wImm (cw 0x31 0 1 0x13) = 0x13 ∧
      srSup 0x13 = true ∧ cpu.user = false) ∧
    (issues { cpu with posted := [(4095, 1)] } (cw 0x32 31 0 2) = true) ∧
    ((let s := coded cpu (cw 0x33 31 0 8191); let u := Safety.unyield s lastThread;
      let v := u.fin lastThread (cw 0x33 31 0 8191) id;
      let v := ({ v with eng := { v.eng with order := v.eng.order + 1 } } : State).modThread lastThread fun y => { y with event := none, wait := .event (u.fin lastThread (cw 0x33 31 0 8191) id).eng.order (some (u.turnovers + 8191)) 31 };
      v.queuedFor 63 cpu.slot = none)) ∧
    (cpu.rg 1 < 2 ^ 48 ∧ emitReadable cpu.user 3 (cpu.rg 1) 32 = true ∧ emitReadable cpu.user 3 (cpu.rg 1) (32 + 0) = true) ∧
    ((Thread.tlb lastThread cpu) = some (0, 63, 256) ∧ cpu.rg 31 < 256 ∧ tlbEntryOk 0 0 = true ∧
      cpu.entry (cw 0x35 31 2 (2 ^ 8 * 3 + 1)) = (0, 0) ∧ issues cpu (cw 0x35 31 2 (2 ^ 8 * 3 + 1)) = true) :=
  ⟨by decide +kernel, by decide +kernel, by decide +kernel, by decide +kernel, by decide +kernel, by decide +kernel⟩

/-- A thread in each wait, before the word that waits. -/
theorem witness_CormelWaitsComplete :
    ((let w := cw 0x16 31 1 0; let x : Thread := { cpu with wait := .load 0 0 }; let s := coded x w; s.running = true ∧
      s.thread lastThread = some x ∧ x.wait = .load 0 0 ∧ wMajor (s.wordAt 511 x.pc) = 0x16)) ∧
    ((let x : Thread := { cpu with wait := .cb [(4095, 2)] 0 }; (threaded R x).running = true ∧
      (threaded R x).thread lastThread = some x)) ∧
    ((let x : Thread := { cpu with wait := .event 0 (some 5) 31 }; (later (threaded R x) 5).running = true ∧
      (later (threaded R x) 5).thread lastThread = some x ∧ 5 ≤ (later (threaded R x) 5).turnovers)) ∧
    ((let x : Thread := { cpu with wait := .emit }; (threaded R x).thread lastThread = some x)) ∧
    ((R.set F.XL_MISS_VA.VALID 1 3 255).missValid 3 255 = true ∧
      resolveStatus (BitVec.toNat (0x0F : BitVec 8)) = some .walkDevice ∧
      (R.set F.XL_MISS_VA.VALID 1 3 255).running = true) :=
  ⟨by decide +kernel, by decide +kernel, by decide +kernel, by decide +kernel, by decide +kernel⟩

/-- Its premises hold together after reset: sampling and performance counting are off. -/
theorem witness_CormelIntegerResults :
    issues cpu (cw 2 31 1 8191) = true ∧ (coded cpu (cw 2 31 1 8191)).on F.SAMPLE_CFG.SAMPLE_EN 511 = false ∧
      (coded cpu (cw 2 31 1 8191)).ona F.PC_CTRL.RUN = false :=
  by decide +kernel

/-- An aligned and a misaligned target. -/
theorem witness_JumpsLinkOrMisalign :
    (issues cpu (cw 0x22 31 1 4) = true ∧ cpu.ea (cw 0x22 31 1 4) % 4 = 0) ∧
    (issues cpu (cw 0x22 31 1 2) = true ∧ cpu.ea (cw 0x22 31 1 2) % 4 ≠ 0) :=
  ⟨by decide +kernel, by decide +kernel⟩

/-- A packet in the buffer at an input, with its branches. -/
def inCore (inp : Nat) (complete routed : Bool) (bs : List Branch) : CorePkt :=
  ⟨7, putPkt, inp, 0, 0, 2, 0, 2, complete, false, routed, none, false, bs⟩

/-- A branch to output 3 that waits. -/
def waits : Branch := ⟨3, 0, 0, none, 0, false, false, 5⟩

/-- A state whose switch core is given. -/
def cored (c : CoreSt) : State := { R with core := c }

/-- A packet that waits for injection. -/
def txOne : TxPkt := ⟨putPkt, none, 0, 0, false, none, none⟩

/-- Each clause of SwitchCommandsComplete. -/
theorem witness_SwitchCommandsComplete :
    ((cored { pkts := [inCore 271 true false []] }).running = true ∧
      (cored { pkts := [inCore 271 true false []] }).toRoute 271 = some (inCore 271 true false [])) ∧
    ((portIn R 255 6).running = true ∧ (portIn R 255 6).f F.PORT_STATE.STATE 255 = 6 ∧
      reservedBlock (L.LCB.TYPE.get (mkLcb 0x11 0 (2 ^ 24))) = false ∧ lcbOk (mkLcb 0x11 0 (2 ^ 24)) = true ∧
      L.GLL.VECTOR.on (mkLcb 0x11 0 (2 ^ 24)) = true) ∧
    ((let k := inCore 255 true true [waits]; let s := cored { pkts := [k] };
      (s.core.pkts.find? fun k => k.id == 7) = some k ∧
      s.heaviest (quarterOf k.inp) k.tc (k.branches.filter fun b => !b.done) = some waits ∧ k.complete = true ∧
      k.freed = false ∧ s.sharedTakes (quarterOf k.inp) waits.out k.tc k.segs waits.hot.isSome = true)) ∧
    ((let k := inCore 255 false true [waits];
      let s := (cored { pkts := [k] }).modPort 3 fun x => { x with txNow := some (7, 5) }; s.running = true ∧
      (s.port 3).txNow = some (7, 5) ∧ (s.core.pkts.find? fun k => k.id == 7 && !k.complete) = some k)) ∧
    ((let s := (cored { hotCool := [(63, 16)] }).set F.HOT_ENTRY.VALID 1 63; s.running = true ∧
      s.on F.HOT_ENTRY.VALID 63 = true ∧ s.f F.HOT_CFG.HOT_COOL ≤ mget s.core.hotCool 63 0 ∧
      (s.waitingBranches.any fun x => x.2.hot == some 63) = false)) ∧
    ((let s : State := { R with ni := { tx := [(15, [txOne])] } }; s.running = true ∧ s.core.ieDown.contains 15 = false ∧
      firstFree (mget s.ni.tx 15 []) [] 0 = some (0, txOne) ∧ s.policerBad txOne.policer = false ∧ txOne.policer = none ∧
      (s.injectCharge (256 + 15) txOne.pkt.net txOne.pkt.tp).isSome = true)) :=
  ⟨by decide +kernel, by decide +kernel, by decide +kernel, by decide +kernel, by decide +kernel, by decide +kernel⟩

/-- Port 255 in ACTIVE on its four lanes, with its link-layer state given. -/
def onLink (x : PortSt) : State :=
  (((portIn R 255 6).set F.PORT_STATE.LANE_SET 15 255).setLanes F.LANE_STATUS.BLOCK_LOCK 1 (lanesIn 255 15)).setPort 255 x

/-- A packet being received, and kept. -/
def rxOne : RxPkt := ⟨0, putPkt.net, putPkt.tp, true, false, 7⟩

/-- The payload of a received packet of 16 bytes of transport header. -/
def rxShort : RxPkt := ⟨0, (pktTo 0 7 [] 16 [1]).net, putPkt.tp, true, false, 7⟩

/-- Each clause of LinkCommandsComplete, on port 255. -/
theorem witness_LinkCommandsComplete :
    ((let y : StagePkt := ⟨7, 5, putPkt, 0, 0, 2, 2, false⟩;
      let s : State := { onLink { partnerInit := true } with core := { stage := [(255, [y])] } }; s.running = true ∧
      s.f F.PORT_STATE.STATE 255 = 6 ∧ s.stage 255 = y :: [] ∧ s.linkReady 255 = true ∧ y.cellsIn ≠ 0 ∧
      s.replayUsed 255 + blocksOf (bytesOf y.pkt.net) ≤ s.replayBlocks 255)) ∧
    ((let s := onLink { partnerInit := true, timer := 3 }; s.running = true ∧ s.f F.PORT_STATE.STATE 255 = 6 ∧
      (s.port 255).partnerInit = true ∧ s.fa F.LL_CFG.REPLAY_TICKS 255 < (s.port 255).timer)) ∧
    ((onLink {}).rxOpen 255 = true ∧ ((onLink {}).port 255).rxNow = none) ∧
    ((let s := onLink { rxNow := some rxOne }; (s.port 255).rxNow = some rxOne ∧ rxOne.bad = false ∧
      L.NET.PLEN.get rxOne.net - ([1] : List Byte).length = 32 ∧
      L.NET.PLEN.get rxShort.net - ([1] : List Byte).length = 16 ∧
      BitVec.toNat (BitVec.ofNat 32 (lcrcOf rxOne.env ⟨rxOne.net, rxOne.tp, [1]⟩)) = lcrcOf rxOne.env ⟨rxOne.net, rxOne.tp, [1]⟩ ∧
      rxOne.kept = true ∧ s.rxOpen 255 = true)) ∧
    (((onLink { ackDue := true }).port 255).ackDue = true) ∧
    (((onLink { freshWait := true }).port 255).freshWait = true ∧ (onLink { freshWait := true }).stillCharged 255 = false) ∧
    (((onLink {}).port 255).partnerInit = false ∧ ((onLink {}).port 255).freshWait = false ∧
      ((onLink {}).port 255).offered = false) ∧
    (((onLink {}).set F.LL_STATUS.FROZEN 1 0).on F.LL_STATUS.FROZEN 0 = true ∧
      ((onLink {}).set F.LL_STATUS.FROZEN 1 0).pstate 0 ≠ 6) ∧
    ((let s := (onLink {}).set F.LANE_STATUS.BLOCK_LOCK 0 1023; s.running = true ∧ s.f F.PORT_STATE.STATE 255 = 6 ∧
      s.lockedLanes 255 ≠ s.f F.PORT_STATE.LANE_SET 255 ∧ (s.port 255).width = none)) ∧
    ([0x10, 0x14, 0x15, 0x16].all (fun ty => !(reservedBlock (L.LCB.TYPE.get (mkLcb ty 0 0))) && lcbOk (mkLcb ty 0 0)) = true ∧
      L.INITL.RESUME_INIT.on (mkLcb 0x14 0 0) = false) :=
  ⟨by decide +kernel, by decide +kernel, by decide +kernel, by decide +kernel, by decide +kernel, by decide +kernel,
      by decide +kernel, by decide +kernel, by decide +kernel, by decide +kernel⟩

/-- Port 254 in a state of R158 with a machine state. -/
def training (st : Nat) (x : PortSt) : State := (portIn R 254 st).setPort 254 x

/-- Each clause of PortTrainingComplete. -/
theorem witness_PortTrainingComplete :
    (Requester.serviceProcessor.reaches = true ∧
      R.portCtrlCheck 254 (F.PORT_CTRL.ENABLE.fld.set (R.rd ⟨.PORT_CTRL, 254, 0⟩) 1) = .ok ∧ R.running = true) ∧
    ((let s := (portIn R 254 1).set F.PORT_CTRL.ENABLE 1 254; s.running = true ∧
      s.portCtrlCheck 254 (F.PORT_CTRL.ENABLE.fld.set (s.rd ⟨.PORT_CTRL, 254, 0⟩) 0) = .ok)) ∧
    ((let s := ((portIn R 254 6).set F.PORT_STATE.IN_SERVICE 1 254); s.running = true ∧
      s.portCmdCheck 254 (BitVec.ofNat 64 (1 + 2 * b2n false)) = .ok ∧
      s.portCmdCheck 254 (BitVec.ofNat 64 (1 + 2 * b2n true)) = .ok)) ∧
    ((let s := ((portIn R 254 6).set F.PORT_STATE.DRAINED 1 254); s.running = true ∧ s.portCmdCheck 254 4 = .ok ∧
      s.portCmdCheck 254 8 = .ok ∧ s.portCmdCheck 254 16 = .ok)) ∧
    ((training 2 {}).pstate 254 = 2 ∧ (training 3 {}).pstate 254 = 3 ∧ (training 4 {}).pstate 254 = 4 ∧
      (training 5 {}).pstate 254 = 5 ∧ (training 5 {}).running = true) ∧
    ((let ls := lanesIn 254 15;
      let s := (((((training 4 {}).set F.PORT_STATE.LANE_SET 15 254).setLanes F.LANE_STATUS.BLOCK_LOCK 1 ls).setLanes F.LANE_STATUS.CW_LOCK 1 ls).setLanes F.LANE_STATUS.CDR_LOCK 1 ls);
      s.running = true ∧ s.pstate 254 = 4 ∧
      ((lanesIn 254 (s.f F.PORT_STATE.LANE_SET 254)).all fun l => s.on F.LANE_STATUS.CW_LOCK l && s.on F.LANE_STATUS.CDR_LOCK l) = true ∧
      s.lockedLanes 254 = s.f F.PORT_STATE.LANE_SET 254)) ∧
    ((let s := training 5 { soak := true }; s.pstate 254 = 5 ∧ (s.port 254).localPass = false ∧
      s.f F.PORT_TRAIN_CFG.BER_LIMIT 254 ≤ s.f F.PORT_TRAIN_CFG.BER_LIMIT 254 ∧ (s.port 254).soak = true)) ∧
    ((0xFD : BitVec 8).toNat.testBit 1 = false ∧ (training 5 {}).pstate 254 = 5) ∧
    ((let s := training 5 { localPass := true, partnerPass := true, rxActive := true }; s.pstate 254 = 5 ∧
      (s.port 254).localPass = true ∧ (s.port 254).partnerPass = true ∧ (s.port 254).rxActive = true)) ∧
    ((training 6 {}).pstate 254 = 6 ∧ (0 : BitVec 8).toNat = 0) ∧
    ((training 7 {}).pstate 254 = 7 ∧ (training 7 {}).on F.PORT_STATE.PARTNER_TEST 254 = false) :=
  ⟨by decide +kernel, by decide +kernel, by decide +kernel, by decide +kernel, by decide +kernel, by decide +kernel,
      by decide +kernel, by decide +kernel, by decide +kernel, by decide +kernel, by decide +kernel⟩

/-- Lane 1023 with its port in a state of R158 on its four lanes. -/
def laned (st : Nat) : State := (portIn R 255 st).set F.PORT_STATE.LANE_SET 15 255

/-- A training frame's control word with its check. -/
def tcf (v : Nat) : BitVec 32 := BitVec.ofNat 32 (v + tcfCheck v * 2 ^ 28)

/-- Each clause of LaneCommandsComplete, on lane 1023. -/
theorem witness_LaneCommandsComplete :
    ((laned 1).running = true ∧ ((laned 1).portOfLane 1023) = (255, 3) ∧ (laned 1).pstate 255 = 1) ∧
    ((laned 2).pstate 255 = 2 ∧ BitVec.toNat (BitVec.ofNat 16 (capCrc 5)) = capCrc 5) ∧
    ((laned 3).pstate 255 = 3 ∧ ((laned 3).f F.PORT_STATE.LANE_SET 255).testBit 3 = true ∧
      L.TCF.CHECK.get (tcf (2 ^ 28 - 1)) = tcfCheck ((tcf (2 ^ 28 - 1)).toNat % 2 ^ 28)) ∧
    (((laned 1).set F.LANE_STATUS.LOS 0 1023).on F.LANE_STATUS.LOS 1023 = false ∧ R.sys.frefStopped = []) ∧
    (((laned 6).set F.LANE_STATUS.CW_LOCK 1 1023).on F.LANE_STATUS.CW_LOCK 1023 = true) ∧
    ((let s := (((laned 4).set F.LANE_STATUS.LOS 0 1023).set F.LANE_STATUS.CDR_LOCK 1 1023).set F.LANE_STATUS.CW_LOCK 1 1023;
      s.running = true ∧ s.pstate 255 = 4 ∧ s.on F.LANE_STATUS.CDR_LOCK 1023 = true ∧
      s.on F.LANE_STATUS.LOS 1023 = false ∧ s.on F.LANE_STATUS.CW_LOCK 1023 = true ∧
      (s.set F.LANE_STATUS.BLOCK_LOCK 1 1023).pstate 255 = 4)) ∧
    ((laned 4).pstate 255 = 4 ∧ (laned 6).pstate 255 = 6 ∧ (laned 7).pstate 255 = 7 ∧
      ((laned 7).set F.LANE_PRBS_CFG.GEN_EN 1 1023).on F.LANE_PRBS_CFG.GEN_EN 1023 = true) ∧
    ((let s := later ((laned 6).set F.LANE_CFG.REMOTE_TUNE_EN 1 1023) (R.f F.LANE_CFG.REMOTE_TUNE_TICKS 1023);
      s.running = true ∧ s.pstate 255 = 6 ∧ s.on F.LANE_CFG.REMOTE_TUNE_EN 1023 = true ∧
      (s.f F.PORT_STATE.LANE_SET 255).testBit 3 = true ∧
      (s.lane 1023).tuneTick + s.f F.LANE_CFG.REMOTE_TUNE_TICKS 1023 ≤ s.turnovers)) ∧
    ((laned 6).f F.PORT_STATE.STATE 255 = 6 ∧ reservedBlock (L.LCB.TYPE.get (mkLcb 0x13 0 (2 ^ 63))) = false ∧
      lcbOk (mkLcb 0x13 0 (2 ^ 63)) = true) :=
  ⟨by decide +kernel, by decide +kernel, by decide +kernel, by decide +kernel, by decide +kernel, by decide +kernel,
      by decide +kernel, by decide +kernel, by decide +kernel⟩

/-- A width change in progress. -/
def changing (kind : Nat) : WidthCh := ⟨kind, false, 9, 3, false, false, false, false, false, false⟩

/-- A WIDTH message of sequence 9 for lanes 0 and 1. -/
def widthMsg : WidthMsg := ⟨0, 3, 9, 0, 0⟩

/-- Each clause of WidthServiceComplete, on port 255. -/
theorem witness_WidthServiceComplete :
    ((let s := onLink { degradeOk := true }; s.running = true ∧ s.pstate 255 = 6 ∧ (s.port 255).width = none ∧
      (s.port 255).degradeOk = true ∧
      (widest (s.f F.PORT_CTRL.WIDTH_CFG 255 == 3) 15 (s.lockedLanes 255 &&& widthMsg.laneSet)).isSome = true)) ∧
    ((let s := onLink { width := some (changing 0) }; s.running = true ∧ s.pstate 255 = 6 ∧
      (s.port 255).width = some (changing 0) ∧ (changing 0).seq = widthMsg.seq ∧ (changing 0).kind = 0)) ∧
    (((onLink {}).port 255).width = none ∧ widthMsg.laneSet &&& ((onLink {}).port 255).faultLanes = 0) ∧
    ((let s := onLink { width := some (changing 2) }; (s.port 255).width = some (changing 2) ∧ (changing 2).kind = 2 ∧
      (changing 2).seq = widthMsg.seq ∧ (changing 2).ownCommit = false ∧ (changing 2).ptrCommit = false)) ∧
    ((let w : WidthCh := { changing 1 with ptrCommit := true, txDone := true };
      ((onLink { width := some w }).port 255).width = some w ∧ w.ptrCommit = true ∧ w.txDone = true)) ∧
    ((onLink {}).on F.PORT_STATE.DRAINED 255 = false) ∧
    (((onLink { drainPartner := true }).port 255).drainPartner = true ∧
      (onLink { drainPartner := true }).portEmpty 255 = true) ∧
    (((onLink { drainOwn := true, serviceSeq := 255 }).port 255).drainOwn = true ∧
      (255 : BitVec 8).toNat = ((onLink { drainOwn := true, serviceSeq := 255 }).port 255).serviceSeq) ∧
    ((let s := onLink { drainOwn := true, drainAck := true }; (s.port 255).drainOwn = true ∧
      (s.port 255).drainAck = true ∧ s.portEmpty 255 = true)) ∧
    ((let s := (onLink { serviceSeq := 255 }).set F.PORT_STATE.DRAINED 1 255; s.running = true ∧ s.pstate 255 = 6 ∧
      (s.column 255 0x84 [4, 255]).on F.PORT_STATE.DRAINED 255 = true ∧ s.on F.PORT_STATE.DRAINED 255 = true ∧
      (s.port 255).serviceSeq = 255)) :=
  ⟨by decide +kernel, by decide +kernel, by decide +kernel, by decide +kernel, by decide +kernel, by decide +kernel,
      by decide +kernel, by decide +kernel, by decide +kernel, by decide +kernel⟩

/-- Channel 31 of mover 15 in a state of R455, both its sides in the Groundsheet. -/
def channel (st : Nat) : State :=
  (((R.set F.CH_STATE.STATE st 15 31).set F.CH_SRC.GS 1 15 31).set F.CH_DST.GS 1 15 31).set F.CH_CTRL.CLASS 1 15 31

/-- Each clause of MoverCommandsComplete, on channel 31 of mover 15. -/
theorem witness_MoverCommandsComplete :
    ((channel 0).running = true ∧ (channel 0).mvAllows .serviceProcessor = true ∧
      firstStatus ((channel 0).goChecks 15 31) = .ok) ∧
    ((channel 1).chState 15 31 ≠ 0 ∧ (channel 1).chState 15 31 ≠ 4 ∧ (channel 4).chState 15 31 ≠ 0) ∧
    ((let s := channel 3;
      let t := (s.modChan 15 31 fun x => { x with ending := 0, flush := 0, hole := none, bursts := [], retries := 0 }).set F.CH_STATE.STATE 1 15 31;
      s.running = true ∧ s.chState 15 31 = 3 ∧ (t.srcSide 15 31).gs = true ∧ (t.dstSide 15 31).gs = true)) ∧
    ((let b : Burst := ⟨64, 1, none, 3⟩;
      let s := ((channel 2).set F.CH_DST.GS 0 15 31).modChan 15 31 fun x => { x with bursts := [b] }; s.running = true ∧
      ((s.chan 15 31).bursts.find? fun b => b.pos == 64 && b.data.isNone) = some b ∧ s.on F.CH_DST.GS 15 31 = false)) ∧
    ((channel 1).on F.MV_STATUS.RUNNING 15 = false ∧ (channel 1).mvNext 15 = some 31) ∧
    ((let s : State := { (((channel 2).set F.MV_STATUS.RUNNING 1 15).set F.MV_STATUS.CHANNEL 31 15) with lock := { waiters := [⟨0, channelIdent 15 31⟩] } };
      s.running = true ∧ s.mvRunning 15 = some 31 ∧ s.chState 15 31 = 2 ∧
      ((s.mvLockTake 15 31).lock.waiters.any fun w => w.ident == channelIdent 15 31) = true)) ∧
    ((let s := (channel 2).modChan 15 31 fun x => { x with rd := 1, wr := 1 }; s.mvWritten 15 31 = true ∧
      s.on F.CH_DST.GS 15 31 = true ∧ s.running = true)) ∧
    (R.fnAssigned 16 = true ∧ R.fnAssigned 0 = true) ∧
    ((R.set F.FUNC_STATUS.RESET_IN_PROGRESS 1 4095).inReset 4095 = true ∧
      (R.set F.FUNC_STATUS.RESET_IN_PROGRESS 1 4095).running = true) :=
  ⟨by decide +kernel, by decide +kernel, by decide +kernel, by decide +kernel, by decide +kernel, by decide +kernel,
      by decide +kernel, by decide +kernel, by decide +kernel⟩

/-- Each clause of LanternCommandsComplete. -/
theorem witness_LanternCommandsComplete :
    ((let s := ((((onLink { degradeOk := true, narrowRun := 65535 }).set F.PORT_STATE.WIDTH 2 255).set F.LN_PORT.NARROW_EN 1 255).set F.PORT_STATE.IN_SERVICE 1 255);
      s.running = true ∧ (s.narrower 255).isSome = true ∧ s.narrowOn 255 = true ∧
      s.f F.LN_NARROW.NARROW_TICKS ≤ (s.port 255).narrowRun ∧ (s.port 255).width = none ∧
      s.on F.LN_CTRL.NARROW_FREEZE = false)) ∧
    ((let s : State := { R with lantern := { unmetRun := 65535 } }; s.running = true ∧ s.on F.LN_STATUS.UNMET = false ∧
      s.f F.LN_MISC.UNMET_TICKS ≤ s.lantern.unmetRun)) ∧
    ((let s : State := { R with lantern := { lateRun := 65535 } }; s.on F.LN_STATUS.SAFE_CLOCKS = false ∧
      s.f F.LN_MISC.OVERRUN_SAFE ≤ s.lantern.lateRun)) ∧
    ((let s : State := { R with lantern := { rises := [(63, 3)] } }; (s.lantern.rises.any fun r => r.1 / 16 == 3) = true ∧
      s.lantern.settled.contains 3 = false)) ∧
    ((let s : State := { R with lantern := { rises := [(63, 3)], riseWait := [(3, 65535)] } };
      (s.lantern.rises.filter fun r => r.1 / 16 == 3).isEmpty = false ∧ s.lantern.settled.contains 3 = false ∧
      s.f F.LN_MISC.V_SETTLE_TICKS ≤ mget s.lantern.riseWait 3 0)) ∧
    (R.lantern.excluded.contains 207 = false) :=
  ⟨by decide +kernel, by decide +kernel, by decide +kernel, by decide +kernel, by decide +kernel, by decide +kernel⟩

/-- HP 36 as a downstream port. -/
def downPort : State := R.set F.EB_PORT_CFG.ROLE 2 36

/-- HP 0 as the upstream port of partition 15, which is enabled. -/
def upHost : State :=
  ((R.set F.EB_PORT_CFG.ROLE 1 0).set F.EB_PORT_CFG.PARTITION 15 0).set F.EB_PART_CFG.ENABLE 1 15

/-- Each clause of PciePortCommandsComplete. -/
theorem witness_PciePortCommandsComplete :
    (R.running = true ∧
      (let s : State := { R with pcie := { bridges := [(39, { dpcSurprise := true, dpcTrigger := 1 })] } };
      (s.bridge 39).dpcSurprise = true ∧ 0 < (s.bridge 39).dpcTrigger)) ∧
    ((R.set F.EB_PORT_CFG.SYN_DPC 1 39).on F.EB_PORT_CFG.SYN_DPC 39 = true ∧
      (R.set F.EB_PORT_STATUS.DPC_ACTIVE 1 39).on F.EB_PORT_STATUS.DPC_ACTIVE 39 = true) ∧
    ((let s : State := { downPort.set F.EB_PORT_CFG.SYN_STATUS 1 36 with pcie := { out := [⟨36, 65535, 16383, 0, 0, 0, 4, none, none⟩] } };
      s.running = true ∧ s.hpRole 36 = 2 ∧ s.on F.EB_PORT_CFG.SYN_STATUS 36 = true ∧
      (s.pcie.out.any fun x => x.egress == 36 && x.reqId == (65535 : BitVec 16).toNat && x.tag == (16383 : BitVec 14).toNat) = true)) ∧
    ((let s := R.set F.EB_PORT_STATUS.LINK_UP 1 39; s.on F.EB_PORT_STATUS.LINK_UP 39 = true ∧
      s.pcie.insecure.contains 39 = false ∧ s.on F.EB_PORT_STATUS.IDE_SECURE 39 = false)) ∧
    ((let s := (R.set F.EB_PORT_STATUS.LINK_UP 1 39).set F.EB_PORT_STATUS.IDE_SECURE 1 39;
      s.on F.EB_PORT_STATUS.LINK_UP 39 = true ∧ s.pcie.insecure.contains 39 = false ∧
      (tlpAt .memRead 0 4).integrity = true)) ∧
    (downPort.hpRole 36 ≠ 0) ∧
    ((let s := ((upHost.set F.SVF_CTRL.ENABLE 1 0).set F.SVF_CTRL.PARTITION 15 0).set F.SVF_CTRL.VFUNC 255 0;
      s.running = true ∧ s.upPort 15 = some 0 ∧
      (firstNat 256 fun k => s.svfLive k && s.f F.SVF_CTRL.PARTITION k == 15 && s.f F.SVF_CTRL.VFUNC k == 255) = some 0 ∧
      (tlpAt .cfgRead 0x3C 4).kind = .cfgRead ∧ (tlpAt .cfgRead 0x3C 4).addr < 0x40)) ∧
    (downPort.running = true ∧ downPort.hpMayLink 36 = true ∧
      Fin.val (6 : Fin 7) ≤ downPort.f F.EB_PORT_CFG.MAX_SPEED 36 ∧ 2 ^ Fin.val (4 : Fin 5) ≤ downPort.hpLanes 36 ∧
      PortSense.present ⟨true, false⟩ = true ∧ downPort.on F.EB_PORT_STATUS.PRESENT 36 = false ∧
      (downPort.set F.EB_PORT_STATUS.PRESENT 1 36).hpRole 36 = 2) ∧
    ((let s := downPort.set F.EB_PORT_STATUS.PRESENT 1 36; s.hpRole 36 = 2 ∧ PortSense.present ⟨false, true⟩ = false ∧
      (⟨false, true⟩ : PortSense).active = true ∧ s.on F.EB_PORT_STATUS.PRESENT 36 = true)) ∧
    (downPort.hpPresent 36 = true ∧ 36 ∉ downPort.pcie.devPerst) ∧
    ((let s := (downPort.set F.EB_PORT_STATUS.LINK_UP 1 36).set F.EB_PORT_CFG.SHARED 1 36; s.hpRole 36 = 2 ∧
      s.on F.EB_PORT_STATUS.LINK_UP 36 = true ∧ s.hpShared 36 = true)) :=
  ⟨by decide +kernel, by decide +kernel, by decide +kernel, by decide +kernel, by decide +kernel, by decide +kernel,
      by decide +kernel, by decide +kernel, by decide +kernel, by decide +kernel, by decide +kernel⟩

/-- Each clause of PartitionCommandsComplete. -/
theorem witness_PartitionCommandsComplete :
    ((let s := (R.set F.EB_PORT_CFG.ROLE 1 0).set F.EB_PORT_CFG.PARTITION 15 0; s.running = true ∧
      Requester.serviceProcessor.manages = true ∧
      s.partCfgCheck 15 (F.EB_PART_CFG.ENABLE.fld.set (s.rd ⟨.EB_PART_CFG, 15, 0⟩) 1) = .ok ∧
      setsRsv RegName.EB_PART_CFG.desc.fields (F.EB_PART_CFG.ENABLE.fld.set (s.rd ⟨.EB_PART_CFG, 15, 0⟩) 1) = false)) ∧
    (upHost.running = true ∧ upHost.upPort 15 = some 0 ∧ 15 ∉ R.pcie.perstUp) ∧
    ((let s : State := { R with pcie := { nf := [(15, 1)] } }; s.running = true ∧ mget s.pcie.nf 15 0 = 1)) :=
  ⟨by decide +kernel, by decide +kernel, by decide +kernel⟩

/-- Each clause of FaultCommandsComplete. -/
theorem witness_FaultCommandsComplete :
    ((let s : State := { R with flt := { banks := [(127, ⟨false, some 0, false, true, []⟩)] } }; s.running = true ∧
      (s.bank 127).restoring = true ∧ s.flt.bankQueue.contains 127 = false)) ∧
    (R.takesWrites .serviceProcessor = true ∧ Requester.serviceProcessor.manages = true ∧
      R.mirrorCheck (F.MIRROR_CFG.MIRROR_EN.fld.set 0 1) = .ok) ∧
    ((let s : State := { R with flt := { mirrorCopying := true } }; s.running = true ∧ s.flt.mirrorCopying = true)) ∧
    ((R.set F.MIRROR_CFG.MIRROR_EN 1).running = true ∧ (R.set F.MIRROR_CFG.MIRROR_EN 1).on F.MIRROR_CFG.MIRROR_EN = true) ∧
    (forceCheck .serviceProcessor (1199 : BitVec 11).toNat true = .ok ∧
      forceCheck .serviceProcessor (9 : BitVec 11).toNat false = .ok) ∧
    (R.statusClearCheck 18 (BitVec.ofNat 64 (2 ^ 48 - 1)) = .ok) :=
  ⟨by decide +kernel, by decide +kernel, by decide +kernel, by decide +kernel, by decide +kernel, by decide +kernel⟩

/-- Each clause of ResetCommandsComplete that has hypotheses. -/
theorem witness_ResetCommandsComplete :
    ((R.modSys fun y => { y with railOk := false }).sys.railOk = false ∧
      (R.modSys fun y => { y with sprefOk := false }).sys.sprefOk = false) ∧
    (R.running = true ∧ R.sys.frefStopped.contains 7 = false) ∧
    ((let s := R.set F.BOOT_STATUS.STATE 1; s.sys.coldHold = false ∧ s.f F.BOOT_STATUS.STATE = 1 ∧
      s.bootSlot none (some (slotOf 63)) = some (1, slotOf 63) ∧ s.bootSlot none none = none)) ∧
    (R.takesWrites .serviceProcessor = true ∧ Requester.serviceProcessor.manages = true ∧
      R.on F.ENG_STATUS.FENCED 511 = false ∧ R.inService 255 = false ∧ Requester.serviceProcessor.reaches = true) :=
  ⟨by decide +kernel, by decide +kernel, by decide +kernel, by decide +kernel⟩

/-- Each clause of ManagementCommandsComplete. -/
theorem witness_ManagementCommandsComplete :
    (R.sys.coldHold = false ∧ R.takesWrites .serviceProcessor = true ∧
      evForceCheck .serviceProcessor (1695 : BitVec 11).toNat = .ok ∧
      evForceCheck .serviceProcessor (1200 : BitVec 11).toNat = .ok) ∧
    (pcSelBad 143 (F.PC_SEL.ALL_INSTANCES.fld.set (F.PC_SEL.EVENT.fld.set 0 0xA0) 1) = false ∧
      setsRsv RegName.PC_VALUE.desc.fields 5 = false) ∧
    (R.pathOpen (Fin.val (0 : Fin 17)) = true ∧ isSensor (234 : BitVec 16).toNat = true ∧
      (R.sensor (234 : BitVec 16).toNat).isSome = true) ∧
    (R.sys.image = none ∧ (R.emit (.flash 1 (some (slotOf 63)))).imageValid (slotOf 63) = true) ∧
    ((let s : State := { R with flt := { log := [(1023, L.FLR.SEQ.set (0 : BitVec 512) 1023)] } };
      s.sys.coldHold = false ∧
      mfind s.flt.log ((1023 : BitVec 32).toNat % 1024) = some (L.FLR.SEQ.set (0 : BitVec 512) 1023) ∧
      L.FLR.SEQ.get (L.FLR.SEQ.set (0 : BitVec 512) 1023) = (1023 : BitVec 32).toNat ∧
      s.flt.ackedSeq.contains 1023 = false)) ∧
    ((R.set F.DH_STATUS.LINK_UP 1).on F.DH_STATUS.LINK_UP = true ∧
      (0 : BitVec 48).toNat = (R.set F.DH_STATUS.LINK_UP 1).f F.DH_MAC.MAC) ∧
    ((R.set F.DH_CFG.MODE 1).on F.DH_CFG.MODE = true ∧
      (R.set F.DH_CFG.MODE 1).rd ⟨.DH_STATUS, 0, 0⟩ ≠ BitVec.ofNat 64 (2 * b2n true + 4)) :=
  ⟨by decide +kernel, by decide +kernel, by decide +kernel, by decide +kernel, by decide +kernel, by decide +kernel,
      by decide +kernel⟩

/-- Each clause of AccessCommandsComplete. -/
theorem witness_AccessCommandsComplete :
    (R.running = true ∧ Requester.serviceProcessor.reaches = true ∧ R.warmWrite .serviceProcessor .device 0 8 0 = false ∧
      accessOk 0 8 = true) ∧
    (R.warmWrite (.func 4095) .own (2 ^ 21 - 4) 4 0 = false ∧ accessOk (2 ^ 21 - 4) 4 = true) ∧
    ((2 ^ 26 - 64) / gsSize % 4 = 0 ∧ hostWritable ((2 ^ 26 - 64) % gsSize) = true ∧
      hostWritable ((2 ^ 26 - 64) % gsSize + (List.replicate 64 (0 : Byte)).length - 1) = true) ∧
    ((upHost.fnPort 15).isSome = true ∧ upHost.running = true ∧ barHas 15 0 (2 ^ 21 - 8) = true ∧
      (tlpAt .memWrite 0 8).kind = .memWrite ∧ (tlpAt .memWrite 0 8).ep = false ∧ (tlpAt .memRead 0 8).kind = .memRead) :=
  ⟨by decide +kernel, by decide +kernel, by decide +kernel, by decide +kernel⟩

/-- A command waits, and an idle state. -/
theorem witness_StepRunsFront :
    (let s : State := { R with pending := [.nop (entryOf 0)] }; s.pending = .nop (entryOf 0) :: []) ∧ R.pending = [] :=
  by decide +kernel

/-- A step from a canonical memory ends in a next state. -/
theorem witness_EveryStepKeepsForm :
    Safety.MemCanonical { R with pending := [.lockRelease .serviceProcessor 8 0] } ∧
      ∃ t, step { R with pending := [.lockRelease .serviceProcessor 8 0] } = .next t :=
  ⟨(rfl : Memory.wf ([] : List Host.Cell) = true), ⟨_, rfl⟩⟩

/-- A command that stores nothing answers a next state. -/
theorem witness_StorelessCommandsKeepMemory :
    Safety.storesNothing (.nop (entryOf 0)) = true ∧ ∃ t, exec (.nop (entryOf 0)) R = .next t :=
  ⟨by decide +kernel, ⟨_, rfl⟩⟩

/-- The part held in cold reset. -/
def held : State := { R with sys := { coldHold := true, sysResetN := false } }

/-- Commands of each kind in cold reset. -/
theorem witness_ColdResetOverrides :
    held.sys.coldHold = true ∧ Safety.pinEvent (.nop (entryOf 0)) = false ∧ Safety.endsColdReset (.sprefLoss) = false ∧
      ∃ t, exec .sprefLoss held = .next t :=
  ⟨by decide +kernel, by decide +kernel, by decide +kernel, ⟨_, rfl⟩⟩

/-- The safe state and a command that does not act in it. -/
theorem witness_SafeStateStops :
    (R.set F.FAULT_SUMMARY.SAFE_STATE 1).on F.FAULT_SUMMARY.SAFE_STATE = true ∧
      Safety.actsInSafeState (.nop (entryOf 0)) = false :=
  by decide +kernel

/-- The last 64 bytes of the Groundsheet, in a bank that serves. -/
theorem witness_GroundsheetReadsWhatWasPut :
    Memory.wf R.mem = true ∧ (2 ^ 26 - 64) % gsSize + (List.replicate 64 (1 : Byte)).length ≤ gsSize ∧
      (R.bank (bankOf ((2 ^ 26 - 64) % gsSize))).fromMirror = false :=
  by decide +kernel

/-- A requester with and without a standing rejection, and another requester. -/
theorem witness_WriteStatusRecords :
    F.WRITE_STATUS.REJECTED.fld.on (R.ws .serviceProcessor) = false ∧
      F.WRITE_STATUS.REJECTED.fld.on ((R.wsRecord .serviceProcessor .busy 8).ws .serviceProcessor) = true ∧
      (Requester.func 0) ≠ .serviceProcessor ∧ Status.busy ≠ .ok :=
  by decide +kernel

/-- The offset of a plain register. -/
abbrev plainOff : Nat := Reg.offset ⟨.TP_RTO_CFG, 0, 0⟩

/-- A legal write, one that sets reserved bits, and one by a requester that may not. -/
theorem witness_PlainWriteStoresOrRejects :
    (R.running = true ∧ R.warmWrite .serviceProcessor .device plainOff 8 1 = false ∧ accessOk plainOff 8 = true ∧
      devTarget R (plainOff / 8 * 8) = .reg ⟨.TP_RTO_CFG, 0, 0⟩ false) ∧
    ((servedCommand .serviceProcessor ⟨.TP_RTO_CFG, 0, 0⟩ plainOff 1).isNone = true ∧
      (devCommand .serviceProcessor ⟨.TP_RTO_CFG, 0, 0⟩ plainOff 1).isNone = true) ∧
    (R.plainCheck .serviceProcessor ⟨.TP_RTO_CFG, 0, 0⟩ (R.rd ⟨.TP_RTO_CFG, 0, 0⟩) = .ok ∧
      accessValue plainOff 8 0 (BitVec.allOnes 64) RegName.TP_RTO_CFG.desc.fields = BitVec.allOnes 64 ∧
      R.plainCheck .serviceProcessor ⟨.TP_RTO_CFG, 0, 0⟩ (BitVec.allOnes 64) = .badValue) ∧
    (R.regDenied .serviceProcessor ⟨.TP_RTO_CFG, 0, 0⟩ = false ∧
      R.regState ⟨.TP_RTO_CFG, 0, 0⟩ (BitVec.allOnes 64) = false ∧
      setsRsv RegName.TP_RTO_CFG.desc.fields (BitVec.allOnes 64) = true) :=
  ⟨by decide +kernel, by decide +kernel, by decide +kernel, by decide +kernel⟩

/-- A state in which the service processor owns the lock word at offset 8. -/
def owned : State := R.gsPut 8 8 spIdent

/-- The owner releases with and without a waiter; another identity releases. -/
theorem witness_ReleasePassesLock :
    (Memory.wf owned.mem = true ∧ (owned.bank (bankOf 8)).fromMirror = false ∧ owned.lockWord 8 % 2 ^ 32 = spIdent ∧
      (owned.lock.waiters.filter fun w => w.off == 8) = []) ∧
    ((let s : State := { owned with lock := { waiters := [⟨8, fmfIdent⟩] } }; s.lockWord 8 % 2 ^ 32 = spIdent ∧
      (s.lock.waiters.filter fun w => w.off == 8) ≠ [])) ∧
    (owned.lockWord 8 % 2 ^ 32 ≠ fmfIdent) :=
  ⟨by decide +kernel, by decide +kernel, by decide +kernel⟩

/-- The counter has 112 bits. -/
theorem witness_TickNumberOfTime :
    (later R 1).time.ctr < 2 ^ 112 ∧ { R with time := { ctr := 2 ^ 112 - 1 } : State }.time.ctr < 2 ^ 112 :=
  by decide +kernel

/-- The fabric management function in its partition, with the job it admits and one it does not. -/
theorem witness_FabricEndpointAdmission :
    { R with active := [(⟨.EB_FMF_CFG, 0, 0⟩, F.EB_FMF_CFG.IN_PARTITION.fld.set 0 1)] : State }.fmfPlaced = true ∧
      ((R.admission 7 63).2 = none → False) :=
  ⟨by decide +kernel, by decide +kernel⟩

/-- A halted channel and an idle one. -/
theorem witness_ResumeRestartsHaltedChannel :
    (channel 3).running = true ∧ (channel 3).mvAllows .serviceProcessor = true ∧ (channel 3).chState 15 31 = 3 ∧
      ((channel 3).srcSide 15 31).gs = true ∧ ((channel 3).dstSide 15 31).gs = true ∧ (channel 0).chState 15 31 ≠ 3 :=
  by decide +kernel

/-- A write of CH_CTRL of a queued channel. -/
theorem witness_DescriptorWritesNeedIdle :
    ((channel 1).running = true ∧ Requester.serviceProcessor.reaches = true ∧
      (channel 1).mvAllows .serviceProcessor = true ∧ accessOk (Reg.offset ⟨.CH_CTRL, 15, 31⟩) 8 = true) ∧
    (devTarget (channel 1) (Reg.offset ⟨.CH_CTRL, 15, 31⟩ / 8 * 8) = .reg ⟨.CH_CTRL, 15, 31⟩ false ∧
      (channel 1).chState 15 31 ≠ 0) :=
  ⟨by decide +kernel, by decide +kernel⟩

/-- The first and last sources of each range. -/
theorem witness_EventForceRaises :
    R.takesWrites .serviceProcessor = true ∧ Requester.serviceProcessor.manages = true ∧ 1200 ≤ (1200 : BitVec 11).toNat ∧
      (1695 : BitVec 11).toNat < 1696 ∧ (1199 : BitVec 11).toNat < 1200 ∧ (1199 : BitVec 11).toNat ≠ 31 ∧
      (1199 : BitVec 11).toNat ≠ 9 :=
  by decide +kernel

/-- Source 1627 routed to vector 3 of function 0. -/
def routed (s : State) : State := ((s.set F.EV_ROUTE.ENABLE 1 1627).set F.EV_ROUTE.DEST 0 1627).set F.EV_ROUTE.VECTOR 3 1627

/-- A function without MSI-X, one with its vector masked, and one with it open. -/
theorem witness_RoutedEventsReachVectors :
    ((routed R).takesWrites .serviceProcessor = true ∧ engineSource (1627 : BitVec 11).toNat = false ∧
      ((routed R).f F.EV_PENDING.PENDING (1627 / 64)).testBit (1627 % 64) = false ∧
      (routed R).on F.EV_ROUTE.ENABLE 1627 = true ∧ (routed R).f F.EV_ROUTE.DEST 1627 = 0 ∧
      (routed R).msixOn.contains 0 = false) ∧
    ((let s : State := { routed R with msixOn := [0] }; s.fnQuiet 0 = false ∧ s.msixOn.contains 0 = true ∧
      (s.msixEntry 0 3).toNat.testBit 96 = true)) ∧
    ((let s : State := { routed R with msixOn := [0], msix := [((0, 3), 0)] }; s.fnQuiet 0 = false ∧
      s.msixOn.contains 0 = true ∧ (s.msixEntry 0 3).toNat.testBit 96 = false)) ∧
    ((routed (R.set F.FUNC_STATUS.FUNCTION_HALTED 1 0)).fnQuiet 0 = true) :=
  ⟨by decide +kernel, by decide +kernel, by decide +kernel, by decide +kernel⟩

/-- A write of FAULT_CLASS that lowers a class, and one that raises all to fatal. -/
theorem witness_FaultClassesOnlyRise :
    (accessOk (Reg.offset ⟨.FAULT_CLASS, 37, 0⟩) 8 = true ∧
      devTarget R (Reg.offset ⟨.FAULT_CLASS, 37, 0⟩ / 8 * 8) = .reg ⟨.FAULT_CLASS, 37, 0⟩ false) ∧
    ((∃ k < 32, (0 : Word).toNat / 2 ^ (2 * k) % 4 < defaultClass (32 * 37 + k)) ∧
      ((List.range 32).all fun k => decide (defaultClass (32 * 37 + k) ≤ (BitVec.allOnes 64).toNat / 2 ^ (2 * k) % 4)) = true) :=
  ⟨by decide +kernel, by decide +kernel⟩

/-- The active bank with a register's field set. -/
def activeSet (s : State) (f : RegFld) (v i j : Nat) : State := { s with active := mset s.active (f.at i j) (f.fld.set (s.rdA (f.at i j)) v) }

/-- Shapers enabled, in force before or not, and disabled. -/
theorem witness_ShapersRefill :
    ((activeSet R F.PORT_SHAPER.ENABLE 1 255 0).ona F.PORT_SHAPER.ENABLE 255 = true ∧
      R.ona F.PORT_SHAPER.ENABLE 255 = false ∧
      (activeSet R F.TC_SHAPER.ENABLE 1 255 7).ona F.TC_SHAPER.ENABLE 255 7 = true ∧
      R.ona F.TC_SHAPER.ENABLE 255 7 = false) ∧
    ((cored { shaperOn := [(255, 8), (255, 7)] }).core.shaperOn.contains (255, 8) = true ∧
      R.core.shaperOn.contains (255, 8) = false) :=
  ⟨by decide +kernel, by decide +kernel⟩

/-- A legal and an illegal packed coordinate of one dimension of two. -/
theorem witness_LegalCoordinatesPack :
    (R.set F.DIM_CFG.ENABLE 1 0).illegalCoord 1 = false ∧ (R.set F.DIM_CFG.ENABLE 1 0).illegalCoord 2 = true :=
  by decide +kernel

/-- Each of the commands answers a next state. -/
theorem witness_RingRegisterCommandsFrame :
    ((∃ t, exec (.ringEnable 0 4095 1) R = .next t) ∧ (∃ t, exec (.ringPiWrite 0 4095 1) R = .next t) ∧
      (∃ t, exec (.ringCiWrite 0 4095 1) R = .next t)) ∧
    ((∃ t, exec (.ringHoldStart 0 4095 1 1) R = .next t) ∧ (∃ t, exec (.ringHoldRelease 0 4095) R = .next t) ∧
      (∃ t, exec (.ringDisarm 0 4095) R = .next t)) :=
  ⟨⟨⟨_, rfl⟩, ⟨_, rfl⟩, ⟨_, rfl⟩⟩, ⟨⟨_, rfl⟩, ⟨_, rfl⟩, ⟨_, rfl⟩⟩⟩

/-! ### Results worked out from the spec -/

/-- The nine ASCII bytes of the digits 1 to 9. -/
def digits : List Byte := (List.range 9).map fun k => BitVec.ofNat 8 (0x31 + k)

/-- R88 gives its CRC-16 of the nine digits as 0x6F91; the CRC-32 of IEEE 802.3 (R190) is 0xCBF43926 of them. -/
theorem test_crcs :
    crc16 digits = 0x6F91 ∧ crc32 digits = 0xCBF43926 :=
  by decide +kernel

/-- Integer arithmetic wraps modulo 2^64 (R385). -/
theorem test_add_wraps :
    (cpu.setG 31 (aluOp 0 (2 ^ 64 - 1) 2)).rg 31 = 1 ∧ (cpu.setG 31 (aluOp 1 0 1)).rg 31 = 2 ^ 64 - 1 ∧
      (cpu.setG 0 5).rg 0 = 0 :=
  by decide +kernel

/-- Shift amounts are taken modulo 64, and SRA keeps the sign (R385). -/
theorem test_shift_amount :
    (cpu.setG 31 (aluOp 6 1 65)).rg 31 = 2 ∧ (cpu.setG 31 (aluOp 8 (2 ^ 63) 63)).rg 31 = 2 ^ 64 - 1 ∧
      (cpu.setG 31 (aluOp 7 (2 ^ 63) 63)).rg 31 = 1 :=
  by decide +kernel

/-- DIV and DIVU by zero give all ones, REM and REMU the dividend (R385). -/
theorem test_division_by_zero :
    [3, 4].all (fun n => mulDivOp n 7 0 == 2 ^ 64 - 1) = true ∧ [5, 6].all (fun n => mulDivOp n 7 0 == 7) = true :=
  by decide +kernel

/-- DIV of -2^63 by -1 gives -2^63, and REM 0 (R385). -/
theorem test_division_corner :
    mulDivOp 3 (2 ^ 63) (2 ^ 64 - 1) = 2 ^ 63 ∧ mulDivOp 5 (2 ^ 63) (2 ^ 64 - 1) = 0 ∧
      mulDivOp 1 (2 ^ 64 - 1) (2 ^ 64 - 1) = 0 :=
  by decide +kernel

/-- LUI shifts the sign-extended imm18 left by 13 (R384). -/
theorem test_lui :
    wImm18S (cw 7 31 0 0x3FFFF) = 2 ^ 64 - 1 ∧ (cpu.setG 31 (wImm18S 1 * 2 ^ 13)).rg 31 = 8192 :=
  by decide +kernel

/-- LB sign-extends and LBU does not (R385). -/
theorem test_loads_extend :
    loaded 1 true 0x80 % 2 ^ 64 = 2 ^ 64 - 128 ∧ loaded 1 false 0x80 = 0x80 :=
  by decide +kernel

/-- A NOP whose entry has begun is taken, and does not run again (R229). -/
theorem test_nop_completes :
    (match exec (.nop (entryOf 0)) (begun R 0 (ent 0 [])) with | .next t => (t.begunEntry (entryOf 0) 0).isNone | _ => false) = true :=
  by decide +kernel

/-- The first of two commands runs and the second waits. -/
theorem test_step_takes_the_front :
    (match step { R with pending := [.tb10mLoss, .tbPpsLoss] } with | .next t => t.pending == [.tbPpsLoss] | _ => false) = true :=
  by decide +kernel

/-- A CLAIM of a free word by the service processor makes it the owner (R436). -/
theorem test_claim_free_word :
    (match exec (.lockClaim .serviceProcessor 8 (BitVec.ofNat 64 spIdent)) R with | .next t => t.lockWord 8 == spIdent | _ => false) = true :=
  by decide +kernel

/-- RING_HOLD of no entries is BAD_VALUE (R222, R235). -/
theorem test_hold_refuses_zero :
    (match exec (.ringHoldStart 0 0 0 0) R with | .next t => F.WRITE_STATUS.LAST_STATUS.fld.get (t.ws (.func 0)) | _ => 0xFF) = 0x01 :=
  by decide +kernel

/-- The table gives no row any bits. -/
theorem test_no_word_decodes :
    decodeTableWord 64 0 = none ∧ (R.withFetchWord 64 0).pending = [] :=
  by decide +kernel

end Sys2Proof.Tests
end

section
/-! PROOFS. Register accesses from outside the part: what its register writes, its windows, requests to the BARs of its
functions and the turnover answer once the guards they stand behind are met (R12, R14, R31, R477, R577 to R589, R605). -/
namespace Sys2Proof.Machine

open Sys2Proof

/-! ### The arms of these commands -/

theorem exec_registerWrite (rq : Requester) (w : Window) (off size : Nat) (v : Word) (s : State) :
    exec (.registerWrite rq w off size v) s = .next (s.outerWrite rq w off size v) := rfl

theorem exec_writeStatusRead (rq : Requester) (s : State) :
    exec (.writeStatusRead rq) s = execWriteStatusRead rq s := rfl

theorem exec_groundsheetWindowWrite (off : Fin 268435456) (bs : List Byte) (s : State) :
    exec (.groundsheetWindowWrite off bs) s = execGroundsheetWindowWrite off bs s := rfl

theorem exec_nfBarRequest (f : Fin 4096) (bar : Fin 6) (off : Nat) (t : Tlp) (aop : Fin 3) (s : State) :
    exec (.nfBarRequest f bar off t aop) s = execNfBarRequest f bar off t aop s := rfl

theorem exec_turnover (i : TickInput) (s : State) : exec (.turnover i) s = execTurnover i s := rfl

/-! ### The guards of a register write -/

/-- While the part runs, every requester's writes are served. -/
theorem State.takesWrites_of_running {s : State} (rq : Requester) (h : s.running = true) : s.takesWrites rq = true := by
  unfold State.takesWrites
  rw [h, Bool.true_or]

/-- A write that commands no warm reset acts on the registers alone. -/
theorem State.outerWrite_of_not_warm {s : State} {rq : Requester} {w : Window} {off size : Nat} {v : Word}
    (h : s.warmWrite rq w off size v = false) : s.outerWrite rq w off size v = s.regWrite rq w off size v := by
  unfold State.outerWrite
  rw [h, Bool.and_false, if_neg Bool.false_ne_true]

/-- A served, whole access by a requester that reaches the device window goes to its registers (R580, R582). -/
theorem State.regWrite_device {s : State} {rq : Requester} {off size : Nat} (v : Word) (hrun : s.running = true)
    (hreach : rq.reaches = true) (hacc : accessOk off size = true) :
    s.regWrite rq .device off size v = s.deviceWrite rq off size v := by
  simp [State.regWrite, State.takesWrites_of_running rq hrun, hreach, hacc]

/-- A served, whole access by a function to its own window goes to that window's registers (R579, R582). -/
theorem State.regWrite_own {s : State} (f : Fin 4096) {off size : Nat} (v : Word) (hrun : s.running = true)
    (hacc : accessOk off size = true) : s.regWrite (.func f) .own off size v = s.ownWrite f off size v := by
  simp [State.regWrite, State.takesWrites_of_running (.func f) hrun, hacc]

/-- REGISTER_WRITE in the device window, past its guards. -/
theorem exec_registerWrite_device {s : State} {rq : Requester} {off size : Nat} {v : Word} (hrun : s.running = true)
    (hreach : rq.reaches = true) (hwarm : s.warmWrite rq .device off size v = false) (hacc : accessOk off size = true) :
    exec (.registerWrite rq .device off size v) s = .next (s.deviceWrite rq off size v) := by
  rw [exec_registerWrite, State.outerWrite_of_not_warm hwarm, State.regWrite_device v hrun hreach hacc]

/-- REGISTER_WRITE in a function's own window, past its guards. -/
theorem exec_registerWrite_own {s : State} (f : Fin 4096) {off size : Nat} {v : Word} (hrun : s.running = true)
    (hwarm : s.warmWrite (.func f) .own off size v = false) (hacc : accessOk off size = true) :
    exec (.registerWrite (.func f) .own off size v) s = .next (s.ownWrite f off size v) := by
  rw [exec_registerWrite, State.outerWrite_of_not_warm hwarm, State.regWrite_own f v hrun hacc]

/-! ### Plain registers of the device window -/

/-- A write at a register's own address in the device window is a write of that register (R580). -/
theorem State.deviceWrite_reg {s : State} {off : Nat} {r : Reg} (rq : Requester) (size : Nat) (w : Word)
    (h : devTarget s (off / 8 * 8) = .reg r false) : s.deviceWrite rq off size w = s.devRegWrite rq r off size w := by
  simp only [State.deviceWrite, h]

/-- A register that commands nothing is stored under the check of plain registers (R605). -/
theorem State.devRegWrite_plain {s : State} {rq : Requester} {r : Reg} {off size : Nat} {w : Word}
    (hname : r.name ≠ .WRITE_STATUS)
    (hserved : servedCommand rq r off (accessValue off size (s.rd r) w r.name.desc.fields) = none)
    (hdev : devCommand rq r off (accessValue off size (s.rd r) w r.name.desc.fields) = none) :
    s.devRegWrite rq r off size w =
      let v := accessValue off size (s.rd r) w r.name.desc.fields
      s.writeAs rq off (s.plainCheck rq r v) fun s => s.regStore r v := by
  simp only [State.devRegWrite, if_neg hname, hserved, hdev]

/-- Past permission and BAD_STATE, a reserved bit or an illegal value of a plain register is BAD_VALUE (R12, R14). -/
theorem State.plainCheck_badValue {s : State} {rq : Requester} {r : Reg} {v : Word} (hallowed : s.regDenied rq r = false)
    (hname : r.name ≠ .EV_ROUTE) (hstate : s.regState r v = false)
    (hbad : setsRsv r.name.desc.fields v = true ∨ s.regBad r v = true) : s.plainCheck rq r v = .badValue := by
  have hval : (setsRsv r.name.desc.fields v || s.regBad r v) = true := (Bool.or_eq_true _ _).mpr hbad
  simp [State.plainCheck, hallowed, hname, hstate, hval, firstStatus]

/-! ### Windows and BARs -/

/-- A write to the plain quarter of the Groundsheet window whose first and last bytes the host may write (R578). -/
theorem State.gsWindowWrite_plain {s : State} {off : Nat} {bs : List Byte} (hq : off / gsSize % 4 = 0)
    (hfirst : hostWritable (off % gsSize) = true) (hlast : hostWritable (off % gsSize + bs.length - 1) = true) :
    s.gsWindowWrite off bs = (s.gsStore none (off % gsSize) bs).wsRecord (.func ⟨fmf, by decide⟩) .ok off := by
  simp [State.gsWindowWrite, hq, hfirst, hlast]

/-- A memory request that falls in a BAR of a function in a partition is taken by the function (R477, R577). -/
theorem exec_nfBarRequest_taken {s : State} {f : Fin 4096} {bar : Fin 6} {off port : Nat} {t : Tlp} (aop : Fin 3)
    (hrun : s.running = true) (hport : s.fnPort f = some port) (hbar : barHas f bar off = true) (hmem : t.memory = true) :
    exec (.nfBarRequest f bar off t aop) s = .next (s.barTake f bar off t aop port) := by
  rw [exec_nfBarRequest]
  unfold execNfBarRequest
  rw [whenPowered_run _ (State.running_coldHold hrun)]
  simp [hport, hbar, hmem, hrun]

/-- A sound write to BAR 0 is a write in the function's own window (R477). -/
theorem State.barTake_write_own (s : State) (f : Fin 4096) (off port : Nat) {t : Tlp} (aop : Fin 3)
    (hkind : t.kind = .memWrite) (hep : t.ep = false) :
    s.barTake f 0 off t aop port =
      s.outerWrite (.func f) .own off t.data.length (BitVec.ofNat 64 (leNat (t.data.take 8))) := by
  simp [State.barTake, hkind, hep]

/-- A read of BAR 0 is answered with what the function's own window reads as (R477). -/
theorem State.barTake_read_own (s : State) (f : Fin 4096) (off port : Nat) {t : Tlp} (aop : Fin 3)
    (hkind : t.kind = .memRead) :
    s.barTake f 0 off t aop port =
      (s.ownRead f off t.len).1.barData port t (leBytes t.len (s.ownRead f off t.len).2) := by
  simp [State.barTake, hkind]

theorem Tlp.memory_of_write {t : Tlp} (h : t.kind = .memWrite) : t.memory = true := by
  simp only [Tlp.memory, h]

theorem Tlp.memory_of_read {t : Tlp} (h : t.kind = .memRead) : t.memory = true := by
  simp only [Tlp.memory, h]

/-! ### The statements -/

/-- Settles O45: past its guards the write is `writeAs` under `plainCheck`, which stores on OK and records the status alone
on any other. -/
theorem plainWriteStoresOrRejects : Obligations.PlainWriteStoresOrRejects := by
  intro s rq off size w r hrun hreach hwarm hacc htarget hname v hserved hdev
  have hexec : exec (.registerWrite rq .device off size w) s =
      .next (s.writeAs rq off (s.plainCheck rq r v) fun s => s.regStore r v) := by
    rw [exec_registerWrite_device hrun hreach hwarm hacc, State.deviceWrite_reg rq size w htarget,
      State.devRegWrite_plain hname hserved hdev]
  refine ⟨fun hok => ?_, fun hbad => ?_, State.plainCheck_badValue⟩
  · rw [hexec, hok, State.writeAs_ok]
  · rw [hexec, State.writeAs_refused _ _ _ _ hbad]

/-- Settles O31: each clause is the command's arm past the guards that its hypotheses meet. -/
theorem accessCommandsComplete : Obligations.AccessCommandsComplete := by
  intro s hrun
  refine ⟨fun rq off size v hreach hwarm hacc => exec_registerWrite_device hrun hreach hwarm hacc,
    fun f off size v hwarm hacc => exec_registerWrite_own f hrun hwarm hacc, fun rq => ?writeStatus,
    fun off bs hq hfirst hlast => ?groundsheet, fun f off t aop port hport hbar hkind hep => ?barWrite,
    fun f off t aop port hport hbar hkind => ?barRead, fun i => ?turnover⟩
  case writeStatus =>
    rw [exec_writeStatusRead]
    exact whenPowered_run _ (State.running_coldHold hrun)
  case groundsheet =>
    rw [exec_groundsheetWindowWrite, ← State.gsWindowWrite_plain hq hfirst hlast]
    exact whenRunning_run _ hrun
  case barWrite =>
    rw [exec_nfBarRequest_taken aop hrun hport hbar (Tlp.memory_of_write hkind)]
    exact congrArg _ (State.barTake_write_own s f off port aop hkind hep)
  case barRead =>
    rw [exec_nfBarRequest_taken aop hrun hport hbar (Tlp.memory_of_read hkind)]
    exact congrArg _ (State.barTake_read_own s f off port aop hkind)
  case turnover =>
    rw [exec_turnover]
    exact (whenPowered_run _ (State.running_coldHold hrun)).trans (by rw [if_pos hrun])

end Sys2Proof.Machine
end

section
/-! PROOFS. The family of the architecture: what every step keeps of the queue, the memory, the free values and what has
left the part, and what the Groundsheet reads as after a write (R26, R28). -/
namespace Sys2Proof.Machine

open Sys2Proof

/-! ### Commands -/

/-- What leaves the memory as it is unless `v` does so unless `w`, which follows from `v`. -/
theorem Keeps.mono {v w : Prop} {s t : State} (h : v → w) (k : Keeps v s t) : Keeps w s t :=
  ⟨k.queue, k.mem, k.draws, k.out, k.same.imp_left h⟩

/-- Every command keeps the form of the state, and those that store nothing the memory itself: the laws of the meanings,
one per command. A command that stores nothing has its law for every exception, that of any other excepts the memory
outright. -/
theorem exec_keeps {c : Instr} {s t : State} (e : exec c s = .next t) : Keeps (Safety.storesNothing c = false) s t := by
  cases c with
  | registerWrite => exact (execRegisterWrite_keeps _ _ _ _ _ s (.refl s) e).mono fun _ => rfl
  | writeStatusRead => exact execWriteStatusRead_keeps _ s (.refl s) e
  | turnover => exact (execTurnover_keeps _ s (.refl s) e).mono fun _ => rfl
  | rpStepCmdGo => exact (execRpStepCmdGo_keeps _ s (.refl s) e).mono fun _ => rfl
  | rpTodSecondsWrite => exact execRpTodSecondsWrite_keeps _ _ s (.refl s) e
  | tbPpsEdge => exact (execTbPpsEdge_keeps _ s (.refl s) e).mono fun _ => rfl
  | tbPpsLoss => exact (execTbPpsLoss_keeps s (.refl s) e).mono fun _ => rfl
  | tb10mLoss => exact (execTb10mLoss_keeps s (.refl s) e).mono fun _ => rfl
  | rpTimeRead => exact execRpTimeRead_keeps _ _ s (.refl s) e
  | timestampLcbReceive => exact (execTimestampLcbReceive_keeps _ _ _ s (.refl s) e).mono fun _ => rfl
  | ptmExchange => exact execPtmExchange_keeps _ _ _ _ _ s (.refl s) e
  | jobCreate => exact (execJobCreate_keeps _ s (.refl s) e).mono fun _ => rfl
  | jobAttach => exact execJobAttach_keeps _ s (.refl s) e
  | jobDetach => exact execJobDetach_keeps _ s (.refl s) e
  | jobDestroy => exact (execJobDestroy_keeps _ s (.refl s) e).mono fun _ => rfl
  | jobDestroyComplete => exact (execJobDestroyComplete_keeps _ s (.refl s) e).mono fun _ => rfl
  | rttInvalidate => exact execRttInvalidate_keeps _ s (.refl s) e
  | rttInvalidateComplete => exact execRttInvalidateComplete_keeps _ s (.refl s) e
  | packetRoute => exact (execPacketRoute_keeps _ s (.refl s) e).mono fun _ => rfl
  | guylineLcbReceive => exact (execGuylineLcbReceive_keeps _ _ s (.refl s) e).mono fun _ => rfl
  | mcgInvalidate => exact execMcgInvalidate_keeps _ s (.refl s) e
  | mcgInvalidateComplete => exact execMcgInvalidateComplete_keeps _ s (.refl s) e
  | cellArbitration => exact (execCellArbitration_keeps _ s (.refl s) e).mono fun _ => rfl
  | sharedChargeMove => exact execSharedChargeMove_keeps _ s (.refl s) e
  | hotEntryFree => exact execHotEntryFree_keeps _ s (.refl s) e
  | cutThroughUnderrun => exact execCutThroughUnderrun_keeps _ s (.refl s) e
  | packetInject => exact (execPacketInject_keeps _ s (.refl s) e).mono fun _ => rfl
  | portEnable => exact (execPortEnable_keeps _ _ _ s (.refl s) e).mono fun _ => rfl
  | portDisable => exact (execPortDisable_keeps _ _ _ s (.refl s) e).mono fun _ => rfl
  | portDrain => exact (execPortDrain_keeps _ _ _ s (.refl s) e).mono fun _ => rfl
  | portRestore => exact (execPortRestore_keeps _ _ s (.refl s) e).mono fun _ => rfl
  | portRetrain => exact (execPortRetrain_keeps _ _ s (.refl s) e).mono fun _ => rfl
  | portTest => exact (execPortTest_keeps _ _ s (.refl s) e).mono fun _ => rfl
  | commaLockGain => exact (execCommaLockGain_keeps _ _ s (.refl s) e).mono fun _ => rfl
  | commaLockLoss => exact execCommaLockLoss_keeps _ s (.refl s) e
  | holdOffExpire => exact execHoldOffExpire_keeps _ s (.refl s) e
  | capSetReceive => exact (execCapSetReceive_keeps _ _ _ _ s (.refl s) e).mono fun _ => rfl
  | negTimeout => exact (execNegTimeout_keeps _ s (.refl s) e).mono fun _ => rfl
  | trainingFrameReceive => exact execTrainingFrameReceive_keeps _ _ _ _ s (.refl s) e
  | eqTimeout => exact (execEqTimeout_keeps _ s (.refl s) e).mono fun _ => rfl
  | alignComplete => exact execAlignComplete_keeps _ s (.refl s) e
  | alignTimeout => exact (execAlignTimeout_keeps _ s (.refl s) e).mono fun _ => rfl
  | deskewError => exact (execDeskewError_keeps _ s (.refl s) e).mono fun _ => rfl
  | verifyEvaluate => exact (execVerifyEvaluate_keeps _ _ _ _ s (.refl s) e).mono fun _ => rfl
  | verifyStatusReceive => exact (execVerifyStatusReceive_keeps _ _ s (.refl s) e).mono fun _ => rfl
  | verifyTimeout => exact (execVerifyTimeout_keeps _ s (.refl s) e).mono fun _ => rfl
  | portActiveEntry => exact (execPortActiveEntry_keeps _ _ s (.refl s) e).mono fun _ => rfl
  | losAssert => exact (execLosAssert_keeps _ s (.refl s) e).mono fun _ => rfl
  | losClear => exact execLosClear_keeps _ s (.refl s) e
  | cdrLockLoss => exact (execCdrLockLoss_keeps _ s (.refl s) e).mono fun _ => rfl
  | codewordLockLoss => exact (execCodewordLockLoss_keeps _ s (.refl s) e).mono fun _ => rfl
  | blockLockGain => exact execBlockLockGain_keeps _ s (.refl s) e
  | blockLockLoss => exact (execBlockLockLoss_keeps _ s (.refl s) e).mono fun _ => rfl
  | widthReqReceive => exact execWidthReqReceive_keeps _ _ s (.refl s) e
  | widthCommitReceive => exact execWidthCommitReceive_keeps _ _ s (.refl s) e
  | widthWidenReceive => exact execWidthWidenReceive_keeps _ _ s (.refl s) e
  | widthReadyReceive => exact execWidthReadyReceive_keeps _ _ s (.refl s) e
  | widthSwitch => exact (execWidthSwitch_keeps _ _ s (.refl s) e).mono fun _ => rfl
  | degradeTimeout => exact (execDegradeTimeout_keeps _ _ s (.refl s) e).mono fun _ => rfl
  | widenTimeout => exact execWidenTimeout_keeps _ s (.refl s) e
  | serviceDrainReceive => exact execServiceDrainReceive_keeps _ _ s (.refl s) e
  | drainAckSend => exact (execDrainAckSend_keeps _ s (.refl s) e).mono fun _ => rfl
  | serviceDrainAckReceive => exact execServiceDrainAckReceive_keeps _ _ s (.refl s) e
  | drainComplete => exact (execDrainComplete_keeps _ s (.refl s) e).mono fun _ => rfl
  | serviceRestoreReceive => exact execServiceRestoreReceive_keeps _ _ s (.refl s) e
  | serviceRestoreAckReceive => exact execServiceRestoreAckReceive_keeps _ _ s (.refl s) e
  | testNoticeReceive p mode pattern rate =>
    exact (execTestNoticeReceive_keeps p mode pattern rate s (.refl s) e).mono fun _ => rfl
  | testComplete => exact execTestComplete_keeps _ _ s (.refl s) e
  | laneCal => exact execLaneCal_keeps _ _ s (.refl s) e
  | remoteTuneRequest => exact execRemoteTuneRequest_keeps _ _ s (.refl s) e
  | tuneLcbReceive => exact execTuneLcbReceive_keeps _ _ s (.refl s) e
  | lanePrbsInject => exact execLanePrbsInject_keeps _ _ s (.refl s) e
  | lanePrbsClear => exact execLanePrbsClear_keeps _ _ s (.refl s) e
  | linkSendNew => exact (execLinkSendNew_keeps _ s (.refl s) e).mono fun _ => rfl
  | ackLcbReceive => exact (execAckLcbReceive_keeps _ _ s (.refl s) e).mono fun _ => rfl
  | replayTimerExpire => exact (execReplayTimerExpire_keeps _ s (.refl s) e).mono fun _ => rfl
  | linkPacketSop => exact (execLinkPacketSop_keeps _ _ _ _ _ s (.refl s) e).mono fun _ => rfl
  | linkPacketEnd => exact (execLinkPacketEnd_keeps _ _ _ _ _ s (.refl s) e).mono fun _ => rfl
  | abortBlockReceive => exact (execAbortBlockReceive_keeps _ s (.refl s) e).mono fun _ => rfl
  | ackCoalesceExpire => exact execAckCoalesceExpire_keeps _ s (.refl s) e
  | initLcbReceive => exact (execInitLcbReceive_keeps _ _ s (.refl s) e).mono fun _ => rfl
  | initRepeat => exact execInitRepeat_keeps _ s (.refl s) e
  | retrainLcbReceive => exact (execRetrainLcbReceive_keeps _ _ s (.refl s) e).mono fun _ => rfl
  | fatalLcbReceive => exact (execFatalLcbReceive_keeps _ _ s (.refl s) e).mono fun _ => rfl
  | linkDown => exact (execLinkDown_keeps _ s (.refl s) e).mono fun _ => rfl
  | resumeTimeout => exact execResumeTimeout_keeps _ s (.refl s) e
  | freshStartInitSend => exact execFreshStartInitSend_keeps _ s (.refl s) e
  | ringEnable => exact execRingEnable_keeps _ _ _ s (.refl s) e
  | ringPiWrite => exact execRingPiWrite_keeps _ _ _ s (.refl s) e
  | ringCiWrite => exact execRingCiWrite_keeps _ _ _ s (.refl s) e
  | ringHoldStart => exact execRingHoldStart_keeps _ _ _ _ s (.refl s) e
  | ringHoldRelease => exact execRingHoldRelease_keeps _ _ s (.refl s) e
  | ringArm => exact execRingArm_keeps _ _ _ s (.refl s) e
  | ringDisarm => exact execRingDisarm_keeps _ _ s (.refl s) e
  | doorbellPoll => exact (execDoorbellPoll_keeps _ _ _ s (.refl s) e).mono fun _ => rfl
  | ringEntryFetch => exact execRingEntryFetch_keeps _ _ s (.refl s) e
  | fetchRetry => exact execFetchRetry_keeps _ s (.refl s) e
  | entryBegin => exact (execEntryBegin_keeps _ _ s (.refl s) e).mono fun _ => rfl
  | nop => exact execNop_keeps _ s (.refl s) e
  | connCreate => exact execConnCreate_keeps _ s (.refl s) e
  | connModify => exact execConnModify_keeps _ s (.refl s) e
  | connDestroy => exact (execConnDestroy_keeps _ s (.refl s) e).mono fun _ => rfl
  | connDestroyComplete => exact execConnDestroyComplete_keeps _ s (.refl s) e
  | mrRegister => exact (execMrRegister_keeps _ s (.refl s) e).mono fun _ => rfl
  | mrRevoke => exact execMrRevoke_keeps _ s (.refl s) e
  | mrRevokeComplete => exact (execMrRevokeComplete_keeps _ s (.refl s) e).mono fun _ => rfl
  | trigCounterSet => exact (execTrigCounterSet_keeps _ s (.refl s) e).mono fun _ => rfl
  | dgSend => exact (execDgSend_keeps _ _ s (.refl s) e).mono fun _ => rfl
  | mcSend => exact (execMcSend_keeps _ _ s (.refl s) e).mono fun _ => rfl
  | collPost => exact (execCollPost_keeps _ _ s (.refl s) e).mono fun _ => rfl
  | recvBuf => exact execRecvBuf_keeps _ s (.refl s) e
  | recvMatch => exact (execRecvMatch_keeps _ s (.refl s) e).mono fun _ => rfl
  | dbBatch => exact execDbBatch_keeps _ s (.refl s) e
  | cqDoorbell => exact execCqDoorbell_keeps _ _ s (.refl s) e
  | cwqFetch => exact execCwqFetch_keeps _ _ s (.refl s) e
  | stampRetry => exact execStampRetry_keeps _ _ s (.refl s) e
  | put => exact (execPut_keeps _ s (.refl s) e).mono fun _ => rfl
  | get => exact (execGet_keeps _ s (.refl s) e).mono fun _ => rfl
  | send => exact (execSend_keeps _ s (.refl s) e).mono fun _ => rfl
  | sendMatched => exact (execSendMatched_keeps _ s (.refl s) e).mono fun _ => rfl
  | atomic => exact (execAtomic_keeps _ s (.refl s) e).mono fun _ => rfl
  | notifyRecordWrite => exact execNotifyRecordWrite_keeps _ _ s (.refl s) e
  | functionReset => exact (execFunctionReset_keeps _ s (.refl s) e).mono fun _ => rfl
  | functionResetComplete => exact execFunctionResetComplete_keeps _ s (.refl s) e
  | transportReceive => exact (execTransportReceive_keeps _ s (.refl s) e).mono fun _ => rfl
  | dgReceive => exact execDgReceive_keeps _ s (.refl s) e
  | transportAckReceive => exact (execTransportAckReceive_keeps _ s (.refl s) e).mono fun _ => rfl
  | noticeReceive => exact (execNoticeReceive_keeps _ s (.refl s) e).mono fun _ => rfl
  | routeFailReceive => exact (execRouteFailReceive_keeps _ s (.refl s) e).mono fun _ => rfl
  | retxSelective => exact (execRetxSelective_keeps _ _ s (.refl s) e).mono fun _ => rfl
  | rtoExpire => exact (execRtoExpire_keeps _ s (.refl s) e).mono fun _ => rfl
  | rnrRetry => exact (execRnrRetry_keeps _ _ s (.refl s) e).mono fun _ => rfl
  | contextFetchComplete => exact (execContextFetchComplete_keeps _ _ s (.refl s) e).mono fun _ => rfl
  | remoteFlushComplete => exact (execRemoteFlushComplete_keeps _ _ _ s (.refl s) e).mono fun _ => rfl
  | payloadReadComplete => exact (execPayloadReadComplete_keeps _ _ _ s (.refl s) e).mono fun _ => rfl
  | atomicOpComplete => exact (execAtomicOpComplete_keeps _ _ _ s (.refl s) e).mono fun _ => rfl
  | collUpReceive => exact (execCollUpReceive_keeps _ s (.refl s) e).mono fun _ => rfl
  | collFoldDone => exact (execCollFoldDone_keeps _ _ _ _ s (.refl s) e).mono fun _ => rfl
  | collDownReceive => exact (execCollDownReceive_keeps _ s (.refl s) e).mono fun _ => rfl
  | collMarkReceive => exact (execCollMarkReceive_keeps _ s (.refl s) e).mono fun _ => rfl
  | collAbortReceive => exact (execCollAbortReceive_keeps _ s (.refl s) e).mono fun _ => rfl
  | collStageTimeout => exact (execCollStageTimeout_keeps _ _ s (.refl s) e).mono fun _ => rfl
  | collTombstoneExpire => exact execCollTombstoneExpire_keeps _ _ s (.refl s) e
  | collOrphanExpire => exact execCollOrphanExpire_keeps _ _ s (.refl s) e
  | handlerDispatch => exact (execHandlerDispatch_keeps _ s (.refl s) e).mono fun _ => rfl
  | handlerOverrunAbort => exact (execHandlerOverrunAbort_keeps _ s (.refl s) e).mono fun _ => rfl
  | clusterTimerFire => exact (execClusterTimerFire_keeps _ _ s (.refl s) e).mono fun _ => rfl
  | hbWrite => exact execHbWrite_keeps _ _ s (.refl s) e
  | hbRead => exact execHbRead_keeps _ _ s (.refl s) e
  | hbDisable => exact execHbDisable_keeps _ _ s (.refl s) e
  | imgLoad => exact execImgLoad_keeps _ s (.refl s) e
  | imageLoadComplete => exact (execImageLoadComplete_keeps _ s (.refl s) e).mono fun _ => rfl
  | imgUnload => exact execImgUnload_keeps _ _ s (.refl s) e
  | sampleRdWrite => exact execSampleRdWrite_keeps _ _ _ s (.refl s) e
  | ctrWatchArm => exact (execCtrWatchArm_keeps _ _ _ s (.refl s) e).mono fun _ => rfl
  | engineFenceCmd => exact (execEngineFenceCmd_keeps _ _ s (.refl s) e).mono fun _ => rfl
  | watchdogExpire => exact (execWatchdogExpire_keeps _ s (.refl s) e).mono fun _ => rfl
  | spareLoadComplete => exact (execSpareLoadComplete_keeps _ s (.refl s) e).mono fun _ => rfl
  | alu => exact (execAlu_keeps _ s (.refl s) e).mono fun _ => rfl
  | addi => exact (execAddi_keeps _ s (.refl s) e).mono fun _ => rfl
  | andi => exact (execAndi_keeps _ s (.refl s) e).mono fun _ => rfl
  | ori => exact (execOri_keeps _ s (.refl s) e).mono fun _ => rfl
  | xori => exact (execXori_keeps _ s (.refl s) e).mono fun _ => rfl
  | shifti => exact (execShifti_keeps _ s (.refl s) e).mono fun _ => rfl
  | lui => exact (execLui_keeps _ s (.refl s) e).mono fun _ => rfl
  | muldiv => exact (execMuldiv_keeps _ s (.refl s) e).mono fun _ => rfl
  | cmp => exact (execCmp_keeps _ s (.refl s) e).mono fun _ => rfl
  | cmpi => exact (execCmpi_keeps _ s (.refl s) e).mono fun _ => rfl
  | pred => exact (execPred_keeps _ s (.refl s) e).mono fun _ => rfl
  | lb => exact (execLb_keeps _ s (.refl s) e).mono fun _ => rfl
  | lbu => exact (execLbu_keeps _ s (.refl s) e).mono fun _ => rfl
  | lh => exact (execLh_keeps _ s (.refl s) e).mono fun _ => rfl
  | lhu => exact (execLhu_keeps _ s (.refl s) e).mono fun _ => rfl
  | lw => exact (execLw_keeps _ s (.refl s) e).mono fun _ => rfl
  | lwu => exact (execLwu_keeps _ s (.refl s) e).mono fun _ => rfl
  | ld => exact (execLd_keeps _ s (.refl s) e).mono fun _ => rfl
  | sb => exact (execSb_keeps _ s (.refl s) e).mono fun _ => rfl
  | sh => exact (execSh_keeps _ s (.refl s) e).mono fun _ => rfl
  | sw => exact (execSw_keeps _ s (.refl s) e).mono fun _ => rfl
  | sd => exact (execSd_keeps _ s (.refl s) e).mono fun _ => rfl
  | ldrsv => exact (execLdrsv_keeps _ s (.refl s) e).mono fun _ => rfl
  | stcnd => exact (execStcnd_keeps _ s (.refl s) e).mono fun _ => rfl
  | b => exact (execB_keeps _ s (.refl s) e).mono fun _ => rfl
  | jal => exact (execJal_keeps _ s (.refl s) e).mono fun _ => rfl
  | jalr => exact (execJalr_keeps _ s (.refl s) e).mono fun _ => rfl
  | vld => exact (execVld_keeps _ s (.refl s) e).mono fun _ => rfl
  | vst => exact (execVst_keeps _ s (.refl s) e).mono fun _ => rfl
  | vop => exact (execVop_keeps _ s (.refl s) e).mono fun _ => rfl
  | vred => exact (execVred_keeps _ s (.refl s) e).mono fun _ => rfl
  | mfsr => exact (execMfsr_keeps _ _ s (.refl s) e).mono fun _ => rfl
  | mtsr => exact (execMtsr_keeps _ s (.refl s) e).mono fun _ => rfl
  | yield => exact (execYield_keeps _ s (.refl s) e).mono fun _ => rfl
  | yieldt => exact (execYieldt_keeps _ s (.refl s) e).mono fun _ => rfl
  | cb => exact (execCb_keeps _ s (.refl s) e).mono fun _ => rfl
  | cbComplete => exact (execCbComplete_keeps _ _ _ s (.refl s) e).mono fun _ => rfl
  | exit => exact (execExit_keeps _ s (.refl s) e).mono fun _ => rfl
  | eret => exact (execEret_keeps _ s (.refl s) e).mono fun _ => rfl
  | evwait => exact (execEvwait_keeps _ s (.refl s) e).mono fun _ => rfl
  | evwaitTimeout => exact execEvwaitTimeout_keeps _ s (.refl s) e
  | emit => exact (execEmit_keeps _ _ s (.refl s) e).mono fun _ => rfl
  | emitRetire => exact (execEmitRetire_keeps _ s (.refl s) e).mono fun _ => rfl
  | xput => exact (execXput_keeps _ s (.refl s) e).mono fun _ => rfl
  | xputr => exact (execXputr_keeps _ s (.refl s) e).mono fun _ => rfl
  | xdrop => exact (execXdrop_keeps _ s (.refl s) e).mono fun _ => rfl
  | xlMissResolve => exact (execXlMissResolve_keeps _ _ _ _ s (.refl s) e).mono fun _ => rfl
  | xlInvCmd => exact execXlInvCmd_keeps _ _ _ s (.refl s) e
  | xlInvComplete => exact execXlInvComplete_keeps _ s (.refl s) e
  | lockClaim => exact (execLockClaim_keeps _ _ _ s (.refl s) e).mono fun _ => rfl
  | lockWaitRead => exact (execLockWaitRead_keeps _ _ s (.refl s) e).mono fun _ => rfl
  | lockRelease => exact (execLockRelease_keeps _ _ _ s (.refl s) e).mono fun _ => rfl
  | lockPlainWrite => exact (execLockPlainWrite_keeps _ _ _ s (.refl s) e).mono fun _ => rfl
  | hostWaitTimeout => exact execHostWaitTimeout_keeps _ s (.refl s) e
  | groundsheetWindowWrite => exact (execGroundsheetWindowWrite_keeps _ _ s (.refl s) e).mono fun _ => rfl
  | chGo => exact execChGo_keeps _ _ _ s (.refl s) e
  | chAbort => exact (execChAbort_keeps _ _ _ s (.refl s) e).mono fun _ => rfl
  | chResume => exact (execChResume_keeps _ _ _ s (.refl s) e).mono fun _ => rfl
  | chReset => exact (execChReset_keeps _ _ _ s (.refl s) e).mono fun _ => rfl
  | moverChannelStart => exact (execMoverChannelStart_keeps _ _ s (.refl s) e).mono fun _ => rfl
  | moverLockRetry => exact (execMoverLockRetry_keeps _ s (.refl s) e).mono fun _ => rfl
  | moverBurstReadComplete => exact (execMoverBurstReadComplete_keeps _ _ _ _ _ _ s (.refl s) e).mono fun _ => rfl
  | moverChannelFinish => exact (execMoverChannelFinish_keeps _ _ _ s (.refl s) e).mono fun _ => rfl
  | tlpReceive => exact (execTlpReceive_keeps _ _ _ s (.refl s) e).mono fun _ => rfl
  | nfBarRequest => exact (execNfBarRequest_keeps _ _ _ _ _ s (.refl s) e).mono fun _ => rfl
  | sharedVfConfigRequest => exact (execSharedVfConfigRequest_keeps _ _ _ s (.refl s) e).mono fun _ => rfl
  | switchCompletionTimeout => exact (execSwitchCompletionTimeout_keeps _ _ _ s (.refl s) e).mono fun _ => rfl
  | dpcTrigger => exact (execDpcTrigger_keeps _ _ s (.refl s) e).mono fun _ => rfl
  | dpcTriggerStatusClear => exact execDpcTriggerStatusClear_keeps _ s (.refl s) e
  | hotplugPresenceChange => exact (execHotplugPresenceChange_keeps _ _ s (.refl s) e).mono fun _ => rfl
  | partitionReset => exact (execPartitionReset_keeps _ _ s (.refl s) e).mono fun _ => rfl
  | hostPerstRelease => exact execHostPerstRelease_keeps _ s (.refl s) e
  | nfReady => exact execNfReady_keeps _ s (.refl s) e
  | ptmRequestReceive => exact execPtmRequestReceive_keeps _ _ s (.refl s) e
  | ideKmMessage => exact (execIdeKmMessage_keeps _ _ s (.refl s) e).mono fun _ => rfl
  | svfDisable => exact execSvfDisable_keeps _ _ s (.refl s) e
  | partitionEnable => exact execPartitionEnable_keeps _ _ _ s (.refl s) e
  | pmbusPoll => exact (execPmbusPoll_keeps _ s (.refl s) e).mono fun _ => rfl
  | avsSettled => exact execAvsSettled_keeps _ s (.refl s) e
  | vSettleTimeout => exact (execVSettleTimeout_keeps _ s (.refl s) e).mono fun _ => rfl
  | thermalTrip => exact (execThermalTrip_keeps _ s (.refl s) e).mono fun _ => rfl
  | laneNarrowRequest => exact execLaneNarrowRequest_keeps _ s (.refl s) e
  | powerLimitUnmet => exact (execPowerLimitUnmet_keeps s (.refl s) e).mono fun _ => rfl
  | safeClocks => exact execSafeClocks_keeps s (.refl s) e
  | faultOccurrence => exact (execFaultOccurrence_keeps _ _ s (.refl s) e).mono fun _ => rfl
  | bankRestoreComplete => exact execBankRestoreComplete_keeps _ s (.refl s) e
  | faultForce => exact (execFaultForce_keeps _ _ _ s (.refl s) e).mono fun _ => rfl
  | faultStatusClear => exact execFaultStatusClear_keeps _ _ _ s (.refl s) e
  | mirrorEnable => exact (execMirrorEnable_keeps _ _ s (.refl s) e).mono fun _ => rfl
  | mirrorSyncComplete => exact execMirrorSyncComplete_keeps s (.refl s) e
  | mirrorWriteError => exact (execMirrorWriteError_keeps s (.refl s) e).mono fun _ => rfl
  | sysResetAssert => exact (execSysResetAssert_keeps s (.refl s) e).mono fun _ => rfl
  | sysResetRelease => exact (execSysResetRelease_keeps _ s (.refl s) e).mono fun _ => rfl
  | secureBoot => exact (execSecureBoot_keeps _ _ s (.refl s) e).mono fun _ => rfl
  | rstWarm => exact (execRstWarm_keeps _ _ s (.refl s) e).mono fun _ => rfl
  | rstEngine => exact (execRstEngine_keeps _ _ s (.refl s) e).mono fun _ => rfl
  | rstPort => exact (execRstPort_keeps _ _ s (.refl s) e).mono fun _ => rfl
  | repairClear => exact execRepairClear_keeps _ s (.refl s) e
  | railUndervoltage => exact (execRailUndervoltage_keeps s (.refl s) e).mono fun _ => rfl
  | sprefLoss => exact (execSprefLoss_keeps s (.refl s) e).mono fun _ => rfl
  | frefLoss => exact (execFrefLoss_keeps _ s (.refl s) e).mono fun _ => rfl
  | evForce => exact (execEvForce_keeps _ _ s (.refl s) e).mono fun _ => rfl
  | modulePoll => exact (execModulePoll_keeps _ s (.refl s) e).mono fun _ => rfl
  | modIntFall => exact (execModIntFall_keeps _ _ s (.refl s) e).mono fun _ => rfl
  | pldmGetTelemetry => exact execPldmGetTelemetry_keeps _ _ s (.refl s) e
  | pldmFirmwareUpdate => exact execPldmFirmwareUpdate_keeps _ _ s (.refl s) e
  | pldmEventAck => exact execPldmEventAck_keeps _ s (.refl s) e
  | pldmResetRequest => exact (execPldmResetRequest_keeps _ s (.refl s) e).mono fun _ => rfl
  | mctpMessage => exact execMctpMessage_keeps _ _ s (.refl s) e
  | delholtFrameReceive => exact execDelholtFrameReceive_keeps _ _ _ s (.refl s) e
  | delholtLinkChange => exact (execDelholtLinkChange_keeps _ _ _ s (.refl s) e).mono fun _ => rfl
  | pcSelWrite => exact execPcSelWrite_keeps _ _ _ s (.refl s) e
  | pcRun => exact execPcRun_keeps _ _ s (.refl s) e
  | pcValueWrite => exact execPcValueWrite_keeps _ _ _ s (.refl s) e
  | pcSnap => exact execPcSnap_keeps _ s (.refl s) e
  | tb10mReturn => exact execTb10mReturn_keeps s (.refl s) e
  | cdrLockGain => exact execCdrLockGain_keeps _ s (.refl s) e
  | devPerstRelease => exact execDevPerstRelease_keeps _ s (.refl s) e
  | pcieLinkUp => exact execPcieLinkUp_keeps _ _ _ _ _ s (.refl s) e
  | railRecovery => exact (execRailRecovery_keeps _ s (.refl s) e).mono fun _ => rfl
  | sprefReturn => exact (execSprefReturn_keeps _ s (.refl s) e).mono fun _ => rfl
  | frefReturn => exact execFrefReturn_keeps _ s (.refl s) e
  | loadCompletion => exact (execLoadCompletion_keeps _ _ s (.refl s) e).mono fun _ => rfl
  | entryFetchComplete => exact (execEntryFetchComplete_keeps _ _ s (.refl s) e).mono fun _ => rfl
  | xlAsidCfgWrite => exact execXlAsidCfgWrite_keeps _ _ _ s (.refl s) e

/-- A command that stores nothing leaves the memory as it is. -/
theorem exec_mem_of_storesNothing {c : Instr} {s t : State} (hc : Safety.storesNothing c = true)
    (e : exec c s = .next t) : t.mem = s.mem :=
  (exec_keeps e).same.resolve_left (by simp [hc])

/-- What a step can do: idle on an empty queue, or run the queue's front with the queue's rest. -/
theorem step_cases {s t : State} (e : step s = .next t) :
    (s.pending = [] ∧ t = s) ∨
      ∃ c rest, s.pending = c :: rest ∧ exec c { s with pending := rest } = .next t := by
  unfold step at e
  split at e
  case h_1 hq => exact .inl ⟨hq, (Host.Outcome.next.inj e).symm⟩
  case h_2 c rest hq => exact .inr ⟨c, rest, hq, e⟩

/-- A step keeps what its command keeps, from the state with the queue's rest on. -/
theorem step_keeps {s t : State} (e : step s = .next t) : Keeps True { s with pending := s.pending.tail } t := by
  obtain ⟨hq, rfl⟩ | ⟨c, rest, hq, hc⟩ := step_cases e
  · exact keeps_rec (.refl _) (by simp [hq]) rfl rfl rfl
  · rw [hq]
    exact (exec_keeps hc).mono fun _ => trivial

/-! ### The Groundsheet -/

/-- Bytes read from their own first address on: the first of them, then the others. -/
theorem memGets_succ (m : List Host.Cell) (a n : Nat) : memGets m a (n + 1) = memGet m a :: memGets m (a + 1) n := by
  simp [memGets, List.range_succ_eq_map, Function.comp_def, Nat.add_comm, Nat.add_left_comm]

/-- Bytes stored in a canonical memory read back as they were stored. -/
theorem memGets_memPuts (bs : List Byte) {m : List Host.Cell} (a : Nat) (h : Memory.wf m = true) :
    memGets (memPuts m a bs) a bs.length = bs := by
  induction bs generalizing m a with
  | nil => rfl
  | cons b bs ih =>
    have hfirst : memGet (memPuts (memPut m a b) (a + 1) bs) a = b := by
      rw [memGet_memPuts_other bs _ (.inl (Nat.lt_succ_self a)), memGet_memPut_same a b h]
    rw [List.length_cons, memGets_succ, memPuts, hfirst, ih (a + 1) (memPut_wf a b h)]

/-- A bank that serves stores the bytes of a Groundsheet write, whatever follows to the mirror (R521, R525). -/
theorem State.gsPuts_mem {s : State} {off : Nat} (bs : List Byte)
    (h : (s.bank (bankOf (off % gsSize))).fromMirror = false) :
    (s.gsPuts off bs).mem = memPuts s.mem (off % gsSize) bs := by
  simp only [State.gsPuts, h, Bool.false_eq_true, false_and, if_false]
  split
  · split <;> rfl
  · rfl

/-! ### The statements -/

/-- Settles O34: the front's command keeps the form from the state with the queue's rest on. -/
theorem everyStepKeepsForm : Obligations.EveryStepKeepsForm := by
  intro s t hwf e
  have k := step_keeps e
  exact ⟨k.mem hwf, k.queue, k.draws, k.out⟩

/-- Settles O37: the memory is the same list of cells. -/
theorem storelessCommandsKeepMemory : Obligations.StorelessCommandsKeepMemory := by
  intro c s t hc e a
  rw [exec_mem_of_storesNothing hc e]

/-- Settles O41: a bank that serves stores the bytes in the memory, which is canonical and reads them back. -/
theorem groundsheetReadsWhatWasPut : Obligations.GroundsheetReadsWhatWasPut := by
  intro s off bs hwf _ hserves
  unfold State.gsGets
  rw [State.gsPuts_mem bs hserves]
  exact ⟨memGets_memPuts bs _ hwf, fun _ ha => memGet_memPuts_other bs _ ha⟩

/-- Settles O35: State.reset lists no byte of memory and no command. -/
theorem resetHasForm : Obligations.ResetHasForm :=
  ⟨reset_memory_wf, rfl, rfl, fun _ hc => absurd hc List.not_mem_nil⟩

end Sys2Proof.Machine
end

section
/-! PROOFS. The family of fabric time: what each of its commands does once the guards it stands behind are met, and how the
tick number follows from the time in nanoseconds (R30 to R57). -/
namespace Sys2Proof.Machine

open Sys2Proof

/-! ### The arms of these commands -/

theorem exec_timestampLcbReceive (p : Fin 256) (lcb : BitVec 512) (ck : Nat) (s : State) :
    exec (.timestampLcbReceive p lcb ck) s = execTimestampLcbReceive p lcb ck s := rfl

theorem exec_rpStepCmdGo (rq : Requester) (s : State) : exec (.rpStepCmdGo rq) s = execRpStepCmdGo rq s := rfl

theorem exec_rpTodSecondsWrite (rq : Requester) (v : Word) (s : State) :
    exec (.rpTodSecondsWrite rq v) s = execRpTodSecondsWrite rq v s := rfl

theorem exec_tbPpsEdge (ck : Nat) (s : State) : exec (.tbPpsEdge ck) s = execTbPpsEdge ck s := rfl

theorem exec_tbPpsLoss (s : State) : exec .tbPpsLoss s = execTbPpsLoss s := rfl

theorem exec_tb10mLoss (s : State) : exec .tb10mLoss s = execTb10mLoss s := rfl

theorem exec_tb10mReturn (s : State) : exec .tb10mReturn s = execTb10mReturn s := rfl

theorem exec_rpTimeRead (rq : Requester) (ck : Nat) (s : State) : exec (.rpTimeRead rq ck) s = execRpTimeRead rq ck s := rfl

theorem exec_ptmExchange (part : Fin 16) (hostNs ratio : Word) (err : Fin 3) (ck : Nat) (s : State) :
    exec (.ptmExchange part hostNs ratio err ck) s = execPtmExchange part hostNs ratio err ck s := rfl

/-! ### Timestamps of a partner -/

/-- A control block of a type in use that passes its check is handled at a port in ACTIVE (R191, R193). -/
theorem State.onLcb_handled {s : State} {p : Nat} {lcb : BitVec 512} (g : State → State)
    (hactive : s.f F.PORT_STATE.STATE p = 6) (htype : reservedBlock (L.LCB.TYPE.get lcb) = false)
    (hcrc : lcbOk lcb = true) : s.onLcb p lcb g = g s := by
  simp [State.onLcb, hactive, htype, hcrc]

/-- A sound timestamp block at a port in ACTIVE is checked for skew, then taken (R43, R201). -/
theorem execTimestampLcbReceive_handled {s : State} {p : Fin 256} {lcb : BitVec 512} (ck : Nat) (hrun : s.running = true)
    (hactive : s.f F.PORT_STATE.STATE p.val = 6) (htype : reservedBlock (L.LCB.TYPE.get lcb) = false)
    (hcrc : lcbOk lcb = true) :
    execTimestampLcbReceive p lcb ck s = .next ((s.skewCheck p lcb).timestampTake p lcb ck) :=
  (whenRunning_run _ hrun).trans (congrArg _ (State.onLcb_handled _ hactive htype hcrc))

/-! ### Commands and reads of Ridgepole's registers -/

/-- A step command of a requester that reaches the register adds RP_STEP_NS to what is pending (R49). -/
theorem execRpStepCmdGo_reached {s : State} {rq : Requester} (hrun : s.running = true) (hreach : rq.reaches = true) :
    execRpStepCmdGo rq s = .next
      ((s.modTime fun t => { t with step := some (t.step.getD 0 + toSigned 64 (s.f F.RP_STEP_NS.STEP) * 65536) }).wsRecord rq .ok
        (Reg.offset ⟨.RP_STEP_CMD, 0, 0⟩)) := by
  unfold execRpStepCmdGo
  rw [whenRunning_run _ hrun, if_pos hreach, State.writeAs_ok]

/-- At a root with ROOT_SOURCE 0b10, the number of the next second is stored and armed (R47). -/
theorem execRpTodSecondsWrite_accepted {s : State} {rq : Requester} (v : Word) (hrun : s.running = true)
    (hreach : rq.reaches = true) (hroot : s.on F.RP_CONTROL.ROOT = true) (hsource : s.f F.RP_CONTROL.ROOT_SOURCE = 2) :
    execRpTodSecondsWrite rq v s = .next
      (((s.wr ⟨.RP_TOD_SECONDS, 0, 0⟩ v).modTime fun t => { t with todArmed := true }).wsRecord rq .ok
        (Reg.offset ⟨.RP_TOD_SECONDS, 0, 0⟩)) := by
  unfold execRpTodSecondsWrite
  rw [whenRunning_run _ hrun]
  simp only [hreach, hroot, hsource, Bool.not_true, Bool.false_eq_true, if_false, beq_self_eq_true, Bool.and_self, if_true]
  rw [State.writeAs_ok]

/-- A read by a requester that reaches the register answers the time and latches fraction and tick number (R57). -/
theorem execRpTimeRead_reached {s : State} {rq : Requester} (ck : Nat) (hcold : s.sys.coldHold = false)
    (hreach : rq.reaches = true) :
    execRpTimeRead rq ck s = .next
      (((s.set F.RP_TIME_FRAC_TICK.FRACTION (s.ctrAt ck / 2 ^ 32)).set F.RP_TIME_FRAC_TICK.TICK (tickOf (s.ctrAt ck))).emit
        (.regRead rq (BitVec.ofNat 64 (nsOf (s.ctrAt ck))))) := by
  unfold execRpTimeRead
  rw [whenPowered_run _ hcold, if_pos hreach]

/-! ### The board's references -/

/-- The first edge at a root with another ROOT_SOURCE than 0b10 is only noted (R46, R47). -/
theorem execTbPpsEdge_first {s : State} (ck : Nat) (hrun : s.running = true) (hroot : s.on F.RP_CONTROL.ROOT = true)
    (hfirst : s.time.lastPps = none) (hsource : s.f F.RP_CONTROL.ROOT_SOURCE ≠ 2) :
    execTbPpsEdge ck s = .next (s.modTime fun t => { t with lastPps := some (s.nowCk ck) }) := by
  unfold execTbPpsEdge
  rw [whenRunning_run _ hrun]
  simp only [hroot, hfirst, Bool.not_true, Bool.false_eq_true, if_false, State.modTime_f]
  rw [if_pos hsource]

/-- A root that loses TB_PPS clears PPS_OK, forgets the last edge and raises the reference event (R48). -/
theorem execTbPpsLoss_atRoot {s : State} (hrun : s.running = true) (hroot : s.on F.RP_CONTROL.ROOT = true)
    (hok : s.on F.RP_STATUS.PPS_OK = true) :
    execTbPpsLoss s = .next (((s.set F.RP_STATUS.PPS_OK 0).modTime fun t => { t with lastPps := none }).raise 1619) := by
  unfold execTbPpsLoss
  rw [whenRunning_run _ hrun, hroot, hok, Bool.and_self, if_pos rfl]

/-- A root that loses TB_10M clears REF10M_OK and raises the reference event (R48). -/
theorem execTb10mLoss_atRoot {s : State} (hrun : s.running = true) (hroot : s.on F.RP_CONTROL.ROOT = true)
    (hok : s.on F.RP_STATUS.REF10M_OK = true) :
    execTb10mLoss s = .next ((s.set F.RP_STATUS.REF10M_OK 0).raise 1619) := by
  unfold execTb10mLoss
  rw [whenRunning_run _ hrun, hroot, hok, Bool.and_self, if_pos rfl]

/-- The return of TB_10M at a root sets REF10M_OK (R48). -/
theorem execTb10mReturn_atRoot {s : State} (hrun : s.running = true) (hroot : s.on F.RP_CONTROL.ROOT = true) :
    execTb10mReturn s = .next (s.set F.RP_STATUS.REF10M_OK 1) := by
  unfold execTb10mReturn
  rw [whenRunning_run _ hrun, if_pos hroot]

/-! ### Host time -/

/-- A partition's functions do not depend on the time base. -/
theorem State.fnsOf_modTime (s : State) (g : TimeSt → TimeSt) (p : Nat) : (s.modTime g).fnsOf p = s.fnsOf p := rfl

/-- A partition's first exchange, its link up, publishes the time maps of its functions and notes the turnover (R56). -/
theorem execPtmExchange_first {s : State} {part : Fin 16} (hostNs ratio : Word) (err : Fin 3) (ck : Nat)
    (hrun : s.running = true) (hen : s.on F.EB_PART_CFG.ENABLE part.val = true)
    (hup : s.on F.EB_PART_STATUS.UPSTREAM_UP part.val = true) (hfirst : mfind s.time.ptmLast part.val = none) :
    execPtmExchange part hostNs ratio err ck s = .next
      ((s.fnsOf part).foldl (fun t f => t.publishTmap hostNs.toNat (t.ctrAt ck) ratio.toNat err f)
        (s.modTime fun t => { t with ptmLast := mset t.ptmLast part.val s.turnovers })) := by
  unfold execPtmExchange
  rw [whenRunning_run _ hrun]
  simp only [hen, hup, hfirst, Bool.and_self, if_true, State.fnsOf_modTime]

/-! ### The tick number -/

/-- A counter value within its 112 bits has its whole nanoseconds within 64 bits. -/
theorem nsOf_of_lt {c : Nat} (h : c < 2 ^ 112) : nsOf c = c / 2 ^ 48 :=
  Nat.mod_eq_of_lt (Nat.div_lt_of_lt_mul (by rwa [← Nat.pow_add]))

/-! ### The statements -/

/-- Settles O49: below 2^112 the 64 bits of nanoseconds cut nothing off, and the tick number is defined from them. -/
theorem tickNumberOfTime : Obligations.TickNumberOfTime := by
  intro s hctr
  rw [nsOf_of_lt hctr]
  rfl

/-- Settles O1: each clause is the command's arm past the guards that its hypotheses meet. -/
theorem timeCommandsComplete : Obligations.TimeCommandsComplete := by
  intro s hrun
  refine ⟨fun p lcb ck hactive htype hcrc => ?timestamp, fun rq hreach => ?step,
    fun rq v hreach hroot hsource => ?seconds, fun ck hroot hfirst hsource => ?edge, fun hroot hok => ?edgeLoss,
    fun hroot hok => ?referenceLoss, fun hroot => ?referenceReturn, fun rq ck hreach => ?read,
    fun part hostNs ratio err ck hen hup hfirst => ?hostTime⟩
  case timestamp => rw [exec_timestampLcbReceive, execTimestampLcbReceive_handled ck hrun hactive htype hcrc]
  case step => rw [exec_rpStepCmdGo, execRpStepCmdGo_reached hrun hreach]
  case seconds => rw [exec_rpTodSecondsWrite, execRpTodSecondsWrite_accepted v hrun hreach hroot hsource]
  case edge => rw [exec_tbPpsEdge, execTbPpsEdge_first ck hrun hroot hfirst hsource]
  case edgeLoss => rw [exec_tbPpsLoss, execTbPpsLoss_atRoot hrun hroot hok]
  case referenceLoss => rw [exec_tb10mLoss, execTb10mLoss_atRoot hrun hroot hok]
  case referenceReturn => rw [exec_tb10mReturn, execTb10mReturn_atRoot hrun hroot]
  case read => rw [exec_rpTimeRead, execRpTimeRead_reached ck (State.running_coldHold hrun) hreach]
  case hostTime => rw [exec_ptmExchange, execPtmExchange_first hostNs ratio err ck hrun hen hup hfirst]

end Sys2Proof.Machine
end

section
/-! PROOFS. The family of coordinates, ranks and jobs: the packed coordinate as a number in mixed radix, admission at an
endpoint, and what the job commands and the packets that a transport takes do once the guards they stand behind are met
(R58 to R81, R108, R231, R262 to R272, R291 to R294). -/
namespace Sys2Proof.Machine

open Sys2Proof

/-! ### The width of a dimension's field -/

/-- What a search from `k` on finds satisfies its condition. -/
theorem firstFrom_sound {p : Nat → Bool} {n k m : Nat} (h : firstFrom p n k = some m) : p m = true := by
  induction n generalizing k with
  | zero => nomatch h
  | succ n ih =>
    unfold firstFrom at h
    split at h
    · next hk => exact Option.some.inj h ▸ hk
    · exact ih h

/-- A field of ceil(log2 size) bits has a value for each coordinate of a dimension (R60). -/
theorem le_two_pow_clog2 {n : Nat} (h : n ≤ 128) : n ≤ 2 ^ clog2 n := by
  unfold clog2
  cases hk : firstNat 8 fun k => decide (n ≤ 2 ^ k) with
  | none => exact h
  | some k => exact of_decide_eq_true (firstFrom_sound hk)

/-- SIZE of a dimension has seven bits. -/
theorem State.dimSize_lt (s : State) (d : Nat) : s.dimSize d < 128 := Nat.mod_lt _ (Nat.two_pow_pos _)

theorem State.dimWidth_off {s : State} {d : Nat} (h : s.dimOn d = false) : s.dimWidth d = 0 := by
  simp [State.dimWidth, h]

theorem State.dimSize_le_two_pow {s : State} {d : Nat} (h : s.dimOn d = true) : s.dimSize d ≤ 2 ^ s.dimWidth d := by
  simpa [State.dimWidth, h] using le_two_pow_clog2 (s.dimSize_lt d).le

theorem State.dimOffset_succ (s : State) (d : Nat) : s.dimOffset (d + 1) = s.dimOffset d + s.dimWidth d := by
  simp [State.dimOffset, List.range_succ]

theorem State.dimOffset_mono (s : State) : Monotone s.dimOffset :=
  monotone_nat_of_le_succ fun d => by rw [s.dimOffset_succ]; exact Nat.le_add_right _ _

/-! ### Packed coordinates -/

/-- The values `v` of the dimensions below `n`, each at its dimension's offset (R60). -/
def State.packed (s : State) (v : Nat → Nat) (n : Nat) : Nat := ∑ d ∈ Finset.range n, v d * 2 ^ s.dimOffset d

theorem State.packed_succ (s : State) (v : Nat → Nat) (n : Nat) :
    s.packed v (n + 1) = s.packed v n + v n * 2 ^ s.dimOffset n := Finset.sum_range_succ _ n

/-- The fields of a node pack to the bits of it that lie below them. -/
theorem State.packed_fldOf (s : State) (node n : Nat) : s.packed (s.fldOf node) n = node % 2 ^ s.dimOffset n := by
  induction n with
  | zero => exact (Nat.mod_one node).symm
  | succ n ih =>
    rw [s.packed_succ, ih, s.dimOffset_succ, Nat.pow_add, Nat.mod_mul, Nat.mul_comm (2 ^ _)]
    rfl

/-- Values that fit their fields pack below the offset after them. -/
theorem State.packed_lt {s : State} {v : Nat → Nat} {n : Nat} (h : ∀ d < n, v d < 2 ^ s.dimWidth d) :
    s.packed v n < 2 ^ s.dimOffset n := by
  induction n with
  | zero => exact Nat.one_pos
  | succ n ih =>
    have hlow : s.packed v n < 2 ^ s.dimOffset n := ih fun d hd => h d (Nat.lt_succ_of_lt hd)
    calc s.packed v (n + 1) = s.packed v n + v n * 2 ^ s.dimOffset n := s.packed_succ v n
      _ < (v n + 1) * 2 ^ s.dimOffset n := by rw [Nat.add_one_mul]; omega
      _ ≤ 2 ^ s.dimWidth n * 2 ^ s.dimOffset n := Nat.mul_le_mul_right _ (h n (Nat.lt_succ_self n))
      _ = 2 ^ s.dimOffset (n + 1) := by rw [s.dimOffset_succ, Nat.add_comm, Nat.pow_add]

/-- The bits below an offset are those of the dimensions below it. -/
theorem State.packed_mod {s : State} {v : Nat → Nat} {m n : Nat} (hmn : m ≤ n) (h : ∀ d < m, v d < 2 ^ s.dimWidth d) :
    s.packed v n % 2 ^ s.dimOffset m = s.packed v m := by
  induction n, hmn using Nat.le_induction with
  | base => exact Nat.mod_eq_of_lt (State.packed_lt h)
  | succ n hmn ih =>
    have hdvd : 2 ^ s.dimOffset m ∣ v n * 2 ^ s.dimOffset n :=
      (Nat.pow_dvd_pow 2 (s.dimOffset_mono hmn)).mul_left (v n)
    rw [s.packed_succ, Nat.add_mod, Nat.mod_eq_zero_of_dvd hdvd, Nat.add_zero, Nat.mod_mod, ih]

/-- Each field of packed values that fit reads as its value. -/
theorem State.fldOf_packed {s : State} {v : Nat → Nat} {n d : Nat} (hd : d < n) (h : ∀ d < n, v d < 2 ^ s.dimWidth d) :
    s.fldOf (s.packed v n) d = v d := by
  have hlow : s.packed v d < 2 ^ s.dimOffset d := State.packed_lt fun e he => h e (he.trans hd)
  calc s.fldOf (s.packed v n) d = s.packed v n % 2 ^ s.dimOffset (d + 1) / 2 ^ s.dimOffset d := by
        rw [s.dimOffset_succ, Nat.pow_add, Nat.mod_mul_right_div_self]; rfl
    _ = (s.packed v d + v d * 2 ^ s.dimOffset d) / 2 ^ s.dimOffset d := by
        rw [State.packed_mod hd fun e he => h e (he.trans_le hd), s.packed_succ]
    _ = v d := by
        rw [Nat.add_mul_div_right _ _ (Nat.two_pow_pos _), Nat.div_eq_of_lt hlow, Nat.zero_add]

/-- A packed coordinate is legal when no bit above the enabled width is set and each enabled dimension's field is below
its size (R61). -/
theorem State.illegalCoord_eq_false {s : State} {node : Nat} :
    s.illegalCoord node = false ↔
      node < 2 ^ s.dimOffset 4 ∧ ∀ d < 4, s.dimOn d = true → s.fldOf node d < s.dimSize d := by
  rw [State.illegalCoord, State.coordBits, Bool.or_eq_false_iff, decide_eq_false_iff_not, Nat.not_le]
  simp

theorem State.packed_four (s : State) (v : Nat → Nat) :
    s.packed v 4 = v 0 * 2 ^ s.dimOffset 0 + v 1 * 2 ^ s.dimOffset 1 + v 2 * 2 ^ s.dimOffset 2 + v 3 * 2 ^ s.dimOffset 3 := by
  simp [State.packed, Finset.sum_range_succ]

theorem State.fldOf_off {s : State} {d : Nat} (node : Nat) (h : s.dimOn d = false) : s.fldOf node d = 0 := by
  rw [State.fldOf, State.dimWidth_off h]
  exact Nat.mod_one _

/-- A value below the size of an enabled dimension fits its field, and so does the 0 of a disabled one. -/
theorem State.fits_dimWidth {s : State} {d k : Nat} (hon : s.dimOn d = true → k < s.dimSize d)
    (hoff : s.dimOn d = false → k = 0) : k < 2 ^ s.dimWidth d := by
  cases h : s.dimOn d with
  | false => exact hoff h ▸ Nat.two_pow_pos _
  | true => exact (hon h).trans_le (State.dimSize_le_two_pow h)

/-! ### Admission -/

/-- Endpoint 63 is present where the fabric management function stands in a partition (R65). -/
theorem State.epPresent_fmf (s : State) : s.epPresent 63 = s.fmfPlaced := rfl

/-- Endpoint 63 admits the packets of JOB 0x0000 alone (R74). -/
theorem State.admits_fmf (s : State) (job : Nat) : s.admits job 63 = (job == 0) := rfl

/-- An endpoint that is not present answers REMOTE_UNREACHABLE (R65). -/
theorem State.admission_absent {s : State} {job ep : Nat} (h : s.epPresent ep = false) :
    s.admission job ep = (s, some .remoteUnreachable) := by
  simp [State.admission, h]

/-- A present endpoint that admits a job counts its packet (R73, R569). -/
theorem State.admission_admitted {s : State} {job ep : Nat} (hep : s.epPresent ep = true) (hjob : s.admits job ep = true) :
    s.admission job ep = (s.jobCount ((s.jobSlot job).getD 0) 48 1, none) := by
  simp [State.admission, hep, hjob]

/-- A present endpoint that does not admit a job counts and refuses its packet (R73). -/
theorem State.admission_mismatch {s : State} {job ep : Nat} (hep : s.epPresent ep = true) (hjob : s.admits job ep = false) :
    s.admission job ep = (s.cnt .JOB_MISMATCH_COUNT ep, some .jobMismatch) := by
  simp [State.admission, hep, hjob]

/-- What is admitted comes to a present endpoint that admits its job. -/
theorem State.admits_of_admission {s : State} {job ep : Nat} (h : (s.admission job ep).2 = none) :
    s.epPresent ep = true ∧ s.admits job ep = true := by
  cases hep : s.epPresent ep with
  | false => rw [State.admission_absent hep] at h; nomatch h
  | true =>
    cases hjob : s.admits job ep with
    | false => rw [State.admission_mismatch hep hjob] at h; nomatch h
    | true => exact ⟨rfl, rfl⟩

/-! ### Entries of the job commands -/

theorem exec_jobCreate (e : EntryRef) (s : State) : exec (.jobCreate e) s = execJobCreate e s := rfl

theorem exec_jobAttach (e : EntryRef) (s : State) : exec (.jobAttach e) s = execJobAttach e s := rfl

theorem exec_jobDetach (e : EntryRef) (s : State) : exec (.jobDetach e) s = execJobDetach e s := rfl

theorem exec_jobDestroy (e : EntryRef) (s : State) : exec (.jobDestroy e) s = execJobDestroy e s := rfl

theorem exec_jobDestroyComplete (e : EntryRef) (s : State) :
    exec (.jobDestroyComplete e) s = execJobDestroyComplete e s := rfl

theorem exec_rttInvalidate (e : EntryRef) (s : State) : exec (.rttInvalidate e) s = execRttInvalidate e s := rfl

theorem exec_rttInvalidateComplete (e : EntryRef) (s : State) :
    exec (.rttInvalidateComplete e) s = execRttInvalidateComplete e s := rfl

theorem exec_mcgInvalidate (e : EntryRef) (s : State) : exec (.mcgInvalidate e) s = execMcgInvalidate e s := rfl

theorem exec_mcgInvalidateComplete (e : EntryRef) (s : State) :
    exec (.mcgInvalidateComplete e) s = execMcgInvalidateComplete e s := rfl

/-- A begun entry is taken, and its opcode's row acts on it. -/
theorem onEntry_begun {s : State} {e : EntryRef} {op : Nat} {d : BitVec 512} (g : BitVec 512 → State → State)
    (hrun : s.running = true) (hd : s.begunEntry e op = some d) : onEntry e op g s = .next (g d (s.takeEntry e)) := by
  unfold onEntry
  rw [whenRunning_run _ hrun, hd]

/-- A check none of whose conditions holds answers OK. -/
theorem firstStatus_ok {l : List (Bool × Status)} (h : ∀ c ∈ l, c.1 = false) : firstStatus l = .ok := by
  induction l with
  | nil => rfl
  | cons c l ih =>
    obtain ⟨hc, hl⟩ := List.forall_mem_cons.mp h
    simp [firstStatus, hc, ih hl]

/-- A job command on a ring of the fabric management function passes when none of its own conditions holds (R70). -/
theorem jobStatus_ok {e : EntryRef} {l : List (Bool × Status)} (hfmf : e.fn.val = fmf) (h : ∀ c ∈ l, c.1 = false) :
    jobStatus e l = .ok :=
  firstStatus_ok (List.forall_mem_cons.mpr ⟨by simp [hfmf], h⟩)

/-- A new job whose slice is legal and free takes the lowest free slot (R66, R67, R69). -/
theorem execJobCreate_accepted {s : State} {e : EntryRef} {d : BitVec 512} {k : Nat} (hrun : s.running = true)
    (hd : s.begunEntry e 0x10 = some d) (hfmf : e.fn.val = fmf)
    (hnew : (s.takeEntry e).jobSlot (entryFld d 79 64) = none) (hpos : entryFld d 148 128 ≠ 0)
    (hcount : entryFld d 148 128 ≤ 2 ^ 20) (hend : entryFld d 115 96 + entryFld d 148 128 ≤ 2 ^ 20)
    (hslice : (s.takeEntry e).sliceOverlap (entryFld d 115 96) (entryFld d 148 128) = false)
    (hfree : (s.takeEntry e).freeJobSlot = some k) :
    execJobCreate e s = .next
      (((s.takeEntry e).jobWrite k (entryFld d 79 64) (entryFld d 115 96) (entryFld d 148 128)).completeEntry e .ok 0 k) := by
  rw [execJobCreate, onEntry_begun _ hrun hd]
  refine congrArg _ ((if_pos (jobStatus_ok hfmf ?_)).trans ?_)
  · simpa [hnew, hpos, hslice, hfree] using And.intro hcount hend
  · rw [hfree]
    rfl

/-- A live job that no endpoint, waiting attach or connection uses begins to drain (R70, R72). -/
theorem execJobDestroy_accepted {s : State} {e : EntryRef} {d : BitVec 512} {k : Nat} (hrun : s.running = true)
    (hd : s.begunEntry e 0x13 = some d) (hfmf : e.fn.val = fmf)
    (hlive : (s.takeEntry e).jobLive (entryFld d 79 64) = some k)
    (heps : L.JOB.EP_MASK.get ((s.takeEntry e).jobEntry k) = 0)
    (hwaits : ((s.takeEntry e).jobs.waits.any fun w => w.slot == k) = false)
    (hconns : ((s.takeEntry e).xp.conns.any fun c => c.2.slot == k) = false) :
    execJobDestroy e s = .next
      (let j := (s.takeEntry e).jobEntry k
       let t := (s.takeEntry e).setJob k (L.JOB.STATE.set j 3)
       { t with jobs := { t.jobs with
           destroys := t.jobs.destroys ++ [⟨e, L.JOB.RTT_BASE.get j, L.JOB.RANK_COUNT.get j, k, []⟩] } }) := by
  rw [execJobDestroy, onEntry_begun _ hrun hd, hlive]
  exact congrArg _ (if_pos (jobStatus_ok hfmf (by simp [heps, hwaits, hconns])))

/-- A destruction ends with the slice's cached translations discarded and the slot free (R72). -/
theorem execJobDestroyComplete_found {s : State} {e : EntryRef} {w : InvalWait} (hrun : s.running = true)
    (hw : (s.jobs.destroys.find? fun w => w.e == e) = some w) :
    execJobDestroyComplete e s = .next
      (let t := (s.rttDiscard w.base w.count).setJob w.slot 0
       ({ t with jobs := { t.jobs with destroys := t.jobs.destroys.filter fun x => x.e != e } } : State).completeEntry e .ok) := by
  rw [execJobDestroyComplete, whenRunning_run _ hrun, hw]

/-- A legal range of the rank table is to be invalidated (R80). -/
theorem execRttInvalidate_accepted {s : State} {e : EntryRef} {d : BitVec 512} (hrun : s.running = true)
    (hd : s.begunEntry e 0x14 = some d) (hfmf : e.fn.val = fmf) (hpos : entryFld d 116 96 ≠ 0)
    (hend : entryFld d 83 64 + entryFld d 116 96 ≤ 2 ^ 20) :
    execRttInvalidate e s = .next
      (let t := s.takeEntry e
       { t with jobs := { t.jobs with
           rttInvals := t.jobs.rttInvals ++ [⟨e, entryFld d 83 64, entryFld d 116 96, 0, []⟩] } }) := by
  rw [execRttInvalidate, onEntry_begun _ hrun hd]
  exact congrArg _ (if_pos (jobStatus_ok hfmf (by simpa [hpos] using hend)))

/-- An invalidation of the rank table ends with every unit's copies of its range discarded (R80). -/
theorem execRttInvalidateComplete_found {s : State} {e : EntryRef} {w : InvalWait} (hrun : s.running = true)
    (hw : (s.jobs.rttInvals.find? fun w => w.e == e) = some w) :
    execRttInvalidateComplete e s = .next
      (let t := s.rttDiscard w.base w.count
       ({ t with jobs := { t.jobs with rttInvals := t.jobs.rttInvals.filter fun x => x.e != e } } : State).completeEntry e .ok) := by
  rw [execRttInvalidateComplete, whenRunning_run _ hrun, hw]

/-- A legal range of groups is to be invalidated, once the replications in progress have ended (R108). -/
theorem execMcgInvalidate_accepted {s : State} {e : EntryRef} {d : BitVec 512} (hrun : s.running = true)
    (hd : s.begunEntry e 0x15 = some d) (hfmf : e.fn.val = fmf) (hpos : entryFld d 110 96 ≠ 0)
    (hend : entryFld d 77 64 + entryFld d 110 96 ≤ 16384) :
    execMcgInvalidate e s = .next
      (let t := s.takeEntry e
       { t with jobs := { t.jobs with mcgInvals := t.jobs.mcgInvals ++
           [⟨e, entryFld d 77 64, entryFld d 110 96, 0, t.replicating (entryFld d 77 64) (entryFld d 110 96)⟩] } }) := by
  rw [execMcgInvalidate, onEntry_begun _ hrun hd]
  exact congrArg _ (if_pos (jobStatus_ok hfmf (by simpa [hpos] using hend)))

/-- Once the replications begun before it have ended, an invalidation of groups discards every copy in its range
(R108). -/
theorem execMcgInvalidateComplete_found {s : State} {e : EntryRef} {w : InvalWait} (hrun : s.running = true)
    (hw : (s.jobs.mcgInvals.find? fun w => w.e == e) = some w)
    (hsent : (s.core.pkts.any fun k => w.marks.contains k.id) = false) :
    execMcgInvalidateComplete e s = .next
      (({ s with jobs := { s.jobs with
        mcgCache := s.jobs.mcgCache.filter fun c => !(decide (w.base ≤ c.1.2) && decide (c.1.2 < w.base + w.count))
        mcgInvals := s.jobs.mcgInvals.filter fun x => x.e != e } } : State).completeEntry e .ok) := by
  rw [execMcgInvalidateComplete, whenRunning_run _ hrun, hw]
  exact congrArg _ (if_neg (Bool.eq_false_iff.mp hsent))

/-! ### Packets that the transport takes -/

theorem exec_transportReceive (ie : Fin 16) (s : State) : exec (.transportReceive ie) s = execTransportReceive ie s := rfl

theorem exec_dgReceive (ie : Fin 16) (s : State) : exec (.dgReceive ie) s = execDgReceive ie s := rfl

theorem exec_transportAckReceive (ie : Fin 16) (s : State) :
    exec (.transportAckReceive ie) s = execTransportAckReceive ie s := rfl

theorem exec_noticeReceive (ie : Fin 16) (s : State) : exec (.noticeReceive ie) s = execNoticeReceive ie s := rfl

theorem exec_routeFailReceive (ie : Fin 16) (s : State) : exec (.routeFailReceive ie) s = execRouteFailReceive ie s := rfl

section Admitted

/-! A packet at the head of an IE port that is well formed and admitted at its endpoint. -/

variable {s t : State} {ie : Fin 16} {p : Packet} (hrun : s.running = true) (hwf : p.wellFormed = true)
  (hadm : (s.ejPop ie).admission p.job p.dstEp = (t, none))

include hrun hwf hadm

/-- An admitted packet of a connection is handed to its transport (R262). -/
theorem execTransportReceive_admitted (hp : s.ejFor ie 0 = some p) :
    execTransportReceive ie s = .next (t.recvAdmitted ie p) := by
  rw [execTransportReceive, whenRunning_run _ hrun]
  simp only [hp, hadm, hwf, if_true]

/-- An admitted datagram goes to the next posted buffer of its receive ring (R231, R232). -/
theorem execDgReceive_admitted {b : Nat} {bs : List Nat} (hf : epFn p.dstEp < 4096) (hr : p.th 27 16 < 4096)
    (hp : s.ejFor ie 1 = some p) (hbufs : (t.ring (epFn p.dstEp) (p.th 27 16)).bufs = b :: bs)
    (hquiet : t.fnQuiet (epFn p.dstEp) = false) (hkind : t.ringIs (epFn p.dstEp) (p.th 27 16) 2 = true) :
    execDgReceive ie s = .next
      (let d := t.entryData (epFn p.dstEp) (p.th 27 16) b
       let n := entryFld d 204 192
       ((t.hostWrite (epFn p.dstEp) (entryFld d 191 128) (p.payload.take n)).modRing (epFn p.dstEp) (p.th 27 16) fun x =>
         { x with bufs := bs }).completeEntry ⟨⟨epFn p.dstEp, hf⟩, ⟨p.th 27 16, hr⟩, b⟩
           (if n < p.payload.length then .truncated else .ok) (p.payload.take n).length
           (L.NET.SRC_NODE.get p.net + L.NET.SRC_EP.get p.net * 2 ^ 20)) := by
  rw [execDgReceive, whenRunning_run _ hrun]
  simp only [hp, hadm, hwf, hbufs, hquiet, hkind, hf, hr, and_self, dite_true, Bool.not_true, Bool.or_self,
    Bool.false_eq_true, if_false]

/-- An admitted ACK without a congestion mark acknowledges the packets that it reports (R268, R269). -/
theorem execTransportAckReceive_admitted {x : ConnSt} (hp : s.ejFor ie 2 = some p) (hback : t.backConn p = some x)
    (hmark : p.aux / 256 = 0) :
    execTransportAckReceive ie s = .next
      ((t.setConn p.dstConn (x.report (ackHighest p.psn (leNat p.payload)))).ackWhere p.dstConn fun q =>
        decide (2 ^ 23 ≤ wsub 24 q.psn p.psn) ||
          (decide (1 ≤ wsub 24 q.psn p.psn) && decide (wsub 24 q.psn p.psn ≤ 512) &&
            (leNat p.payload).testBit (wsub 24 q.psn p.psn - 1))) := by
  rw [execTransportAckReceive, whenRunning_run _ hrun]
  simp only [hp, hadm, hwf, hback, hmark, Bool.not_true, Bool.false_eq_true, if_false, if_true]

/-- An admitted NOTICE about a packet of a connection is counted for its job and acts on the connection (R291, R292). -/
theorem execNoticeReceive_admitted {k : Nat} {x : ConnSt} (hp : s.ejFor ie 3 = some p) (hjob : t.jobSlot p.job = some k)
    (hep : p.dstEp ≠ 62) (hdg : p.aux / 256 ≠ 0x0B) (hmc : p.aux / 256 ≠ 0x0C)
    (hback : (t.jobCount k 80 1).backConn p = some x) :
    execNoticeReceive ie s = .next ((t.jobCount k 80 1).noticeConn p.dstConn x p.psn (p.aux % 256)) := by
  rw [execNoticeReceive, whenRunning_run _ hrun]
  simp only [hp, hadm, hwf, hjob, hep, hdg, hmc, hback, or_self, Bool.not_true, Bool.false_eq_true, if_false]

/-- An admitted ROUTE_FAIL about a datagram is counted, and the datagram as refused (R293, R294). -/
theorem execRouteFailReceive_datagram (hp : s.ejFor ie 4 = some p) (hep : p.dstEp ≠ 62)
    (hdg : leNat (p.payload.drop 32) % 256 = 0x0B) (hquiet : t.fnQuiet (epFn p.dstEp) = false) :
    execRouteFailReceive ie s = .next
      ((t.cnt .ROUTE_FAIL_RECV_COUNT (epFn p.dstEp)).cnt .DG_REFUSED_COUNT (epFn p.dstEp)) := by
  rw [execRouteFailReceive, whenRunning_run _ hrun]
  simp [hp, hadm, hwf, hep, hdg, hquiet]

end Admitted

/-! ### The statements -/

/-- Settles O58: a legal coordinate is the packing of its own fields, and packed values read back from their fields. -/
theorem legalCoordinatesPack : Obligations.LegalCoordinatesPack := by
  intro s node
  rw [State.illegalCoord_eq_false]
  constructor
  · rintro ⟨hlt, hfld⟩
    refine ⟨s.fldOf node, hfld, fun d _ => s.fldOf_off node, ?_⟩
    rw [← s.packed_four, s.packed_fldOf, Nat.mod_eq_of_lt hlt]
  · rintro ⟨v, hon, hoff, rfl⟩
    have hfit : ∀ d < 4, v d < 2 ^ s.dimWidth d := fun d hd => State.fits_dimWidth (hon d hd) (hoff d hd)
    rw [← s.packed_four]
    exact ⟨State.packed_lt hfit, fun d hd h => (State.fldOf_packed hd hfit).symm ▸ hon d hd h⟩

/-- Settles O50: endpoint 63 admits JOB 0x0000 alone, and admission asks for presence first. -/
theorem fabricEndpointAdmission : Obligations.FabricEndpointAdmission := by
  intro s job
  refine ⟨fun h => ?admitted, fun hplaced hjob => ?zero, fun hplaced hjob => ?other⟩
  case admitted => exact eq_of_beq ((s.admits_fmf job).symm.trans (State.admits_of_admission h).2)
  case zero =>
    rw [State.admission_admitted (s.epPresent_fmf.trans hplaced) ((s.admits_fmf job).trans (beq_iff_eq.mpr hjob))]
  case other =>
    exact State.admission_mismatch (s.epPresent_fmf.trans hplaced) ((s.admits_fmf job).trans (beq_eq_false_iff_ne.mpr hjob))

/-- Settles O4: each clause is the command's arm past the guards that its hypotheses meet. -/
theorem jobCommandsComplete : Obligations.JobCommandsComplete := by
  intro s e hrun
  refine ⟨fun d k hd hfmf hnew hpos hcount hend hslice hfree => ?create, fun d hd => ?attach, fun d hd => ?detach,
    fun d k hd hfmf hlive heps hwaits hconns => ?destroy, fun w hw => ?destroyed,
    fun d hd hfmf hpos hend => ?ranks, fun w hw => ?ranksDone,
    fun d hd hfmf hpos hend => ?groups, fun w hw hsent => ?groupsDone⟩
  case create => rw [exec_jobCreate, execJobCreate_accepted hrun hd hfmf hnew hpos hcount hend hslice hfree]
  case attach => rw [exec_jobAttach, execJobAttach, onEntry_begun _ hrun hd]
  case detach => rw [exec_jobDetach, execJobDetach, onEntry_begun _ hrun hd]
  case destroy => rw [exec_jobDestroy, execJobDestroy_accepted hrun hd hfmf hlive heps hwaits hconns]
  case destroyed => rw [exec_jobDestroyComplete, execJobDestroyComplete_found hrun hw]
  case ranks => rw [exec_rttInvalidate, execRttInvalidate_accepted hrun hd hfmf hpos hend]
  case ranksDone => rw [exec_rttInvalidateComplete, execRttInvalidateComplete_found hrun hw]
  case groups => rw [exec_mcgInvalidate, execMcgInvalidate_accepted hrun hd hfmf hpos hend]
  case groupsDone => rw [exec_mcgInvalidateComplete, execMcgInvalidateComplete_found hrun hw hsent]

/-- Settles O9: each clause is the row's arm on a well-formed packet that its endpoint admits. -/
theorem transportPacketsComplete : Obligations.TransportPacketsComplete := by
  intro s t ie p hrun hwf hadm
  refine ⟨fun hp => ?request, fun b bs hf hr hp hbufs hquiet hkind => ?datagram, fun x hp hback hmark => ?ack,
    fun k x hp hjob hep hdg hmc hback => ?notice, fun hp hep hdg hquiet => ?routeFail⟩
  case request => rw [exec_transportReceive, execTransportReceive_admitted hrun hwf hadm hp]
  case datagram => rw [exec_dgReceive, execDgReceive_admitted hrun hwf hadm hf hr hp hbufs hquiet hkind]
  case ack => rw [exec_transportAckReceive, execTransportAckReceive_admitted hrun hwf hadm hp hback hmark]
  case notice => rw [exec_noticeReceive, execNoticeReceive_admitted hrun hwf hadm hp hjob hep hdg hmc hback]
  case routeFail => rw [exec_routeFailReceive, execRouteFailReceive_datagram hrun hwf hadm hp hep hdg hquiet]

end Sys2Proof.Machine
end

section
/-! PROOFS. The family of routing and multicast: the header's check as a CRC of 16 bits over the bytes before it (R87, R88),
and what routing, the switch core and injection do once the guards they stand behind are met (R96, R103, R110, R115 to
R145). -/
namespace Sys2Proof.Machine

open Sys2Proof

/-! ### The CRC-16 -/

/-- A byte's eight shifts keep the register of the CRC in 16 bits. -/
theorem crc16Step_lt {r : Nat} (b : Byte) (h : r < 2 ^ 16) : crc16Step r b < 2 ^ 16 := by
  have hin : r ^^^ b.toNat < 2 ^ 16 := Nat.xor_lt_two_pow h (b.isLt.trans (by decide))
  unfold crc16Step
  refine List.foldlRecOn (motive := (· < 2 ^ 16)) _ _ hin fun a ha _ _ => ?_
  have hhalf : a / 2 < 2 ^ 16 := (Nat.div_le_self a 2).trans_lt ha
  split
  · exact Nat.xor_lt_two_pow hhalf (by decide)
  · exact hhalf

theorem crc16_lt (bs : List Byte) : crc16 bs < 2 ^ 16 :=
  List.foldlRecOn (motive := (· < 2 ^ 16)) bs crc16Step (by decide) fun _ h b _ => crc16Step_lt b h

/-! ### The header's check -/

/-- The first k bytes of a number are settled by its low 8k bits. -/
theorem leBytes_congr {k v w : Nat} (h : v % 2 ^ (8 * k) = w % 2 ^ (8 * k)) : leBytes k v = leBytes k w := by
  induction k generalizing v w with
  | zero => rfl
  | succ k ih =>
    have hsplit : 2 ^ (8 * (k + 1)) = 256 * 2 ^ (8 * k) := by rw [Nat.mul_add, Nat.pow_add, Nat.mul_comm]
    rw [hsplit] at h
    have hfirst : v % 256 = w % 256 := by rw [← Nat.mod_mul_right_mod v, h, Nat.mod_mul_right_mod]
    have hrest : v / 256 % 2 ^ (8 * k) = w / 256 % 2 ^ (8 * k) := by
      rw [← Nat.mod_mul_right_div_self, h, Nat.mod_mul_right_div_self]
    have hbyte : BitVec.ofNat 8 v = BitVec.ofNat 8 w := BitVec.eq_of_toNat_eq hfirst
    rw [leBytes, leBytes, hbyte, ih hrest]

/-- The bits below a field that is set stay as they were. -/
theorem Fld.set_toNat_mod {n : Nat} (f : Fld) (w : BitVec n) (v : Nat) (hl : f.lo ≤ f.hi) (hn : f.hi < n) :
    (f.set w v).toNat % 2 ^ f.lo = w.toNat % 2 ^ f.lo := by
  rw [Fld.set_toNat f w v hl hn, Nat.pow_add, Nat.mul_comm (2 ^ f.lo), ← Nat.mul_assoc, ← Nat.add_mul,
    Nat.mul_add_mod_self_right, Nat.mod_mod]

/-- Recomputing the HCRC changes no bit below it. -/
theorem withHcrc_toNat_mod (net : BitVec 256) : (withHcrc net).toNat % 2 ^ 240 = net.toNat % 2 ^ 240 :=
  Fld.set_toNat_mod L.NET.HCRC net (hcrcOf net) (by decide) (by decide)

/-- The HCRC stands outside the 30 bytes it is taken over. -/
theorem hcrcOf_withHcrc (net : BitVec 256) : hcrcOf (withHcrc net) = hcrcOf net :=
  congrArg crc16 (leBytes_congr (withHcrc_toNat_mod net))

theorem hcrcOk_withHcrc (net : BitVec 256) : hcrcOk (withHcrc net) = true := by
  have hfield : L.NET.HCRC.get (withHcrc net) = hcrcOf net :=
    (Fld.get_set L.NET.HCRC net (hcrcOf net) (by decide) (by decide)).trans (Nat.mod_eq_of_lt (crc16_lt _))
  exact beq_iff_eq.mpr (hfield.trans (hcrcOf_withHcrc net).symm)

/-! ### The arms of the switch's commands -/

theorem exec_packetRoute (inp : Fin 272) (s : State) : exec (.packetRoute inp) s = execPacketRoute inp s := rfl

theorem exec_guylineLcbReceive (p : Fin 256) (lcb : BitVec 512) (s : State) :
    exec (.guylineLcbReceive p lcb) s = execGuylineLcbReceive p lcb s := rfl

theorem exec_sharedChargeMove (id : Nat) (s : State) : exec (.sharedChargeMove id) s = execSharedChargeMove id s := rfl

theorem exec_cellArbitration (arrivals : List (Fin 256)) (s : State) :
    exec (.cellArbitration arrivals) s = execCellArbitration arrivals s := rfl

theorem exec_cutThroughUnderrun (out : Fin 256) (s : State) :
    exec (.cutThroughUnderrun out) s = execCutThroughUnderrun out s := rfl

theorem exec_hotEntryFree (e : Fin 64) (s : State) : exec (.hotEntryFree e) s = execHotEntryFree e s := rfl

theorem exec_packetInject (ie : Fin 16) (s : State) : exec (.packetInject ie) s = execPacketInject ie s := rfl

/-! ### Routing, the switch core and injection -/

/-- A packet from an IE port is routed, its class clamped without a count, and it waits at its outputs (R103, R110,
R116). -/
theorem execPacketRoute_injected {s : State} {inp : Fin 272} {k : CorePkt} (hrun : s.running = true)
    (hk : s.toRoute inp = some k) (hinp : 256 ≤ inp.val) :
    execPacketRoute inp s = .next
      (let r := s.route inp k.pkt.net k.pkt.tp
       let q := r.1.enqueueAll inp (schedTc k.pkt.net) r.2
       (q.1.modPkt k.id fun x => { x with routed := true, tc := schedTc k.pkt.net, branches := q.2 }).settlePkt k.id) := by
  rw [execPacketRoute, whenRunning_run _ hrun, hk]
  simp only [decide_eq_false hinp.not_gt, Bool.false_and, Bool.false_eq_true, if_false]

/-- A sound report of levels at a port in ACTIVE is the vector in force from the next tick on (R39, R96). -/
theorem execGuylineLcbReceive_vector {s : State} {p : Fin 256} {lcb : BitVec 512} (hrun : s.running = true)
    (hactive : s.f F.PORT_STATE.STATE p.val = 6) (htype : reservedBlock (L.LCB.TYPE.get lcb) = false)
    (hcrc : lcbOk lcb = true) (hvec : L.GLL.VECTOR.on lcb = true) :
    execGuylineLcbReceive p lcb s = .next
      (let y : Snapshot := { mget s.core.snapsNext p.val (mget s.core.snaps p.val ⟨[], [], 0⟩) with
         next := (List.range 64).map fun c => Fld.get ⟨4 * c + 35, 4 * c + 32⟩ lcb, age := 0 }
       (s.skewCheck p lcb).modCore fun c => { c with snapsNext := mset c.snapsNext p.val y }) := by
  rw [execGuylineLcbReceive, whenRunning_run _ hrun, State.onLcb_handled _ hactive htype hcrc]
  simp only [hvec, if_true]

/-- An accepted packet that its heaviest branch admits moves its charge to shared space (R128, R130). -/
theorem execSharedChargeMove_admitted {s : State} {id : Nat} {k : CorePkt} {b : Branch} (hrun : s.running = true)
    (hk : (s.core.pkts.find? fun k => k.id == id) = some k)
    (hb : s.heaviest (quarterOf k.inp) k.tc (k.branches.filter fun b => !b.done) = some b) (hwhole : k.complete = true)
    (hheld : k.freed = false) (hroom : s.sharedTakes (quarterOf k.inp) b.out k.tc k.segs b.hot.isSome = true) :
    execSharedChargeMove id s = .next
      ((s.freeReserve k).modPkt id fun x => { x with freed := true, shared := some (b.out, k.tc) }) := by
  rw [execSharedChargeMove, whenRunning_run _ hrun, hk]
  simp only [hb, hwhole, hheld, hroom, Bool.not_false, Bool.and_self, if_true]

/-- A transmission that has outrun its packet's cells ends with an abort, and its branch starts again (R125, R192). -/
theorem execCutThroughUnderrun_sending {s : State} {out : Fin 256} {id enq : Nat} {k : CorePkt} (hrun : s.running = true)
    (htx : (s.port out).txNow = some (id, enq)) (hk : (s.core.pkts.find? fun k => k.id == id && !k.complete) = some k) :
    execCutThroughUnderrun out s = .next
      ((((s.abortTx out true).cnt .CT_UNDERRUN_COUNT).unstage out id enq).modPkt id fun x => { x with
        cutThrough := false
        branches := x.branches.map fun b => if b.enq = enq then { b with started := false, crossed := 0 } else b }) := by
  rw [execCutThroughUnderrun, whenRunning_run _ hrun]
  simp only [htx, hk]

/-- A hot entry that has been quiet for HOT_COOL ticks and has no packet waiting is free (R135). -/
theorem execHotEntryFree_cooled {s : State} {e : Fin 64} (hrun : s.running = true)
    (hvalid : s.on F.HOT_ENTRY.VALID e.val = true) (hquiet : s.f F.HOT_CFG.HOT_COOL ≤ mget s.core.hotCool e.val 0)
    (hempty : (s.waitingBranches.any fun x => x.2.hot == some e.val) = false) :
    execHotEntryFree e s = .next
      ((s.wr ⟨.HOT_ENTRY, e.val, 0⟩ 0).modCore fun c =>
        { c with hotCool := mdel c.hotCool e.val, hotFrom := mdel c.hotFrom e.val }) := by
  rw [execHotEntryFree, whenRunning_run _ hrun]
  exact congrArg _ (if_pos (by simp only [hvalid, decide_eq_true hquiet, hempty, Bool.not_false, Bool.and_self]))

/-- A packet that no policer meters names no entry that could be bad. -/
@[simp] theorem State.policerBad_none (s : State) : s.policerBad none = false := rfl

/-- The first free packet of an IE port in service, where no policer meters it, enters the switch core once it can have
its charge (R610). -/
theorem execPacketInject_charged {s : State} {ie : Fin 16} {k : Nat} {t : TxPkt} {charge : Option (Nat × Nat)}
    (hrun : s.running = true) (hup : s.core.ieDown.contains ie.val = false)
    (hfree : firstFree (mget s.ni.tx ie.val []) [] 0 = some (k, t)) (hnone : t.policer = none)
    (hcharge : s.injectCharge (256 + ie) t.pkt.net t.pkt.tp = some charge) :
    execPacketInject ie s = .next (s.injectGo ie k t t.pkt.net charge) := by
  rw [execPacketInject, whenRunning_run _ hrun, hup, hfree]
  simp only [hnone, State.policerBad_none, hcharge, Bool.false_eq_true, if_false]

/-! ### The statements -/

/-- Settles O42: the CRC stands above the bytes it is taken over and fits its field. -/
theorem recomputedHeaderPasses : Obligations.RecomputedHeaderPasses :=
  fun net => ⟨hcrcOk_withHcrc net, withHcrc_toNat_mod net, crc16_lt _⟩

/-- Settles O19: each clause is the command's arm past the guards that its hypotheses meet. -/
theorem switchCommandsComplete : Obligations.SwitchCommandsComplete := by
  intro s hrun
  refine ⟨fun inp k hk hinp => ?route, fun p lcb hactive htype hcrc hvec => ?report,
    fun id k b hk hb hwhole hheld hroom => ?charge, fun arrivals => ?cell, fun out id enq k htx hk => ?underrun,
    fun e hvalid hquiet hempty => ?hot, fun ie k t charge hup hfree _ hnone hcharge => ?inject⟩
  case route => rw [exec_packetRoute, execPacketRoute_injected hrun hk hinp]
  case report => rw [exec_guylineLcbReceive, execGuylineLcbReceive_vector hrun hactive htype hcrc hvec]
  case charge => rw [exec_sharedChargeMove, execSharedChargeMove_admitted hrun hk hb hwhole hheld hroom]
  case cell => rw [exec_cellArbitration, execCellArbitration, whenRunning_run _ hrun]
  case underrun => rw [exec_cutThroughUnderrun, execCutThroughUnderrun_sending hrun htx hk]
  case hot => rw [exec_hotEntryFree, execHotEntryFree_cooled hrun hvalid hquiet hempty]
  case inject => rw [exec_packetInject, execPacketInject_charged hrun hup hfree hnone hcharge]

end Sys2Proof.Machine
end

section
/-! PROOFS. The family of the switch core and scheduling: what the refill of the shapers at a turnover leaves in their token
counts, and whom they permit (R140). -/
namespace Sys2Proof.Machine

open Sys2Proof

/-! ### Maps as lists of pairs -/

/-- What a map finds stands in its list. -/
theorem mem_of_mfind {κ ν : Type} [DecidableEq κ] {k : κ} {v : ν} {m : AMap κ ν} (h : mfind m k = some v) : (k, v) ∈ m := by
  induction m with
  | nil => cases h
  | cons p m ih =>
    rw [mfind] at h
    split at h
    next hk => cases h; exact hk ▸ List.mem_cons_self
    next => exact List.mem_cons_of_mem _ (ih h)

/-- A map made of the values of a list's pairs answers a key's value where the list has one pair of that key (which may
stand in it more than once). -/
theorem mget_map_unique {κ α ν : Type} [DecidableEq κ] {k : κ} {a : α} {l : List (κ × α)} (g : κ × α → ν) (d : ν)
    (hmem : (k, a) ∈ l) (huniq : ∀ b, (k, b) ∈ l → b = a) : mget (l.map fun x => (x.1, g x)) k d = g (k, a) := by
  induction l with
  | nil => cases hmem
  | cons x l ih =>
    obtain ⟨q, b⟩ := x
    rw [List.map_cons, mget, mfind]
    split
    next hq => rw [Option.getD_some, show q = k from hq, huniq b (hq ▸ List.mem_cons_self)]
    next hq =>
      have htail : (k, a) ∈ l := (List.mem_cons.1 hmem).resolve_left fun h => hq (congrArg Prod.fst h).symm
      exact ih htail fun b hb => huniq b (List.mem_cons_of_mem _ hb)

/-! ### The shapers in force -/

/-- An enable that is 0 at reset and set in the active bank has been written there. -/
theorem State.mem_active_of_ona {s : State} {f : RegFld} {i j : Nat} (hreset : f.fld.get (f.at i j).reset = 0)
    (hon : s.ona f i j = true) : ∃ w, (f.at i j, w) ∈ s.active := by
  cases hw : mfind s.active (f.at i j) with
  | some w => exact ⟨w, mem_of_mfind hw⟩
  | none =>
    rw [State.ona, State.fa, State.rdA, mget, hw, Option.getD_none, hreset] at hon
    cases hon

/-- The shapers in force are the port shapers and the classes' shapers whose ENABLE is set, each with its own RATE and
BURST (R140, R147). -/
theorem State.mem_shapers_iff (s : State) (out i : Nat) (rb : Nat × Nat) :
    ((out, i), rb) ∈ s.shapers ↔
      (i = 8 ∧ s.ona F.PORT_SHAPER.ENABLE out = true ∧
        rb = (s.fa F.PORT_SHAPER.RATE out, s.fa F.PORT_SHAPER.BURST out)) ∨
      (i < 8 ∧ s.ona F.TC_SHAPER.ENABLE out i = true ∧
        rb = (s.fa F.TC_SHAPER.RATE out i, s.fa F.TC_SHAPER.BURST out i)) := by
  rw [State.shapers, List.mem_filterMap]
  constructor
  · rintro ⟨⟨⟨name, n, m⟩, w⟩, -, h⟩
    dsimp only at h
    split at h
    next =>
      obtain ⟨hon, h⟩ := Option.ite_none_right_eq_some.1 h
      cases h
      exact .inl ⟨rfl, hon, rfl⟩
    next =>
      obtain ⟨⟨hm, hon⟩, h⟩ := Option.ite_none_right_eq_some.1 h
      cases h
      exact .inr ⟨hm, hon, rfl⟩
    next => cases h
  · rintro (⟨rfl, hon, rfl⟩ | ⟨hi, hon, rfl⟩)
    · obtain ⟨w, hw⟩ := State.mem_active_of_ona (f := F.PORT_SHAPER.ENABLE) (i := out) (j := 0)
        (show Fld.get _ (BitVec.ofNat 64 (resetWord RegName.PORT_SHAPER.desc.fields)) = 0 by decide) hon
      exact ⟨_, hw, if_pos hon⟩
    · obtain ⟨w, hw⟩ := State.mem_active_of_ona (f := F.TC_SHAPER.ENABLE) (i := out) (j := i)
        (show Fld.get _ (BitVec.ofNat 64 (resetWord RegName.TC_SHAPER.desc.fields)) = 0 by decide) hon
      exact ⟨_, hw, if_pos ⟨hi, hon⟩⟩

theorem State.mem_shapers_port (s : State) (out : Nat) (rb : Nat × Nat) :
    ((out, 8), rb) ∈ s.shapers ↔ s.ona F.PORT_SHAPER.ENABLE out = true ∧
      rb = (s.fa F.PORT_SHAPER.RATE out, s.fa F.PORT_SHAPER.BURST out) := by
  simp [State.mem_shapers_iff]

theorem State.mem_shapers_class (s : State) (out : Nat) {tc : Nat} (htc : tc < 8) (rb : Nat × Nat) :
    ((out, tc), rb) ∈ s.shapers ↔ s.ona F.TC_SHAPER.ENABLE out tc = true ∧
      rb = (s.fa F.TC_SHAPER.RATE out tc, s.fa F.TC_SHAPER.BURST out tc) := by
  simp [State.mem_shapers_iff, htc, htc.ne]

/-! ### The refill -/

/-- The refill puts in force the shapers of the active bank. -/
theorem State.shaperRefill_shaperOn (s : State) : s.shaperRefill.core.shaperOn = s.shapers.map Prod.fst := rfl

/-- The one shaper in force of a key has its tokens refilled, or starts at BURST (R140). -/
theorem State.shaperRefill_tokens {s : State} {k : Nat × Nat} {rate burst : Nat} (hmem : (k, rate, burst) ∈ s.shapers)
    (huniq : ∀ rb, (k, rb) ∈ s.shapers → rb = (rate, burst)) :
    mget s.shaperRefill.core.tokens k 0 =
      if s.core.shaperOn.contains k then min (mget s.core.tokens k 0 + (rate : Int)) burst else burst :=
  mget_map_unique (fun x : (Nat × Nat) × Nat × Nat =>
    if s.core.shaperOn.contains x.1 then min (mget s.core.tokens x.1 0 + (x.2.1 : Int)) x.2.2 else (x.2.2 : Int))
    0 hmem huniq

section
variable {s : State} {out i rate burst : Nat} {on : Bool}
  (hforce : ∀ rb, ((out, i), rb) ∈ s.shapers ↔ on = true ∧ rb = (rate, burst))
include hforce

/-- Where an enable puts a shaper in force, the refill adds RATE up to BURST, or gives BURST to one that was not in force
before (R140). -/
theorem State.shaperRefill_enabled (hon : on = true) :
    (s.core.shaperOn.contains (out, i) = true →
      mget s.shaperRefill.core.tokens (out, i) 0 = min (mget s.core.tokens (out, i) 0 + (rate : Int)) burst) ∧
    (s.core.shaperOn.contains (out, i) = false → mget s.shaperRefill.core.tokens (out, i) 0 = burst) := by
  have htokens := State.shaperRefill_tokens ((hforce _).2 ⟨hon, rfl⟩) fun rb hrb => ((hforce rb).1 hrb).2
  exact ⟨fun hwas => htokens.trans (if_pos hwas), fun hnew => htokens.trans (if_neg (Bool.eq_false_iff.1 hnew))⟩

/-- A shaper whose enable is clear is not in force after the refill, and so permits (R140). -/
theorem State.shaperRefill_disabled (hoff : on = false) : s.shaperRefill.shaperOk out i = true := by
  have hout : (out, i) ∉ s.shaperRefill.core.shaperOn := by
    rw [State.shaperRefill_shaperOn, List.mem_map]
    rintro ⟨⟨_, rb⟩, hrb, rfl⟩
    obtain ⟨hon, -⟩ := (hforce rb).1 hrb
    exact Bool.false_ne_true (hoff.symm.trans hon)
  have hcontains : s.shaperRefill.core.shaperOn.contains (out, i) = false :=
    Bool.eq_false_iff.2 fun h => hout (List.contains_iff_mem.1 h)
  rw [State.shaperOk, hcontains, Bool.not_false, Bool.true_or]

end

/-! ### The statement -/

/-- Settles O56: a shaper is in force exactly where its ENABLE is set in the active bank, for the port shaper and for each
class's. -/
theorem shapersRefill : Obligations.ShapersRefill := fun s out =>
  ⟨State.shaperRefill_enabled (s.mem_shapers_port out), State.shaperRefill_disabled (s.mem_shapers_port out),
    fun _ htc => State.shaperRefill_enabled (s.mem_shapers_class out htc),
    fun _ htc => State.shaperRefill_disabled (s.mem_shapers_class out htc)⟩

end Sys2Proof.Machine
end

section
/-! PROOFS. The family of fabric lanes: what the commands of a port, the steps of its training, the events of its lanes and
the messages of width changes, drain and restore do once the guards they stand behind are met (R158 to R186, R596, R611). -/
namespace Sys2Proof.Machine

open Sys2Proof

/-! ### Guards -/

/-- A row that acts under one condition and leaves every other state as it is acts where the condition holds. -/
theorem whenRunning_of_guard {c : State → Prop} [∀ s, Decidable (c s)] {g : State → State} {s : State}
    (hrun : s.running = true) (hc : c s) : whenRunning (fun s => if c s then g s else s) s = .next (g s) := by
  rw [whenRunning_run _ hrun, if_pos hc]

/-- A row that leaves a state alone under one condition acts where that condition fails. -/
theorem whenRunning_of_not_guard {c : State → Prop} [∀ s, Decidable (c s)] {g : State → State} {s : State}
    (hrun : s.running = true) (hc : ¬ c s) : whenRunning (fun s => if c s then s else g s) s = .next (g s) := by
  rw [whenRunning_run _ hrun, if_neg hc]

/-! ### Commands of a port and of a lane -/

section

variable {s : State} {rq : Requester} (hrun : s.running = true) (hreach : rq.reaches = true)

include hrun hreach

/-- A write of PORT_CTRL that passes its checks has its effect (R173). -/
theorem whenRunning_portCtrl {p : Nat} {v : Word} (hok : s.portCtrlCheck p v = .ok) :
    whenRunning (fun s => s.portCtrl rq p v) s = .next
      ((s.portCtrlWrite p v).wsRecord rq .ok (Reg.offset ⟨.PORT_CTRL, p, 0⟩)) := by
  rw [whenRunning_run _ hrun, State.portCtrl, if_pos hreach, hok, State.writeAs_ok]

/-- A write of PORT_CMD that passes its checks has its effect (R173, R175, R183). -/
theorem whenRunning_portCmd {p : Nat} {v : Word} (hok : s.portCmdCheck p v = .ok) :
    whenRunning (fun s => s.portCmd rq p v) s = .next
      ((s.portCmdWrite p v).wsRecord rq .ok (Reg.offset ⟨.PORT_CMD, p, 0⟩)) := by
  rw [whenRunning_run _ hrun, State.portCmd, if_pos hreach, hok, State.writeAs_ok]

/-- A lane command of a requester that reaches its register has its effect (R182, R184, R186). -/
theorem whenRunning_laneCmd {n : RegName} {l : Nat} {eff : State → State} :
    whenRunning (fun s => s.laneCmd rq n l eff) s = .next ((eff s).wsRecord rq .ok (Reg.offset ⟨n, l, 0⟩)) := by
  rw [whenRunning_run _ hrun, State.laneCmd, if_pos hreach, State.writeAs_ok]

end

/-- INJECT alone inverts the next bit that the lane's generator sends in TEST (R184). -/
theorem State.prbsCmd_inject {s : State} {l : Nat} (hgen : s.on F.LANE_PRBS_CFG.GEN_EN l = true)
    (htest : s.pstate (s.portOfLane l).1 = 7) :
    s.prbsCmd l true false = s.wire (s.portOfLane l).1 (.prbs l (s.f F.LANE_PRBS_CFG.PATTERN l) true) := by
  simp [State.prbsCmd, hgen, htest]

/-- CLEAR alone zeroes the lane's error count (R186). -/
theorem State.prbsCmd_clear (s : State) (l : Nat) : s.prbsCmd l false true = s.wr ⟨.LANE_PRBS_ERRORS, l, 0⟩ 0 := rfl

/-! ### Verification, the entry to ACTIVE and tests -/

section

variable {s : State} {p : Fin 256} (hrun : s.running = true)

include hrun

/-- A first evaluation within BER_LIMIT, without an error and after the whole soak, passes (R170). -/
theorem execVerifyEvaluate_passed {ratio : Nat} (hst : s.pstate p = 5) (hpass : (s.port p).localPass = false)
    (hratio : ratio ≤ s.f F.PORT_TRAIN_CFG.BER_LIMIT p.val) (hsoak : (s.port p).soak = true) :
    execVerifyEvaluate p ratio false false s = .next
      ((s.modPort p fun x => { x with localPass := true }).verifyStatus p false) := by
  rw [execVerifyEvaluate, whenRunning_run _ hrun]
  simp [hst, hpass, hratio, hsoak]

/-- A status column without FAIL adds what the partner reports, and is answered (R155, R170). -/
theorem execVerifyStatusReceive_noFail {st : BitVec 8} (hst : s.pstate p = 5) (hfail : st.toNat.testBit 1 = false) :
    execVerifyStatusReceive p st s = .next
      ((s.modPort p fun x => { x with
        partnerPass := x.partnerPass || st.toNat.testBit 0
        partnerSawPass := x.partnerSawPass || (st.toNat.testBit 0 && st.toNat.testBit 2) }).verifyStatus p false) := by
  rw [execVerifyStatusReceive, whenRunning_run _ hrun, if_neg (not_not_intro hst), hfail, if_neg Bool.false_ne_true]

/-- The transmitting direction of a port that has passed at both ends completes the entry to ACTIVE that its receiving
direction has made (R164, R170). -/
theorem execPortActiveEntry_second (hst : s.pstate p = 5) (hown : (s.port p).localPass = true)
    (hpartner : (s.port p).partnerPass = true) (hrx : (s.port p).rxActive = true) :
    execPortActiveEntry p false s = .next
      ((s.modPort p fun y => { y with txActive := true, rxActive := true }).enterActive p) := by
  rw [execPortActiveEntry, whenRunning_run _ hrun]
  simp [hst, hown, hpartner, hrx]

/-- Notice of the partner's PRBS test takes the port to TEST, and no loopback is refused (R183). -/
theorem execTestNoticeReceive_prbs {mode : BitVec 8} (pattern rate : BitVec 8) (hst : s.pstate p = 6)
    (hmode : mode.toNat = 0) :
    execTestNoticeReceive p mode pattern rate s = .next
      (((s.restart p 7).set F.PORT_STATE.PARTNER_TEST 1 p).set F.TEST_RESULT.LOOP_REFUSED 0 p) := by
  rw [execTestNoticeReceive, whenRunning_run _ hrun]
  simp [hst, hmode, b2n]

end

/-! ### Locks of a lane -/

section

variable {s : State} {l : Fin 1024} (hrun : s.running = true)

include hrun

/-- Comma lock in DETECT is noted with the polarity found, and may end DETECT (R161, R164). -/
theorem execCommaLockGain_detect (inverted : Bool) (hst : s.pstate (s.portOfLane l).1 = 1) :
    execCommaLockGain l inverted s = .next
      (((s.set F.LANE_STATUS.COMMA_LOCK 1 l).set F.LANE_STATUS.RX_INVERTED (b2n inverted) l).detectExit
        (s.portOfLane l).1) := by
  rw [execCommaLockGain, whenRunning_run _ hrun]
  simp [hst]

/-- Block lock in ALIGN, under signal, CDR lock and codeword lock, is noted (R158). -/
theorem execBlockLockGain_align (hst : s.pstate (s.portOfLane l).1 = 4)
    (hcdr : s.on F.LANE_STATUS.CDR_LOCK l.val = true) (hlos : s.on F.LANE_STATUS.LOS l.val = false)
    (hcw : s.on F.LANE_STATUS.CW_LOCK l.val = true)
    (hst' : (s.set F.LANE_STATUS.BLOCK_LOCK 1 l).pstate (s.portOfLane l).1 = 4) :
    execBlockLockGain l s = .next ((s.set F.LANE_STATUS.BLOCK_LOCK 1 l).widenReady (s.portOfLane l).1) := by
  rw [execBlockLockGain, whenRunning_run _ hrun]
  simp [hst, hcdr, hlos, hcw, hst']

end

/-! ### Width changes -/

section

variable {s : State} {p : Fin 256} (hrun : s.running = true)

include hrun

/-- A request that meets no change in progress is answered with a COMMIT to the lanes that both ends can use (R176). -/
theorem execWidthReqReceive_fresh {m : WidthMsg} (hst : s.pstate p = 6) (hidle : (s.port p).width = none)
    (hdegrade : (s.port p).degradeOk = true)
    (hset : (widest (s.f F.PORT_CTRL.WIDTH_CFG p == 3) 15 (s.lockedLanes p &&& m.laneSet)).isSome = true) :
    execWidthReqReceive p m s = .next
      ((s.modPort p fun x => { x with widthSeq := m.seq % 256 }).widthCommit p
        ⟨if m.reason = 0 then 0 else 1, false, m.seq, s.lockedLanes p &&& m.laneSet,
          false, false, false, false, false, false⟩) := by
  rw [execWidthReqReceive, whenRunning_run _ hrun, if_neg (not_not_intro hst)]
  simp only [hidle, hdegrade, hset, Bool.and_self, Bool.false_eq_true, if_true, if_false]

/-- A COMMIT of the change in progress is taken (R176). -/
theorem execWidthCommitReceive_current {m : WidthMsg} {w : WidthCh} (hst : s.pstate p = 6)
    (hw : (s.port p).width = some w) (hseq : w.seq = m.seq) :
    execWidthCommitReceive p m s = .next (s.commitTake p m w) := by
  rw [execWidthCommitReceive, whenRunning_run _ hrun, hw]
  exact congrArg _ (if_pos ⟨hseq, hst⟩)

/-- READY of the widening in progress is noted, and its requester may commit (R178). -/
theorem execWidthReadyReceive_widening {m : WidthMsg} {w : WidthCh} (hw : (s.port p).width = some w) (hkind : w.kind = 2)
    (hseq : w.seq = m.seq) :
    execWidthReadyReceive p m s = .next
      ((s.modPort p fun x => { x with width := some { w with readySeen := true } }).widenCommit p) := by
  rw [execWidthReadyReceive, whenRunning_run _ hrun, hw]
  exact congrArg _ (if_pos ⟨hkind, hseq⟩)

/-- The receiving direction's switch ends a change whose transmitting direction has switched (R176). -/
theorem execWidthSwitch_second {w : WidthCh} (hw : (s.port p).width = some w) (hcommit : w.ptrCommit = true)
    (htx : w.txDone = true) :
    execWidthSwitch p true s = .next (s.widthDone p { w with txDone := true, rxDone := true }) := by
  rw [execWidthSwitch, whenRunning_run _ hrun, hw]
  simp [hcommit, htx]

/-- A degrade that is not done within its time has failed (R177). -/
theorem execDegradeTimeout_early {w : WidthCh} (hw : (s.port p).width = some w) (hkind : w.kind = 0) :
    execDegradeTimeout p false s = .next (s.degradeFail p) := by
  rw [execDegradeTimeout, whenRunning_run _ hrun, hw]
  simp only [hkind, ne_eq, not_true_eq_false, Bool.false_eq_true, if_false]

/-- A widening that neither end has committed is abandoned: the lanes it was adding are powered down (R178). -/
theorem execWidenTimeout_uncommitted {w : WidthCh} (hw : (s.port p).width = some w) (hkind : w.kind = 2)
    (hown : w.ownCommit = false) (hpartner : w.ptrCommit = false) :
    execWidenTimeout p s = .next
      ((s.modPort p fun x => { x with width := none }).setLanes F.LANE_STATUS.POWERED_DOWN 1
        (lanesIn p (w.set - (w.set &&& s.f F.PORT_STATE.LANE_SET p)))) := by
  rw [execWidenTimeout, whenRunning_run _ hrun, hw]
  simp [hkind, hown, hpartner]

/-- RESTORE of a drained port's partner is answered and ends the drain (R175). -/
theorem execServiceRestoreReceive_drained {seq : BitVec 8} (hst : s.pstate p = 6)
    (hdrained : (s.column p 0x84 [4, seq.toNat]).on F.PORT_STATE.DRAINED p.val = true) :
    execServiceRestoreReceive p seq s = .next ((s.column p 0x84 [4, seq.toNat]).clearDrained p) :=
  (whenRunning_of_guard hrun hst).trans (congrArg _ (if_pos hdrained))

end

/-! ### The statements -/

/-- Settles O21: each clause is the row's meaning past the guards that its hypotheses meet. -/
theorem portTrainingComplete : Obligations.PortTrainingComplete := by
  intro s p hrun
  refine ⟨fun rq hreach => ⟨fun v hok => ?enable, fun v hok => ?disable, fun force hok => ?drain, fun hok => ?restore,
      fun hok => ?retrain, fun hok => ?test⟩, ?holdOff, fun hst => ?neg, fun hst => ?eq, fun hst => ?align,
    fun hst => ?verify, fun hst hcw hlock => ?aligned, fun ratio hst hpass hratio hsoak => ?evaluate,
    fun st hst hfail => ?status, fun hst hown hpartner hrx => ?active, fun mode pattern rate hst hmode => ?notice,
    fun pass hst hown => ?tested⟩
  case enable => exact (whenRunning_portCtrl hrun hreach hok : execPortEnable rq p v s = _)
  case disable => exact (whenRunning_portCtrl hrun hreach hok : execPortDisable rq p v s = _)
  case drain => exact (whenRunning_portCmd hrun hreach hok : execPortDrain rq p force s = _)
  case restore => exact (whenRunning_portCmd hrun hreach hok : execPortRestore rq p s = _)
  case retrain => exact (whenRunning_portCmd hrun hreach hok : execPortRetrain rq p s = _)
  case test => exact (whenRunning_portCmd hrun hreach hok : execPortTest rq p s = _)
  case holdOff => exact (whenRunning_run _ hrun : execHoldOffExpire p s = _)
  case neg => exact (whenRunning_of_guard hrun hst : execNegTimeout p s = _)
  case eq => exact (whenRunning_of_guard hrun hst : execEqTimeout p s = _)
  case align => exact (whenRunning_of_guard hrun hst : execAlignTimeout p s = _)
  case verify => exact (whenRunning_of_guard hrun hst : execVerifyTimeout p s = _)
  case aligned =>
    show execAlignComplete p s = _
    exact whenRunning_of_guard hrun (by simp only [hst, hcw, hlock, beq_self_eq_true, Bool.and_self])
  case evaluate => exact execVerifyEvaluate_passed hrun hst hpass hratio hsoak
  case status => exact execVerifyStatusReceive_noFail hrun hst hfail
  case active => exact execPortActiveEntry_second hrun hst hown hpartner hrx
  case notice => exact execTestNoticeReceive_prbs hrun pattern rate hst hmode
  case tested =>
    show execTestComplete p pass s = _
    exact whenRunning_of_guard hrun (by simp only [hst, hown, beq_self_eq_true, Bool.not_false, Bool.and_self])

/-- Settles O22: each clause is the row's meaning past the guards that its hypotheses meet. -/
theorem laneCommandsComplete : Obligations.LaneCommandsComplete := by
  intro s l hrun
  refine ⟨fun inverted hst => ?comma, ?commaLoss, fun cap crc sent hst hcrc => ?cap,
    fun ctl converged req hst hlane hcheck => ?frame, fun hlos => ?los, ?losEnd, ?cdrLoss, fun href => ?cdr,
    fun hcw => ?codewordLoss, fun hst hcdr hlos hcw hst' => ?block, ?blockLoss, fun hst => ?deskewAlign,
    fun hst => ?deskewActive, fun rq hreach => ⟨fun hgen htest => ?inject, ?clear, ?calibrate⟩,
    fun req hst hen hlane hdue => ?tune, fun p lcb hactive htype hcrc => ?tuned⟩
  case comma => exact execCommaLockGain_detect hrun inverted hst
  case commaLoss => exact (whenRunning_run _ hrun : execCommaLockLoss l s = _)
  case cap =>
    show execCapSetReceive l cap crc sent s = _
    exact whenRunning_of_guard hrun (by simp only [hst, hcrc, beq_self_eq_true, Bool.and_self])
  case frame =>
    show execTrainingFrameReceive l ctl converged req s = _
    exact whenRunning_of_guard hrun (by simp only [hst, hlane, hcheck, beq_self_eq_true, Bool.and_self])
  case los => exact (whenRunning_of_not_guard hrun (Bool.eq_false_iff.mp hlos) : execLosAssert l s = _)
  case losEnd => exact (whenRunning_run _ hrun : execLosClear l s = _)
  case cdrLoss => exact (whenRunning_run _ hrun : execCdrLockLoss l s = _)
  case cdr =>
    show execCdrLockGain l s = _
    exact whenRunning_of_not_guard hrun (by simp only [href, List.contains_nil, Bool.false_eq_true, not_false_eq_true])
  case codewordLoss =>
    show execCodewordLockLoss l s = _
    exact whenRunning_of_not_guard hrun (by simp only [hcw, Bool.not_true, Bool.false_eq_true, not_false_eq_true])
  case block => exact execBlockLockGain_align hrun hst hcdr hlos hcw hst'
  case blockLoss => exact (whenRunning_run _ hrun : execBlockLockLoss l s = _)
  case deskewAlign => exact (whenRunning_run _ hrun : execDeskewError l s = _).trans (congrArg _ (if_pos hst))
  case deskewActive =>
    have hnot : ¬ s.pstate (s.portOfLane l).1 = 4 := by omega
    exact (whenRunning_run _ hrun : execDeskewError l s = _).trans (congrArg _ ((if_neg hnot).trans (if_pos hst)))
  case inject =>
    rw [← State.prbsCmd_inject hgen htest]
    exact (whenRunning_laneCmd hrun hreach : execLanePrbsInject rq l s = _)
  case clear =>
    rw [← State.prbsCmd_clear]
    exact (whenRunning_laneCmd hrun hreach : execLanePrbsClear rq l s = _)
  case calibrate => exact (whenRunning_laneCmd hrun hreach : execLaneCal rq l s = _)
  case tune =>
    show execRemoteTuneRequest l req s = _
    exact whenRunning_of_guard hrun
      (by simp only [hst, hen, hlane, decide_eq_true hdue, beq_self_eq_true, Bool.and_self])
  case tuned =>
    exact (whenRunning_run _ hrun : execTuneLcbReceive p lcb s = _).trans
      (congrArg _ (State.onLcb_handled _ hactive htype hcrc))

/-- Settles O23: each clause is the row's meaning past the guards that its hypotheses meet. -/
theorem widthServiceComplete : Obligations.WidthServiceComplete := by
  intro s p hrun hst
  refine ⟨fun m hidle hdegrade hset => ?request, fun m w hw hseq => ?commit, fun m hidle hfault => ?widen,
    fun m w hw hkind hseq => ?ready, fun w hw hcommit htx => ?switch, fun w hw hkind => ?degrade,
    fun w hw hkind hown hpartner => ?abandon, fun seq hdrained => ?drain, fun hpartner hempty => ?drainAck,
    fun seq hown hseq => ?acked, fun hown hack hempty => ?drained, fun seq hdrained => ?restore,
    fun seq hdrained hseq => ?restored⟩
  case request => exact execWidthReqReceive_fresh hrun hst hidle hdegrade hset
  case commit => exact execWidthCommitReceive_current hrun hst hw hseq
  case widen =>
    show execWidthWidenReceive p m s = _
    exact whenRunning_of_guard hrun
      (by simp only [hst, hidle, hfault, Option.isNone_none, beq_self_eq_true, Bool.and_self])
  case ready => exact execWidthReadyReceive_widening hrun hw hkind hseq
  case switch => exact execWidthSwitch_second hrun hw hcommit htx
  case degrade => exact execDegradeTimeout_early hrun hw hkind
  case abandon => exact execWidenTimeout_uncommitted hrun hw hkind hown hpartner
  case drain =>
    show execServiceDrainReceive p seq s = _
    exact whenRunning_of_guard hrun (by simp only [hst, hdrained, beq_self_eq_true, Bool.not_false, Bool.and_self])
  case drainAck =>
    show execDrainAckSend p s = _
    exact whenRunning_of_guard hrun (by simp only [hst, hpartner, hempty, beq_self_eq_true, Bool.and_self])
  case acked =>
    show execServiceDrainAckReceive p seq s = _
    exact whenRunning_of_guard hrun (by simp only [hst, hown, hseq, beq_self_eq_true, Bool.and_self])
  case drained =>
    show execDrainComplete p s = _
    exact whenRunning_of_guard hrun (by simp only [hst, hown, hack, hempty, beq_self_eq_true, Bool.and_self])
  case restore => exact execServiceRestoreReceive_drained hrun hst hdrained
  case restored =>
    show execServiceRestoreAckReceive p seq s = _
    exact whenRunning_of_guard hrun (by simp only [hst, hdrained, hseq, beq_self_eq_true, Bool.and_self])

end Sys2Proof.Machine
end

section
/-! PROOFS. The family of the Thieb link layer: the check of a link control block as a CRC of 32 bits over the bytes before
it (R190, R195), and what the transmitter, the receiver and the control blocks of a port in ACTIVE do once the guards they
stand behind are met (R188 to R214). -/
namespace Sys2Proof.Machine

open Sys2Proof

/-! ### The CRC-32 -/

/-- Shifts of a reflected CRC keep its register within the bits of its polynomial. -/
theorem crcShifts_lt {n poly r : Nat} (hpoly : poly < 2 ^ n) (hr : r < 2 ^ n) (l : List Nat) :
    l.foldl (fun a _ => if a % 2 = 1 then (a / 2) ^^^ poly else a / 2) r < 2 ^ n := by
  refine List.foldlRecOn (motive := (· < 2 ^ n)) l _ hr fun a ha _ _ => ?_
  have hhalf : a / 2 < 2 ^ n := (Nat.div_le_self a 2).trans_lt ha
  split
  · exact Nat.xor_lt_two_pow hhalf hpoly
  · exact hhalf

theorem crc32Step_lt {r : Nat} (b : Byte) (h : r < 2 ^ 32) : crc32Step r b < 2 ^ 32 :=
  crcShifts_lt (by decide) (Nat.xor_lt_two_pow h (b.isLt.trans (by decide))) _

theorem crc32_lt (bs : List Byte) : crc32 bs < 2 ^ 32 :=
  Nat.xor_lt_two_pow
    (List.foldlRecOn (motive := (· < 2 ^ 32)) bs crc32Step (by decide) fun _ h b _ => crc32Step_lt b h) (by decide)

/-! ### Link control blocks -/

/-- A field of the bits of a number is the number's own bits there. -/
theorem Fld.get_ofNat {n : Nat} (f : Fld) (v : Nat) (hl : f.lo ≤ f.hi) (hn : f.hi < n) :
    f.get (BitVec.ofNat n v) = v / 2 ^ f.lo % 2 ^ f.width := by
  have hsplit : n = f.lo + f.width + (n - (f.lo + f.width)) := by unfold Fld.width; omega
  unfold Fld.get
  rw [BitVec.toNat_ofNat, Nat.shiftRight_eq_div_pow, hsplit, Nat.pow_add, Nat.pow_add, Nat.mul_assoc,
    Nat.mod_mul_right_div_self, Nat.mod_mul_right_mod]

/-- The bits of an LCB between its TICK and its LCB_CRC: the fields of its own kind (R195). -/
def L.LCB.BODY : Fld := ⟨479, 24⟩

/-- An LCB before its LCB_CRC is set (R195). -/
def lcbUnchecked (ty tick v : Nat) : BitVec 512 := L.LCB.TICK.set (L.LCB.TYPE.set (BitVec.ofNat 512 v) ty) tick

theorem mkLcb_eq (ty tick v : Nat) :
    mkLcb ty tick v = L.LCB.LCB_CRC.set (lcbUnchecked ty tick v) (crc32 (leBytes 60 (lcbUnchecked ty tick v).toNat)) := rfl

/-- A field below the check reads as it was laid before the check was set. -/
theorem Fld.get_mkLcb {g : Fld} (ty tick v : Nat) (gl : g.lo ≤ g.hi) (hbelow : g.hi < 480) :
    g.get (mkLcb ty tick v) = g.get (lcbUnchecked ty tick v) := by
  rw [mkLcb_eq]
  exact Fld.get_set_ne L.LCB.LCB_CRC g _ _ (by decide) (by decide) gl (.inl hbelow)

/-- The check stands above the 60 bytes it is taken over. -/
theorem mkLcb_checkedBytes (ty tick v : Nat) :
    leBytes 60 (mkLcb ty tick v).toNat = leBytes 60 (lcbUnchecked ty tick v).toNat := by
  have hlo : 8 * 60 = L.LCB.LCB_CRC.lo := rfl
  apply leBytes_congr
  rw [hlo, mkLcb_eq]
  exact Fld.set_toNat_mod L.LCB.LCB_CRC _ _ (by decide) (by decide)

theorem lcbOk_mkLcb (ty tick v : Nat) : lcbOk (mkLcb ty tick v) = true := by
  have hfield : L.LCB.LCB_CRC.get (mkLcb ty tick v) = crc32 (leBytes 60 (lcbUnchecked ty tick v).toNat) := by
    rw [mkLcb_eq, Fld.get_set L.LCB.LCB_CRC _ _ (by decide) (by decide)]
    exact Nat.mod_eq_of_lt (crc32_lt _)
  exact beq_iff_eq.mpr (hfield.trans (congrArg crc32 (mkLcb_checkedBytes ty tick v)).symm)

theorem mkLcb_type (ty tick v : Nat) : L.LCB.TYPE.get (mkLcb ty tick v) = ty % 2 ^ 8 :=
  calc L.LCB.TYPE.get (mkLcb ty tick v) = L.LCB.TYPE.get (lcbUnchecked ty tick v) := Fld.get_mkLcb _ _ _ (by decide) (by decide)
    _ = L.LCB.TYPE.get (L.LCB.TYPE.set (BitVec.ofNat 512 v) ty) :=
      Fld.get_set_ne L.LCB.TICK L.LCB.TYPE _ _ (by decide) (by decide) (by decide) (by decide)
    _ = ty % 2 ^ 8 := Fld.get_set L.LCB.TYPE _ _ (by decide) (by decide)

theorem mkLcb_tick (ty tick v : Nat) : L.LCB.TICK.get (mkLcb ty tick v) = tick % 2 ^ 16 :=
  (Fld.get_mkLcb _ _ _ (by decide) (by decide)).trans (Fld.get_set L.LCB.TICK _ _ (by decide) (by decide))

theorem mkLcb_body (ty tick v : Nat) :
    L.LCB.BODY.get (mkLcb ty tick v) = v / 2 ^ L.LCB.BODY.lo % 2 ^ L.LCB.BODY.width :=
  calc L.LCB.BODY.get (mkLcb ty tick v) = L.LCB.BODY.get (lcbUnchecked ty tick v) := Fld.get_mkLcb _ _ _ (by decide) (by decide)
    _ = L.LCB.BODY.get (L.LCB.TYPE.set (BitVec.ofNat 512 v) ty) :=
      Fld.get_set_ne L.LCB.TICK L.LCB.BODY _ _ (by decide) (by decide) (by decide) (by decide)
    _ = L.LCB.BODY.get (BitVec.ofNat 512 v) :=
      Fld.get_set_ne L.LCB.TYPE L.LCB.BODY _ _ (by decide) (by decide) (by decide) (by decide)
    _ = v / 2 ^ L.LCB.BODY.lo % 2 ^ L.LCB.BODY.width := Fld.get_ofNat L.LCB.BODY v (by decide) (by decide)

/-! ### Packets sent and received -/

section

variable {s : State} {p : Fin 256} (hrun : s.running = true)

include hrun

/-- The packet at the head of the output stage is sent when the link is ready and the replay buffer has room (R205,
R208). -/
theorem execLinkSendNew_room {y : StagePkt} {ys : List StagePkt} (hstage : s.stage p = y :: ys)
    (hready : s.linkReady p = true) (hcells : y.cellsIn ≠ 0)
    (hroom : s.replayUsed p + blocksOf (bytesOf y.pkt.net) ≤ s.replayBlocks p) :
    execLinkSendNew p s = .next (s.sendNew p y) := by
  rw [execLinkSendNew, whenRunning_run _ hrun, hstage]
  simp only [hready, beq_eq_false_iff_ne.mpr hcells, hroom.not_gt, Bool.not_true, Bool.or_self, Bool.false_eq_true, if_false]

/-- A packet's SOP block on an open receiver with no packet in progress is taken (R206). -/
theorem execLinkPacketSop_idle (env : BitVec 64) (net tp : BitVec 256) (ck : Nat) (hopen : s.rxOpen p = true)
    (hidle : (s.port p).rxNow = none) : execLinkPacketSop p env net tp ck s = .next (s.onSop p env net tp ck) := by
  rw [execLinkPacketSop, whenRunning_run _ hrun]
  simp only [hopen, hidle, Bool.not_true, Option.isSome_none, Bool.false_eq_true, if_false]

/-- The packet in progress is accepted at an end that gives its whole payload and its LCRC (R190, R206). -/
theorem execLinkPacketEnd_sound {r : RxPkt} {payload : List Byte} {lcrc : BitVec 32} (ck : Nat)
    (hnow : (s.port p).rxNow = some r) (hgood : r.bad = false)
    (hwhole : payload.length ≤ L.NET.PLEN.get r.net ∧
      (L.NET.PLEN.get r.net - payload.length = 16 ∨ L.NET.PLEN.get r.net - payload.length = 32))
    (hcrc : lcrc.toNat = lcrcOf r.env ⟨r.net, r.tp, payload⟩) (hkept : r.kept = true) :
    execLinkPacketEnd p payload lcrc false ck s = .next (s.acceptPacket p r.id payload) := by
  rw [execLinkPacketEnd, whenRunning_run _ hrun, hnow]
  simp only [hgood, decide_eq_true hwhole, hcrc, hkept, bne_self_eq_false, Bool.not_true, Bool.or_self, Bool.false_eq_true,
    if_true, if_false]

/-- An ABORT block ends the packet in progress on an open receiver, and what it took is freed (R192). -/
theorem execAbortBlockReceive_midPacket (hopen : s.rxOpen p = true) (hnow : (s.port p).rxNow.isSome = true) :
    execAbortBlockReceive p s = .next ((s.dropArrival p).cnt .ABORT_RECV_COUNT p) := by
  rw [execAbortBlockReceive, whenRunning_run _ hrun]
  simp only [hopen, hnow, Bool.not_true, Bool.false_eq_true, if_true, if_false]

end

/-! ### Control blocks received -/

section

variable {s : State} {p : Fin 256} {lcb : BitVec 512} (hrun : s.running = true)
  (hactive : s.f F.PORT_STATE.STATE p.val = 6) (htype : reservedBlock (L.LCB.TYPE.get lcb) = false) (hcrc : lcbOk lcb = true)

include hrun hactive htype hcrc

/-- A row that handles a control block acts on a sound one at a port in ACTIVE (R191, R193). -/
theorem whenRunning_onLcb (g : State → State) : whenRunning (fun s => s.onLcb p lcb g) s = .next (g s) :=
  (whenRunning_run _ hrun).trans (congrArg _ (State.onLcb_handled g hactive htype hcrc))

/-- An ACK is acted on once the partner's INIT is held (R205, R212). -/
theorem execAckLcbReceive_up (hup : (s.port p).partnerInit = true) :
    execAckLcbReceive p lcb s = .next (s.onAck p lcb) :=
  (whenRunning_onLcb hrun hactive htype hcrc _).trans (congrArg _ (if_pos hup))

/-- An INIT that offers no resume, at a port that offers none, gives the partner's credits (R212). -/
theorem execInitLcbReceive_fresh (hdown : (s.port p).partnerInit = false) (hoffer : (s.port p).offered = false)
    (hresume : L.INITL.RESUME_INIT.on lcb = false) :
    execInitLcbReceive p lcb s = .next (s.modPort p fun y => { y with adv := initValues lcb, partnerInit := true }) := by
  rw [execInitLcbReceive, whenRunning_onLcb hrun hactive htype hcrc]
  simp only [hdown, hoffer, hresume, Bool.false_eq_true, if_false]

end

/-! ### Link down -/

/-- A lane of the set without block lock takes the link down when no width change runs (R210). -/
theorem execLinkDown_lockLost {s : State} {p : Fin 256} (hrun : s.running = true) (hactive : s.pstate p = 6)
    (hlock : s.lockedLanes p ≠ s.f F.PORT_STATE.LANE_SET p) (hidle : (s.port p).width = none) :
    execLinkDown p s = .next (s.linkGoesDown p 7) := by
  rw [execLinkDown, whenRunning_run _ hrun]
  simp only [hactive, hidle, bne_iff_ne.mpr hlock, beq_self_eq_true, Bool.not_false, Bool.and_self, if_true]

/-! ### The statements -/

/-- Settles O43: each field is set apart from the others, and the CRC stands above the bytes it is taken over. -/
theorem madeBlockPasses : Obligations.MadeBlockPasses := fun ty tick v => by
  have hlo : 24 = L.LCB.BODY.lo := rfl
  have hwidth : 456 = L.LCB.BODY.width := rfl
  refine ⟨lcbOk_mkLcb ty tick v, mkLcb_type ty tick v, mkLcb_tick ty tick v, ?_⟩
  rw [hwidth, hlo, ← mkLcb_body ty tick v, Fld.get, Nat.shiftRight_eq_div_pow]

/-- Settles O20: each clause is the row's meaning past the guards that its hypotheses meet. -/
theorem linkCommandsComplete : Obligations.LinkCommandsComplete := by
  intro s p hrun hactive
  have hst : s.pstate p = 6 := hactive
  refine ⟨fun y ys hstage hready hcells hroom => ?send, fun hup hlate => ?replay, fun env net tp ck hopen hidle => ?sop,
    fun r payload lcrc ck hnow hgood hlen hhead hcrc hkept => ?packetEnd, fun hopen hnow => ?abort, fun hdue => ?ack,
    fun hfresh hcharged => ?fresh, fun hdown hfresh => ?initAgain, fun q hfrozen hq => ?resume, fun hlock hidle => ?down,
    fun lcb htype hcrc => ⟨fun hup => ?acked, fun hdown hoffer hresume => ?init, ?retrain, ?fatal⟩⟩
  case send => exact execLinkSendNew_room hrun hstage hready hcells hroom
  case replay =>
    show execReplayTimerExpire p s = _
    exact whenRunning_of_guard hrun (by simp only [hst, hup, hlate, beq_self_eq_true, decide_true, Bool.and_self])
  case sop => exact execLinkPacketSop_idle hrun env net tp ck hopen hidle
  case packetEnd => exact execLinkPacketEnd_sound hrun ck hnow hgood ⟨hlen, hhead⟩ hcrc hkept
  case abort => exact execAbortBlockReceive_midPacket hrun hopen hnow
  case ack =>
    show execAckCoalesceExpire p s = _
    exact whenRunning_of_guard hrun (by simp only [hst, hdue, beq_self_eq_true, Bool.and_self])
  case fresh =>
    show execFreshStartInitSend p s = _
    exact whenRunning_of_guard hrun (by simp only [hst, hfresh, hcharged, beq_self_eq_true, Bool.not_false, Bool.and_self])
  case initAgain =>
    show execInitRepeat p s = _
    exact whenRunning_of_guard hrun (by simp only [hst, hdown, hfresh, beq_self_eq_true, Bool.not_false, Bool.and_self])
  case resume =>
    show execResumeTimeout q s = _
    exact whenRunning_of_guard hrun (by simp only [hfrozen, bne_iff_ne.mpr hq, Bool.and_self])
  case down => exact execLinkDown_lockLost hrun hst hlock hidle
  case acked => exact execAckLcbReceive_up hrun hactive htype hcrc hup
  case init => exact execInitLcbReceive_fresh hrun hactive htype hcrc hdown hoffer hresume
  case retrain => exact (whenRunning_onLcb hrun hactive htype hcrc _ : execRetrainLcbReceive p lcb s = _)
  case fatal => exact (whenRunning_onLcb hrun hactive htype hcrc _ : execFatalLcbReceive p lcb s = _)

end Sys2Proof.Machine
end

section
/-! PROOFS. The family of the host rings: what the commands on a ring's registers, the polls and fetches of its entries and
the notification records do once the guards they stand behind are met (R218 to R238, R613), and that a register command
leaves all but its own ring as it was. -/
namespace Sys2Proof.Machine

open Sys2Proof

/-! ### The arms of the ring commands -/

theorem exec_ringEnable (f r : Fin 4096) (v : Word) (s : State) : exec (.ringEnable f r v) s = execRingEnable f r v s := rfl

theorem exec_ringArm (f r : Fin 4096) (idx : BitVec 32) (s : State) : exec (.ringArm f r idx) s = execRingArm f r idx s := rfl

theorem exec_ringDisarm (f r : Fin 4096) (s : State) : exec (.ringDisarm f r) s = execRingDisarm f r s := rfl

theorem exec_ringPiWrite (f r : Fin 4096) (v : Word) (s : State) :
    exec (.ringPiWrite f r v) s = execRingPiWrite f r v s := rfl

theorem exec_ringCiWrite (f r : Fin 4096) (v : Word) (s : State) :
    exec (.ringCiWrite f r v) s = execRingCiWrite f r v s := rfl

theorem exec_ringHoldStart (f r : Fin 4096) (start : BitVec 32) (count : BitVec 7) (s : State) :
    exec (.ringHoldStart f r start count) s = execRingHoldStart f r start count s := rfl

theorem exec_ringHoldRelease (f r : Fin 4096) (s : State) :
    exec (.ringHoldRelease f r) s = execRingHoldRelease f r s := rfl

theorem exec_doorbellPoll (f r : Fin 4096) (res : ReadResult) (s : State) :
    exec (.doorbellPoll f r res) s = execDoorbellPoll f r res s := rfl

theorem exec_ringEntryFetch (f r : Fin 4096) (s : State) : exec (.ringEntryFetch f r) s = execRingEntryFetch f r s := rfl

theorem exec_entryBegin (f r : Fin 4096) (s : State) : exec (.entryBegin f r) s = execEntryBegin f r s := rfl

theorem exec_nop (e : EntryRef) (s : State) : exec (.nop e) s = execNop e s := rfl

theorem exec_recvBuf (e : EntryRef) (s : State) : exec (.recvBuf e) s = execRecvBuf e s := rfl

theorem exec_notifyRecordWrite (f r : Fin 4096) (s : State) :
    exec (.notifyRecordWrite f r) s = execNotifyRecordWrite f r s := rfl

/-! ### What a register command of a ring may change -/

/-- The registers of a ring that its register commands write. -/
def ringOwnRegs : List RegName :=
  [.RING_CFG, .RING_PI, .RING_CI, .RING_CPI, .RING_STATUS, .RING_HOLD_MASK, .RING_REJECT_COUNT]

/-- The second state is the first but for ring r of function f, its own registers among them, and f's WRITE_STATUS. -/
structure RingFrame (f : Fin 4096) (r : Nat) (s t : State) : Prop where
  regs : ∀ q : Reg, (q.i = f.val ∧ q.j = r ∧ q.name ∈ ringOwnRegs) ∨ t.rd q = s.rd q
  rings : ∀ g k, (g, k) ≠ (f.val, r) → t.ring g k = s.ring g k
  status : ∀ q, q ≠ .func f → t.ws q = s.ws q
  rest : { t with regs := s.regs, rings := s.rings, wstat := s.wstat } = s

namespace RingFrame

variable {f : Fin 4096} {r : Nat} {s t u : State}

theorem refl (s : State) : RingFrame f r s s :=
  ⟨fun _ => .inr rfl, fun _ _ _ => rfl, fun _ _ => rfl, rfl⟩

theorem trans (hst : RingFrame f r s t) (htu : RingFrame f r t u) : RingFrame f r s u where
  regs q := (htu.regs q).elim .inl fun hu => (hst.regs q).imp id hu.trans
  rings g k h := (htu.rings g k h).trans (hst.rings g k h)
  status q h := (htu.status q h).trans (hst.status q h)
  rest := (congrArg (fun x : State => { x with regs := s.regs, rings := s.rings, wstat := s.wstat }) htu.rest).trans hst.rest

/-- A write of one of the ring's own registers. -/
theorem wr (h : RingFrame f r s t) {n : RegName} (v : Word) (hn : n ∈ ringOwnRegs) : RingFrame f r s (t.wr ⟨n, f, r⟩ v) :=
  h.trans {
    regs q := (eq_or_ne q ⟨n, f, r⟩).imp (fun e => by subst e; exact ⟨rfl, rfl, hn⟩) fun hq => State.rd_wr_ne t hq v
    rings _ _ _ := rfl
    status _ _ := rfl
    rest := rfl }

theorem set (h : RingFrame f r s t) (g : RegFld) (v : Nat) (hg : g.reg ∈ ringOwnRegs) : RingFrame f r s (t.set g v f r) :=
  h.wr _ hg

theorem cnt (h : RingFrame f r s t) {n : RegName} (hn : n ∈ ringOwnRegs) : RingFrame f r s (t.cnt n f r) :=
  h.wr _ hn

theorem modRing (h : RingFrame f r s t) (g : RingSt → RingSt) : RingFrame f r s (t.modRing f r g) :=
  h.trans {
    regs _ := .inr rfl
    rings _ _ hk := mget_mset_ne hk _ _ _
    status _ _ := rfl
    rest := rfl }

theorem wsRecord (h : RingFrame f r s t) (st : Status) (off : Nat) : RingFrame f r s (t.wsRecord (.func f) st off) :=
  h.trans {
    regs _ := .inr rfl
    rings _ _ _ := rfl
    status _ hq := mget_mset_ne hq _ _ _
    rest := rfl }

/-- A checked write of a ring register keeps the frame when its effect does: a refused one only records its status. -/
theorem ringWrite (n : RegName) (st : Status) {eff : State → State} (h : RingFrame f r s (eff s)) :
    RingFrame f r s (s.ringWrite f r n st eff) := by
  unfold State.ringWrite State.writeAs
  split
  · exact h.wsRecord ..
  · exact (refl s).wsRecord ..

/-- A part that does not run leaves the state as it is. -/
theorem of_whenRunning {g : State → State} (e : whenRunning g s = .next t) (h : RingFrame f r s (g s)) :
    RingFrame f r s t := by
  cases hrun : s.running with
  | true => cases (whenRunning_run g hrun).symm.trans e; exact h
  | false => cases (whenRunning_not g hrun).symm.trans e; exact refl s

/-! What each command does to its ring. -/

theorem ringCfgWrite (v : Word) : RingFrame f r s (s.ringCfgWrite f r v) := by
  have hcfg : RingFrame f r s (s.wr ⟨.RING_CFG, f, r⟩
      (fieldsAfter RegName.RING_CFG.desc.fields (s.rd ⟨.RING_CFG, f, r⟩) v)) := (refl s).wr _ (by decide)
  unfold State.ringCfgWrite
  split
  · exact (((hcfg.set _ _ (by decide)).set _ _ (by decide)).set _ _ (by decide)).modRing _
  · exact hcfg

theorem ringDisarm : RingFrame f r s (s.ringDisarm f r) := ((refl s).modRing _).set _ _ (by decide)

theorem holdStart (start count : Nat) : RingFrame f r s (s.holdStart f r start count) :=
  (((refl s).set _ _ (by decide)).modRing _).set _ _ (by decide)

theorem ringPiWrite (v : Word) : RingFrame f r s (s.ringPiWrite f r v) := by
  have hwrite (st : Status) : RingFrame f r s (s.ringWrite f r .RING_PI st fun s => s.set F.RING_PI.PI v.toNat f r) :=
    ringWrite _ st ((refl s).set _ _ (by decide))
  unfold State.ringPiWrite
  dsimp only
  split
  · exact (hwrite _).cnt (by decide)
  · exact hwrite _

theorem ringCiWrite (v : Word) : RingFrame f r s (s.ringCiWrite f r v) := by
  have hwrite (st : Status) : RingFrame f r s (s.ringWrite f r .RING_CI st fun s => s.set F.RING_CI.CI v.toNat f r) :=
    ringWrite _ st ((refl s).set _ _ (by decide))
  unfold State.ringCiWrite
  dsimp only
  split
  · exact (hwrite _).cnt (by decide)
  · exact hwrite _

theorem ringHold (start count : Nat) : RingFrame f r s (s.ringHold f r start count) := 
  ringWrite _ _ (holdStart start count)

theorem ringRelease : RingFrame f r s (s.ringRelease f r) :=
  ringWrite _ _ (((refl s).modRing _).set _ _ (by decide))

end RingFrame

/-- Settles O59: each command writes registers of its own ring, its place and the WRITE_STATUS of its function alone. -/
theorem ringRegisterCommandsFrame : Obligations.RingRegisterCommandsFrame := by
  intro s t f r v start count c hc e
  suffices h : RingFrame f r s t from ⟨h.regs, h.rings, h.status, h.rest⟩
  simp only [List.mem_cons, List.not_mem_nil, or_false] at hc
  obtain rfl | rfl | rfl | rfl | rfl | rfl := hc
  · exact .of_whenRunning ((exec_ringEnable ..).symm.trans e) (RingFrame.ringWrite _ _ (RingFrame.ringCfgWrite v))
  · exact .of_whenRunning ((exec_ringPiWrite ..).symm.trans e) (RingFrame.ringPiWrite v)
  · exact .of_whenRunning ((exec_ringCiWrite ..).symm.trans e) (RingFrame.ringCiWrite v)
  · exact .of_whenRunning ((exec_ringHoldStart ..).symm.trans e) (RingFrame.ringHold _ _)
  · exact .of_whenRunning ((exec_ringHoldRelease ..).symm.trans e) RingFrame.ringRelease
  · exact .of_whenRunning ((exec_ringDisarm ..).symm.trans e) (RingFrame.ringWrite _ _ RingFrame.ringDisarm)

/-! ### Register commands that pass their checks (R605) -/

theorem State.windowCheck_ok {s : State} {f : Nat} (hreset : s.inReset f = false) : s.windowCheck f = .ok := by
  rw [State.windowCheck, hreset, if_neg Bool.false_ne_true]

section

variable {s : State} {f r : Fin 4096}

/-- A legal configuration is taken (R218). -/
theorem execRingEnable_accepted {v : Word} (hrun : s.running = true) (hok : s.ringCfgCheck f r v = .ok) :
    execRingEnable f r v s = .next
      ((s.ringCfgWrite f r v).wsRecord (.func f) .ok (Reg.offset ⟨.RING_CFG, f.val, r.val⟩)) := by
  rw [execRingEnable, whenRunning_run _ hrun, hok, State.ringWrite, State.writeAs_ok]

/-- A producer index in range on a ring that the host advances is stored, and nothing is counted (R220, R226). -/
theorem State.ringPiWrite_accepted {v : Word} (hreset : s.inReset f.val = false) (hkind : s.ringKind f r ≠ 4)
    (hpoll : s.on F.RING_CFG.DB_POLL f.val r.val = false) (hrsv : setsRsv RegName.RING_PI.desc.fields v = false)
    (hin : s.piOk f r (v.toNat % 2 ^ 32) = true) :
    s.ringPiWrite f r v =
      (s.set F.RING_PI.PI v.toNat f r).wsRecord (.func f) .ok (Reg.offset ⟨.RING_PI, f.val, r.val⟩) := by
  rw [State.ringPiWrite, firstStatus_ok]
  · rfl
  · simpa [hreset, hkind, hpoll, hrsv] using hin

/-- A consumer index of a notification ring that does not pass PI is stored, and nothing is counted (R224). -/
theorem State.ringCiWrite_accepted {v : Word} (hreset : s.inReset f.val = false) (hkind : s.ringKind f r = 4)
    (hrsv : setsRsv RegName.RING_CI.desc.fields v = false)
    (hin : wsub 32 (v.toNat % 2 ^ 32) (s.ci f r) ≤ wsub 32 (s.pi f r) (s.ci f r)) :
    s.ringCiWrite f r v =
      (s.set F.RING_CI.CI v.toNat f r).wsRecord (.func f) .ok (Reg.offset ⟨.RING_CI, f.val, r.val⟩) := by
  rw [State.ringCiWrite, firstStatus_ok]
  · rfl
  · simpa [hreset, hkind, hrsv] using hin

/-- A hold of up to 64 entries between CPI and PI is taken on a ring without one (R238). -/
theorem State.ringHold_accepted {start count : Nat} (hreset : s.inReset f.val = false)
    (hfree : s.on F.RING_STATUS.HELD f.val r.val = false) (hpos : 1 ≤ count) (hmax : count ≤ 64)
    (hin : wsub 32 start (s.cpi f r) + count ≤ wsub 32 (s.pi f r) (s.cpi f r)) :
    s.ringHold f r start count =
      (s.holdStart f r start count).wsRecord (.func f) .ok (Reg.offset ⟨.RING_HOLD, f.val, r.val⟩) := by
  rw [State.ringHold, firstStatus_ok]
  · rfl
  · simpa [hreset, hfree, Nat.ne_of_gt hpos, hmax] using hin

/-- The release of a ring's hold is taken (R238). -/
theorem State.ringRelease_held (hreset : s.inReset f.val = false) (hheld : s.on F.RING_STATUS.HELD f.val r.val = true) :
    s.ringRelease f r =
      ((s.modRing f r fun x => { x with hold := none }).set F.RING_STATUS.HELD 0 f r).wsRecord (.func f) .ok
        (Reg.offset ⟨.RING_HOLD, f.val, r.val⟩) := by
  rw [State.ringRelease, firstStatus_ok]
  · rfl
  · simp [hreset, hheld]

end

/-! ### Polls, fetches, entries and notification records -/

section

variable {s : State} {f r : Fin 4096}

/-- The doorbell word of a polled ring, not yet read in the tick, is read and kept for the next CK 0 (R227). -/
theorem execDoorbellPoll_read {bs : List Byte} (hrun : s.running = true) (hon : s.ringOn f r = true)
    (hpoll : s.on F.RING_CFG.DB_POLL f.val r.val = true) (hfirst : (s.ring f r).polled = false)
    (hreset : s.inReset f.val = false) :
    execDoorbellPoll f r (.data bs) s = .next
      (((s.hostRead f (s.f F.RING_DB_WORD.ADDR f r * 4) 4).modRing f r fun x => { x with polled := true }).modRing f r fun x =>
        { x with dbValue := some (leNat (bs.take 4)) }) :=
  whenRunning_of_guard hrun (by simp only [hon, hpoll, hfirst, hreset, Bool.not_false, Bool.and_self])

/-- The next entry of a ring is read where its function may fetch ahead and the descriptor cache has room (R236). -/
theorem State.ringFetch_room {i : Nat} (hon : s.ringOn f r = true) (hkind : s.ringKind f r ≠ 4)
    (hreset : s.inReset f.val = false)
    (hdepth : ((s.ring f r).descs.filter fun d => !d.begun).length < s.f F.FUNC_CFG.FETCH_DEPTH f)
    (hnext : s.nextFetch f r = some i) (hroom : s.descUsed < s.descSlots) :
    s.ringFetch f r =
      ((s.set F.RING_STATUS.FETCH_WAIT 0 f r).modRing f r fun x =>
        { x with descs := x.descs ++ [⟨i, none, false, false, false⟩] }).hostRead f (s.entryAddr f r i) 64 := by
  simp only [State.ringFetch, hon, bne_iff_ne.mpr hkind, hreset, decide_eq_true hdepth, Bool.not_false, Bool.and_self, if_true,
    hnext]
  exact if_neg hroom.not_ge

/-- A well-formed entry at CI that is in order and not held back begins (R225). -/
theorem State.entryBegin_wellFormed {i : Nat} {d : BitVec 512} {a b : Bool} (hon : s.ringOn f r = true)
    (hkind : s.ringKind f r ≠ 4) (hquiet : s.fnQuiet f = false) (hsome : s.ci f r ≠ s.pi f r)
    (hd : ((s.ring f r).descs.find? fun y => y.idx == s.ci f r) = some ⟨i, some d, false, a, b⟩)
    (hmay : s.mayBegin f r d = true) (hform : malformed d (s.ringKind f r) = none) :
    s.entryBegin f r =
      (s.modRing f r fun x =>
        { x with descs := x.descs.map fun y => if y.idx = i then { y with begun := true } else y }).set F.RING_CI.CI (i + 1) f r := by
  simp only [State.entryBegin, hon, bne_iff_ne.mpr hkind, bne_iff_ne.mpr hsome, hquiet, Bool.not_false, Bool.and_self, if_true,
    hd, hmay, hform]

/-- A receive buffer of a legal length is posted on a ring of a function without unexpected buffers (R232). -/
theorem execRecvBuf_posted {e : EntryRef} {d : BitVec 512} (hrun : s.running = true) (hd : s.begunEntry e 0x60 = some d)
    (hpos : entryFld d 204 192 ≠ 0) (hmax : entryFld d 204 192 ≤ 4096)
    (hux : (s.takeEntry e).on F.MATCH_CFG.UX_EN e.fn.val = false) :
    execRecvBuf e s = .next ((s.takeEntry e).modRing e.fn e.ring fun x => { x with bufs := x.bufs ++ [e.idx] }) := by
  rw [execRecvBuf, onEntry_begun _ hrun hd]
  exact congrArg _ (if_neg (by simp [hpos, hmax, hux]))

/-- The first record that waits is written once its ring has room (R224). -/
theorem State.noteWrite_room {n : NoteWait} {ns : List NoteWait} (hwait : (s.ring f r).waiting = n :: ns)
    (hroom : s.noteRoom f r = true) (hquiet : s.fnQuiet f = false) :
    s.noteWrite f r = (s.modRing f r fun x => { x with waiting := ns }).notePut f r n := by
  simp only [State.noteWrite, hwait, hroom, hquiet, Bool.not_false, Bool.and_self, if_true]

end

/-! ### The statements -/

/-- Settles O2: each clause is the command's write past the checks that its hypotheses meet. -/
theorem ringRegisterCommandsComplete : Obligations.RingRegisterCommandsComplete := by
  intro s f r hrun hreset
  refine ⟨fun v hok => ?enable, fun idx => ?arm, ?disarm, fun v hkind hpoll hrsv hin => ?producer,
    fun v hkind hrsv hin => ?consumer, fun start count hfree hpos hmax hin => ?hold, fun hheld => ?release⟩
  case enable => rw [exec_ringEnable, execRingEnable_accepted hrun hok]
  case arm => rw [exec_ringArm, execRingArm, whenRunning_run _ hrun, State.windowCheck_ok hreset]; rfl
  case disarm => rw [exec_ringDisarm, execRingDisarm, whenRunning_run _ hrun, State.windowCheck_ok hreset]; rfl
  case producer =>
    rw [exec_ringPiWrite, execRingPiWrite, whenRunning_run _ hrun, State.ringPiWrite_accepted hreset hkind hpoll hrsv hin]
  case consumer =>
    rw [exec_ringCiWrite, execRingCiWrite, whenRunning_run _ hrun, State.ringCiWrite_accepted hreset hkind hrsv hin]
  case hold =>
    rw [exec_ringHoldStart, execRingHoldStart, whenRunning_run _ hrun, State.ringHold_accepted hreset hfree hpos hmax hin]
  case release =>
    rw [exec_ringHoldRelease, execRingHoldRelease, whenRunning_run _ hrun, State.ringRelease_held hreset hheld]

/-- Settles O3: each clause is the row's meaning past the guards that its hypotheses meet. -/
theorem ringEntryCommandsComplete : Obligations.RingEntryCommandsComplete := by
  intro s hrun
  refine ⟨fun f r bs hon hpoll hfirst hreset => ?poll, fun f r i hon hkind hreset hdepth hnext hroom => ?fetch,
    fun f r i d a b hon hkind hquiet hsome hd hmay hform => ?begins, fun e d hd => ?nop,
    fun e d hd hpos hmax hux => ?buffer, fun f r n ns hwait hroom hquiet => ?record⟩
  case poll => rw [exec_doorbellPoll, execDoorbellPoll_read hrun hon hpoll hfirst hreset]
  case fetch =>
    rw [exec_ringEntryFetch, execRingEntryFetch, whenRunning_run _ hrun,
      State.ringFetch_room hon hkind hreset hdepth hnext hroom]
  case begins =>
    rw [exec_entryBegin, execEntryBegin, whenRunning_run _ hrun,
      State.entryBegin_wellFormed hon hkind hquiet hsome hd hmay hform]
  case nop => rw [exec_nop, execNop, onEntry_begun _ hrun hd]
  case buffer => rw [exec_recvBuf, execRecvBuf_posted hrun hd hpos hmax hux]
  case record =>
    rw [exec_notifyRecordWrite, execNotifyRecordWrite, whenRunning_run _ hrun, State.noteWrite_room hwait hroom hquiet]

end Sys2Proof.Machine
end

section
/-! PROOFS. The family of connections and work queues: what doorbells, the fetches of entries of rings and work queues, and
the entries that make, change and end connections do once the guards they stand behind are met (R233, R236, R242, R243,
R254 to R259, R606). -/
namespace Sys2Proof.Machine

open Sys2Proof

/-! ### The arms of these commands -/

theorem exec_cqDoorbell (f : Fin 4096) (v : Word) (s : State) : exec (.cqDoorbell f v) s = execCqDoorbell f v s := rfl

theorem exec_dbBatch (e : EntryRef) (s : State) : exec (.dbBatch e) s = execDbBatch e s := rfl

theorem exec_cwqFetch (c : Fin 16777216) (recv : Bool) (s : State) : exec (.cwqFetch c recv) s = execCwqFetch c recv s := rfl

theorem exec_stampRetry (c : Fin 16777216) (recv : Bool) (s : State) :
    exec (.stampRetry c recv) s = execStampRetry c recv s := rfl

theorem exec_entryFetchComplete (e : FetchRef) (res : ReadResult) (s : State) :
    exec (.entryFetchComplete e res) s = execEntryFetchComplete e res s := rfl

theorem exec_fetchRetry (e : FetchRef) (s : State) : exec (.fetchRetry e) s = execFetchRetry e s := rfl

theorem exec_connCreate (e : EntryRef) (s : State) : exec (.connCreate e) s = execConnCreate e s := rfl

theorem exec_connModify (e : EntryRef) (s : State) : exec (.connModify e) s = execConnModify e s := rfl

theorem exec_connDestroy (e : EntryRef) (s : State) : exec (.connDestroy e) s = execConnDestroy e s := rfl

theorem exec_connDestroyComplete (e : EntryRef) (s : State) :
    exec (.connDestroyComplete e) s = execConnDestroyComplete e s := rfl

/-! ### Doorbells and the reads of a work queue's entries -/

section

variable {s : State} {c : Fin 16777216} {recv : Bool} {x : ConnSt}

/-- A doorbell of the function's own connection, its tail in range, is taken (R242). -/
theorem State.cqDoorbell_accepted {f : Fin 4096} {v : Word} (hok : s.doorbellCheck f v = .ok)
    (hreset : s.inReset f.val = false) (hrsv : setsRsv RegName.CQ_DOORBELL.desc.fields v = false) :
    s.cqDoorbell f v = (s.doorbellTake v).wsRecord (.func f) .ok (Reg.offset ⟨.CQ_DOORBELL, f.val, 0⟩) := by
  rw [State.cqDoorbell, firstStatus_ok]
  · rfl
  · simp [hok, hreset, hrsv]

/-- A queue that wants its entries has them read (R243). -/
theorem execCwqFetch_wanted (hrun : s.running = true) (hx : s.conn c = some x) (hwant : (x.q recv).want = true)
    (hreset : s.inReset x.fn = false) : execCwqFetch c recv s = .next (s.cwqRead c recv false) := by
  rw [execCwqFetch, whenRunning_run _ hrun]
  simp only [hx, hwant, hreset, Bool.not_false, Bool.and_self, if_true]

/-- A queue whose re-reads are due has the entries that missed read again, and those beyond KT while turns are left
(R243). -/
theorem execStampRetry_due (hrun : s.running = true) (hx : s.conn c = some x) (hdue : (x.q recv).due = true)
    (hreset : s.inReset x.fn = false) :
    execStampRetry c recv s = .next
      (let t := ((x.q recv).ents.filter fun e => e.miss).foldl (fun t e => t.hostRead x.fn ((x.q recv).addr e.idx) 64)
        (s.setConn c (x.modQ recv fun q =>
          { q with due := false, turns := q.turns - 1, ents := q.ents.map fun e => { e with miss := false } }))
       if 0 < (x.q recv).turns then t.cwqRead c recv true else t) := by
  rw [execStampRetry, whenRunning_run _ hrun]
  simp only [hx, hdue, hreset, Bool.not_false, Bool.and_self, if_true]

end

/-! ### Reads of entries that end or are repeated -/

/-- The bytes read for an entry of a host ring are kept in its descriptor (R236). -/
theorem State.ringArrive_data {s : State} {e : EntryRef} (bs : List Byte)
    (hflight : ((s.ring e.fn e.ring).descs.any fun d => d.inFlight e.idx) = true) :
    s.ringArrive e (.data bs) = s.modRing e.fn e.ring fun x =>
      { x with descs := x.descs.map fun d => if d.inFlight e.idx then { d with data := some (bits512 bs) } else d } :=
  if_pos hflight

/-- The bytes read for an entry of a work queue of an OPEN connection are kept, and the fetched entries handled (R243). -/
theorem State.workArrive_data {s : State} {e : WorkRef} {x : ConnSt} (bs : List Byte) (hx : s.conn e.conn = some x)
    (hflight : ((x.q e.recv).ents.any fun w => w.inFlight e.idx) = true) (hopen : x.st = 1) :
    s.workArrive e (.data bs) =
      (s.setConn e.conn (x.modQ e.recv fun q => q.mapEnts fun w =>
        if w.inFlight e.idx then { w with data := some (bits512 bs) } else w)).cwqScan e.conn e.recv := by
  simp only [State.workArrive, hx, hflight, hopen, if_true]

/-- A failed read of an entry of a host ring is repeated (R606). -/
theorem State.ringRetry_failed {s : State} {e : EntryRef}
    (hfailed : ((s.ring e.fn e.ring).descs.any fun d => d.idx == e.idx && d.failed) = true)
    (hreset : s.inReset e.fn.val = false) :
    s.ringRetry e =
      (s.modRing e.fn e.ring fun x =>
        { x with descs := x.descs.map fun d => if d.idx = e.idx then { d with failed := false } else d }).hostRead
          e.fn (s.entryAddr e.fn e.ring e.idx) 64 :=
  if_pos (by simp only [hfailed, hreset, Bool.not_false, Bool.and_self])

/-! ### Entries that make, change and end connections -/

section

variable {s : State} {e : EntryRef} {d : BitVec 512} (hrun : s.running = true)

include hrun

/-- A legal connection to a rank that translates is opened, its context in the cache (R254, R255). -/
theorem execConnCreate_opened {t : State} {r : RankDst} (hd : s.begunEntry e 0x01 = some d)
    (hok : (s.takeEntry e).connCheck e.fn (entryFld d 27 16) d = .ok)
    (hrank : (s.takeEntry e).rankTranslate ((s.takeEntry e).fnIe e.fn (entryFld d 87 64)) (entryFld d 27 16)
      (entryFld d 107 88) = (t, some r)) :
    execConnCreate e s = .next
      (((t.setConn (entryFld d 87 64) (t.newConn e.fn (entryFld d 27 16) d r)).ctxUse (entryFld d 87 64)).completeEntry e
        .ok) := by
  rw [execConnCreate, onEntry_begun _ hrun hd]
  simp only [hok, hrank]

/-- A legal new class of a connection that is not in ERROR waits for the tick's end (R257). -/
theorem execConnModify_class {x : ConnSt} (hd : s.begunEntry e 0x02 = some d)
    (hok : (s.takeEntry e).connCmdCheck e.fn (entryFld d 27 16) (entryFld d 87 64) = .ok)
    (hx : (s.takeEntry e).conn (entryFld d 87 64) = some x) (hst : x.st ≠ 2) (hset : d.toNat.testBit 88 = true)
    (hclass : entryFld d 91 89 ≤ 5) :
    execConnModify e s = .next
      (let t := s.takeEntry e
       { t with xp := { t.xp with waits := t.xp.waits ++
           [.modify e (entryFld d 87 64) (some (entryFld d 91 89)) (d.toNat.testBit 92)] } }) := by
  have hlegal : ¬ 5 < entryFld d 91 89 := hclass.not_gt
  rw [execConnModify, onEntry_begun _ hrun hd]
  simp [hok, hx, hst, hset, hlegal, firstStatus]

/-- A connection that its function may command leaves OPEN, to be destroyed for the entry (R258). -/
theorem execConnDestroy_accepted (hd : s.begunEntry e 0x03 = some d)
    (hok : (s.takeEntry e).connCmdCheck e.fn (entryFld d 27 16) (entryFld d 87 64) = .ok) :
    execConnDestroy e s = .next
      (((s.takeEntry e).leaveOpen (entryFld d 87 64) 3 none .aborted).modConn (entryFld d 87 64) fun x =>
        { x with destroy := some e }) := by
  rw [execConnDestroy, onEntry_begun _ hrun hd]
  simp only [hok]

/-- Once nothing of a connection is left, its number becomes free and the entry that destroys it completes (R258). -/
theorem execConnDestroyComplete_drained {c : Nat} {x : ConnSt}
    (hx : (s.xp.conns.find? fun p => p.2.destroy == some e) = some (c, x)) (hpkts : s.connPackets c x = false)
    (hsq : x.sq.idleQ = true) (hrq : x.rq.idleQ = true) :
    execConnDestroyComplete e s = .next
      (({ s with xp := { s.xp with conns := mdel s.xp.conns c
                                   ctxCache := s.xp.ctxCache.filter fun k => k != c } } : State).completeEntry e .ok) := by
  rw [execConnDestroyComplete, whenRunning_run _ hrun, hx]
  simp only [hpkts, hsq, hrq, Bool.not_true, Bool.or_self, Bool.false_eq_true, if_false]

end

/-! ### The statement -/

/-- Settles O6: each clause is the row's meaning past the guards that its hypotheses meet. -/
theorem connectionCommandsComplete : Obligations.ConnectionCommandsComplete := by
  intro s hrun
  refine ⟨fun f v hok hreset hrsv => ?doorbell, fun e d hd => ?batch, fun c recv x hx hwant hreset => ?fetch,
    fun c recv x hx hdue hreset => ?stamps, fun e bs hflight => ?ringRead, fun e bs x hx hflight hopen => ?workRead,
    fun e hfailed hreset => ?retry, fun e d t r hd hok hrank => ?create, fun e d x hd hok hx hst hset hclass => ?modify,
    fun e d hd hok => ?destroy, fun e c x hx hpkts hsq hrq => ?destroyed⟩
  case doorbell => rw [exec_cqDoorbell, execCqDoorbell, whenRunning_run _ hrun, State.cqDoorbell_accepted hok hreset hrsv]
  case batch => rw [exec_dbBatch, execDbBatch, onEntry_begun _ hrun hd]
  case fetch => rw [exec_cwqFetch, execCwqFetch_wanted hrun hx hwant hreset]
  case stamps => rw [exec_stampRetry, execStampRetry_due hrun hx hdue hreset]
  case ringRead =>
    rw [exec_entryFetchComplete, execEntryFetchComplete, whenRunning_run _ hrun]
    exact congrArg _ (State.ringArrive_data bs hflight)
  case workRead =>
    rw [exec_entryFetchComplete, execEntryFetchComplete, whenRunning_run _ hrun]
    exact congrArg _ (State.workArrive_data bs hx hflight hopen)
  case retry =>
    rw [exec_fetchRetry, execFetchRetry, whenRunning_run _ hrun]
    exact congrArg _ (State.ringRetry_failed hfailed hreset)
  case create => rw [exec_connCreate, execConnCreate_opened hrun hd hok hrank]
  case modify => rw [exec_connModify, execConnModify_class hrun hd hok hx hst hset hclass]
  case destroy => rw [exec_connDestroy, execConnDestroy_accepted hrun hd hok]
  case destroyed => rw [exec_connDestroyComplete, execConnDestroyComplete_drained hrun hx hpkts hsq hrq]

end Sys2Proof.Machine
end

section
/-! PROOFS. The family of the bulk movers and of function reset: what the commands of a channel, its bursts, its start, its
lock and its end do once the guards they stand behind are met, and a function's reset (R249, R454 to R467, R618). -/
namespace Sys2Proof.Machine

open Sys2Proof

/-! ### The arms of these commands -/

theorem exec_chGo (rq : Requester) (m : Fin 16) (c : Fin 32) (s : State) : exec (.chGo rq m c) s = execChGo rq m c s := rfl

theorem exec_chAbort (rq : Requester) (m : Fin 16) (c : Fin 32) (s : State) :
    exec (.chAbort rq m c) s = execChAbort rq m c s := rfl

theorem exec_chResume (rq : Requester) (m : Fin 16) (c : Fin 32) (s : State) :
    exec (.chResume rq m c) s = execChResume rq m c s := rfl

theorem exec_chReset (rq : Requester) (m : Fin 16) (c : Fin 32) (s : State) :
    exec (.chReset rq m c) s = execChReset rq m c s := rfl

theorem exec_moverBurstReadComplete (m : Fin 16) (c : Fin 32) (pos : Nat) (res : ReadResult) (wok : Bool) (ck : Nat)
    (s : State) :
    exec (.moverBurstReadComplete m c pos res wok ck) s = execMoverBurstReadComplete m c pos res wok ck s := rfl

theorem exec_moverChannelStart (m : Fin 16) (ck : Nat) (s : State) :
    exec (.moverChannelStart m ck) s = execMoverChannelStart m ck s := rfl

theorem exec_moverLockRetry (m : Fin 16) (s : State) : exec (.moverLockRetry m) s = execMoverLockRetry m s := rfl

theorem exec_moverChannelFinish (m : Fin 16) (c : Fin 32) (ok : Bool) (s : State) :
    exec (.moverChannelFinish m c ok) s = execMoverChannelFinish m c ok s := rfl

theorem exec_functionReset (f : Fin 4096) (s : State) : exec (.functionReset f) s = execFunctionReset f s := rfl

theorem exec_functionResetComplete (f : Fin 4096) (s : State) :
    exec (.functionResetComplete f) s = execFunctionResetComplete f s := rfl

/-! ### Commands of a channel -/

/-- A command of CH_CMD from a requester that the mover block admits has its effect once its own checks pass (R451). -/
theorem State.chCmd_accepted {s : State} {rq : Requester} {m c : Nat} {l : List (Bool × Status)} (eff : State → State)
    (hmay : s.mvAllows rq = true) (hok : firstStatus l = .ok) :
    s.chCmd rq m c l eff = (eff s).wsRecord rq .ok (Reg.offset ⟨.CH_CMD, m, c⟩) := by
  have hst : firstStatus ((!(s.mvAllows rq), .notPermitted) :: l) = .ok := by
    rw [firstStatus, hmay, Bool.not_true, if_neg Bool.false_ne_true, hok]
  rw [State.chCmd, hst, State.writeAs_ok]

section

variable {s : State} {rq : Requester} {m : Fin 16} {c : Fin 32} (hrun : s.running = true) (hmay : s.mvAllows rq = true)

include hrun hmay

/-- A GO whose descriptor passes its checks queues the channel (R456). -/
theorem execChGo_accepted (hok : firstStatus (s.goChecks m c) = .ok) :
    execChGo rq m c s = .next ((s.chGo m c).wsRecord rq .ok (Reg.offset ⟨.CH_CMD, m.val, c.val⟩)) := by
  rw [execChGo, whenRunning_run _ hrun, State.chCmd_accepted _ hmay hok]

/-- An abort ends a channel that is neither IDLE nor ENDING (R463). -/
theorem execChAbort_accepted (hidle : s.chState m c ≠ 0) (hending : s.chState m c ≠ 4) :
    execChAbort rq m c s = .next
      (((s.chanEnd m c 2 false).mvFlush m c).wsRecord rq .ok (Reg.offset ⟨.CH_CMD, m.val, c.val⟩)) := by
  rw [execChAbort, whenRunning_run _ hrun, State.chCmd_accepted _ hmay (firstStatus_ok (by simp [hidle, hending]))]

/-- A HALTED channel between places of the Groundsheet is queued again with fresh retries (R462). -/
theorem execChResume_groundsheet {t : State}
    (ht : t = (s.modChan m c fun x => { x with ending := 0, flush := 0, hole := none, bursts := [], retries := 0 }).set
      F.CH_STATE.STATE 1 m c)
    (hhalted : s.chState m c = 3) (hsrc : (t.srcSide m c).gs = true) (hdst : (t.dstSide m c).gs = true) :
    execChResume rq m c s = .next (t.wsRecord rq .ok (Reg.offset ⟨.CH_CMD, m.val, c.val⟩)) := by
  subst ht
  rw [execChResume, whenRunning_run _ hrun, State.chCmd_accepted _ hmay (firstStatus_ok (by simp [hhalted]))]
  simp only [hsrc, hdst, Bool.not_true, Bool.false_and, Bool.or_self, Bool.false_eq_true, if_false]

/-- A reset of a channel that is not IDLE ends it and discards its bursts (R464). -/
theorem execChReset_busy (hidle : s.chState m c ≠ 0) :
    execChReset rq m c s = .next
      (((s.chanEnd m c 4 true).mvFlush m c).wsRecord rq .ok (Reg.offset ⟨.CH_CMD, m.val, c.val⟩)) := by
  rw [execChReset, whenRunning_run _ hrun, State.chCmd_accepted _ hmay (firstStatus_ok (List.forall_mem_nil _)), if_neg hidle]

end

/-! ### Bursts, starts, locks and ends -/

section

variable {s : State} {m : Fin 16} {c : Fin 32} (hrun : s.running = true)

include hrun

/-- The bytes read for a burst to host memory are kept; then what can be written is, and what can be read (R454). -/
theorem execMoverBurstReadComplete_host {b : Burst} {pos ck : Nat} {bs : List Byte}
    (hb : ((s.chan m c).bursts.find? fun b => b.pos == pos && b.data.isNone) = some b)
    (hdst : s.on F.CH_DST.GS m.val c.val = false) :
    execMoverBurstReadComplete m c pos (.data bs) true ck s = .next
      ((((s.modChan m c fun x => { x with bursts := x.bursts.map fun (y : Burst) =>
          if y.pos = pos then { y with data := some (s.mvData m c b bs) } else y }).mvDrain 32 m c).mvPump 32 m c ck).mvFlush
            m c) := by
  rw [execMoverBurstReadComplete, whenRunning_run _ hrun]
  simp only [hb, hdst, Bool.false_and, Bool.false_eq_true, if_false]

/-- A mover that runs no channel takes the QUEUED one that comes next (R458). -/
theorem execMoverChannelStart_next {ck : Nat} (hfree : s.on F.MV_STATUS.RUNNING m.val = false)
    (hnext : s.mvNext m = some c.val) :
    execMoverChannelStart m ck s = .next
      (((((s.set F.MV_STATUS.CHANNEL c m).set F.MV_STATUS.RUNNING 1 m).set F.CH_STATE.STATE 2 m c).mvLockWait m c).mvPump 32 m
        c ck) := by
  rw [execMoverChannelStart, whenRunning_run _ hrun]
  simp only [hfree, hnext, Bool.false_eq_true, if_false]

/-- A running channel whose lock read still waits tries its lock word and reads what it may (R467). -/
theorem execMoverLockRetry_waiting (hnow : s.mvRunning m = some c.val) (hactive : s.chState m c = 2)
    (hwait : ((s.mvLockTake m c).lock.waiters.any fun w => w.ident == channelIdent m c) = true) :
    execMoverLockRetry m s = .next ((s.mvLockTake m c).mvPump 32 m c 0) := by
  rw [execMoverLockRetry, whenRunning_run _ hrun]
  simp only [hnow, hactive, ne_eq, not_true_eq_false, if_false, hwait, if_true]

/-- A channel to the Groundsheet ends once its writes are issued: it needs no flush read (R459). -/
theorem execMoverChannelFinish_groundsheet {ok : Bool} (hwritten : s.mvWritten m c = true)
    (hdst : s.on F.CH_DST.GS m.val c.val = true) : execMoverChannelFinish m c ok s = .next (s.mvConfirmed m c) := by
  rw [execMoverChannelFinish, whenRunning_run _ hrun]
  simp only [hwritten, hdst, Bool.true_or, if_true]

end

/-! ### The statement -/

/-- Settles O24: each clause is the row's meaning past the guards that its hypotheses meet. -/
theorem moverCommandsComplete : Obligations.MoverCommandsComplete := by
  intro s m c hrun
  refine ⟨fun rq hmay => ⟨fun hok => ?go, fun hidle hending => ?abort, fun hhalted hsrc hdst => ?resume,
      fun hidle => ?channelReset⟩, fun b pos bs ck hb hdst => ?burst, fun ck hfree hnext => ?start,
    fun hnow hactive hwait => ?lock, fun ok hwritten hdst => ?finish, fun f hf => ?reset, fun f hf => ?resetDone⟩
  case go => rw [exec_chGo, execChGo_accepted hrun hmay hok]
  case abort => rw [exec_chAbort, execChAbort_accepted hrun hmay hidle hending]
  case resume => rw [exec_chResume, execChResume_groundsheet hrun hmay rfl hhalted hsrc hdst]
  case channelReset => rw [exec_chReset, execChReset_busy hrun hmay hidle]
  case burst => rw [exec_moverBurstReadComplete, execMoverBurstReadComplete_host hrun hb hdst]
  case start => rw [exec_moverChannelStart, execMoverChannelStart_next hrun hfree hnext]
  case lock => rw [exec_moverLockRetry, execMoverLockRetry_waiting hrun hnow hactive hwait]
  case finish => rw [exec_moverChannelFinish, execMoverChannelFinish_groundsheet hrun hwritten hdst]
  case reset =>
    show execFunctionReset f s = _
    exact whenRunning_of_guard hrun hf
  case resetDone =>
    show execFunctionResetComplete f s = _
    exact whenRunning_of_guard hrun hf

end Sys2Proof.Machine
end

section
/-! PROOFS. The family of connections and remote memory access: what the entries of memory regions, trigger counters and
datagrams, the work entries of a connection, and its timers and completions do once the guards they stand behind are met
(R231, R255, R256, R269 to R288, R306, R313, R421, R614), and the layout of the work queue doorbell (R252). -/
namespace Sys2Proof.Machine

open Sys2Proof

/-! ### The arms of these commands -/

theorem exec_mrRegister (e : EntryRef) (s : State) : exec (.mrRegister e) s = execMrRegister e s := rfl

theorem exec_mrRevoke (e : EntryRef) (s : State) : exec (.mrRevoke e) s = execMrRevoke e s := rfl

theorem exec_mrRevokeComplete (e : EntryRef) (s : State) : exec (.mrRevokeComplete e) s = execMrRevokeComplete e s := rfl

theorem exec_trigCounterSet (e : EntryRef) (s : State) : exec (.trigCounterSet e) s = execTrigCounterSet e s := rfl

theorem exec_dgSend (e : EntryRef) (payload : ReadResult) (s : State) :
    exec (.dgSend e payload) s = execDgSend e payload s := rfl

theorem exec_mcSend (e : EntryRef) (payload : ReadResult) (s : State) :
    exec (.mcSend e payload) s = execMcSend e payload s := rfl

theorem exec_recvMatch (e : EntryRef) (s : State) : exec (.recvMatch e) s = execRecvMatch e s := rfl

theorem exec_put (e : WorkRef) (s : State) : exec (.put e) s = execPut e s := rfl

theorem exec_get (e : WorkRef) (s : State) : exec (.get e) s = execGet e s := rfl

theorem exec_send (e : WorkRef) (s : State) : exec (.send e) s = execSend e s := rfl

theorem exec_sendMatched (e : WorkRef) (s : State) : exec (.sendMatched e) s = execSendMatched e s := rfl

theorem exec_atomic (e : WorkRef) (s : State) : exec (.atomic e) s = execAtomic e s := rfl

theorem exec_atomicOpComplete (c : Fin 16777216) (psn : BitVec 24) (res : ReadResult) (s : State) :
    exec (.atomicOpComplete c psn res) s = execAtomicOpComplete c psn res s := rfl

theorem exec_contextFetchComplete (c : Fin 16777216) (ok : Bool) (s : State) :
    exec (.contextFetchComplete c ok) s = execContextFetchComplete c ok s := rfl

theorem exec_remoteFlushComplete (c : Fin 16777216) (psn : BitVec 24) (ok : Bool) (s : State) :
    exec (.remoteFlushComplete c psn ok) s = execRemoteFlushComplete c psn ok s := rfl

theorem exec_retxSelective (c : Fin 16777216) (psn : BitVec 24) (s : State) :
    exec (.retxSelective c psn) s = execRetxSelective c psn s := rfl

theorem exec_rtoExpire (c : Fin 16777216) (s : State) : exec (.rtoExpire c) s = execRtoExpire c s := rfl

theorem exec_rnrRetry (c : Fin 16777216) (psn : BitVec 24) (s : State) :
    exec (.rnrRetry c psn) s = execRnrRetry c psn s := rfl

theorem exec_payloadReadComplete (c : Fin 16777216) (uid : Nat) (res : ReadResult) (s : State) :
    exec (.payloadReadComplete c uid res) s = execPayloadReadComplete c uid res s := rfl

/-! ### Memory regions and trigger counters -/

/-- A write of the Groundsheet leaves connections and their waiting commands as they are. -/
@[simp] theorem State.gsPuts_xp (s : State) (off : Nat) (bs : List Byte) : (s.gsPuts off bs).xp = s.xp := by
  rw [State.gsPuts]
  dsimp only
  split
  · rfl
  · split
    · split <;> rfl
    · rfl

@[simp] theorem State.setKey_xp (s : State) (i : Nat) (k : BitVec 128) : (s.setKey i k).xp = s.xp := State.gsPuts_xp ..

section

variable {s : State} {e : EntryRef} {d : BitVec 512} (hrun : s.running = true)

include hrun

/-- A legal host region takes a free key, or else a revoked one, under its next tag (R283). -/
theorem execMrRegister_host {i : Nat} (hd : s.begunEntry e 0x08 = some d)
    (hbound : (s.takeEntry e).jobBound e.fn (entryFld d 27 16) = true) (hhost : d.toNat.testBit 175 = false)
    (halign : entryFld d 127 64 % 4096 = 0) (hlen : entryFld d 171 128 ≠ 0) (hkey : (s.takeEntry e).keyIndex e.fn = some i) :
    execMrRegister e s = .next
      (let t := s.takeEntry e
       let tag := wadd 14 (L.KEY.TAG.get (t.key i)) 1
       (t.setKey i (BitVec.ofNat 128 (entryFld d 127 64 / 4096 + entryFld d 171 128 * 2 ^ 52 + entryFld d 27 16 * 2 ^ 96 +
         tag * 2 ^ 108 + entryFld d 175 172 * 2 ^ 122 + 2 ^ 126))).completeEntry e .ok 0 (i + tag * 2 ^ 18)) := by
  rw [execMrRegister, onEntry_begun _ hrun hd]
  dsimp only
  rw [if_pos (firstStatus_ok (by simp [hbound, hhost, halign, hlen, hkey])), hkey, Option.getD_some]

/-- The revoke of a valid key of the entry's own job slot waits for the tick's end (R285). -/
theorem execMrRevoke_valid (hd : s.begunEntry e 0x09 = some d)
    (hright : (s.takeEntry e).keyWrong e.fn (entryFld d 95 64) = false)
    (hvalid : (s.takeEntry e).keyState (entryFld d 95 64 % 2 ^ 18) < 2) (hnone : (s.takeEntry e).xp.waits = [])
    (hslot : L.KEY.JOB_SLOT.get ((s.takeEntry e).key (entryFld d 95 64 % 2 ^ 18)) = entryFld d 27 16) :
    execMrRevoke e s = .next
      (let t := s.takeEntry e
       { t with xp := { t.xp with waits := t.xp.waits ++ [.revoke e (entryFld d 95 64 % 2 ^ 18) 0] } }) := by
  rw [execMrRevoke, onEntry_begun _ hrun hd]
  dsimp only
  rw [if_pos (firstStatus_ok (by simp [-Nat.reducePow, hright, hvalid.not_ge, hnone, hslot]))]

/-- Once no connection holds the key of a revoke past its boundary, the key is revoked behind a flush read and the entry
completes (R285). -/
theorem execMrRevokeComplete_released {i : Nat} (hwait : s.xp.waits = [.revoke e i 1])
    (hfree : (s.xp.conns.any fun p => p.2.holdsKey i) = false) :
    execMrRevokeComplete e s = .next
      (let t := (s.emit (.hostFlush e.fn 0)).setKey i (L.KEY.STATE.set ((s.emit (.hostFlush e.fn 0)).key i) 3)
       ({ t with xp := { t.xp with waits := [] } } : State).completeEntry e .ok) := by
  rw [execMrRevokeComplete, whenRunning_run _ hrun]
  simp [hwait, hfree]

/-- A valid counter of the entry's job slot, or one that is not valid, is set at once; its watch is checked and what waits
on it fires (R287). -/
theorem execTrigCounterSet_valued (hd : s.begunEntry e 0x0A = some d)
    (hrange : (s.takeEntry e).trgInRange e.fn (entryFld d 79 64) = true)
    (hbound : (s.takeEntry e).jobBound e.fn (entryFld d 27 16) = true)
    (hinvalid : L.TRG.VALID.on ((s.takeEntry e).trg (entryFld d 79 64)) = false) (hset : d.toNat.testBit 80 = true)
    (hvalue : d.toNat.testBit 83 = true) :
    execTrigCounterSet e s = .next
      (let t := (s.takeEntry e).setTrg (entryFld d 79 64)
        (BitVec.ofNat 128 (entryFld d 191 128 + entryFld d 27 16 * 2 ^ 64 + 2 ^ 76 + entryFld d 82 81 * 2 ^ 77))
       ((t.watchCheck (entryFld d 79 64)).fireTriggers (entryFld d 79 64)).completeEntry e .ok) := by
  rw [execTrigCounterSet, onEntry_begun _ hrun hd]
  dsimp only
  rw [firstStatus_ok (by simp [hrange, hbound, hinvalid]), if_neg (not_not.mpr rfl), if_pos hset, if_pos hvalue]

/-! ### Datagrams and matched receives -/

/-- A datagram to a rank that translates is handed to the function's own endpoint (R231, R614). -/
theorem execDgSend_ranked {payload : ReadResult} {t : State} {dst : RankDst} (hd : s.begunEntry e 0x40 = some d)
    (hrank : (s.takeEntry e).rankTranslate ((s.takeEntry e).fnIe e.fn 0) (entryFld d 27 16) (entryFld d 83 64) = (t, some dst))
    (hok : (s.takeEntry e).dgCheck e d false false = .ok) :
    execDgSend e payload s = .next
      (t.dgQueue e d ((s.takeEntry e).fnIe e.fn 0) (t.netHdr dst.node dst.ep (t.fnEp e.fn) (t.jobId (entryFld d 27 16)) 0
        (t.f F.RING_CFG.TC e.fn e.ring) (dst.pinned || d.toNat.testBit 111) none (16 + entryFld d 108 96)) 0x0B payload) := by
  rw [execDgSend, onEntry_begun _ hrun hd]
  simp only [hrank, Option.isNone_some, hok, Option.getD_some]

/-- A multicast datagram to a valid group of the entry's job is handed to the function's own endpoint (R109, R231, R614). -/
theorem execMcSend_grouped {payload : ReadResult} {t : State} {m : BitVec 512} (hd : s.begunEntry e 0x41 = some d)
    (hread : (s.takeEntry e).mcgRead ((s.takeEntry e).homeHub e.fn) (entryFld d 77 64) = (t, m)) (hvalid : mcgValid m = true)
    (hjob : L.MCG.JOB.get m = (s.takeEntry e).jobId (entryFld d 27 16))
    (hok : (s.takeEntry e).dgCheck e d false false = .ok) :
    execMcSend e payload s = .next
      (t.dgQueue e d ((s.takeEntry e).fnIe e.fn 0) (t.netHdr t.own 0 (t.fnEp e.fn) (t.jobId (entryFld d 27 16)) 2 6
        (d.toNat.testBit 111) (some (entryFld d 77 64)) (16 + entryFld d 108 96)) 0x0C payload) := by
  rw [execMcSend, onEntry_begun _ hrun hd]
  simp only [hread, hvalid, hjob, Bool.not_true, bne_self_eq_false, Bool.or_self, hok]

/-- A receive of a bound job slot that names a notification ring is posted (R303, R306). -/
theorem execRecvMatch_posted (hd : s.begunEntry e 0x61 = some d)
    (hbound : (s.takeEntry e).jobBound e.fn (entryFld d 27 16) = true)
    (hring : (s.takeEntry e).ringIs e.fn (L.RM.NRING.get d) 4 = true) :
    execRecvMatch e s = .next ((s.takeEntry e).recvMatch e d) := by
  rw [execRecvMatch, onEntry_begun _ hrun hd]
  dsimp only
  rw [if_pos (firstStatus_ok (by simp [hbound, hring]))]

end

/-- Settles O7: each clause is the row's meaning past the checks that its hypotheses meet. -/
theorem regionAndDatagramCommandsComplete : Obligations.RegionAndDatagramCommandsComplete := by
  intro s e d hrun
  refine ⟨fun i hd hbound hhost halign hlen hkey => ?register, fun hd hright hvalid hnone hslot => ?revoke,
    fun i hwait hfree => ?revoked, fun hd hrange hbound hinvalid hset hvalue => ?counter,
    fun payload t dst hd hrank hok => ?datagram, fun payload t m hd hread hvalid hjob hok => ?multicast,
    fun hd hbound hring => ?receive⟩
  case register => rw [exec_mrRegister, execMrRegister_host hrun hd hbound hhost halign hlen hkey]
  case revoke => rw [exec_mrRevoke, execMrRevoke_valid hrun hd hright hvalid hnone hslot]
  case revoked =>
    rw [exec_mrRevokeComplete, execMrRevokeComplete_released hrun hwait hfree]
    simp [hwait]
  case counter => rw [exec_trigCounterSet, execTrigCounterSet_valued hrun hd hrange hbound hinvalid hset hvalue]
  case datagram => rw [exec_dgSend, execDgSend_ranked hrun hd hrank hok]
  case multicast => rw [exec_mcSend, execMcSend_grouped hrun hd hread hvalid hjob hok]
  case receive => rw [exec_recvMatch, execRecvMatch_posted hrun hd hbound hring]

/-! ### Work entries -/

/-- A work entry of an OPEN connection that is well formed, passes its check and waits for no counter begins (R247, R266,
R288). -/
theorem State.workTurn_begins {s : State} {c : Nat} {x : ConnSt} {w : WorkEnt} {d : BitVec 512} (hopen : x.st = 1)
    (hform : workMalformed d false = none) (hspan : x.span < 16) (hok : s.sendCheck x d = .ok)
    (hwait : s.trigWaits d = false) : s.workTurn c x w d = s.sendEntry c x w d := by
  rw [State.workTurn, if_neg (not_not.mpr hopen)]
  simp only [hform, if_neg hspan.not_ge, hok, hwait, Bool.false_eq_true, if_false]

/-- The row of the opcode that the head entry of a send queue carries gives that entry its turn (R277 to R281, R313). -/
theorem State.workBegin_head {s : State} {e : WorkRef} {x : ConnSt} {d : BitVec 512} {op : Nat}
    {failed miss posted begun : Bool} (hx : s.conn e.conn = some x) (hsend : e.recv = false) (hquiet : s.fnQuiet x.fn = false)
    (hst : x.st ≠ 3) (hhead : x.headEntry = some ⟨e.idx, some d, failed, miss, posted, begun⟩) (hop : entryFld d 7 0 = op) :
    s.workBegin e op = s.workTurn e.conn x ⟨e.idx, some d, failed, miss, posted, begun⟩ d := by
  simp [State.workBegin, hx, hsend, hquiet, hst, hhead, hop]

/-- Settles O8: the row of the entry's opcode gives the head entry its turn, and at its turn the entry begins. -/
theorem workEntriesComplete : Obligations.WorkEntriesComplete := by
  intro s e x d miss posted begun hrun hx hsend hquiet hopen hhead hform hspan hok hwait
  have hbegin {op : Nat} (hop : entryFld d 7 0 = op) :
      whenRunning (fun t => t.workBegin e op) s = .next (s.sendEntry e.conn x ⟨e.idx, some d, false, miss, posted, begun⟩ d) := by
    rw [whenRunning_run _ hrun, State.workBegin_head hx hsend hquiet (by simp [hopen]) hhead hop,
      State.workTurn_begins hopen hform hspan hok hwait]
  refine ⟨fun hop => ?put, fun hop => ?get, fun hop => ?send, fun hop => ?sendMatched, fun hop => ?atomic⟩
  case put => rw [exec_put, execPut, hbegin hop]
  case get => rw [exec_get, execGet, hbegin hop]
  case send => rw [exec_send, execSend, hbegin hop]
  case sendMatched => rw [exec_sendMatched, execSendMatched, hbegin hop]
  case atomic => rw [exec_atomic, execAtomic, hbegin hop]

/-! ### Timers and completions of a connection -/

section

variable {s : State} {c : Fin 16777216} {x : ConnSt} (hrun : s.running = true) (hx : s.conn c = some x)

include hrun hx

/-- The old value that an atomic operation reads goes back in its response (R281). -/
theorem execAtomicOpComplete_data {psn : BitVec 24} {bs : List Byte} {p : Packet}
    (hp : (x.atomics.find? fun p => p.psn == psn.toNat) = some p) :
    execAtomicOpComplete c psn (.data bs) s = .next
      ((s.setConn c { x with atomics := x.atomics.filter fun q => q.psn != psn.toNat }).atomicResp c x p
        (leNat (bs.take 8)) 0) := by
  rw [execAtomicOpComplete, whenRunning_run _ hrun]
  simp only [hx, hp]

/-- A packet that waited for its connection's context is handled, or refused where the connection is no longer OPEN. -/
def State.recvWaiting (c : Nat) (s : State) (p : Packet) : State :=
  match s.conn c with
  | some y => if y.st = 1 then s.recvConn c (s.fnIe y.fn c) y p else s.refuse c y p .badState
  | none => s

/-- Once the context has arrived, the packets that wait for it are handled in their order (R255, R256). -/
theorem execContextFetchComplete_ok {p : Packet} {ps : List Packet} (hwait : x.ctxWait = p :: ps) :
    execContextFetchComplete c true s = .next
      ((p :: ps).foldl (State.recvWaiting c) ((s.setConn c { x with ctxWait := [] }).ctxUse c)) := by
  rw [execContextFetchComplete, whenRunning_run _ hrun]
  simp only [hx, hwait, List.isEmpty_cons, Bool.false_eq_true, if_false, if_true]
  rfl

/-- A flush read that succeeds marks the final packet received and ends its message (R277). -/
theorem execRemoteFlushComplete_ok {psn : BitVec 24} {m : RMsg}
    (hm : (x.rmsgs.find? fun m => m.flush == 2 && m.flushPsn == psn.toNat) = some m) :
    execRemoteFlushComplete c psn true s = .next ((s.markRecv c psn.toNat).finishR c m) := by
  rw [execRemoteFlushComplete, whenRunning_run _ hrun]
  simp only [hx, hm, if_true]

/-- A missing packet whose resend is due is sent again and counted (R269). -/
theorem execRetxSelective_due {psn : BitVec 24} {q : SentPkt} (hq : (x.sent.find? fun q => q.psn == psn.toNat) = some q)
    (hopen : x.st = 1) (hmissing : x.missing q = true)
    (hdue : max 16 x.srtt ≤ ((16 * (s.turnovers - q.sentAt) : Nat) : Int)) (hquiet : s.fnQuiet x.fn = false) :
    execRetxSelective c psn s = .next (((s.cnt .RETX_SELECTIVE_COUNT).resend c psn.toNat).sendReread c) := by
  rw [execRetxSelective, whenRunning_run _ hrun]
  simp only [hx, hq]
  rw [if_pos ⟨hopen, hmissing, hdue, by simp [hquiet]⟩]

/-- A timeout short of the limit, its interval frozen, sends up to the smallest window of what is not acknowledged again
(R270). -/
theorem execRtoExpire_frozen (hopen : x.st = 1) (hunacked : (x.sent.filter fun q => !q.acked).isEmpty = false)
    (hdue : x.rto ≤ s.turnovers - x.progress) (hquiet : s.fnQuiet x.fn = false)
    (hfreeze : s.on F.TP_RTO_CFG.RTO_FREEZE = true) (hlimit : x.timeouts + 1 < s.f F.TP_RTO_CFG.RETRY_LIMIT) :
    execRtoExpire c s = .next
      ((((x.sent.filter fun q => !q.acked).take (s.fa F.TP_CC_CFG.W_MIN)).foldl (fun s q => s.resend c q.psn)
        ((s.cnt .RETX_TIMEOUT_COUNT).setConn c
          { x with rto := x.rto, timedOut := true, timeouts := x.timeouts + 1, progress := s.turnovers })).sendReread c) := by
  have hcntFreeze : (s.cnt .RETX_TIMEOUT_COUNT).on F.TP_RTO_CFG.RTO_FREEZE = true := by
    rw [State.on_cnt _ _ _ _ _ _ _ _ (by decide), hfreeze]
  have hcntLimit : (s.cnt .RETX_TIMEOUT_COUNT).f F.TP_RTO_CFG.RETRY_LIMIT = s.f F.TP_RTO_CFG.RETRY_LIMIT :=
    State.f_cnt _ _ _ _ _ _ _ _ (by decide)
  have hcntTurnovers : (s.cnt .RETX_TIMEOUT_COUNT).turnovers = s.turnovers := State.f_cnt _ _ _ _ _ _ _ _ (by decide)
  rw [execRtoExpire, whenRunning_run _ hrun]
  simp only [hx]
  rw [if_pos ⟨hopen, by simp only [hunacked, Bool.not_false], hdue, by simp only [hquiet, Bool.not_false]⟩]
  simp only [hcntFreeze, hcntTurnovers, State.setConn_f, State.setConn_fa, State.fa_cnt, hcntLimit, if_true,
    if_neg hlimit.not_ge]

/-- A packet refused for want of a buffer is sent again once RNR_TICKS turnovers have passed (R279). -/
theorem execRnrRetry_due {psn : BitVec 24} {q : SentPkt} {t : Nat} (hsent : q ∈ x.sent) (hpsn : q.psn = psn.toNat)
    (hrnr : q.rnrAt = some t) (hdue : s.f F.TP_RETRY_CFG.RNR_TICKS ≤ s.turnovers - t) (hopen : x.st = 1)
    (hquiet : s.fnQuiet x.fn = false) : execRnrRetry c psn s = .next (s.resend c psn.toNat) := by
  rw [execRnrRetry, whenRunning_run _ hrun]
  simp only [hx]
  rw [if_pos]
  rw [List.any_eq_true.mpr ⟨q, hsent, by simp [hpsn, hrnr, hdue]⟩, hopen, hquiet]
  rfl

/-- The bytes read for a packet's payload are kept in it, and what can now be sent is sent (R421). -/
theorem execPayloadReadComplete_data {uid : Nat} {bs : List Byte} {u : TxUnit}
    (hu : ((x.txq ++ x.sent.map fun q => q.u).find? fun u => u.uid == uid && u.asked && u.payload.isNone) = some u) :
    execPayloadReadComplete c uid (.data bs) s = .next
      (((s.setConn c (x.mapUid uid fun v => { v with payload := some (filled v.len bs v.fill) })).pumpAll c).sendReread c) := by
  rw [execPayloadReadComplete, whenRunning_run _ hrun]
  simp only [hx, hu]

end

/-- Settles O10: each clause is the row's meaning past the guards that its hypotheses meet. -/
theorem transportTimersComplete : Obligations.TransportTimersComplete := by
  intro s c x hrun hx
  refine ⟨fun psn bs p hp => ?atomic, fun p ps hwait => ?context, fun psn m hm => ?flush,
    fun psn q hq hopen hmissing hdue hquiet => ?selective, fun hopen hunacked hdue hquiet hfreeze hlimit => ?timeout,
    fun psn q t hsent hpsn hrnr hdue hopen hquiet => ?refused, fun uid bs u hu => ?payload⟩
  case atomic => rw [exec_atomicOpComplete, execAtomicOpComplete_data hrun hx hp]
  case context =>
    rw [exec_contextFetchComplete]
    exact execContextFetchComplete_ok hrun hx hwait
  case flush => rw [exec_remoteFlushComplete, execRemoteFlushComplete_ok hrun hx hm]
  case selective => rw [exec_retxSelective, execRetxSelective_due hrun hx hq hopen hmissing hdue hquiet]
  case timeout => rw [exec_rtoExpire, execRtoExpire_frozen hrun hx hopen hunacked hdue hquiet hfreeze hlimit]
  case refused =>
    have hmem : q ∈ x.sent := hsent ▸ List.mem_singleton.mpr rfl
    rw [exec_rnrRetry, execRnrRetry_due hrun hx hmem hpsn hrnr hdue hopen hquiet]
  case payload => rw [exec_payloadReadComplete, execPayloadReadComplete_data hrun hx hu]

/-! ### The work queue doorbell -/

/-- A mask of `k` bits from bit `lo` on keeps a number's bits there. -/
theorem and_mask_shiftLeft (n k lo : Nat) : n &&& (2 ^ k - 1) <<< lo = n / 2 ^ lo % 2 ^ k * 2 ^ lo := by
  rw [← Nat.shiftRight_eq_div_pow, ← Nat.shiftLeft_eq]
  refine Nat.eq_of_testBit_eq fun i => ?_
  by_cases hi : lo ≤ i
  · simp [hi, Bool.and_comm]
  · simp [hi]

/-- The doorbell's reserved bits are 31:25 (R252). -/
theorem rsvMask_cqDoorbell : rsvMask RegName.CQ_DOORBELL.desc.fields = (2 ^ 7 - 1) <<< 25 := by decide

/-- Settles O57: the fields of CQ_DOORBELL, and the seven bits that none of them covers. -/
theorem doorbellLayout : Obligations.DoorbellLayout := by
  intro v
  refine ⟨?conn, ?queue, ?tail, ?reserved⟩
  case conn => rfl
  case queue =>
    rw [Nat.testBit_eq_decide_div_mod_eq, ← Nat.shiftRight_eq_div_pow]
    show (v.toNat >>> 24 % 2 ^ 1 % 2 == 1) = _
    rw [Nat.pow_one, Nat.mod_mod, beq_eq_decide]
  case tail =>
    have hv : v.toNat < 2 ^ 64 := v.isLt
    show v.toNat >>> 32 % 2 ^ 32 = _
    rw [Nat.shiftRight_eq_div_pow]
    omega
  case reserved =>
    rw [setsRsv, rsvMask_cqDoorbell, and_mask_shiftLeft, bne_iff_ne]
    omega

end Sys2Proof.Machine
end

section
/-! PROOFS. The family of collectives: what the packets, the entries and the timers of the collective engine do once the
guards they stand behind are met (R332 to R349). -/
namespace Sys2Proof.Machine

open Sys2Proof

/-! ### The arms of these commands -/

theorem exec_collUpReceive (ie : Fin 16) (s : State) : exec (.collUpReceive ie) s = execCollUpReceive ie s := rfl

theorem exec_collDownReceive (ie : Fin 16) (s : State) : exec (.collDownReceive ie) s = execCollDownReceive ie s := rfl

theorem exec_collMarkReceive (ie : Fin 16) (s : State) : exec (.collMarkReceive ie) s = execCollMarkReceive ie s := rfl

theorem exec_collAbortReceive (ie : Fin 16) (s : State) : exec (.collAbortReceive ie) s = execCollAbortReceive ie s := rfl

theorem exec_collFoldDone (mg : BitVec 14) (seq : BitVec 16) (stage : Fin 8) (slice : Nat) (s : State) :
    exec (.collFoldDone mg seq stage slice) s = execCollFoldDone mg seq stage slice s := rfl

theorem exec_collStageTimeout (mg : BitVec 14) (seq : BitVec 16) (s : State) :
    exec (.collStageTimeout mg seq) s = execCollStageTimeout mg seq s := rfl

theorem exec_collTombstoneExpire (mg : BitVec 14) (seq : BitVec 16) (s : State) :
    exec (.collTombstoneExpire mg seq) s = execCollTombstoneExpire mg seq s := rfl

theorem exec_collOrphanExpire (mg : BitVec 14) (seq : BitVec 16) (s : State) :
    exec (.collOrphanExpire mg seq) s = execCollOrphanExpire mg seq s := rfl

theorem exec_collPost (e : EntryRef) (operand : ReadResult) (s : State) :
    exec (.collPost e operand) s = execCollPost e operand s := rfl

/-! ### Packets of the collective service -/

section Admitted

/-! A packet at the head of an IE port that is admitted at the service's endpoint and carries as many bytes as it says. -/

variable {s t : State} {ie : Fin 16} {p : Packet}
  (hadm : (s.ejPop ie).admission p.job p.dstEp = (t, none)) (hep : p.dstEp = 62)
  (hlen : L.NET.PLEN.get p.net = 32 + p.payload.length)

include hadm hep hlen

/-- Such a packet is handed to its row (R73, R341). -/
theorem State.collReceive_admitted {row : Nat} (g : Packet → State → State) (hp : s.ejFor ie row = some p) :
    s.collReceive ie row g = g p t := by
  rw [State.collReceive, hp]
  simp only [hadm]
  exact if_neg (by simp [hep, hlen])

variable (hrun : s.running = true)

include hrun

/-- A partial is accepted by the service (R344). -/
theorem execCollUpReceive_admitted (hp : s.ejFor ie 5 = some p) : execCollUpReceive ie s = .next (t.collAccept ie p) := by
  rw [execCollUpReceive, whenRunning_run _ hrun, State.collReceive_admitted hadm hep hlen _ hp]

/-- A result is accepted by the service (R347). -/
theorem execCollDownReceive_admitted (hp : s.ejFor ie 6 = some p) :
    execCollDownReceive ie s = .next (t.collAccept ie p) := by
  rw [execCollDownReceive, whenRunning_run _ hrun, State.collReceive_admitted hadm hep hlen _ hp]

/-- A root's mark is accepted by the service (R343, R347). -/
theorem execCollMarkReceive_admitted (hp : s.ejFor ie 7 = some p) :
    execCollMarkReceive ie s = .next (t.collAccept ie p) := by
  rw [execCollMarkReceive, whenRunning_run _ hrun, State.collReceive_admitted hadm hep hlen _ hp]

/-- An abort ends a live instance with the status it carries, and is not told on (R348). -/
theorem execCollAbortReceive_live {i : CInst} (hp : s.ejFor ie 8 = some p) (hi : t.inst p.mg p.seq = some i)
    (htomb : i.tomb = none) (hopen : i.complete = false) :
    execCollAbortReceive ie s = .next
      ((t.cnt .COLL_ABORT_RECV_COUNT).collAbort p.mg p.seq (p.th 119 112) false) := by
  rw [execCollAbortReceive, whenRunning_run _ hrun, State.collReceive_admitted hadm hep hlen _ hp]
  simp only [hi, htomb, hopen, Option.isSome_none, Bool.or_self, Bool.false_eq_true, if_false]

end Admitted

/-! ### Folds and time limits -/

section

variable {s : State} {mg : BitVec 14} {seq : BitVec 16} {i : CInst} (hrun : s.running = true)
  (hi : s.inst mg.toNat seq.toNat = some i)

include hrun hi

/-- A slice whose fold ends at the node that is its own parent is an input of the next stage (R339, R344, R345). -/
theorem execCollFoldDone_ownParent {stage : Fin 8} {slice : Nat} {p : CParams} {x y : CInput} {t : State}
    (hpar : i.par = some p) (hfold : i.folds.contains (stage.val, slice) = true)
    (hx : foldInputs p (i.at stage slice) = some x)
    (hnext : ((s.setInst { i.folded stage slice with progress := s.turnovers }).perf (s.collIe mg.toNat / 4) 0x60
      (s.collIe mg.toNat) 0 1).collNext i p x = (t, some y)) :
    execCollFoldDone mg seq stage slice s = .next (t.collInput i.mg i.seq 1 y) := by
  rw [execCollFoldDone, whenRunning_run _ hrun]
  simp only [hi, hpar, hfold, hx, hnext, if_true]

/-- An instance with posts that makes no progress in time aborts with TIMEOUT and tells its group (R348). -/
theorem execCollStageTimeout_due (hposts : i.posts.isEmpty = false) (htomb : i.tomb = none)
    (hopen : i.complete = false) (hdue : s.collPassed i.progress = true) :
    execCollStageTimeout mg seq s = .next (s.collAbort i.mg i.seq Status.timeout.code true) := by
  rw [execCollStageTimeout, whenRunning_run _ hrun]
  simp [hi, hposts, htomb, hopen, hdue]

/-- The tombstone of an aborted instance goes in time (R348). -/
theorem execCollTombstoneExpire_due {t : Nat} (htomb : i.tomb = some t) (hdue : s.collPassed t = true) :
    execCollTombstoneExpire mg seq s = .next (s.dropInst i.mg i.seq) := by
  rw [execCollTombstoneExpire, whenRunning_run _ hrun]
  simp only [hi, htomb, hdue, if_true]

/-- An instance that no post joins in time is dropped and counted (R349). -/
theorem execCollOrphanExpire_due (hpar : i.par = none) (htomb : i.tomb = none) (hdue : s.collPassed i.born = true) :
    execCollOrphanExpire mg seq s = .next ((s.dropInst i.mg i.seq).cnt .COLL_ORPHAN_COUNT) := by
  rw [execCollOrphanExpire, whenRunning_run _ hrun]
  simp [hi, hpar, htomb, hdue]

end

/-! ### Posts -/

/-- The first post of an instance that passes its check, with an operand that lies in host memory alone, joins the
instance with what the host returned (R332 to R334). -/
theorem execCollPost_first {s t : State} {e : EntryRef} {d : BitVec 512} (bs : List Byte) (hrun : s.running = true)
    (hd : s.begunEntry e 0x48 = some d)
    (hok : (s.takeEntry e).postCheck e d ((s.takeEntry e).collGroup (L.CP.MGROUP.get d)) = .ok)
    (hnew : (s.takeEntry e).inst (L.CP.MGROUP.get d) (L.CP.SEQ.get d) = none)
    (hgives : (postParams d).contributes (L.CP.CRI.get d) = true)
    (hread : (s.takeEntry e).payloadRead e.fn ((s.takeEntry e).fnIe e.fn (L.CP.MGROUP.get d)) (L.CP.SRC_ADDR.get d)
      (postParams d).bytes = (t, .ok []))
    (hbytes : (postParams d).bytes ≠ 0) :
    execCollPost e (.data bs) s = .next (t.postJoin e d (filled (postParams d).bytes bs [])) := by
  have hhost : fillBytes [] ≠ (postParams d).bytes := hbytes.symm
  unfold execCollPost
  rw [onEntry_begun _ hrun hd]
  simp only [hok, hnew, hgives, if_true, hread, hhost, if_false, Bool.not_true, Bool.false_eq_true]

/-! ### The statement -/

/-- Settles O11: each clause is the row's meaning past the guards that its hypotheses meet. -/
theorem collectiveCommandsComplete : Obligations.CollectiveCommandsComplete := by
  intro s hrun
  refine ⟨fun t ie p hadm hep hlen => ⟨fun hp => ?up, fun hp => ?down, fun hp => ?mark, fun i hp hi htomb hopen => ?abort⟩,
    fun mg seq stage slice i p x t y hi hpar hfold hx hnext => ?fold,
    fun mg seq i hi hposts htomb hopen hdue => ?stage, fun mg seq i t hi htomb hdue => ?tombstone,
    fun mg seq i hi hpar htomb hdue => ?orphan, fun e d bs t hd hok hnew hgives hread hbytes => ?post⟩
  case up => rw [exec_collUpReceive, execCollUpReceive_admitted hadm hep hlen hrun hp]
  case down => rw [exec_collDownReceive, execCollDownReceive_admitted hadm hep hlen hrun hp]
  case mark => rw [exec_collMarkReceive, execCollMarkReceive_admitted hadm hep hlen hrun hp]
  case abort => rw [exec_collAbortReceive, execCollAbortReceive_live hadm hep hlen hrun hp hi htomb hopen]
  case fold => rw [exec_collFoldDone, execCollFoldDone_ownParent hrun hi hpar hfold hx hnext]
  case stage => rw [exec_collStageTimeout, execCollStageTimeout_due hrun hi hposts htomb hopen hdue]
  case tombstone => rw [exec_collTombstoneExpire, execCollTombstoneExpire_due hrun hi htomb hdue]
  case orphan => rw [exec_collOrphanExpire, execCollOrphanExpire_due hrun hi hpar htomb hdue]
  case post => rw [exec_collPost, execCollPost_first bs hrun hd hok hnew hgives hread hbytes]

end Sys2Proof.Machine
end

section
/-! PROOFS. The family of the protocol engines: what handlers, timers, watches, bindings, images and engine faults do once the
guards they stand behind are met (R352 to R375, R516, R517). -/
namespace Sys2Proof.Machine

open Sys2Proof

/-! ### Register commands -/

/-- A register write that its check accepts has its effect and records OK, while the part runs (R588). -/
theorem whenRunning_writeAs {rq : Requester} {off : Nat} {st : State → Status} {eff : State → State → State} {s : State}
    (hrun : s.running = true) (hok : st s = .ok) :
    whenRunning (fun s => s.writeAs rq off (st s) (eff s)) s = .next ((eff s s).wsRecord rq .ok off) := by
  rw [whenRunning_run _ hrun, hok, State.writeAs_ok]

/-! ### Handlers and timers -/

/-- A user handler over budget for the eighth time is counted and aborted (R362). -/
theorem execHandlerOverrunAbort_over {s : State} {t : ThreadId} {x : Thread} (hrun : s.running = true)
    (hx : s.thread t = some x) (huser : x.user = true) (hover : 8 ≤ x.overruns) :
    execHandlerOverrunAbort t s = .next ((s.cnt .HANDLER_OVERRUN_COUNT).abortHandler t x .handlerOverrun) := by
  rw [execHandlerOverrunAbort, whenRunning_run _ hrun]
  simp only [hx, huser, hover, decide_true, Bool.and_self, if_true]

/-- A timer that is due and still enabled fires (R375). -/
theorem execClusterTimerFire_due {s : State} {c : Fin 64} {k : Fin 16} (hrun : s.running = true)
    (hdue : s.eng.timersDue.contains (c.val, k.val) = true) (hon : s.on F.TIMER_CFG.ENABLE c k = true) :
    execClusterTimerFire c k s = .next
      (let t : State := { s with eng := { s.eng with timersDue := s.eng.timersDue.filter (· != (c.val, k.val)) } }
       let t := t.queueEvent (t.hevent 3 (t.f F.TIMER_CFG.SLOT c k) (c + k * 2 ^ 6) [] (16 * c + k) (c / 16))
       if t.f F.TIMER_CFG.PERIOD c k = 0 then t.set F.TIMER_CFG.ENABLE 0 c k
       else t.set F.TIMER_DUE.DUE (t.f F.TIMER_DUE.DUE c k + t.f F.TIMER_CFG.PERIOD c k) c k) :=
  whenRunning_of_guard hrun (by rw [hdue, hon]; rfl)

/-! ### Images -/

/-- A user image that is well made, and for which room and a number are free, is placed (R371). -/
theorem execImageLoadComplete_placed {s u : State} {a base num : Nat} {bs : List Byte} (hrun : s.running = true)
    (hload : s.eng.loadAddr = some a) (hlong : 64 < L.IMG.IMAGE_BYTES.get (bits512 (bs.take 64)))
    (hok : imageOk bs = true) (huser : L.IMG.KIND.get (bits512 (bs.take 64)) ≠ 0)
    (hu : u = s.hostRead fmf (a + 64) (L.IMG.IMAGE_BYTES.get (bits512 (bs.take 64)) - 64))
    (hfit : u.codeFit (L.IMG.CODE_BYTES.get (bits512 (bs.take 64))) = some base) (hfree : u.freeImage = some num) :
    execImageLoadComplete (.data bs) s = .next ((u.addImage num base bs).imgDone .ok num) := by
  subst hu
  rw [execImageLoadComplete, whenRunning_run _ hrun]
  simp only [hload, if_neg (not_le.mpr hlong), hok, huser, Bool.not_true, Bool.false_eq_true, if_false, hfit, hfree]

/-! ### The statement -/

/-- Settles O12: each clause is the row's meaning past the guards that its hypotheses meet. -/
theorem engineCommandsComplete : Obligations.EngineCommandsComplete := by
  intro s hrun
  refine ⟨fun c t hfound => ?dispatch, fun t x hx huser hover => ?overrun, fun c k hdue hon => ?timer,
    fun rq w v hok => ?watch, fun rq e rd hreach => ?sample, fun rq slot hok => ?bind, fun rq slot hreach => ?read,
    fun rq slot hreach => ?disable, fun rq hreach hidle => ?load,
    fun a bs base num hload hlong hok huser hfit hfree => ?loaded, fun rq img hreach hidle hunused hhas => ?unload,
    fun rq e hsup => ?fence, fun e hready => ?watchdog, fun e hloading => ?spare⟩
  case dispatch =>
    show execHandlerDispatch c s = _
    rw [execHandlerDispatch, whenRunning_run _ hrun, hfound, Option.getD_some]
  case overrun => exact execHandlerOverrunAbort_over hrun hx huser hover
  case timer => exact execClusterTimerFire_due hrun hdue hon
  case watch => exact (whenRunning_writeAs hrun hok : execCtrWatchArm rq w v s = _)
  case sample => exact (whenRunning_writeAs hrun (if_pos hreach) : execSampleRdWrite rq e rd s = _)
  case bind => exact (whenRunning_writeAs hrun hok : execHbWrite rq slot s = _)
  case read => exact (whenRunning_writeAs hrun (if_pos hreach) : execHbRead rq slot s = _)
  case disable => exact (whenRunning_writeAs hrun (if_pos hreach) : execHbDisable rq slot s = _)
  case load =>
    show execImgLoad rq s = _
    exact whenRunning_writeAs hrun (firstStatus_ok (by simp [hreach, hidle]))
  case loaded => exact execImageLoadComplete_placed hrun hload hlong hok huser rfl hfit hfree
  case unload =>
    show execImgUnload rq img s = _
    exact whenRunning_writeAs hrun (firstStatus_ok (by simp [hreach, hidle, hunused, hhas]))
  case fence => exact (whenRunning_writeAs hrun (if_pos hsup) : execEngineFenceCmd rq e s = _)
  case watchdog => exact (whenRunning_of_guard hrun hready : execWatchdogExpire e s = _)
  case spare => exact (whenRunning_of_guard hrun hloading : execSpareLoadComplete e s = _)

end Sys2Proof.Machine
end

section
/-! PROOFS. The family of the Cormel instruction set: what integer instructions, loads, stores, branches, vector and system
instructions do for a thread that may issue them, and what ends a thread's wait (R376 to R403, R419, R428). -/
namespace Sys2Proof.Machine

open Sys2Proof

/-! ### Rows -/

/-- A word is in the row of its MAJOR. -/
theorem major_of_eq {w m : Nat} (h : wMajor w = m) : major m w = true := beq_iff_eq.mpr h

/-- A word of SPECIAL is in the row of its FN. -/
theorem special_of_eq {w fn : Nat} (hm : wMajor w = 0x32) (hf : wFn w = fn) : special fn w = true := by
  rw [special, hm, hf, beq_self_eq_true, beq_self_eq_true, Bool.and_self]

/-! ### Integer instructions -/

/-- The integer instructions that write Rd, as MAJOR, command, and the value that Rd receives (R384, R385). -/
def integerRows (t : ThreadId) (x : Thread) (w : Nat) : List (Nat × Instr × Nat) :=
  [(0x01, .alu t, aluOp (wFn w) (x.rg (wRa w)) (x.rg (wRb w))), (0x02, .addi t, x.rg (wRa w) + wImmS w),
    (0x03, .andi t, x.rg (wRa w) &&& wImm w), (0x04, .ori t, x.rg (wRa w) ||| wImm w),
    (0x05, .xori t, x.rg (wRa w) ^^^ wImm w), (0x06, .shifti t, aluOp (6 + w / 2 ^ 6 % 4) (x.rg (wRa w)) (w % 64)),
    (0x07, .lui t, wImm18S w * 2 ^ 13), (0x08, .muldiv t, mulDivOp (wFn w) (x.rg (wRa w)) (x.rg (wRb w)))]

section

variable {s : State} {t : ThreadId} {x : Thread} {w : Nat} (h : Safety.Issues s t x w)
  (hp : (x.rp (wPred w)).testBit 0 = true)

include h hp

/-- An instruction of a row that writes Rd retires with the row's value in Rd. -/
theorem regInsn_run {row : Nat → Bool} (v : Thread → Nat → Nat) (hr : row w = true) :
    regInsn t row v s = .next ((Safety.unyield s t).fin t w fun y => y.setG (wRd w) (v x w)) :=
  cormel_run h hr (.inr hp)

/-- Each of them retires with its value in Rd. -/
theorem exec_integerRow {m v : Nat} {c : Instr} (hrow : (m, c, v) ∈ integerRows t x w) (hm : wMajor w = m) :
    exec c s = .next ((Safety.unyield s t).fin t w fun y => y.setG (wRd w) v) := by
  simp only [integerRows, List.mem_cons, List.not_mem_nil, or_false, Prod.mk.injEq] at hrow
  rcases hrow with ⟨rfl, rfl, rfl⟩ | ⟨rfl, rfl, rfl⟩ | ⟨rfl, rfl, rfl⟩ | ⟨rfl, rfl, rfl⟩ | ⟨rfl, rfl, rfl⟩ | ⟨rfl, rfl, rfl⟩ |
    ⟨rfl, rfl, rfl⟩ | ⟨rfl, rfl, rfl⟩
  · exact (regInsn_run h hp _ (by rw [hm]; rfl) : execAlu t s = _)
  · exact (regInsn_run h hp _ (major_of_eq hm) : execAddi t s = _)
  · exact (regInsn_run h hp _ (major_of_eq hm) : execAndi t s = _)
  · exact (regInsn_run h hp _ (major_of_eq hm) : execOri t s = _)
  · exact (regInsn_run h hp _ (major_of_eq hm) : execXori t s = _)
  · exact (regInsn_run h hp _ (major_of_eq hm) : execShifti t s = _)
  · exact (regInsn_run h hp _ (major_of_eq hm) : execLui t s = _)
  · exact (regInsn_run h hp _ (major_of_eq hm) : execMuldiv t s = _)

end

/-! ### What retires where nothing samples and no performance counter runs -/

/-- The thread that issues stands in the state in which it issues. -/
theorem unyield_thread {s : State} {t : ThreadId} {x : Thread} {w : Nat} (h : Safety.Issues s t x w) :
    (Safety.unyield s t).thread t = some x := h.2.1

/-- An instruction that retires after a change of its thread leaves the changed thread four on, and nothing else changed but
the cluster's token count. -/
theorem State.fin_quiet {s : State} {t : ThreadId} {x : Thread} (w : Nat) (g : Thread → Thread) (hx : s.thread t = some x)
    (hsample : s.on F.SAMPLE_CFG.SAMPLE_EN t.engine = false) (hperf : s.ona F.PC_CTRL.RUN = false) :
    (s.fin t w g).thread t = some { g x with
      pc := (x.pc + 4) % 2 ^ 48, count := (g x).count + 1, cycles := (g x).cycles + 1, stall := 0, ready := none
      wait := .none, preempted := (g x).preempted || (g x).marked, marked := false } ∧
    (∀ k, k ≠ t → (s.fin t w g).thread k = s.thread k) ∧ (s.fin t w g).mem = s.mem ∧ (s.fin t w g).out = s.out ∧
    (∀ r, r ≠ ⟨.CL_TOKENS, t.engine.val / 8, 0⟩ → (s.fin t w g).rd r = s.rd r) := by
  have hfin : s.fin t w g = (s.setThread t (g x)).retire t w (x.pc + 4) 1 := by simp only [State.fin, hx]
  obtain ⟨hthread, hothers, hmem, hout, hregs⟩ :=
    State.retire_quiet w (x.pc + 4) 1 (State.thread_setThread s t (g x)) hsample hperf
  rw [hfin]
  exact ⟨hthread, fun k hk => (hothers k hk).trans (State.thread_setThread_ne s _ hk), hmem, hout, hregs⟩

theorem Thread.setG_count (x : Thread) (r v : Nat) : (x.setG r v).count = x.count := by unfold Thread.setG; split <;> rfl

theorem Thread.setG_cycles (x : Thread) (r v : Nat) : (x.setG r v).cycles = x.cycles := by unfold Thread.setG; split <;> rfl

theorem Thread.setG_preempted (x : Thread) (r v : Nat) : (x.setG r v).preempted = x.preempted := by
  unfold Thread.setG; split <;> rfl

theorem Thread.setG_marked (x : Thread) (r v : Nat) : (x.setG r v).marked = x.marked := by unfold Thread.setG; split <;> rfl

/-- A jump that retires leaves its thread changed and at the target. -/
theorem State.jump_quiet {s : State} {t : ThreadId} {x : Thread} (w a : Nat) (g : Thread → Thread) (hx : s.thread t = some x)
    (hsample : s.on F.SAMPLE_CFG.SAMPLE_EN t.engine = false) (hperf : s.ona F.PC_CTRL.RUN = false) :
    ∃ y, (s.jump t w a g).thread t = some y ∧ y.pc = a % 2 ^ 48 ∧ y.g = (g x).g := by
  have hjump : s.jump t w a g = (s.setThread t (g x)).retire t w a 2 := by rw [State.jump, State.modThread_eq hx]
  obtain ⟨hthread, -⟩ := State.retire_quiet w a 2 (State.thread_setThread s t (g x)) hsample hperf
  rw [hjump]
  exact ⟨_, hthread, rfl, rfl⟩

/-! ### Loads and stores -/

/-- A load that its checks send to local memory, and that no read of a lock word has answered, retires with what it reads. -/
theorem State.load_local {s u : State} {t : ThreadId} {x : Thread} {w va n a : Nat} (signed : Bool) {resv : Bool}
    (hready : x.ready = none) (hgoes : s.access t x va n false true resv = (u, .ok (.loc a))) :
    s.load t x w va n signed resv =
      u.fin t w fun y => (y.reserve resv a).setG (wRd w) (loaded n signed (leNat (memGets u.mem a n))) := by
  simp only [State.load, hready, hgoes]
  cases x.wait <;> rfl

/-- A store that its checks let pass stores the low bytes of Rd and retires. -/
theorem State.store_passed {s u : State} {t : ThreadId} {x : Thread} {w n : Nat} {a : Spot}
    (hgoes : s.access t x (x.ea w) n true true false = (u, .ok a)) :
    s.store t x w n = (u.storeTo t a (leBytes n (x.rg (wRd w)))).fin t w id := by
  simp only [State.store, hgoes]

/-! ### The statements on integer instructions -/

/-- Settles O47: the row's value goes to Rd as its thread retires, and retiring touches nothing else. -/
theorem cormelIntegerResults : Obligations.CormelIntegerResults := by
  intro s t x w h hp hsample hperf m c v hrow hm
  refine ⟨_, exec_integerRow h hp hrow hm, ?_⟩
  have hquiet := State.fin_quiet w (fun y => y.setG (wRd w) v) (unyield_thread h) hsample hperf
  simp only [Thread.setG_count, Thread.setG_cycles, Thread.setG_preempted, Thread.setG_marked] at hquiet
  exact hquiet

/-- Settles O13: each clause is the row's meaning for a word that issues with its predicate set. -/
theorem cormelIntegerComplete : Obligations.CormelIntegerComplete := by
  intro s t x w h hp
  refine ⟨exec_integerRow h hp (by simp [integerRows]), exec_integerRow h hp (by simp [integerRows]),
    exec_integerRow h hp (by simp [integerRows]), exec_integerRow h hp (by simp [integerRows]),
    exec_integerRow h hp (by simp [integerRows]), exec_integerRow h hp (by simp [integerRows]),
    exec_integerRow h hp (by simp [integerRows]), exec_integerRow h hp (by simp [integerRows]),
    fun hm => ?cmp, fun hm => ?cmpi, fun hm hfn => ?combine, fun hm hfn => ?toPred, fun hm hfn => ?fromPred⟩
  case cmp => exact (cormel_run h (major_of_eq hm) (.inr hp) : execCmp t s = _)
  case cmpi => exact (cormel_run h (major_of_eq hm) (.inr hp) : execCmpi t s = _)
  case combine =>
    show execPred t s = _
    rw [execPred, cormel_run h (major_of_eq hm) (.inr hp)]
    split
    case h_3 => rfl
    all_goals omega
  case toPred =>
    show execPred t s = _
    rw [execPred, cormel_run h (major_of_eq hm) (.inr hp)]
    simp only [hfn]
  case fromPred =>
    show execPred t s = _
    rw [execPred, cormel_run h (major_of_eq hm) (.inr hp)]
    simp only [hfn]

/-! ### Branches -/

section

variable {s : State} {t : ThreadId} {x : Thread} {w : Nat} (h : Safety.Issues s t x w)
  (hp : (x.rp (wPred w)).testBit 0 = true)

include h hp

/-- JAL jumps to its target with Rd holding the address of the next instruction (R386). -/
theorem execJal_run (hm : wMajor w = 0x21) : execJal t s = .next
    ((Safety.unyield s t).jump t w (x.pc + wOff18 w) fun y => y.setG (wRd w) (x.pc + 4)) :=
  cormel_run h (major_of_eq hm) (.inr hp)

/-- JALR to an address of a word of instructions jumps there with Rd holding the address of the next one (R386). -/
theorem execJalr_aligned (hm : wMajor w = 0x22) (halign : x.ea w % 4 = 0) (hrange : x.ea w < 2 ^ 48) :
    execJalr t s = .next ((Safety.unyield s t).jump t w (x.ea w) fun y => y.setG (wRd w) (x.pc + 4)) := by
  rw [execJalr, cormel_run h (major_of_eq hm) (.inr hp)]
  simp only [halign, ne_eq, not_true_eq_false, if_false, if_neg hrange.not_ge]

/-- JALR to any other address raises the misaligned exception (R386, R400). -/
theorem execJalr_misaligned (hm : wMajor w = 0x22) (halign : x.ea w % 4 ≠ 0) :
    execJalr t s = .next ((Safety.unyield s t).except t .badValue (x.ea w)) := by
  rw [execJalr, cormel_run h (major_of_eq hm) (.inr hp)]
  simp only [if_pos halign]

end

/-- Settles O48: the rows of JAL and JALR, and what a jump that retires leaves in its thread. -/
theorem jumpsLinkOrMisalign : Obligations.JumpsLinkOrMisalign := by
  intro s t x w h hp
  exact ⟨execJal_run h hp, fun _ => rfl, execJalr_misaligned h hp, execJalr_aligned h hp,
    fun hsample hperf a => State.jump_quiet w a _ (unyield_thread h) hsample hperf⟩

/-! ### Rows of loads and stores -/

section

variable {s u : State} {t : ThreadId} {x : Thread} {w : Nat} {row : Nat → Bool} (h : Safety.Issues s t x w)
  (hp : (x.rp (wPred w)).testBit 0 = true) (hr : row w = true)

include h hp hr

/-- A load row whose access goes to local memory retires with what it reads (R385, R390). -/
theorem cormel_load_local {va : Thread → Nat → Nat} {n : Nat → Nat} {a : Nat} {signed resv : Bool} (hready : x.ready = none)
    (hgoes : (Safety.unyield s t).access t x (va x w) (n w) false true resv = (u, .ok (.loc a))) :
    cormel t row true (fun x w s => s.load t x w (va x w) (n w) signed resv) s = .next
      (u.fin t w fun y => (y.reserve resv a).setG (wRd w) (loaded (n w) signed (leNat (memGets u.mem a (n w))))) := by
  rw [cormel_run h hr (.inr hp), State.load_local signed hready hgoes]

/-- A store row whose access passes its checks stores the low bytes of Rd and retires (R385). -/
theorem cormel_store_passed {n : Nat} {a : Spot}
    (hgoes : (Safety.unyield s t).access t x (x.ea w) n true true false = (u, .ok a)) :
    cormel t row true (fun x w s => s.store t x w n) s = .next
      ((u.storeTo t a (leBytes n (x.rg (wRd w)))).fin t w id) := by
  rw [cormel_run h hr (.inr hp), State.store_passed hgoes]

end

section

variable {s u : State} {t : ThreadId} {x : Thread} {w : Nat} {a : Spot} (h : Safety.Issues s t x w)
  (hp : (x.rp (wPred w)).testBit 0 = true) (hm : wMajor w = 0x1C) (hbit : w / 8 % 2 = 1)
  (hgoes : (Safety.unyield s t).access t x (x.rg (wRa w)) (resvBytes w) true true true = (u, .ok a))

include h hp hm hbit hgoes

/-- STCND whose access passes its checks stores where it holds its reservation, which it ends either way (R390). -/
theorem execStcnd_passed : execStcnd t s = .next
    (let held := x.resv == some (a.mem / 64)
     (if held then u.storeTo t a (leBytes (resvBytes w) (x.rg (wRb w))) else u).fin t w fun y =>
       { y.setG (wRd w) (if held then Status.ok.code else Status.busy.code) with resv := none }) := by
  rw [execStcnd, cormel_run h (by simp [hm, hbit]) (.inr hp)]
  simp only [hgoes]

end

/-! ### The statements on loads and stores -/

/-- Settles O14: each row is a load that goes to local memory. -/
theorem cormelLoadsComplete : Obligations.CormelLoadsComplete := by
  intro s u t x w a h hp hready
  refine ⟨fun hm hgoes => ?lb, fun hm hgoes => ?lbu, fun hm hgoes => ?lh, fun hm hgoes => ?lhu, fun hm hgoes => ?lw,
    fun hm hgoes => ?lwu, fun hm hgoes => ?ld, fun hm hbit hgoes => ?ldrsv⟩
  case lb => exact (cormel_load_local h hp (major_of_eq hm) hready hgoes : execLb t s = _)
  case lbu => exact (cormel_load_local h hp (major_of_eq hm) hready hgoes : execLbu t s = _)
  case lh => exact (cormel_load_local h hp (major_of_eq hm) hready hgoes : execLh t s = _)
  case lhu => exact (cormel_load_local h hp (major_of_eq hm) hready hgoes : execLhu t s = _)
  case lw => exact (cormel_load_local h hp (major_of_eq hm) hready hgoes : execLw t s = _)
  case lwu => exact (cormel_load_local h hp (major_of_eq hm) hready hgoes : execLwu t s = _)
  case ld => exact (cormel_load_local h hp (major_of_eq hm) hready hgoes : execLd t s = _)
  case ldrsv => exact (cormel_load_local h hp (by simp [hm, hbit]) hready hgoes : execLdrsv t s = _)

/-- Settles O15: each row is a store whose access passes; a conditional one looks at its reservation. -/
theorem cormelStoresComplete : Obligations.CormelStoresComplete := by
  intro s u t x w a h hp
  refine ⟨fun hm hgoes => ?sb, fun hm hgoes => ?sh, fun hm hgoes => ?sw, fun hm hgoes => ?sd,
    fun hm hbit hgoes hheld => ?held, fun hm hbit hgoes hlost => ?lost⟩
  case sb => exact (cormel_store_passed h hp (major_of_eq hm) hgoes : execSb t s = _)
  case sh => exact (cormel_store_passed h hp (major_of_eq hm) hgoes : execSh t s = _)
  case sw => exact (cormel_store_passed h hp (major_of_eq hm) hgoes : execSw t s = _)
  case sd => exact (cormel_store_passed h hp (major_of_eq hm) hgoes : execSd t s = _)
  case held =>
    refine (execStcnd_passed h hp hm hbit hgoes).trans ?_
    simp only [beq_iff_eq.mpr hheld, if_true]
  case lost =>
    refine (execStcnd_passed h hp hm hbit hgoes).trans ?_
    simp only [beq_eq_false_iff_ne.mpr hlost, Bool.false_eq_true, if_false]

/-! ### Vector accesses -/

section

variable {s u : State} {t : ThreadId} {x : Thread} {w a : Nat} (h : Safety.Issues s t x w)
  (hactive : (x.vmActive w).isEmpty = false)

include h hactive

/-- VLD from local memory retires with its active elements loaded (R387). -/
theorem execVld_local (hm : wMajor w = 0x28)
    (hgoes : (Safety.unyield s t).access t x (x.vea w) 64 false false false = (u, .ok (.loc a))) :
    execVld t s = .next (u.fin t w fun y => y.vload w (memGets u.mem a 64)) := by
  rw [execVld, cormel_run h (major_of_eq hm) (.inl rfl)]
  simp only [hactive, Bool.false_eq_true, if_false, hgoes]

/-- VST to local memory stores its active elements one after another and retires (R387). -/
theorem execVst_local (hm : wMajor w = 0x29)
    (hgoes : (Safety.unyield s t).access t x (x.vea w) 64 true false false = (u, .ok (.loc a))) :
    execVst t s = .next
      (((x.vmActive w).foldl (fun s e =>
        s.storeTo t (.loc (a + vmBytes * e)) (((leBytes 64 (x.rv (wVd w))).drop (vmBytes * e)).take vmBytes)) u).fin t w
          id) := by
  rw [execVst, cormel_run h (major_of_eq hm) (.inl rfl)]
  simp only [hactive, Bool.false_eq_true, if_false, hgoes, Spot.elem]

end

/-- Settles O16: each row's meaning; no predicate suppresses a vector instruction. -/
theorem cormelBranchVectorComplete : Obligations.CormelBranchVectorComplete := by
  intro s t x w h
  refine ⟨fun hm hp => ?b, fun hm hp => ?jal, fun hm hp halign hrange => ?jalr, fun v a hm hactive hgoes => ?vld,
    fun v a hm hactive hgoes => ?vst, fun hm => ?vop, fun hm => ?vred⟩
  case b => exact (cormel_run h (major_of_eq hm) (.inr hp) : execB t s = _)
  case jal => exact execJal_run h hp hm
  case jalr => exact execJalr_aligned h hp hm halign hrange
  case vld => exact execVld_local h hactive hm hgoes
  case vst => exact execVst_local h hactive hm hgoes
  case vop => exact (cormel_run h (major_of_eq hm) (.inl rfl) : execVop t s = _)
  case vred => exact (cormel_run h (major_of_eq hm) (.inl rfl) : execVred t s = _)

/-! ### System instructions -/

section

variable {s : State} {t : ThreadId} {x : Thread} {w : Nat} (h : Safety.Issues s t x w)
  (hp : (x.rp (wPred w)).testBit 0 = true)

include h hp

/-- MFSR of fabric time latches the rest of the time it reads (R55, R399). -/
theorem execMfsr_time (ck : Nat) (hm : wMajor w = 0x30) (hn : wImm w = 0) :
    execMfsr t ck s = .next
      (let u := Safety.unyield s t
       u.fin t w fun y => { y.setG (wRd w) (nsOf (u.ctrAt ck)) with
         ftFrac := BitVec.ofNat 64 (u.ctrAt ck / 2 ^ 32 % 2 ^ 16 + tickOf (u.ctrAt ck) * 2 ^ 16)
         ftCk := BitVec.ofNat 64 ck }) := by
  have huser : srUser 0 = true := rfl
  have hsup : srSup 0 = false := rfl
  rw [execMfsr, cormel_run h (major_of_eq hm) (.inr hp)]
  simp only [hn, huser, hsup, Bool.not_true, Bool.false_and, Bool.and_false, Bool.false_eq_true, if_false, if_true]

/-- MFSR of another listed register that the thread's mode may read (R399). -/
theorem execMfsr_listed (ck : Nat) (hm : wMajor w = 0x30) (hn : wImm w ≠ 0)
    (hlisted : srUser (wImm w) = true ∨ srSup (wImm w) = true) (hmay : x.user = false ∨ srSup (wImm w) = false) :
    execMfsr t ck s = .next ((Safety.unyield s t).fin t w fun y => y.setG (wRd w) (srRead t x (wImm w))) := by
  have hknown : (!srUser (wImm w) && !srSup (wImm w)) = false := by
    rw [← Bool.not_or, (Bool.or_eq_true ..).mpr hlisted, Bool.not_true]
  have hallowed : (x.user && srSup (wImm w)) = false := (Bool.and_eq_false_iff ..).mpr hmay
  rw [execMfsr, cormel_run h (major_of_eq hm) (.inr hp)]
  simp only [hknown, hallowed, hn, Bool.false_eq_true, if_false]

/-- MTSR of a register that may be written, and that the thread's mode may write (R399). -/
theorem execMtsr_listed (hm : wMajor w = 0x31) (hlisted : wImm w = 0x00B ∨ srSup (wImm w) = true)
    (hmay : x.user = false ∨ srSup (wImm w) = false) :
    execMtsr t s = .next ((Safety.unyield s t).fin t w fun y => y.srWrite (wImm w) (x.rg (wRa w))) := by
  have hknown : (decide (wImm w ≠ 0x00B) && !srSup (wImm w)) = false := by
    rcases hlisted with e | e <;> simp [e]
  have hallowed : (x.user && srSup (wImm w)) = false := (Bool.and_eq_false_iff ..).mpr hmay
  rw [execMtsr, cormel_run h (major_of_eq hm) (.inr hp)]
  simp only [hknown, hallowed, Bool.false_eq_true, if_false]

/-- CB with stores posted flushes each of their functions and waits (R396). -/
theorem execCb_posted (hm : wMajor w = 0x32) (hf : wFn w = 2) (hposted : x.posted ≠ []) :
    execCb t s = .next
      ((x.posted.foldl (fun s p => s.emit (.hostFlush p.1 0))
        ((Safety.unyield s t).modThread t fun y => { y with posted := [] })).waitFor t (.cb x.posted 0) 6) := by
  rw [execCb, cormel_run h (special_of_eq hm hf) (.inr hp)]
  simp only [List.isEmpty_eq_false_iff.mpr hposted, Bool.false_eq_true, if_false]

/-- ERET of supervisor code jumps to EPC (R401, R402). -/
theorem execEret_supervisor (hm : wMajor w = 0x32) (hf : wFn w = 4) (hmode : x.user = false) :
    execEret t s = .next ((Safety.unyield s t).jump t w (x.epc.toNat / 4 * 4) id) := by
  rw [execEret, cormel_run h (special_of_eq hm hf) (.inr hp)]
  simp only [hmode, Bool.false_eq_true, if_false]

/-- EVWAIT consumes the current event and waits where none of its slot is queued (R394). -/
theorem execEvwait_waits (hm : wMajor w = 0x33) {v : State}
    (hv : v = ({ (Safety.unyield s t).fin t w id with eng :=
      { ((Safety.unyield s t).fin t w id).eng with order := ((Safety.unyield s t).fin t w id).eng.order + 1 } } : State).modThread t
        fun y => { y with
          event := none
          wait := .event ((Safety.unyield s t).fin t w id).eng.order
            (if wImm w = 0 then none else some ((Safety.unyield s t).turnovers + wImm w)) (wRd w) })
    (hnone : v.queuedFor (t.engine.val / 8) x.slot = none) : execEvwait t s = .next v := by
  subst hv
  rw [execEvwait, cormel_run h (major_of_eq hm) (.inr hp)]
  simp only [hnone]

/-- EMIT of a readable descriptor and packet that the attachment takes is sent or refused, and retires (R391 to R393). -/
theorem execEmit_room {d : BitVec 256} (hm : wMajor w = 0x34) (hrange : x.rg (wRa w) < 2 ^ 48)
    (hd : d = BitVec.ofNat 256 (leNat (memGets (Safety.unyield s t).mem (lmBase t.engine + (x.rg (wRa w) - localBase)) 32)))
    (hdesc : emitReadable x.user t.ctx (x.rg (wRa w)) 32 = true)
    (hbody : emitReadable x.user t.ctx (x.rg (wRa w)) (32 + L.EMD.LENGTH.get d) = true) :
    execEmit t true s = .next ((Safety.unyield s t).emitNow t x w (x.rg (wRa w))) := by
  subst hd
  rw [execEmit, cormel_run h (major_of_eq hm) (.inr hp)]
  simp only [if_neg hrange.not_ge, hdesc, hbody, Bool.not_true, Bool.or_self, Bool.false_eq_true, if_false, Bool.true_or,
    if_true]

/-- A TLB instruction of supervisor code that names a TLB and passes its own check takes effect (R398, R407). -/
theorem tlbInsn_run {row : Nat → Bool} {bad : Thread → Nat → Nat × Nat × Nat → Bool}
    {g : Thread → Nat → Nat × Nat × Nat → State → State} {k : Nat × Nat × Nat} (hr : row w = true)
    (hk : Thread.tlb t x = some k) (hok : bad x w k = false) (hmode : x.user = false) :
    tlbInsn t row bad g s = .next (g x w k (Safety.unyield s t)) := by
  rw [tlbInsn, cormel_run h hr (.inr hp)]
  simp only [hk, hok, hmode, Bool.false_eq_true, if_false]

end

/-- Settles O17: each row's meaning past the checks that its hypotheses meet. -/
theorem cormelSystemComplete : Obligations.CormelSystemComplete := by
  intro s t x w h hp
  refine ⟨fun ck hm hn hlisted hmay => ?mfsr, fun ck hm hn _ _ => ?time, fun hm hlisted hmay => ?mtsr,
    fun hm hf => ?yield, fun hm hf => ?yieldt, fun hm hf hposted => ?cb, fun hm hf => ?exit, fun hm hf hmode => ?eret,
    fun hm hnone => ?evwait, fun hm hrange hdesc hbody => ?emit, fun k hm hf hk hindex hentry hmode => ?xput,
    fun k hm hf hk hentry hmode => ?xputr, fun k hm hf hrd hk hmode => ?xdrop⟩
  case mfsr => exact execMfsr_listed h hp ck hm hn hlisted hmay
  case time => exact execMfsr_time h hp ck hm hn
  case mtsr => exact execMtsr_listed h hp hm hlisted hmay
  case yield => exact (cormel_run h (by simp [hm, hf]) (.inr hp) : execYield t s = _)
  case yieldt => exact (cormel_run h (special_of_eq hm hf) (.inr hp) : execYieldt t s = _)
  case cb => exact execCb_posted h hp hm hf hposted
  case exit => exact (cormel_run h (special_of_eq hm hf) (.inr hp) : execExit t s = _)
  case eret => exact execEret_supervisor h hp hm hf hmode
  case evwait => exact execEvwait_waits h hp hm rfl hnone
  case emit => exact execEmit_room h hp hm hrange rfl hdesc hbody
  case xput =>
    show execXput t s = _
    exact tlbInsn_run h hp (by simp [hm, hf]) hk (by simp [hindex, hentry]) hmode
  case xputr =>
    show execXputr t s = _
    exact tlbInsn_run h hp (by simp [hm, hf]) hk (by simp [hentry]) hmode
  case xdrop =>
    show execXdrop t s = _
    refine (tlbInsn_run h hp (by simp [hm, hf]) hk rfl hmode).trans ?_
    simp only [hrd, Bool.and_true]

/-! ### The ends of waits -/

section

variable {s : State} {t : ThreadId} {x : Thread} (hrun : s.running = true) (hx : s.thread t = some x)

include hrun hx

/-- The data of an LD ends its wait, and the load retires with it (R385, R428). -/
theorem execLoadCompletion_ld {f a : Nat} {bs : List Byte} (hwait : x.wait = .load f a)
    (hm : wMajor (s.wordAt t.engine x.pc) = 0x16) :
    execLoadCompletion t (.data bs) s = .next
      ((s.modThread t fun y => { y with wait := .none }).fin t (s.wordAt t.engine x.pc) fun y =>
        y.setG (wRd (s.wordAt t.engine x.pc)) (loaded 8 false (leNat bs))) := by
  rw [execLoadCompletion, whenRunning_run _ hrun]
  simp only [hx, hwait, hm]
  rfl

/-- The flush of the last function that a CB waits for lets it retire (R397). -/
theorem execCbComplete_last {f : Fin 4096} {n lost : Nat} (hwait : x.wait = .cb [(f.val, n)] lost) :
    execCbComplete t f true s = .next
      ((s.modThread t fun y => { y with wait := .none }).cbEnd t (s.wordAt t.engine x.pc) lost) := by
  have hhas : mhas [(f.val, n)] f.val = true := by simp [mhas, mfind]
  have hdone : mdel [(f.val, n)] f.val = [] := by simp [mdel]
  rw [execCbComplete, whenRunning_run _ hrun]
  simp only [hx, hwait, hhas, hdone, if_true, List.isEmpty_nil, State.wordAt_modThread]

/-- The turnover that an EVWAIT names ends its wait with 0xFF in Rd (R394). -/
theorem execEvwaitTimeout_due {o due rd : Nat} (hwait : x.wait = .event o (some due) rd) (hdue : due ≤ s.turnovers) :
    execEvwaitTimeout t s = .next (s.setThread t { x.setG rd 0xFF with wait := .none, stall := 8 }) := by
  rw [execEvwaitTimeout, whenRunning_run _ hrun]
  simp only [hx, hwait, if_pos hdue]

/-- A stalled EMIT is sent and retires once the attachment takes its packet (R393). -/
theorem execEmitRetire_stalled (hwait : x.wait = .emit) :
    execEmitRetire t s = .next (s.emitNow t x (s.wordAt t.engine x.pc) (x.rg (wRa (s.wordAt t.engine x.pc)))) := by
  rw [execEmitRetire, whenRunning_run _ hrun]
  simp only [hx, hwait, if_true]

end

/-- The end of a miss that stands, with a status of R419, lets its waiters go on. -/
theorem execXlMissResolve_ended {s : State} {rq : Requester} {h : Fin 4} {m : Fin 256} {code : BitVec 8} {st : Status}
    (hrun : s.running = true) (hreach : rq.reaches = true) (hvalid : s.missValid h m = true)
    (hst : resolveStatus code.toNat = some st) :
    execXlMissResolve rq h m code s = .next ((s.missEnd h m st).wsRecord rq .ok (Reg.offset ⟨.XL_MISS_RESOLVE, h.val, 0⟩)) := by
  rw [execXlMissResolve, whenRunning_run _ hrun, State.missResolve]
  simp only [firstStatus, hreach, hvalid, hst, Bool.not_true, Option.isNone_some, Bool.or_self, Bool.false_eq_true, if_false,
    Option.getD_some, State.writeAs_ok]

/-- Settles O18: each clause is the row's meaning past the guards that its hypotheses meet. -/
theorem cormelWaitsComplete : Obligations.CormelWaitsComplete := by
  intro s t x hrun hx
  exact ⟨fun f a bs hwait hm => execLoadCompletion_ld hrun hx hwait hm,
    fun f n lost hwait => execCbComplete_last hrun hx hwait,
    fun o due rd hwait hdue => execEvwaitTimeout_due hrun hx hwait hdue,
    fun hwait => execEmitRetire_stalled hrun hx hwait,
    fun rq h m code st hreach hvalid hst => execXlMissResolve_ended hrun hreach hvalid hst⟩

end Sys2Proof.Machine
end

section
/-! PROOFS. The family of locks and translation: what the rows of the lock units' windows and of the invalidations do once
the guards they stand behind are met, and to whom a released word passes (R424, R425, R433 to R444). -/
namespace Sys2Proof.Machine

open Sys2Proof

/-! ### Lock words in memory -/

/-- The bytes of a number spell it, as far as they reach (R3). -/
theorem leNat_leBytes (k v : Nat) : leNat (leBytes k v) = v % 2 ^ (8 * k) := by
  induction k generalizing v with
  | zero => simp [leBytes, leNat, Nat.mod_one]
  | succ k ih =>
    have hpow : 2 ^ (8 * (k + 1)) = 256 * 2 ^ (8 * k) := by rw [Nat.mul_succ, Nat.pow_add, Nat.mul_comm]
    rw [leBytes, leNat, ih, BitVec.toNat_ofNat, hpow, Nat.mod_mul]

theorem leBytes_length (k v : Nat) : (leBytes k v).length = k := by
  induction k generalizing v with
  | zero => rfl
  | succ k ih => rw [leBytes, List.length_cons, ih]

/-- A lock word depends on the memory alone. -/
theorem State.lockWord_congr {s t : State} (off : Nat) (h : t.mem = s.mem) : t.lockWord off = s.lockWord off := by
  simp only [State.lockWord, State.gsNat, State.gsGets, h]

theorem State.endResv_mem (s : State) (by_ : Option ThreadId) (a n : Nat) : (s.endResv by_ a n).mem = s.mem :=
  (State.endResv_keeps (tw := False) s by_ a n (.refl s)).same.resolve_left id

theorem State.lockAnswer_mem (s : State) (ident v : Nat) : (s.lockAnswer ident v).mem = s.mem :=
  (State.lockAnswer_keeps (tw := False) s ident v (.refl s)).same.resolve_left id

theorem State.modThread_lock (s : State) (t : ThreadId) (g : Thread → Thread) : (s.modThread t g).lock = s.lock := by
  unfold State.modThread
  split <;> rfl

/-- The answer to a waiter leaves the lock units' records. -/
theorem State.lockAnswer_lock (s : State) (ident v : Nat) : (s.lockAnswer ident v).lock = s.lock := by
  unfold State.lockAnswer
  split
  · exact State.modThread_lock ..
  · split
    · rfl
    · split <;> rfl

/-- A lock word of a bank that serves reads as its lock unit stored it. -/
theorem State.lockWord_lockStore {s : State} {off : Nat} (v : Nat) (hwf : Safety.MemCanonical s) (hoff : off + 8 ≤ gsSize)
    (hbank : (s.bank (bankOf off)).fromMirror = false) : (s.lockStore off v).lockWord off = v % 2 ^ 64 := by
  have hmod : off % gsSize = off := Nat.mod_eq_of_lt (by unfold gsSize at hoff ⊢; omega)
  have hread : (s.gsPuts off (leBytes 8 v)).gsGets off (leBytes 8 v).length = leBytes 8 v :=
    (groundsheetReadsWhatWasPut s off (leBytes 8 v) hwf (by rwa [hmod, leBytes_length]) (by rwa [hmod])).1
  rw [leBytes_length] at hread
  calc (s.lockStore off v).lockWord off = (s.gsPuts off (leBytes 8 v)).lockWord off :=
        State.lockWord_congr off (State.endResv_mem ..)
    _ = leNat (leBytes 8 v) := congrArg leNat hread
    _ = v % 2 ^ 64 := leNat_leBytes 8 v

/-! ### The waiter that takes a word -/

/-- The waiters of a word. -/
def State.waitersOf (s : State) (off : Nat) : List LockWaiter := s.lock.waiters.filter fun w => w.off == off

/-- The waiter that takes a word is the first of those of highest priority, which is the lowest number. -/
theorem State.bestWaiter_eq_argmin (s : State) (off : Nat) :
    s.bestWaiter off = (s.waitersOf off).argmin fun w => s.identPrio w.ident := by
  unfold State.bestWaiter List.argmin
  congr 1
  funext b w
  cases b <;> rfl

/-- The place in a list of the first of its least elements: what stands earlier is greater, what stands later no less. -/
theorem argmin_place {α : Type} [DecidableEq α] {f : α → Nat} {l : List α} {a : α} (h : l.argmin f = some a) :
    l[l.idxOf a]? = some a ∧ ∀ (j : Nat) (b : α), l[j]? = some b → f a < f b ∨ (f a = f b ∧ l.idxOf a ≤ j) := by
  obtain ⟨hmem, hleast, hfirst⟩ := List.argmin_eq_some_iff.mp h
  refine ⟨List.getElem?_idxOf hmem, fun j b hj => ?_⟩
  have hb : b ∈ l := List.mem_of_getElem? hj
  rcases (hleast b hb).lt_or_eq with hlt | heq
  · exact .inl hlt
  · have hplace : l.idxOf b ≤ j := by
      obtain ⟨hlt, rfl⟩ := List.getElem?_eq_some_iff.mp hj
      by_contra hgt
      simpa using List.not_of_lt_findIdx (not_le.mp hgt)
    exact .inr ⟨heq, (hfirst b hb heq.ge).trans hplace⟩

/-! ### Releases -/

/-- A RELEASE by the owner passes the word, which is then recorded as owned (R438). -/
theorem State.lockRelease_owner {s : State} {off ident data : Nat} (hdata : data = ident)
    (howner : s.lockWord off % 2 ^ 32 = ident) :
    ∃ o, s.lockRelease off ident data = State.lockPass { s with lock := { s.lock with owned := o } } off false := by
  unfold State.lockRelease
  rw [if_pos ⟨hdata, howner⟩]
  split
  · exact ⟨s.lock.owned, rfl⟩
  · exact ⟨_, rfl⟩

theorem State.lockPass_free {s : State} {off : Nat} (ab : Bool) (h : (s.unboost off).bestWaiter off = none) :
    s.lockPass off ab =
      let t := (s.unboost off).lockStore off (b2n ab * 2 ^ 32)
      { t with lock := { t.lock with owned := t.lock.owned.filter fun a => a != off } } := by
  simp only [State.lockPass, h]

theorem State.lockPass_waiter {s : State} {off : Nat} {w : LockWaiter} (ab : Bool)
    (h : (s.unboost off).bestWaiter off = some w) :
    s.lockPass off ab =
      let t := (s.unboost off).lockStore off (w.ident + b2n ab * 2 ^ 32)
      ({ t with lock := { t.lock with waiters := t.lock.waiters.filter fun x => !(x.off == off && x.ident == w.ident) } } :
        State).lockAnswer w.ident (w.ident + b2n ab * 2 ^ 32) := by
  simp only [State.lockPass, h]

section

variable {s : State} {off : Nat} (hwf : Safety.MemCanonical s) (hoff : off + 8 ≤ gsSize)
  (hbank : (s.bank (bankOf off)).fromMirror = false)

include hwf hoff hbank

/-- A word that nobody waits for becomes free and is no longer recorded as owned. -/
theorem State.lockPass_of_no_waiter (h : (s.unboost off).bestWaiter off = none) :
    (s.lockPass off false).lockWord off = 0 ∧ off ∉ (s.lockPass off false).lock.owned := by
  rw [State.lockPass_free false h]
  refine ⟨?_, by simp⟩
  have hword := State.lockWord_lockStore (s := s.unboost off) (b2n false * 2 ^ 32) hwf hoff hbank
  exact hword

/-- A word passes to its best waiter, who waits for it no longer. -/
theorem State.lockPass_of_waiter {w : LockWaiter} (h : (s.unboost off).bestWaiter off = some w) :
    (s.lockPass off false).lockWord off = w.ident % 2 ^ 64 ∧
      ∀ v ∈ (s.lockPass off false).lock.waiters, v.off = off → v.ident ≠ w.ident := by
  rw [State.lockPass_waiter false h]
  refine ⟨?_, fun v hv hoff hident => ?_⟩
  · rw [State.lockWord_congr off (State.lockAnswer_mem ..)]
    have hword := State.lockWord_lockStore (s := s.unboost off) (w.ident + b2n false * 2 ^ 32) hwf hoff hbank
    exact hword
  · rw [State.lockAnswer_lock] at hv
    simpa [hoff, hident] using (List.mem_filter.mp hv).2

end

/-- Settles O46: a RELEASE by the owner is a pass of the word, and the waiter that takes it is the first of least priority
number; any other RELEASE is counted. -/
theorem releasePassesLock : Obligations.ReleasePassesLock := by
  intro s off ident data hwf hoff hbank ws prio
  refine ⟨fun hdata howner => ?_, fun hnot => ?_⟩
  · obtain ⟨o, hrelease⟩ := State.lockRelease_owner hdata howner
    have hbest : (State.unboost { s with lock := { s.lock with owned := o } } off).bestWaiter off =
        ws.argmin fun w => prio w := by
      rw [State.bestWaiter_eq_argmin]
      rfl
    rw [hrelease]
    refine ⟨fun hempty => ?_, fun hsome => ?_⟩
    · exact State.lockPass_of_no_waiter hwf hoff hbank (by rw [hbest, hempty]; rfl)
    · obtain ⟨w, hw⟩ := Option.ne_none_iff_exists'.mp fun hnone : (ws.argmin fun w => prio w) = none =>
        hsome (List.argmin_eq_none.mp hnone)
      obtain ⟨hplace, hleast⟩ := argmin_place hw
      obtain ⟨hword, hgone⟩ := State.lockPass_of_waiter (s := { s with lock := { s.lock with owned := o } }) hwf hoff
        hbank (hbest.trans hw)
      exact ⟨_, w, hplace, hleast, hword, hgone⟩
  · rw [State.lockRelease, if_neg fun both => hnot.elim (· both.1) (· both.2)]

/-! ### The rows of the lock units' windows -/

/-- A multiple of 8 is one within the Groundsheet. -/
theorem mod_gsSize_mod_eight {off : Nat} (h : off % 8 = 0) : off % gsSize % 8 = 0 := by unfold gsSize; omega

/-- An aligned access of the service processor to a lock window has its effect (R433). -/
theorem State.lockWrite_service {s : State} {off i : Nat} (window : Nat) (eff : Nat → State → State)
    (hi : Requester.serviceProcessor.ident = some i) (halign : off % 8 = 0) :
    s.lockWrite .serviceProcessor off window eff = eff i s := by
  simp only [State.lockWrite, hi, halign, if_true]

/-- An aligned access of the fabric management function where hosts may write has its effect and records OK (R433, R578). -/
theorem State.lockWrite_host {s : State} {f : Fin 4096} {off i : Nat} (window : Nat) (eff : Nat → State → State)
    (hi : (Requester.func f).ident = some i) (halign : off % 8 = 0) (hhost : hostWritable off = true) :
    s.lockWrite (.func f) off window eff = (eff i s).wsRecord (.func f) .ok (window + off) := by
  simp only [State.lockWrite, hi, halign, hhost, ne_eq, not_true_eq_false, if_false, if_true]

/-- An aligned WAIT read of the service processor reaches its lock unit (R437). -/
theorem execLockWaitRead_service {s : State} {off i : Nat} (hrun : s.running = true)
    (hi : Requester.serviceProcessor.ident = some i) (halign : off % 8 = 0) :
    execLockWaitRead .serviceProcessor off s = .next (s.waitRead i (off % gsSize)) := by
  rw [execLockWaitRead, whenRunning_run _ hrun]
  simp only [hi, halign, if_true]

/-! ### Translation invalidations -/

/-- GO of a function that owns the address space, is not busy and not in reset starts an invalidation (R424). -/
theorem State.xlInvCmd_accepted {s : State} {f : Fin 4096} {asid : Nat} (scope : Nat)
    (howns : s.f F.XL_ASID_CFG.FUNC asid = f.val) (hidle : s.on F.XL_INV_STATUS.BUSY f.val = false)
    (hreset : s.inReset f.val = false) :
    s.xlInvCmd f asid scope =
      (({ s with xl := { s.xl with invs := s.xl.invs ++
        [⟨f, asid, scope == 1, s.f F.XL_INV_VA.PAGE f, s.f F.XL_INV_VA.COUNT f, s.missesOf asid⟩] } } : State).set
          F.XL_INV_STATUS.BUSY 1 f).wsRecord (.func f) .ok (Reg.offset ⟨.XL_INV_CMD, f.val, 0⟩) := by
  have hok : firstStatus [(s.f F.XL_ASID_CFG.FUNC asid != f.val && f.val != fmf, .notPermitted),
      (s.on F.XL_INV_STATUS.BUSY f, .busy), (s.inReset f, .badState)] = .ok :=
    firstStatus_ok (by simp [howns, hidle, hreset])
  rw [State.xlInvCmd, hok, State.writeAs_ok]

/-- An invalidation whose misses are resolved and whose address space has no access under way ends (R424). -/
theorem execXlInvComplete_quiet {s : State} {f : Fin 4096} {x : XlInv} (hrun : s.running = true)
    (hx : (s.xl.invs.find? fun x => x.fn == f.val) = some x) (hmisses : x.misses.isEmpty = true)
    (hquiet : s.asidBusy x.asid = false) :
    execXlInvComplete f s = .next
      ((({ s with xl := { s.xl with tlb := s.xl.tlb.filter fun e => !(invCovers x e.2.1)
                                    invs := s.xl.invs.filter fun y => y.fn != f.val } } : State).set F.XL_INV_STATUS.BUSY 0 f).set
        F.XL_INV_STATUS.DONE (s.f F.XL_INV_STATUS.DONE f + 1) f) := by
  rw [execXlInvComplete, whenRunning_run _ hrun]
  simp only [hx, hmisses, hquiet, Bool.not_false, Bool.and_self, if_true]
  rfl

/-- Settles O5: each clause is the row's meaning past the guards that its hypotheses meet. -/
theorem lockAndInvalidateCommandsComplete : Obligations.LockAndInvalidateCommandsComplete := by
  intro s hrun
  refine ⟨fun off data i hi halign => ?claim, fun f off data i hi halign hhost => ?claimHost,
    fun off data i hi halign => ?release, fun f off data i hi halign hhost => ?releaseHost, fun off i hi halign => ?wait,
    fun off hwaits => ?timeout, fun t off v halign hrecorded => ?plain, fun f asid scope howns hidle hreset => ?inv,
    fun f x hx hmisses hquiet => ?invDone, fun rq asid v hreach hok => ?asid⟩
  case claim =>
    show execLockClaim .serviceProcessor off data s = _
    rw [execLockClaim, whenRunning_run _ hrun, State.lockWrite_service _ _ hi (mod_gsSize_mod_eight halign)]
  case claimHost =>
    show execLockClaim (.func f) off data s = _
    rw [execLockClaim, whenRunning_run _ hrun, State.lockWrite_host _ _ hi (mod_gsSize_mod_eight halign) hhost]
  case release =>
    show execLockRelease .serviceProcessor off data s = _
    rw [execLockRelease, whenRunning_run _ hrun, State.lockWrite_service _ _ hi (mod_gsSize_mod_eight halign)]
  case releaseHost =>
    show execLockRelease (.func f) off data s = _
    rw [execLockRelease, whenRunning_run _ hrun, State.lockWrite_host _ _ hi (mod_gsSize_mod_eight halign) hhost]
  case wait => exact execLockWaitRead_service hrun hi halign
  case timeout => exact (whenRunning_of_guard hrun hwaits : execHostWaitTimeout off s = _)
  case plain =>
    show execLockPlainWrite t off v s = _
    exact whenRunning_of_guard hrun (by rw [halign, hrecorded]; rfl)
  case inv =>
    show execXlInvCmd f asid scope s = _
    rw [execXlInvCmd, whenRunning_run _ hrun, State.xlInvCmd_accepted _ howns hidle hreset]
  case invDone => exact execXlInvComplete_quiet hrun hx hmisses hquiet
  case asid =>
    show execXlAsidCfgWrite rq asid v s = _
    exact whenRunning_writeAs hrun ((if_pos hreach).trans hok)

end Sys2Proof.Machine
end

section
/-! PROOFS. WRITE_STATUS: what a write's record leaves in the register of its requester (R588). -/
namespace Sys2Proof.Machine

open Sys2Proof

/-- What a requester's WRITE_STATUS holds once a write's status is recorded in it (R588). -/
def statusWord (w : Word) (st : Status) (off : Nat) : Word :=
  if st = .ok then F.WRITE_STATUS.LAST_STATUS.fld.set w st.code
  else if F.WRITE_STATUS.REJECTED.fld.on w = true then
    F.WRITE_STATUS.REJECTED.fld.set (F.WRITE_STATUS.LAST_STATUS.fld.set w st.code) 1
  else F.WRITE_STATUS.REJECTED.fld.set (F.WRITE_STATUS.FIRST_OFFSET.fld.set (F.WRITE_STATUS.FIRST_STATUS.fld.set
    (F.WRITE_STATUS.LAST_STATUS.fld.set w st.code) st.code) (off % 2 ^ 32)) 1

theorem State.ws_wsRecord (s : State) (rq : Requester) (st : Status) (off : Nat) :
    (s.wsRecord rq st off).ws rq = statusWord (s.ws rq) st off := by
  refine (mget_mset rq _ _ _).trans ?_
  unfold statusWord
  by_cases hok : st = .ok
  · rw [if_pos hok, if_pos hok]
  · rw [if_neg hok, if_neg hok, apply_ite (fun w => F.WRITE_STATUS.REJECTED.fld.set w 1)]

theorem State.ws_wsRecord_ne (s : State) {rq q : Requester} (st : Status) (off : Nat) (h : q ≠ rq) :
    (s.wsRecord rq st off).ws q = s.ws q := mget_mset_ne h _ _ _

theorem Status.code_lt (st : Status) : st.code < 2 ^ 8 := by cases st <;> decide

/-- LAST_STATUS is the status of the last write. -/
theorem lastStatus_statusWord (w : Word) (st : Status) (off : Nat) :
    F.WRITE_STATUS.LAST_STATUS.fld.get (statusWord w st off) = st.code := by
  have hlast : F.WRITE_STATUS.LAST_STATUS.fld.get (F.WRITE_STATUS.LAST_STATUS.fld.set w st.code) = st.code :=
    (Fld.get_set _ _ _ (by decide) (by decide)).trans (Nat.mod_eq_of_lt st.code_lt)
  unfold statusWord
  split_ifs <;> simpa (disch := decide) only [Fld.get_set_ne] using hlast

/-- An accepted write keeps every other field. -/
theorem get_statusWord_ok {g : Fld} (w : Word) (off : Nat) (hg : g.lo ≤ g.hi) (habove : 7 < g.lo) :
    g.get (statusWord w .ok off) = g.get w :=
  Fld.get_set_ne F.WRITE_STATUS.LAST_STATUS.fld g _ _ (by decide) (by decide) hg (.inr habove)

/-- A rejection sets REJECTED. -/
theorem rejected_statusWord {st : Status} (w : Word) (off : Nat) (h : st ≠ .ok) :
    F.WRITE_STATUS.REJECTED.fld.get (statusWord w st off) = 1 := by
  unfold statusWord
  rw [if_neg h]
  split_ifs <;> exact Fld.get_set _ _ _ (by decide) (by decide)

/-- A rejection after another keeps what the first recorded. -/
theorem first_statusWord_again {st : Status} {w : Word} (off : Nat) (h : st ≠ .ok)
    (hon : F.WRITE_STATUS.REJECTED.fld.on w = true) :
    F.WRITE_STATUS.FIRST_STATUS.fld.get (statusWord w st off) = F.WRITE_STATUS.FIRST_STATUS.fld.get w ∧
      F.WRITE_STATUS.FIRST_OFFSET.fld.get (statusWord w st off) = F.WRITE_STATUS.FIRST_OFFSET.fld.get w := by
  unfold statusWord
  rw [if_neg h, if_pos hon]
  constructor <;> simp (disch := decide) only [Fld.get_set_ne]

/-- The first rejection records its status and its offset. -/
theorem first_statusWord_new {st : Status} {w : Word} (off : Nat) (h : st ≠ .ok)
    (hoff : F.WRITE_STATUS.REJECTED.fld.on w = false) :
    F.WRITE_STATUS.FIRST_STATUS.fld.get (statusWord w st off) = st.code ∧
      F.WRITE_STATUS.FIRST_OFFSET.fld.get (statusWord w st off) = off % 2 ^ 32 := by
  unfold statusWord
  rw [if_neg h, if_neg (by rw [hoff]; exact Bool.false_ne_true)]
  constructor
  · simp (disch := decide) only [Fld.get_set_ne, Fld.get_set]
    exact Nat.mod_eq_of_lt st.code_lt
  · simp (disch := decide) only [Fld.get_set_ne, Fld.get_set]
    exact Nat.mod_eq_of_lt (Nat.mod_lt _ (by decide))

/-- LAST_STATUS after a recorded write. -/
theorem State.lastStatus_wsRecord (s : State) (rq : Requester) (st : Status) (off : Nat) :
    F.WRITE_STATUS.LAST_STATUS.fld.get ((s.wsRecord rq st off).ws rq) = st.code := by
  rw [State.ws_wsRecord, lastStatus_statusWord]

/-- Settles O44: field by field of the word that the record leaves, and no other word or field of the state is touched. -/
theorem writeStatusRecords : Obligations.WriteStatusRecords := by
  intro s rq st off t
  have hw : t.ws rq = statusWord (s.ws rq) st off := State.ws_wsRecord s rq st off
  rw [hw]
  refine ⟨lastStatus_statusWord _ _ _, ?accepted, rejected_statusWord _ _, ?kept, first_statusWord_new off,
    fun q hq => State.ws_wsRecord_ne s st off hq, rfl⟩
  case accepted =>
    rintro rfl
    exact get_statusWord_ok _ _ (by decide) (by decide)
  case kept =>
    intro hkept
    by_cases hok : st = .ok
    · subst hok
      exact ⟨get_statusWord_ok _ _ (by decide) (by decide), get_statusWord_ok _ _ (by decide) (by decide)⟩
    · exact first_statusWord_again off hok (hkept.resolve_left hok)

end Sys2Proof.Machine
end

section
/-! PROOFS. Register accesses in the device window: writes of registers that command nothing, among them the descriptor
registers of the mover channels, and RESUME of a halted channel (R12, R14, R451, R457, R462, R580). -/
namespace Sys2Proof.Machine

open Sys2Proof

/-! ### Fields of other registers -/

theorem RegFld.at_ne {f g : RegFld} (h : g.reg ≠ f.reg) (i j k l : Nat) : g.at k l ≠ f.at i j :=
  fun e => h (congrArg Reg.name e)

/-- A field of a register of another name reads as before. -/
theorem State.f_set_other (s : State) (f g : RegFld) (v i j k l : Nat) (h : g.reg ≠ f.reg) :
    (s.set f v i j).f g k l = s.f g k l := State.f_set_reg s f g v i j k l (RegFld.at_ne h i j k l)

theorem State.on_set_other (s : State) (f g : RegFld) (v i j k l : Nat) (h : g.reg ≠ f.reg) :
    (s.set f v i j).on g k l = s.on g k l := by
  unfold State.on
  rw [State.f_set_other s f g v i j k l h]

theorem State.modChan_f (s : State) (m c : Nat) (g : Chan → Chan) (q : RegFld) (k n : Nat) :
    (s.modChan m c g).f q k n = s.f q k n := rfl

theorem State.modChan_on (s : State) (m c : Nat) (g : Chan → Chan) (q : RegFld) (k n : Nat) :
    (s.modChan m c g).on q k n = s.on q k n := rfl

/-! ### Writes of a register that commands nothing -/

/-- A write of any other register than RST_CMD commands no warm reset. -/
theorem State.warmWrite_of_reg {s : State} {off : Nat} {r : Reg} (rq : Requester) (win : Window) (size : Nat) (v : Word)
    (htarget : devTarget s (off / 8 * 8) = .reg r false) (hname : r.name ≠ .RST_CMD) :
    s.warmWrite rq win off size v = false := by
  simp [State.warmWrite, htarget, hname]

/-- A write of such a register is stored under the check of plain registers, or only its status recorded (R605). -/
theorem exec_registerWrite_plain {s : State} {rq : Requester} {off size : Nat} {w : Word} {r : Reg} (hrun : s.running = true)
    (hreach : rq.reaches = true) (hacc : accessOk off size = true) (htarget : devTarget s (off / 8 * 8) = .reg r false)
    (hreset : r.name ≠ .RST_CMD) (hstatus : r.name ≠ .WRITE_STATUS) (hserved : ∀ v, servedCommand rq r off v = none)
    (hdev : ∀ v, devCommand rq r off v = none) :
    exec (.registerWrite rq .device off size w) s = .next
      (let v := accessValue off size (s.rd r) w r.name.desc.fields
       s.writeAs rq off (s.plainCheck rq r v) fun s => s.regStore r v) := by
  rw [exec_registerWrite_device hrun hreach (State.warmWrite_of_reg rq _ size w htarget hreset) hacc,
    State.deviceWrite_reg rq size w htarget, State.devRegWrite_plain hstatus (hserved _) (hdev _)]

/-- A register that the requester may write, and whose object's state refuses the write, answers BAD_STATE (R605). -/
theorem State.plainCheck_badState {s : State} {rq : Requester} {r : Reg} {v : Word} (hallowed : s.regDenied rq r = false)
    (hname : r.name ≠ .EV_ROUTE) (hstate : s.regState r v = true) : s.plainCheck rq r v = .badState := by
  simp [State.plainCheck, hallowed, hname, hstate, firstStatus]

/-! ### Descriptor registers of a mover channel -/

/-- The descriptor registers of a channel (R457). -/
def descriptorRegs : List RegName :=
  [.CH_SRC, .CH_DST, .CH_SHAPE, .CH_SRC_STRIDE01, .CH_SRC_STRIDE2, .CH_DST_STRIDE01, .CH_DST_STRIDE2, .CH_CTRL, .CH_LOCK,
    .CH_RECORD]

/-- They command nothing. -/
theorem descriptorRegs_command {n : RegName} (hn : n ∈ descriptorRegs) (rq : Requester) (m c off : Nat) (v : Word) :
    servedCommand rq ⟨n, m, c⟩ off v = none ∧ devCommand rq ⟨n, m, c⟩ off v = none := by
  revert n
  simp only [descriptorRegs, List.forall_mem_cons]
  exact ⟨⟨rfl, rfl⟩, ⟨rfl, rfl⟩, ⟨rfl, rfl⟩, ⟨rfl, rfl⟩, ⟨rfl, rfl⟩, ⟨rfl, rfl⟩, ⟨rfl, rfl⟩, ⟨rfl, rfl⟩, ⟨rfl, rfl⟩, ⟨rfl, rfl⟩,
    List.forall_mem_nil _⟩

/-- A requester that the mover block admits may write them, while their channel is IDLE (R451, R457). -/
theorem descriptorRegs_check {n : RegName} (hn : n ∈ descriptorRegs) (s : State) (rq : Requester) (m c : Nat) (v : Word) :
    s.regDenied rq ⟨n, m, c⟩ = !s.mvAllows rq ∧ s.regState ⟨n, m, c⟩ v = (s.chState m c != 0) := by
  revert n
  simp only [descriptorRegs, List.forall_mem_cons]
  exact ⟨⟨rfl, rfl⟩, ⟨rfl, rfl⟩, ⟨rfl, rfl⟩, ⟨rfl, rfl⟩, ⟨rfl, rfl⟩, ⟨rfl, rfl⟩, ⟨rfl, rfl⟩, ⟨rfl, rfl⟩, ⟨rfl, rfl⟩, ⟨rfl, rfl⟩,
    List.forall_mem_nil _⟩

/-- Settles O52: a descriptor register is a plain register whose check answers BAD_STATE while its channel is not IDLE. -/
theorem descriptorWritesNeedIdle : Obligations.DescriptorWritesNeedIdle := by
  intro s rq off size w m c n hrun hreach hmay hacc htarget hbusy hn
  have hother {k : RegName} (hk : k ∉ descriptorRegs) : n ≠ k := fun e => hk (e ▸ hn)
  obtain ⟨hdenied, hstate⟩ :=
    descriptorRegs_check hn s rq m c (accessValue off size (s.rd ⟨n, m, c⟩) w n.desc.fields)
  have hcheck : s.plainCheck rq ⟨n, m, c⟩ (accessValue off size (s.rd ⟨n, m, c⟩) w n.desc.fields) = .badState :=
    State.plainCheck_badState (by rw [hdenied, hmay]; rfl) (hother (by decide))
      (hstate.trans (bne_iff_ne.mpr hbusy))
  rw [exec_registerWrite_plain hrun hreach hacc htarget (hother (by decide)) (hother (by decide))
    (fun v => (descriptorRegs_command hn rq m c off v).1) (fun v => (descriptorRegs_command hn rq m c off v).2)]
  exact congrArg _ ((State.writeAs_refused s rq off _ (by rw [hcheck]; decide)).trans (by rw [hcheck]))

/-! ### RESUME -/

/-- A channel that RESUME has put back at its recorded place with fresh retries (R462). -/
def State.resumed (s : State) (m c : Nat) : State :=
  (s.modChan m c fun x => { x with ending := 0, flush := 0, hole := none, bursts := [], retries := 0 }).set F.CH_STATE.STATE 1
    m c

theorem State.srcSide_resumed (s : State) (m c : Nat) : (s.resumed m c).srcSide m c = s.srcSide m c := by
  simp (disch := decide) only [State.resumed, State.srcSide, State.on_set_other, State.f_set_other, State.modChan_f,
    State.modChan_on]

theorem State.dstSide_resumed (s : State) (m c : Nat) : (s.resumed m c).dstSide m c = s.dstSide m c := by
  simp (disch := decide) only [State.resumed, State.dstSide, State.on_set_other, State.f_set_other, State.modChan_f,
    State.modChan_on]

theorem State.fnQuiet_resumed (s : State) (m c f : Nat) : (s.resumed m c).fnQuiet f = s.fnQuiet f := by
  simp (disch := decide) only [State.resumed, State.fnQuiet, State.on_set_other, State.modChan_on]

theorem State.chState_resumed (s : State) (m c : Nat) : (s.resumed m c).chState m c = 1 :=
  State.f_set _ F.CH_STATE.STATE 1 m c (by decide) (by decide)

theorem State.chan_resumed (s : State) (m c : Nat) :
    (s.resumed m c).chan m c = { s.chan m c with ending := 0, flush := 0, hole := none, bursts := [], retries := 0 } :=
  mget_mset (m, c) _ _ _

/-- RESUME of a HALTED channel neither of whose functions has halted only puts it back (R462, R465). -/
theorem execChResume_halted {s : State} {rq : Requester} {m : Fin 16} {c : Fin 32} (hrun : s.running = true)
    (hmay : s.mvAllows rq = true) (hhalted : s.chState m c = 3)
    (hsrc : ((s.srcSide m c).gs || !(s.fnQuiet (s.srcSide m c).fn)) = true)
    (hdst : ((s.dstSide m c).gs || !(s.fnQuiet (s.dstSide m c).fn)) = true) :
    execChResume rq m c s = .next ((s.resumed m c).wsRecord rq .ok (Reg.offset ⟨.CH_CMD, m.val, c.val⟩)) := by
  have serves {a b : Bool} (h : (a || !b) = true) : (!a && b) = false := by
    rw [← Bool.not_not b, ← Bool.not_or, h, Bool.not_true]
  rw [execChResume, whenRunning_run _ hrun, State.chCmd_accepted _ hmay (firstStatus_ok (by simp [hhalted]))]
  have hstay : (!((s.resumed m c).srcSide m c).gs && (s.resumed m c).fnQuiet ((s.resumed m c).srcSide m c).fn ||
      !((s.resumed m c).dstSide m c).gs && (s.resumed m c).fnQuiet ((s.resumed m c).dstSide m c).fn) = false := by
    rw [State.srcSide_resumed, State.dstSide_resumed, State.fnQuiet_resumed, State.fnQuiet_resumed, serves hsrc,
      serves hdst, Bool.or_self]
  exact congrArg (fun t : State => Host.Outcome.next (t.wsRecord rq .ok _)) (if_neg (Bool.eq_false_iff.mp hstay))

/-- RESUME of a channel that is not HALTED answers BAD_STATE (R462). -/
theorem execChResume_refused {s : State} {rq : Requester} {m : Fin 16} {c : Fin 32} (hrun : s.running = true)
    (hmay : s.mvAllows rq = true) (hnot : s.chState m c ≠ 3) :
    execChResume rq m c s = .next (s.wsRecord rq .badState (Reg.offset ⟨.CH_CMD, m.val, c.val⟩)) := by
  have hst : firstStatus [(!s.mvAllows rq, .notPermitted), (s.chState m c != 3, .badState)] = .badState := by
    simp [firstStatus, hmay, hnot]
  rw [execChResume, whenRunning_run _ hrun, State.chCmd, hst, State.writeAs_refused _ _ _ _ (by decide)]

/-- Settles O51: what RESUME puts back stands in the state that it leaves; any other channel only has its status recorded. -/
theorem resumeRestartsHaltedChannel : Obligations.ResumeRestartsHaltedChannel := by
  intro s rq m c hrun hmay
  refine ⟨fun hhalted hsrc hdst => ?_, fun hnot => execChResume_refused hrun hmay hnot⟩
  refine ⟨_, execChResume_halted hrun hmay hhalted hsrc hdst, State.chState_resumed s m c, ?_⟩
  have hchan (st : Status) (off : Nat) : ((s.resumed m c).wsRecord rq st off).chan m c = (s.resumed m c).chan m c := rfl
  rw [hchan, State.chan_resumed]
  exact ⟨rfl, rfl, rfl, rfl, State.lastStatus_wsRecord _ _ _ _⟩

end Sys2Proof.Machine
end

section
/-! PROOFS. The family of the expansion bus switch: what the links, requests and containment of PCIe ports, the partitions and
the shared virtual functions do once the guards they stand behind are met (R469 to R493, R536, R546, R575). -/
namespace Sys2Proof.Machine

open Sys2Proof

/-! ### Ports -/

section

variable {s : State} {n : Fin 40} (hrun : s.running = true)

include hrun

/-- A request whose timer expires on a downstream port with SYN_STATUS ends with an abort, which may trigger DPC (R486). -/
theorem execSwitchCompletionTimeout_abort {reqId : BitVec 16} {tag : BitVec 14} (hrole : s.hpRole n = 2)
    (hst : s.on F.EB_PORT_CFG.SYN_STATUS n.val = true)
    (hout : (s.pcie.out.any fun x => x.egress == n.val && x.reqId == reqId.toNat && x.tag == tag.toNat) = true) :
    execSwitchCompletionTimeout n reqId tag s = .next
      (let u := (((s.pendDrop (fun x => x.egress == n.val && x.reqId == reqId.toNat && x.tag == tag.toNat)
          fun _ => cplAbort).cnt .SYN_CPL_COUNT n).set F.EB_PORT_STATUS.CPL_TIMEOUT_SEEN 1 n).hpNotice n 0
       if u.on F.EB_PORT_CFG.SYN_DPC n then u.dpcEnter n 2 else u) := by
  rw [execSwitchCompletionTimeout, whenRunning_run _ hrun]
  simp only [hrole, hout, hst, and_self, if_true]

/-- A TLP on a linked port whose IDE stream, if secure, holds it intact is taken in (R482, R492). -/
theorem execTlpReceive_linked {t : Tlp} (hup : s.on F.EB_PORT_STATUS.LINK_UP n.val = true)
    (hkeyed : s.pcie.insecure.contains n.val = false)
    (hwhole : s.on F.EB_PORT_STATUS.IDE_SECURE n.val = false ∨ t.integrity = true) :
    execTlpReceive n t none s = .next (s.tlpIn n t) := by
  have hintact : (s.on F.EB_PORT_STATUS.IDE_SECURE n.val && !t.integrity) = false :=
    (Bool.and_eq_false_iff ..).mpr (hwhole.imp_right fun h => by rw [h]; rfl)
  rw [execTlpReceive, whenRunning_run _ hrun]
  simp only [hup, hkeyed, hintact, Bool.not_true, Bool.or_self, Bool.false_eq_true, if_false]

/-- Keying a port with a role secures its IDE stream (R492). -/
theorem execIdeKmMessage_keyed (hrole : s.hpRole n ≠ 0) :
    execIdeKmMessage n true s = .next
      (((s.set F.EB_PORT_STATUS.IDE_SECURE 1 n).modPcie fun x => { x with insecure := x.insecure.filter (· != n.val) }).emit
        (.pcie n .keyed)) :=
  (whenRunning_of_not_guard hrun hrole).trans (congrArg _ (if_pos rfl))

/-- Presence alone gained at a downstream port is noted and reported (R489). -/
theorem execPcieLinkUp_present {sense : PortSense} {speed : Fin 7} {width : Fin 5} (flit : Bool)
    (hmay : s.hpMayLink n = true) (hspeed : speed.val ≤ s.f F.EB_PORT_CFG.MAX_SPEED n.val)
    (hwidth : 2 ^ width.val ≤ s.hpLanes n) (hpresent : sense.present = true) (hidle : sense.active = false)
    (hwas : s.on F.EB_PORT_STATUS.PRESENT n.val = false) (hrole : (s.set F.EB_PORT_STATUS.PRESENT 1 n).hpRole n = 2) :
    execPcieLinkUp n sense speed width flit s = .next ((s.set F.EB_PORT_STATUS.PRESENT 1 n).slotNotice n true false) := by
  rw [execPcieLinkUp, whenRunning_run _ hrun]
  simp only [hmay, hspeed.not_gt, hwidth.not_gt, hpresent, hidle, hwas, hrole, decide_false, Bool.not_true, Bool.not_false,
    Bool.or_self, Bool.and_self, Bool.false_and, Bool.false_eq_true, if_false, if_true]

/-- Presence alone lost at a downstream port is noted and reported (R489). -/
theorem execHotplugPresenceChange_absent {sense : PortSense} (hrole : s.hpRole n = 2) (habsent : sense.present = false)
    (hactive : sense.active = true) (hwas : s.on F.EB_PORT_STATUS.PRESENT n.val = true) :
    execHotplugPresenceChange n sense s = .next ((s.set F.EB_PORT_STATUS.PRESENT 0 n).slotNotice n true false) := by
  rw [execHotplugPresenceChange, whenRunning_run _ hrun]
  simp only [hrole, habsent, hactive, hwas, ne_eq, not_true_eq_false, Bool.not_true, Bool.not_false, Bool.and_self,
    Bool.false_and, Bool.false_eq_true, if_false, if_true]

/-- A SHARED port with its link up answers PTM requests with fabric time (R493). -/
theorem execPtmRequestReceive_shared (ck : Nat) (hrole : s.hpRole n = 2)
    (hup : s.on F.EB_PORT_STATUS.LINK_UP n.val = true) (hshared : s.hpShared n = true) :
    execPtmRequestReceive n ck s = .next (s.emit (.ptm n (nsOf (s.ctrAt ck)))) := by
  rw [execPtmRequestReceive, whenRunning_run _ hrun]
  simp only [hrole, hup, hshared, ne_eq, not_true_eq_false, Bool.not_true, Bool.false_eq_true, or_self, if_false, Bool.true_or,
    if_true]

end

/-- A configuration read of a virtual function's header is answered with the header's word (R480). -/
theorem execSharedVfConfigRequest_header {s : State} {p : Fin 16} {vfunc : Fin 256} {t : Tlp} {u k : Nat}
    (hrun : s.running = true) (hport : s.upPort p = some u)
    (hfound : (firstNat 256 fun k => s.svfLive k && s.f F.SVF_CTRL.PARTITION k == p.val &&
      s.f F.SVF_CTRL.VFUNC k == vfunc.val) = some k)
    (hkind : t.kind = .cfgRead) (haddr : t.addr < 0x40) :
    execSharedVfConfigRequest p vfunc t s = .next
      (s.tlpSend u (t.answer cplSuccess (leBytes 4 (s.svfHeader k (t.addr / 4 * 4))))) := by
  rw [execSharedVfConfigRequest, whenRunning_run _ hrun]
  simp only [hport, hfound, hkind, haddr, ne_eq, not_true_eq_false, false_and, if_false, if_true]

/-- Settles O26: each clause is the row's meaning past the guards that its hypotheses meet. -/
theorem pciePortCommandsComplete : Obligations.PciePortCommandsComplete := by
  intro s n hrun
  refine ⟨?software, fun harmed => ?surprise, fun harmed => ?message, fun harmed => ?synthesized, fun hdpc => ?clear,
    fun reqId tag hrole hst hout => ?expired, fun t hup hkeyed hwhole => ?tlp, fun hrole => ?keyed,
    fun p vfunc t u hport hfound hkind haddr => ?config,
    fun sense speed width flit hmay hspeed hwidth hpresent hidle hwas hrole => ?linkUp,
    fun sense hrole habsent hactive hwas => ?absent, fun hrole hpresent hheld => ?perst,
    fun ck hrole hup hshared => ?ptm⟩
  case software => exact (whenRunning_of_guard hrun rfl : execDpcTrigger n 3 s = _)
  case surprise => exact (whenRunning_of_guard hrun harmed : execDpcTrigger n 1 s = _)
  case message => exact (whenRunning_of_guard hrun (decide_eq_true harmed) : execDpcTrigger n 0 s = _)
  case synthesized => exact (whenRunning_of_guard hrun harmed : execDpcTrigger n 2 s = _)
  case clear => exact (whenRunning_of_guard hrun hdpc : execDpcTriggerStatusClear n s = _)
  case expired => exact execSwitchCompletionTimeout_abort hrun hrole hst hout
  case tlp => exact execTlpReceive_linked hrun hup hkeyed hwhole
  case keyed => exact execIdeKmMessage_keyed hrun hrole
  case config => exact execSharedVfConfigRequest_header hrun hport hfound hkind haddr
  case linkUp => exact execPcieLinkUp_present hrun flit hmay hspeed hwidth hpresent hidle hwas hrole
  case absent => exact execHotplugPresenceChange_absent hrun hrole habsent hactive hwas
  case perst => exact (whenRunning_of_guard hrun ⟨hrole, hpresent, hheld⟩ : execDevPerstRelease n s = _)
  case ptm => exact execPtmRequestReceive_shared hrun ck hrole hup hshared

/-! ### Partitions -/

/-- A write of EB_PART_CFG that passes its checks and sets no reserved bit takes effect (R475, R575). -/
theorem execPartitionEnable_accepted {s : State} {rq : Requester} {p : Fin 16} {v : Word} (hrun : s.running = true)
    (hmay : rq.manages = true) (hok : s.partCfgCheck p v = .ok) (hrsv : setsRsv RegName.EB_PART_CFG.desc.fields v = false) :
    execPartitionEnable rq p v s = .next ((s.partCfgWrite p v).wsRecord rq .ok (Reg.offset ⟨.EB_PART_CFG, p.val, 0⟩)) := by
  have hmanages : firstStatus [(!rq.manages, .notPermitted)] = .ok := firstStatus_ok (by simp [hmay])
  rw [execPartitionEnable, whenRunning_run _ hrun]
  simp only [hmanages, hok, hrsv, Bool.and_false, Bool.false_eq_true, if_false, if_true, State.writeAs_ok]

/-- A reset of a partition by its link resets it where it has an upstream port (R476). -/
theorem execPartitionReset_link {s : State} {p : Fin 16} {why : Fin 3} {u : Nat} (hrun : s.running = true) (hwhy : why ≠ 2)
    (hport : s.upPort p = some u) : execPartitionReset p why s = .next (s.partReset p u) := by
  simp only [execPartitionReset, if_neg hwhy, hport, hrun, if_true]

/-- Settles O27: each clause is the row's meaning past the guards that its hypotheses meet. -/
theorem partitionCommandsComplete : Obligations.PartitionCommandsComplete := by
  intro s p hrun
  refine ⟨fun rq v hmay hok hrsv => ?enable, fun u hport => ?hot, fun u hport => ?down, fun hheld => ?perst,
    fun hwaits => ?ready, fun rq k hmay => ?disable⟩
  case enable => exact execPartitionEnable_accepted hrun hmay hok hrsv
  case hot => exact execPartitionReset_link hrun (by decide) hport
  case down => exact execPartitionReset_link hrun (by decide) hport
  case perst =>
    show execHostPerstRelease p s = _
    have hfirst : s.pcie.perstUp.contains p.val = false := by simpa using hheld
    rw [execHostPerstRelease, if_neg (Bool.eq_false_iff.mp hfirst)]
  case ready => exact (whenRunning_of_guard hrun hwaits : execNfReady p s = _)
  case disable => exact (whenRunning_writeAs hrun (if_pos hmay) : execSvfDisable rq k s = _)

end Sys2Proof.Machine
end

section
/-! PROOFS. The family of power and faults: Lantern's timers and regulators, the classes of the fault sources, banks and the
mirror (R496 to R507, R510 to R526, R530, R531). -/
namespace Sys2Proof.Machine

open Sys2Proof

/-! ### Power, clocks and heat -/

section

variable {s : State} (hrun : s.running = true)

include hrun

/-- A port of low use for NARROW_TICKS, with no width change under way, asks for half its width (R505). -/
theorem execLaneNarrowRequest_low {p : Fin 256} {set : Nat} (hset : s.narrower p = some set) (hon : s.narrowOn p = true)
    (hlow : s.f F.LN_NARROW.NARROW_TICKS ≤ (s.port p).narrowRun) (hidle : (s.port p).width = none)
    (hfree : s.on F.LN_CTRL.NARROW_FREEZE = false) :
    execLaneNarrowRequest p s = .next ((s.modPort p fun x => { x with narrowRun := 0 }).widthRequest p 1 set) := by
  rw [execLaneNarrowRequest, whenRunning_run _ hrun]
  simp only [hset, hon, hlow, hidle, hfree, decide_true, Option.isNone_none, Bool.not_false, Bool.and_self, if_true]

/-- The pending rises of a die whose rail settles too late are abandoned (R501). -/
theorem execVSettleTimeout_late {d : Fin 13}
    (hrises : (s.lantern.rises.filter fun r => r.1 / 16 == d.val).isEmpty = false)
    (hwaits : s.lantern.settled.contains d.val = false)
    (hlate : s.f F.LN_MISC.V_SETTLE_TICKS ≤ mget s.lantern.riseWait d.val 0) :
    execVSettleTimeout d s = .next
      (((((s.lantern.rises.filter fun r => r.1 / 16 == d.val).foldl (fun s r => s.set F.LN_CL_STATUS.RISE_PENDING 0 r.1)
        s).modLantern fun x => { x with
          rises := x.rises.filter fun r => r.1 / 16 != d.val, riseWait := mdel x.riseWait d.val
          settled := x.settled.filter (· != d.val) }).cnt .V_SETTLE_FAIL_COUNT).dieOccur d d) := by
  rw [execVSettleTimeout, whenRunning_run _ hrun]
  simp only [hrises, hwaits, hlate, decide_true, Bool.not_false, Bool.and_self, if_true]

end

/-- Settles O25: each clause is the row's meaning past the guards that its hypotheses meet. -/
theorem lanternCommandsComplete : Obligations.LanternCommandsComplete := by
  intro s hrun
  have both {a b : Bool} (ha : a = false) (hb : b = true) : (!a && b) = true := by rw [ha, hb]; rfl
  refine ⟨fun p set hset hon hlow hidle hfree => ?narrow, fun hmet hshort => ?unmet, fun hoff hlate => ?safe, fun reads => ?poll,
    fun d hrises hwaits => ?settled, fun d hrises hwaits hlate => ?timeout, fun k hvalid => ?trip⟩
  case narrow => exact execLaneNarrowRequest_low hrun hset hon hlow hidle hfree
  case unmet => exact (whenRunning_of_guard hrun (both hmet (decide_eq_true hshort)) : execPowerLimitUnmet s = _)
  case safe => exact (whenRunning_of_guard hrun (both hoff (decide_eq_true hlate)) : execSafeClocks s = _)
  case poll => exact (whenRunning_run _ hrun : execPmbusPoll reads s = _)
  case settled =>
    exact (whenRunning_of_guard hrun ((Bool.and_comm _ _).trans (both hwaits hrises)) : execAvsSettled d s = _)
  case timeout => exact execVSettleTimeout_late hrun hrises hwaits hlate
  case trip =>
    show execThermalTrip k s = _
    rw [execThermalTrip, whenPowered_run _ (State.running_coldHold hrun), if_neg (Bool.eq_false_iff.mp hvalid)]

/-! ### Faults, banks and the mirror -/

/-- A served row that writes a register under a check that passes gives its effect and records OK (R588). -/
theorem whenServed_writeAs {rq : Requester} {off : Nat} {st : State → Status} {eff : State → State → State} {s : State}
    (hserved : s.takesWrites rq = true) (hok : st s = .ok) :
    whenServed rq (fun s => s.writeAs rq off (st s) (eff s)) s = .next ((eff s s).wsRecord rq .ok off) := by
  rw [whenServed_run _ _ hserved, hok, State.writeAs_ok]

/-- Settles O28: each clause is the row's meaning past the guards that its hypotheses meet. -/
theorem faultCommandsComplete : Obligations.FaultCommandsComplete := by
  intro s hrun
  refine ⟨fun k hrestoring hfirst => ?restored, fun rq v hserved hmay hok => ?enable, fun hcopying => ?synced,
    fun hon => ?error, fun src i => ?occurrence, fun rq src act hserved hok => ?force, fun rq w v hserved hmay hok => ?clear⟩
  case restored =>
    have hguard : ((s.bank k).restoring && !(s.flt.bankQueue.contains k.val)) = true := by rw [hrestoring, hfirst]; rfl
    exact (whenRunning_of_guard hrun hguard : execBankRestoreComplete k s = _)
  case enable => exact (whenServed_writeAs hserved ((if_pos hmay).trans hok) : execMirrorEnable rq v s = _)
  case synced => exact (whenRunning_of_guard hrun hcopying : execMirrorSyncComplete s = _)
  case error => exact (whenRunning_of_guard hrun hon : execMirrorWriteError s = _)
  case occurrence => exact (whenPowered_run _ (State.running_coldHold hrun) : execFaultOccurrence src i s = _)
  case force => exact (whenServed_writeAs hserved hok : execFaultForce rq src act s = _)
  case clear => exact (whenServed_writeAs hserved ((if_pos hmay).trans hok) : execFaultStatusClear rq w v s = _)

/-! ### Fault classes -/

/-- The class of a source in a word of FAULT_CLASS (R511). -/
def classIn (v : Word) (k : Nat) : Nat := v.toNat / 2 ^ (2 * k) % 4

/-- The default of a source is one of the three classes, on each line of the table (R511). -/
theorem defaultClass_range (src : Nat) : 1 ≤ defaultClass src ∧ defaultClass src ≤ 3 := by
  have pick {c : Prop} [Decidable c] {a b : Nat} (ha : 1 ≤ a ∧ a ≤ 3) (hb : 1 ≤ b ∧ b ≤ 3) :
      1 ≤ (if c then a else b) ∧ (if c then a else b) ≤ 3 := by
    split
    · exact ha
    · exact hb
  have one : 1 ≤ 1 ∧ 1 ≤ 3 := by decide
  have two : 1 ≤ 2 ∧ 2 ≤ 3 := by decide
  exact pick (by decide) <| pick two <| pick one <| pick two <| pick one <| pick (pick one two) <| pick two <|
    pick (pick one two) <| pick (pick one two) one

/-- A word is refused exactly where it puts a source below its default class: a field of 0 is below every default. -/
theorem faultClassBad_iff (w : Nat) (v : Word) :
    faultClassBad w v = true ↔ ∃ k < 32, classIn v k < defaultClass (32 * w + k) := by
  have below (k : Nat) : classIn v k = 0 ∨ classIn v k < defaultClass (32 * w + k) ↔
      classIn v k < defaultClass (32 * w + k) :=
    or_iff_right_of_imp fun h => h ▸ (defaultClass_range _).1
  simp only [faultClassBad, List.any_eq_true, List.mem_range, Bool.or_eq_true, beq_iff_eq, decide_eq_true_eq]
  exact exists_congr fun k => and_congr_right fun _ => below k

/-- Who manages the device reaches its register window (R580). -/
theorem Requester.reaches_of_manages {rq : Requester} (h : rq.manages = true) : rq.reaches = true := by
  cases rq with
  | func f => exact h
  | serviceProcessor => rfl
  | thread e t => exact absurd h Bool.false_ne_true

/-- FAULT_CLASS is one field of the whole word: no bit is reserved, and an accepted write stores all of it (R533). -/
theorem setsRsv_faultClass (v : Word) : setsRsv RegName.FAULT_CLASS.desc.fields v = false := by
  have hmask : rsvMask RegName.FAULT_CLASS.desc.fields = 0 := by decide
  rw [setsRsv, hmask, Nat.and_zero]
  rfl

theorem Fld.get_word (v : Word) : Fld.get ⟨63, 0⟩ v = v.toNat := by
  simp [Fld.get, Fld.width, Nat.mod_eq_of_lt v.isLt]

theorem fieldsAfter_faultClass (old v : Word) : fieldsAfter RegName.FAULT_CLASS.desc.fields old v = v := by
  have hset : fieldsAfter RegName.FAULT_CLASS.desc.fields old v = Fld.set ⟨63, 0⟩ old (Fld.get ⟨63, 0⟩ v) := rfl
  refine BitVec.eq_of_toNat_eq ?_
  calc (fieldsAfter RegName.FAULT_CLASS.desc.fields old v).toNat
      = Fld.get ⟨63, 0⟩ (Fld.set ⟨63, 0⟩ old (Fld.get ⟨63, 0⟩ v)) := by rw [hset, Fld.get_word (Fld.set _ _ _)]
    _ = Fld.get ⟨63, 0⟩ v % 2 ^ 64 := Fld.get_set _ _ _ (by decide) (by decide)
    _ = v.toNat := by rw [Fld.get_word, Nat.mod_eq_of_lt v.isLt]

/-- The summary of the faults leaves every register but FAULT_SUMMARY as it was (R530). -/
theorem State.rd_errUpdate (s : State) {r : Reg} (h : r.name ≠ .FAULT_SUMMARY) : s.errUpdate.rd r = s.rd r := by
  have hne (i j : Nat) : r ≠ F.FAULT_SUMMARY.HIGHEST.at i j := fun e => h (congrArg Reg.name e)
  have hone : (s.set F.FAULT_SUMMARY.HIGHEST s.highestClass).rd r = s.rd r := State.rd_set_ne _ _ _ _ _ (hne 0 0)
  simp only [State.errUpdate]
  split_ifs
  · exact hone
  · exact (State.rd_set_ne _ F.FAULT_SUMMARY.ERR_N _ _ _ (hne 0 0)).trans hone

/-- A write of FAULT_CLASS by who manages the device is judged by the defaults alone, and stored whole (R511, R605). -/
theorem exec_registerWrite_faultClass {s : State} {rq : Requester} {off w : Nat} {v : Word} (hrun : s.running = true)
    (hmay : rq.manages = true) (hacc : accessOk off 8 = true)
    (htarget : devTarget s (off / 8 * 8) = .reg ⟨.FAULT_CLASS, w, 0⟩ false) :
    exec (.registerWrite rq .device off 8 v) s = .next
      (s.writeAs rq off (if faultClassBad w v then .badValue else .ok) fun s => (s.wr ⟨.FAULT_CLASS, w, 0⟩ v).errUpdate) := by
  have hdenied : s.regDenied rq ⟨.FAULT_CLASS, w, 0⟩ = false := (congrArg not hmay : _ = !true)
  have hstate : s.regState ⟨.FAULT_CLASS, w, 0⟩ v = false := rfl
  have hcheck : s.plainCheck rq ⟨.FAULT_CLASS, w, 0⟩ v = if faultClassBad w v then .badValue else .ok := by
    have hbad : s.regBad ⟨.FAULT_CLASS, w, 0⟩ v = faultClassBad w v := rfl
    simp [State.plainCheck, hdenied, hstate, setsRsv_faultClass, hbad, firstStatus]
  have hstore (u : State) : u.regStore ⟨.FAULT_CLASS, w, 0⟩ v = (u.wr ⟨.FAULT_CLASS, w, 0⟩ v).errUpdate := by
    have hnew : fieldsAfter RegName.FAULT_CLASS.desc.fields (u.rd ⟨.FAULT_CLASS, w, 0⟩) v = v := fieldsAfter_faultClass _ v
    have hplain : tickScoped .FAULT_CLASS = false := rfl
    rw [State.regStore]
    simp only [hplain, hnew, Bool.false_eq_true, if_false]
  have hvalue : accessValue off 8 (s.rd ⟨.FAULT_CLASS, w, 0⟩) v RegName.FAULT_CLASS.desc.fields = v := if_pos rfl
  rw [exec_registerWrite_plain hrun (Requester.reaches_of_manages hmay) hacc htarget
    (nofun : RegName.FAULT_CLASS ≠ .RST_CMD) (nofun : RegName.FAULT_CLASS ≠ .WRITE_STATUS) (fun _ => rfl) (fun _ => rfl)]
  simp only [hvalue, hcheck, hstore]

/-- The class of a source stands in its field of its word. -/
theorem State.classOf_word {s : State} {w k : Nat} {v : Word} (hk : k < 32) (hv : s.rd ⟨.FAULT_CLASS, w, 0⟩ = v) :
    s.classOf (32 * w + k) = classIn v k := by
  have hword : (32 * w + k) / 32 = w := by omega
  have hfield : (32 * w + k) % 32 = k := by omega
  have hf : s.f F.FAULT_CLASS.CLASS w = v.toNat := (congrArg (Fld.get ⟨63, 0⟩) hv).trans (Fld.get_word v)
  rw [State.classOf, hword, hfield, hf, Nat.shiftRight_eq_div_pow, classIn]

/-- Settles O55: a write below a default is BAD_VALUE; any other is stored whole, and the classes stand in its fields. -/
theorem faultClassesOnlyRise : Obligations.FaultClassesOnlyRise := by
  refine ⟨defaultClass_range, ?_⟩
  intro s rq off v w hrun hmay hacc htarget
  rw [exec_registerWrite_faultClass hrun hmay hacc htarget]
  refine ⟨fun hlower => ?_, fun hrise => ?_⟩
  · rw [if_pos ((faultClassBad_iff w v).mpr hlower), State.writeAs_refused _ _ _ _ (by decide)]
  · have hgood : ¬ faultClassBad w v = true := fun hbad => by
      obtain ⟨k, hk, hlow⟩ := (faultClassBad_iff w v).mp hbad
      exact absurd hlow (hrise k hk).not_gt
    have hrd : ((s.wr ⟨.FAULT_CLASS, w, 0⟩ v).errUpdate.wsRecord rq .ok off).rd ⟨.FAULT_CLASS, w, 0⟩ = v := by
      rw [State.wsRecord_rd, State.rd_errUpdate _ (nofun : RegName.FAULT_CLASS ≠ .FAULT_SUMMARY), State.rd_wr]
    rw [if_neg hgood, State.writeAs_ok]
    exact ⟨_, rfl, hrd, fun k hk => State.classOf_word hk hrd⟩

end Sys2Proof.Machine
end

section
/-! PROOFS. The family of resets and boot: what cold reset stops and what ends it, the resets and clock losses, and the step that
runs one command (R535 to R554, R593, R596). -/
namespace Sys2Proof.Machine

open Sys2Proof

/-! ### While cold reset holds (R535) -/

/-- A meaning that acts only under a condition leaves alone a state that does not meet it. -/
theorem next_of_unmet {c : Prop} [Decidable c] (h : ¬ c) (t s : State) :
    (.next (if c then t else s) : Res) = .next s := by rw [if_neg h]

/-- A meaning that leaves a state alone under a condition does so where it holds. -/
theorem next_of_barred {c : Prop} [Decidable c] (h : c) (t s : State) :
    (.next (if c then s else t) : Res) = .next s := by rw [if_pos h]

section

variable {s : State} (hcold : s.sys.coldHold = true)

include hcold

theorem State.running_of_coldHold : s.running = false := by
  rw [State.running, hcold]
  rfl

theorem State.takesWrites_of_coldHold (rq : Requester) : s.takesWrites rq = false := by
  rw [State.takesWrites, State.running_of_coldHold hcold, hcold]
  rfl

omit hcold in
/-- A release of PERST# of a partition's host moves only what is sensed of it (R546). -/
theorem execHostPerstRelease_sys (p : Fin 16) : ∃ t, execHostPerstRelease p s = .next t ∧ t.sys = s.sys := by
  have hwindow (u : State) : (u.nfWindow p).sys = u.sys := by
    unfold State.nfWindow
    split
    · rfl
    · rfl
  refine ⟨_, rfl, ?_⟩
  split
  · rfl
  · exact hwindow _

/-- A register write in cold reset reaches nothing. -/
theorem execRegisterWrite_coldHold (rq : Requester) (w : Window) (off size : Nat) (v : Word) :
    execRegisterWrite rq w off size v s = .next s := by
  simp only [execRegisterWrite, State.outerWrite, State.regWrite, State.takesWrites_of_coldHold hcold rq, Bool.false_and,
    Bool.not_false, Bool.false_eq_true, if_false, if_true]

/-- Every command but the events of pins, rails and references stands behind a guard that cold reset closes. -/
theorem exec_coldHold {c : Instr} (hc : Safety.pinEvent c = false) : exec c s = .next s := by
  have hrun : ¬ s.running = true := Bool.eq_false_iff.mp (State.running_of_coldHold hcold)
  cases c with
  | partitionReset | hostPerstRelease | sysResetAssert | sysResetRelease | railUndervoltage | sprefLoss | frefLoss | railRecovery
  | sprefReturn | frefReturn => exact Bool.noConfusion hc
  | registerWrite => exact execRegisterWrite_coldHold hcold _ _ _ _ _
  | writeStatusRead | turnover | rpTimeRead | nfBarRequest | thermalTrip | faultOccurrence | secureBoot | modulePoll | modIntFall
  | pldmGetTelemetry | pldmFirmwareUpdate | pldmEventAck | pldmResetRequest | mctpMessage | delholtFrameReceive
  | delholtLinkChange => exact next_of_barred hcold _ _
  | faultForce | faultStatusClear | mirrorEnable | rstWarm | rstEngine | rstPort | repairClear | evForce | pcSelWrite | pcRun
  | pcValueWrite | pcSnap => exact next_of_unmet (Bool.eq_false_iff.mp (State.takesWrites_of_coldHold hcold _)) _ _
  | _ => exact next_of_unmet hrun _ _

/-- A reset of a partition while the part does not run moves only what is sensed of the host's pins (R546). -/
theorem execPartitionReset_coldHold (p : Fin 16) (why : Fin 3) :
    ∃ t, execPartitionReset p why s = .next t ∧ t.sys = s.sys := by
  unfold execPartitionReset
  extract_lets u
  have hsys : u.sys = s.sys := by
    unfold u
    split
    · rfl
    · rfl
  have hrun : ¬ u.running = true := Bool.eq_false_iff.mp (State.running_of_coldHold (hsys ▸ hcold))
  refine ⟨_, rfl, ?_⟩
  split
  · rw [if_neg hrun]
    exact hsys
  · exact hsys

/-- The loss of a fabric reference in cold reset is only sensed (R596). -/
theorem execFrefLoss_coldHold (k : Fin 8) : ∃ t, execFrefLoss k s = .next t ∧ t.sys.coldHold = true := by
  have hrun : ¬ (s.modSys fun x => { x with frefStopped := k.val :: x.frefStopped }).running = true :=
    Bool.eq_false_iff.mp (State.running_of_coldHold hcold)
  unfold execFrefLoss
  split
  · exact ⟨s, rfl, hcold⟩
  · exact ⟨_, rfl, by rw [if_neg hrun]; exact hcold⟩

/-- Only a release of SYS_RESET_N or the return of a rail or of SPREF may end the hold. -/
theorem exec_keeps_coldHold {c : Instr} (hc : Safety.endsColdReset c = false) :
    ∃ t, exec c s = .next t ∧ t.sys.coldHold = true := by
  cases hpin : Safety.pinEvent c with
  | false => exact ⟨s, exec_coldHold hcold hpin, hcold⟩
  | true =>
    cases c with
    | sysResetRelease | railRecovery | sprefReturn => exact Bool.noConfusion hc
    | sysResetAssert | railUndervoltage | sprefLoss => exact ⟨_, rfl, rfl⟩
    | frefReturn => exact ⟨_, rfl, hcold⟩
    | frefLoss k => exact execFrefLoss_coldHold hcold k
    | partitionReset p why =>
      obtain ⟨t, ht, hsys⟩ := execPartitionReset_coldHold hcold p why
      exact ⟨t, ht, hsys ▸ hcold⟩
    | hostPerstRelease p =>
      obtain ⟨t, ht, hsys⟩ := execHostPerstRelease_sys p
      exact ⟨t, ht, hsys ▸ hcold⟩
    | _ => exact Bool.noConfusion hpin

end

/-- Settles O38: a command either stands behind a guard that cold reset closes, or only moves what is sensed of a pin, unless it
is one that may end the hold. -/
theorem coldResetOverrides : Obligations.ColdResetOverrides := by
  intro c s hcold
  refine ⟨exec_coldHold hcold, fun t ht hc => ?_⟩
  obtain ⟨u, hu, hheld⟩ := exec_keeps_coldHold hcold hc
  exact Host.Outcome.next.inj (hu.symm.trans ht) ▸ hheld

/-! ### Every command ends -/

/-- The loss of a fabric reference ends whether or not the reference had stopped before. -/
theorem execFrefLoss_ends (k : Fin 8) (s : State) : ∃ t, execFrefLoss k s = .next t := by
  unfold execFrefLoss
  split
  · exact ⟨_, rfl⟩
  · exact ⟨_, rfl⟩

/-- Settles O40: every row's meaning names a next state on every state. -/
theorem noCommandStops : Obligations.NoCommandStops := by
  intro c s
  cases c with
  | frefLoss k => exact execFrefLoss_ends k s
  | _ => exact ⟨_, rfl⟩

/-! ### One step -/

/-- Settles O32: the front of the queue is what a step runs. -/
theorem stepRunsFront : Obligations.StepRunsFront := fun _ _ _ => rfl

/-- Settles O33: the empty queue is a step's other case. -/
theorem idleStepChangesNothing : Obligations.IdleStepChangesNothing := by
  intro s hempty
  unfold step
  rw [hempty]

/-! ### Resets and boot -/

/-- While the part runs, the loss of a fabric reference costs every lane of its die the CDR lock (R596). -/
theorem execFrefLoss_running {s : State} {k : Fin 8} (hrun : s.running = true) (hruns : s.sys.frefStopped.contains k.val = false) :
    execFrefLoss k s = .next ((List.range 128).foldl (fun s i => s.cdrLost (128 * k + i))
      (s.modSys fun x => { x with frefStopped := k.val :: x.frefStopped })) := by
  have hrun' : (s.modSys fun x => { x with frefStopped := k.val :: x.frefStopped }).running = true := hrun
  rw [execFrefLoss, if_neg (Bool.eq_false_iff.mp hruns)]
  exact congrArg _ (if_pos hrun')

section

variable {s : State} {a b : Option SlotImage} (hon : s.sys.coldHold = false) (hstate : s.f F.BOOT_STATUS.STATE = 1)

include hon hstate

/-- A boot of the chosen slot notes and loads it (R543, R544). -/
theorem execSecureBoot_slot {k : Nat} {im : SlotImage} (hslot : s.bootSlot a b = some (k, im)) :
    execSecureBoot a b s = .next ((((s.set F.BOOT_STATUS.SLOT k).set F.BOOT_STATUS.SVN im.svn).modSys fun x => { x with
      image := some im }).loadSlot im) := by
  rw [execSecureBoot, whenPowered_run _ hon, if_neg (not_not_intro hstate)]
  simp only [hslot]

/-- A boot without a valid slot fails (R543). -/
theorem execSecureBoot_noSlot (hslot : s.bootSlot a b = none) :
    execSecureBoot a b s = .next ((s.set F.BOOT_STATUS.STATE 3).set F.BOOT_STATUS.FAIL 1) := by
  rw [execSecureBoot, whenPowered_run _ hon, if_neg (not_not_intro hstate)]
  simp only [hslot]

end

/-- A served write of RST_CMD with GO whose check passes resets its target while the part runs (R553). -/
theorem rstCmd_running {s : State} {rq : Requester} {st : State → Status} (eff : State → State)
    (hserved : s.takesWrites rq = true) (hok : st s = .ok) (hrun : s.running = true) :
    whenServed rq (fun s => s.writeAs rq (Reg.offset ⟨.RST_CMD, 0, 0⟩) (st s) fun s => if s.running then eff s else s) s =
      .next ((eff s).wsRecord rq .ok (Reg.offset ⟨.RST_CMD, 0, 0⟩)) := by
  rw [whenServed_writeAs hserved hok, if_pos hrun]

/-- Settles O29: each clause is the row's meaning past the guards that its hypotheses meet. -/
theorem resetCommandsComplete : Obligations.ResetCommandsComplete := by
  intro s
  refine ⟨rfl, rfl, rfl, fun x => rfl, fun x hlost => ?rail, fun x hlost => ?spref, fun k hrun hruns => ?fref, fun k => rfl,
    fun a b k im hon hstate hslot => ?boot, fun a b hon hstate hslot => ?bootless, fun tests hon => ?pldm,
    fun rq hserved => ⟨fun tests hmay => ?warm, fun e hmay hfenced hrun => ?engine, fun p hmay hservice hrun => ?port,
      fun hreach => ?repair⟩⟩
  case rail => exact congrArg _ (if_neg (Bool.eq_false_iff.mp hlost))
  case spref => exact congrArg _ (if_neg (Bool.eq_false_iff.mp hlost))
  case fref => exact execFrefLoss_running hrun hruns
  case boot => exact execSecureBoot_slot hon hstate hslot
  case bootless => exact execSecureBoot_noSlot hon hstate hslot
  case pldm => exact (whenPowered_run _ hon : execPldmResetRequest tests s = _)
  case warm =>
    have hok : s.rstCheck rq 1 0 = .ok := firstStatus_ok (by simp [hmay])
    exact (whenServed_writeAs hserved hok : execRstWarm rq tests s = _)
  case engine =>
    have hok : s.rstCheck rq 2 e = .ok := firstStatus_ok (by simp [hmay, hfenced])
    exact (rstCmd_running _ hserved hok hrun : execRstEngine rq e s = _)
  case port =>
    have hok : s.rstCheck rq 3 p = .ok := firstStatus_ok (by simp [hmay, hservice])
    exact (rstCmd_running _ hserved hok hrun : execRstPort rq p s = _)
  case repair => exact (whenServed_writeAs hserved (if_pos hreach) : execRepairClear rq s = _)

end Sys2Proof.Machine
end

section
/-! PROOFS. The family of management: events and their routes, counters, modules, MCTP, PLDM and Delholt, and the values of the
registers at reset (R557 to R571, R586). -/
namespace Sys2Proof.Machine

open Sys2Proof

/-! ### Management commands -/

/-- A served write that passes its checks on the requester's reach and on the value takes effect (R588). -/
theorem whenServed_checked {rq : Requester} {off : Nat} {bad : Bool} {st : Status} {eff : State → State} {s : State}
    (hserved : s.takesWrites rq = true) (hreach : rq.reaches = true) (hgood : bad = false) :
    whenServed rq (fun s => s.writeAs rq off (firstStatus [(!rq.reaches, .notPermitted), (bad, st)]) eff) s = .next
      ((eff s).wsRecord rq .ok off) :=
  whenServed_writeAs hserved (firstStatus_ok (by simp [hreach, hgood]))

section

variable {s : State} (hon : s.sys.coldHold = false)

include hon

/-- A request on an open path for a sensor that has been read is answered with its record (R561). -/
theorem execPldmGetTelemetry_read {path : Fin 17} {k : BitVec 16} {q : Int × Nat} (hopen : s.pathOpen path = true)
    (hsensor : isSensor k.toNat = true) (hread : s.sensor k.toNat = some q) :
    execPldmGetTelemetry path k s = .next (s.emit (.mgmt path (leBytes 64 (s.telemetry k.toNat q.1 q.2).toNat))) := by
  rw [execPldmGetTelemetry, whenPowered_run _ hon]
  simp only [hopen, hsensor, hread, Bool.and_self, if_true]

/-- Before a boot, a valid image written to a slot is activated at the next cold reset (R562). -/
theorem execPldmFirmwareUpdate_valid {slot : Fin 2} {im : SlotImage} (hnone : s.sys.image = none)
    (hvalid : (s.emit (.flash slot (some im))).imageValid im = true) :
    execPldmFirmwareUpdate slot im s = .next
      ((s.emit (.flash slot (some im))).modSys fun x => { x with activation := some im }) := by
  rw [execPldmFirmwareUpdate, whenPowered_run _ hon]
  simp only [hnone, hvalid, Option.isSome_none, Bool.false_eq_true, false_and, if_false, if_true]

/-- The first acknowledgement of a record that the ring holds is noted (R560). -/
theorem execPldmEventAck_held {seq : BitVec 32} {r : BitVec 512} (hheld : mfind s.flt.log (seq.toNat % 1024) = some r)
    (hseq : L.FLR.SEQ.get r = seq.toNat) (hfirst : s.flt.ackedSeq.contains seq.toNat = false) :
    execPldmEventAck seq s = .next (s.modFlt fun f => { f with ackedSeq := f.ackedSeq ++ [seq.toNat] }) := by
  rw [execPldmEventAck, whenPowered_run _ hon]
  simp only [hheld, hseq, hfirst, Bool.false_eq_true, not_false_eq_true, and_self, if_true]

/-- A frame for DH_MAC is accepted on a link that is up (R558). -/
theorem execDelholtFrameReceive_mine {dst : BitVec 48} (listed : Bool) (frame : List Byte)
    (hup : s.on F.DH_STATUS.LINK_UP = true) (hmine : dst.toNat = s.f F.DH_MAC.MAC) :
    execDelholtFrameReceive dst listed frame s = .next { s with mgmt := { s.mgmt with frames := s.mgmt.frames ++ [frame] } } := by
  rw [execDelholtFrameReceive, whenPowered_run _ hon]
  simp only [hup, hmine, beq_self_eq_true, Bool.true_or, Bool.and_self, if_true]

/-- In SGMII a link at another speed than 1 Gb/s is kept down, which raises the event where it is news (R557). -/
theorem execDelholtLinkChange_slow {an : Bool} (hmode : s.on F.DH_CFG.MODE = true)
    (hnews : s.rd ⟨.DH_STATUS, 0, 0⟩ ≠ BitVec.ofNat 64 (2 * b2n an + 4)) :
    execDelholtLinkChange true an 0 s = .next ((s.wr ⟨.DH_STATUS, 0, 0⟩ (BitVec.ofNat 64 (2 * b2n an + 4))).raise 1627) := by
  have hstatus : b2n false + 2 * b2n an + 4 * b2n true = 2 * b2n an + 4 := congrArg (· + 4) (Nat.zero_add _)
  have hslow : (s.on F.DH_CFG.MODE && true && (0 : Fin 3).val != 2) = true := by rw [hmode]; rfl
  rw [execDelholtLinkChange, whenPowered_run _ hon]
  simp only [hslow, Bool.not_true, Bool.and_false, hstatus, hnews, if_false]

end

/-- Settles O30: each clause is the row's meaning past the guards that its hypotheses meet. -/
theorem managementCommandsComplete : Obligations.ManagementCommandsComplete := by
  intro s hon
  refine ⟨fun rq src hserved hok => ?force, fun rq hserved hreach => ⟨fun i v hgood => ?select, fun run => ?run, ?snap,
      fun i v hgood => ?value⟩, fun polls => ?polls, fun m polls => ?fall, fun path reply hopen => ?message,
    fun path k q hopen hsensor hread => ?telemetry, fun slot im hnone hvalid => ?update, fun seq r hheld hseq hfirst => ?ack,
    fun dst listed frame hup hmine => ?frame, fun an hmode hnews => ?link⟩
  case force => exact (whenServed_writeAs hserved hok : execEvForce rq src s = _)
  case select => exact (whenServed_checked hserved hreach hgood : execPcSelWrite rq i v s = _)
  case run => exact (whenServed_writeAs hserved (if_pos hreach) : execPcRun rq run s = _)
  case snap => exact (whenServed_writeAs hserved (if_pos hreach) : execPcSnap rq s = _)
  case value => exact (whenServed_checked hserved hreach hgood : execPcValueWrite rq i v s = _)
  case polls => exact (whenPowered_run _ hon : execModulePoll polls s = _)
  case fall => exact (whenPowered_run _ hon : execModIntFall m polls s = _)
  case message =>
    show execMctpMessage path reply s = _
    rw [execMctpMessage, whenPowered_run _ hon, if_pos hopen]
  case telemetry => exact execPldmGetTelemetry_read hon hopen hsensor hread
  case update => exact execPldmFirmwareUpdate_valid hon hnone hvalid
  case ack => exact execPldmEventAck_held hon hheld hseq hfirst
  case frame => exact execDelholtFrameReceive_mine hon listed frame hup hmine
  case link => exact execDelholtLinkChange_slow hon hmode hnews

/-! ### Routes of events (R565 to R568) -/

theorem testBit_setBit (v k : Nat) : (setBit v k).testBit k = true := by
  simp [setBit]

/-- A source that pends. -/
def State.pends (s : State) (src : Nat) : Bool := (s.f F.EV_PENDING.PENDING (src / 64)).testBit (src % 64)

/-- A source marked pending. -/
def State.markPending (s : State) (src : Nat) : State :=
  s.set F.EV_PENDING.PENDING (setBit (s.f F.EV_PENDING.PENDING (src / 64)) (src % 64)) (src / 64)

theorem State.pends_markPending (s : State) (src : Nat) : (s.markPending src).pends src = true := by
  have hbit : src % 64 < 64 := Nat.mod_lt _ (by decide)
  have hword := State.f_set s F.EV_PENDING.PENDING (setBit (s.f F.EV_PENDING.PENDING (src / 64)) (src % 64)) (src / 64) 0
    (by decide) (by decide)
  rw [State.pends, State.markPending, hword]
  exact (Nat.testBit_mod_two_pow _ 64 _).trans (by rw [testBit_setBit, decide_eq_true hbit]; rfl)

theorem State.raise_idle {s : State} {src : Nat} (hidle : s.pends src = false) : s.raise src = (s.markPending src).deliver src 0 :=
  if_neg (Bool.eq_false_iff.mp hidle)

/-- An event routed to a vector: suppressed where no message may be sent, otherwise raised there (R567). -/
theorem State.deliver_vector {s : State} {src : Nat} (args : Nat) (hhost : engineSource src = false)
    (hroute : s.on F.EV_ROUTE.ENABLE src = true) (hdest : s.f F.EV_ROUTE.DEST src = 0) :
    s.deliver src args =
      if s.fnQuiet (s.f F.EV_ROUTE.FUNC src) || !(s.msixOn.contains (s.f F.EV_ROUTE.FUNC src)) then
        s.set F.EV_ROUTE.ROUTE_SUPPRESSED 1 src
      else s.msixRaise (s.f F.EV_ROUTE.FUNC src) (s.f F.EV_ROUTE.VECTOR src) := by
  simp only [State.deliver, hhost, hroute, hdest, Bool.false_eq_true, if_false, if_true]

theorem State.msixRaise_regs (s : State) (f v : Nat) : (s.msixRaise f v).regs = s.regs := by
  unfold State.msixRaise
  split
  · rfl
  · rfl

theorem State.msixRaise_masked {s : State} {f v : Nat} (h : (s.msixEntry f v).toNat.testBit 96 = true) :
    s.msixRaise f v = { s with msixPending := (f, v) :: s.msixPending.filter (· ≠ (f, v)) } := if_pos h

theorem State.msixRaise_open {s : State} {f v : Nat} (h : (s.msixEntry f v).toNat.testBit 96 = false) :
    s.msixRaise f v = s.emit (.msix f v) := if_neg (Bool.eq_false_iff.mp h)

/-- Marking a source pending changes no other register, so the event's route is what it was. -/
theorem State.deliver_markPending {s : State} {src : Nat} (hhost : engineSource src = false)
    (hroute : s.on F.EV_ROUTE.ENABLE src = true) (hdest : s.f F.EV_ROUTE.DEST src = 0) :
    (s.markPending src).deliver src 0 =
      if s.fnQuiet (s.f F.EV_ROUTE.FUNC src) || !(s.msixOn.contains (s.f F.EV_ROUTE.FUNC src)) then
        (s.markPending src).set F.EV_ROUTE.ROUTE_SUPPRESSED 1 src
      else (s.markPending src).msixRaise (s.f F.EV_ROUTE.FUNC src) (s.f F.EV_ROUTE.VECTOR src) := by
  have hf {g : RegFld} (hg : g.reg ≠ .EV_PENDING) (i j : Nat) : (s.markPending src).f g i j = s.f g i j :=
    State.f_set_other s F.EV_PENDING.PENDING g _ _ _ i j hg
  have hon {g : RegFld} (hg : g.reg ≠ .EV_PENDING) (i j : Nat) : (s.markPending src).on g i j = s.on g i j :=
    State.on_set_other s F.EV_PENDING.PENDING g _ _ _ i j hg
  have hquiet (fn : Nat) : (s.markPending src).fnQuiet fn = s.fnQuiet fn := by
    rw [State.fnQuiet, State.fnQuiet, hon (by decide), hon (by decide)]
  have hmsix : (s.markPending src).msixOn = s.msixOn := rfl
  rw [State.deliver_vector 0 hhost ((hon (by decide) _ _).trans hroute) ((hf (by decide) _ _).trans hdest),
    hf (by decide), hf (by decide), hquiet, hmsix]

/-- The event stays pending whether its route is suppressed or taken (R567). -/
theorem State.pends_deliver {s : State} {src : Nat} (hhost : engineSource src = false)
    (hroute : s.on F.EV_ROUTE.ENABLE src = true) (hdest : s.f F.EV_ROUTE.DEST src = 0) :
    ((s.markPending src).deliver src 0).pends src = true := by
  rw [State.deliver_markPending hhost hroute hdest]
  split
  · rw [State.pends, State.f_set_other _ _ _ _ _ _ _ _ (by decide)]
    exact State.pends_markPending s src
  · have hregs (fn v : Nat) : ((s.markPending src).msixRaise fn v).pends src = (s.markPending src).pends src := by
      simp only [State.pends, State.f, State.rd, State.msixRaise_regs]
    rw [hregs]
    exact State.pends_markPending s src

/-- Settles O54: the forced event is marked pending and delivered by its route, whose three ends are the three clauses. -/
theorem routedEventsReachVectors : Obligations.RoutedEventsReachVectors := by
  intro s rq src hserved hmay hlow hhigh hhost hidle hroute hdest fn v
  have hok : evForceCheck rq src.toNat = .ok :=
    firstStatus_ok (by simp [hmay, hlow, hhigh])
  have hexec : exec (.evForce rq src) s = .next
      (((s.markPending src.toNat).deliver src.toNat 0).wsRecord rq .ok (Reg.offset ⟨.EV_FORCE, 0, 0⟩)) := by
    rw [← State.raise_idle hidle]
    exact (whenServed_writeAs hserved hok : execEvForce rq src s = _)
  have hends := State.deliver_markPending hhost hroute hdest
  refine ⟨_, hexec, State.pends_deliver hhost hroute hdest, fun hbarred => ?suppressed, fun hquiet hon hmask => ?masked,
    fun hquiet hon hmask => ?sent⟩
  case suppressed =>
    have hbar : (s.fnQuiet fn || !(s.msixOn.contains fn)) = true := by
      rw [Bool.or_eq_true, Bool.not_eq_true']
      exact hbarred
    rw [hends, if_pos hbar]
    refine ⟨rfl, rfl, ?_⟩
    rw [State.wsRecord_on, State.on, State.f_set _ _ _ _ _ (by decide) (by decide)]
    rfl
  case masked =>
    have hfree : ¬ (s.fnQuiet fn || !(s.msixOn.contains fn)) = true := by
      rw [hquiet, hon]
      decide
    rw [hends, if_neg hfree, State.msixRaise_masked (s := s.markPending src.toNat) hmask]
    exact ⟨rfl, List.mem_cons_self⟩
  case sent =>
    have hfree : ¬ (s.fnQuiet fn || !(s.msixOn.contains fn)) = true := by
      rw [hquiet, hon]
      decide
    rw [hends, if_neg hfree, State.msixRaise_open (s := s.markPending src.toNat) hmask]
    exact ⟨rfl, rfl⟩

/-! ### Reset -/

/-- No register has been written at reset. -/
theorem State.rd_reset (r : Reg) : State.reset.rd r = r.reset := rfl

/-- A field of a register whose reset no index enters is read from the word of the register's table (R586). -/
theorem State.f_reset_table {g : RegFld} {n : Nat}
    (h : g.reg ≠ .EB_PART_CFG ∧ g.reg ≠ .FAULT_CLASS ∧ g.fld.get (BitVec.ofNat 64 (resetWord g.reg.desc.fields)) = n)
    (i j : Nat) : State.reset.f g i j = n := by
  obtain ⟨hpart, hclass, hfield⟩ := h
  have hword : (g.at i j).reset = BitVec.ofNat 64 (resetWord g.reg.desc.fields) := by
    unfold Reg.reset RegFld.at
    split
    · contradiction
    · contradiction
    · rfl
  rw [State.f, State.rd_reset, hword, hfield]

/-- A partition's home hub at reset (R19, R586). -/
theorem homeHub_reset (p : Nat) : State.reset.f F.EB_PART_CFG.HOME_HUB p = p / 4 % 4 := by
  have hword : State.reset.rd (F.EB_PART_CFG.HOME_HUB.at p 0) =
      BitVec.ofNat 64 (resetWord RegName.EB_PART_CFG.desc.fields + (p / 4 % 4) <<< 6) := rfl
  have htable : resetWord RegName.EB_PART_CFG.desc.fields = 2 ^ 6 * (1000 * 2 ^ 26) := by decide
  rw [State.f, hword, htable, Fld.get_ofNat _ _ (by decide) (by decide), Nat.shiftLeft_eq]
  show (2 ^ 6 * (1000 * 2 ^ 26) + p / 4 % 4 * 2 ^ 6) / 2 ^ 6 % 2 ^ 2 = p / 4 % 4
  omega

/-- Settles O36: each field is read from its register's table, but a partition's home hub, which its number gives. -/
theorem resetRegisterValues : Obligations.ResetRegisterValues := by
  unfold Obligations.ResetRegisterValues
  iterate 34 refine ⟨State.f_reset_table (by decide), ?_⟩
  exact ⟨homeHub_reset, State.rd_reset⟩

end Sys2Proof.Machine
end
